-- ==== Sys2Proof/Word.lean ====
section
/-!
DEFINITION. The word types of the machine (R66, R81): 64-bit registers and 8-bit bytes. Bit 0 is the least
significant bit of every value (R2).
-/

namespace Sys2Proof

/-- A 64-bit register value, management register or memory word. -/
abbrev Word := BitVec 64

/-- One byte of memory. -/
abbrev Byte := BitVec 8

end Sys2Proof
end

