-- ==== Sys2Proof/Config.lean ====
section
/-!
DEFINITION. What an implementation fixes and what the spec leaves open. The opaque constants have no body: nothing can be
proved of their values.
-/

namespace Sys2Proof.Config

/-- A free value: the n-th value the spec leaves open, of any width (log entry 8). -/
opaque freeValue : Nat → BitVec 64

/-- Has what another module or the memory does for source `src` come by clock `clk`? The answer to request `ord` of a core; 32,768 + a
grove: to its trigger engine's slot `ord`; 65,536 + a grove: tags for its lease `ord`; 98,304 + a grove: the reserved tag for its lease
`ord`; 131,072 + a node: the write-out of its buffer's bytes of snapshot `ord`; 196,608 + a context: the end of its rollback begun at
tick `ord`. The spec states no time for them (log entry 8). -/
opaque answered : Nat → Nat → Nat → Bool

/-- The module's identity, TK_ID (R429); the spec gives no value (log entry 8). -/
opaque moduleId : BitVec 64

/-- The verdict of the RSA-PSS check of R438 for a key slot, a signed image's SHA-256 digest and its signature: the keys are
not in the spec (log entry 13). -/
opaque signatureOk : Nat → Nat → Nat → Bool

/-- The signature of a quote under the device identity key (R439) for a SHA-256 digest of its bytes (log entry 13). -/
opaque quoteSignature : Nat → BitVec 3072

/-- SHA-256 of the firmware image that runs after power-on, as the number of its little-endian bytes (R439; log entry 12). -/
opaque firmwareDigest : BitVec 256

/-- Bytes of the implementation-defined regions of a NODE item (R387) by snapshot id, node and offset (log entry 14). -/
opaque nodeByte : Nat → Nat → Nat → BitVec 8

/-- The certificate bytes at trunk region 0x0081_0000 (R439) by offset (log entry 13). -/
opaque certificateByte : Nat → BitVec 8

/-- Worst-case and typical round-trip latency of an 8-byte queue load (R37), as the 32-bit table word, by GEN of the readiness
map times 2,592 plus the grove, and the slice; the spec states no figures (log entry 8). -/
opaque sliceDistance : Nat → Nat → BitVec 32

end Sys2Proof.Config
end

