-- ==== Sys2Proof/Syntax.lean ====
section
/-!
DEFINITION. The abstract syntax of the Neonyx steps: one constructor per row of the opcode table.
The first group are slot operations of a bundle (R66 to R80) with their operand fields as the slot formats of R68
carry them: a Reg-format register number has the two lent bits above its five (R71, R73), an Imm-format immediate is
the 19-bit value of R73, a Mem-format offset the 17-bit value.
The second group are the machine's events and the host's commands ("What each step holds"): they have no encoding;
their arguments say which unit acts and, where the spec leaves a choice open, which choice is taken.
-/

namespace Sys2Proof

/-- A step of the part: a slot operation of a bundle, an event of an engine, or a host command. -/
inductive Instr where
  /-- R75: An all-zero slot word has no effect in any slot. -/
  | nop
  /-- R122: Writes the 64-bit wrapped sum of two s registers. -/
  | add (d a b : BitVec 7) (p : BitVec 3)
  /-- R122: Writes the 64-bit wrapped difference of two s registers. -/
  | isub (d a b : BitVec 7) (p : BitVec 3)
  /-- R122: Writes the bitwise AND of two s registers. -/
  | and (d a b : BitVec 7) (p : BitVec 3)
  /-- R122: Writes the bitwise OR of two s registers. -/
  | or (d a b : BitVec 7) (p : BitVec 3)
  /-- R122: Writes the bitwise XOR of two s registers. -/
  | xor (d a b : BitVec 7) (p : BitVec 3)
  /-- R122: Writes s[A] AND NOT s[B]. -/
  | andn (d a b : BitVec 7) (p : BitVec 3)
  /-- R122: Shifts s[A] left by the low six bits of s[B]. -/
  | shl (d a b : BitVec 7) (p : BitVec 3)
  /-- R122: Shifts s[A] right logically by the low six bits of s[B]. -/
  | shr (d a b : BitVec 7) (p : BitVec 3)
  /-- R122: Shifts s[A] right arithmetically by the low six bits of s[B]. -/
  | sar (d a b : BitVec 7) (p : BitVec 3)
  /-- R122: Writes the signed minimum of two s registers. -/
  | min (d a b : BitVec 7) (p : BitVec 3)
  /-- R122: Writes the signed maximum of two s registers. -/
  | max (d a b : BitVec 7) (p : BitVec 3)
  /-- R122: Writes the unsigned minimum of two s registers. -/
  | minu (d a b : BitVec 7) (p : BitVec 3)
  /-- R122: Writes the unsigned maximum of two s registers. -/
  | maxu (d a b : BitVec 7) (p : BitVec 3)
  /-- R123: Writes the number of set bits of s[A]. -/
  | bcntPop (d a : BitVec 7) (p : BitVec 3)
  /-- R123: Writes the number of leading zero bits of s[A]. -/
  | bcntLz (d a : BitVec 7) (p : BitVec 3)
  /-- R123: Writes the number of trailing zero bits of s[A]. -/
  | bcntTz (d a : BitVec 7) (p : BitVec 3)
  /-- R124: Writes the low 64 bits of the product of two s registers. -/
  | mul (d a b : BitVec 7) (p : BitVec 3)
  /-- R124: Writes the high 64 bits of the signed 128-bit product. -/
  | mulh (d a b : BitVec 7) (p : BitVec 3)
  /-- R124: Writes the high 64 bits of the unsigned 128-bit product. -/
  | mulhu (d a b : BitVec 7) (p : BitVec 3)
  /-- R124: Writes the signed quotient truncated toward zero, never trapping. -/
  | div (d a b : BitVec 7) (p : BitVec 3)
  /-- R124: Writes the unsigned quotient, never trapping. -/
  | divu (d a b : BitVec 7) (p : BitVec 3)
  /-- R124: Writes the signed remainder. -/
  | rem (d a b : BitVec 7) (p : BitVec 3)
  /-- R124: Writes the unsigned remainder. -/
  | remu (d a b : BitVec 7) (p : BitVec 3)
  /-- R125: Adds a sign-extended immediate to s[A]. -/
  | addi (d a : BitVec 5) (p : BitVec 3) (imm : BitVec 19)
  /-- R125: ANDs s[A] with a sign-extended immediate. -/
  | andi (d a : BitVec 5) (p : BitVec 3) (imm : BitVec 19)
  /-- R125: ORs s[A] with a sign-extended immediate. -/
  | ori (d a : BitVec 5) (p : BitVec 3) (imm : BitVec 19)
  /-- R125: XORs s[A] with a sign-extended immediate. -/
  | xori (d a : BitVec 5) (p : BitVec 3) (imm : BitVec 19)
  /-- R125: Shifts s[A] left by an immediate count 0-63. -/
  | shli (d a : BitVec 5) (p : BitVec 3) (imm : BitVec 12)
  /-- R125: Shifts s[A] right logically by an immediate count. -/
  | shri (d a : BitVec 5) (p : BitVec 3) (imm : BitVec 12)
  /-- R125: Shifts s[A] right arithmetically by an immediate count. -/
  | sari (d a : BitVec 5) (p : BitVec 3) (imm : BitVec 12)
  /-- R126: Loads a sign-extended 20-bit immediate into s[D]. -/
  | li (d : BitVec 5) (imm : BitVec 20)
  /-- R126: Shifts s[D] left by 20 and adds a 20-bit immediate. -/
  | lsh (d : BitVec 5) (imm : BitVec 20)
  /-- R127: Compares two s registers and writes 1 or 0 to s[D]. -/
  | cmp (d a b : BitVec 7) (p : BitVec 3) (cc : BitVec 7)
  /-- R127: Compares two s registers and writes all ones or zeros to a predicate. -/
  | cmpp (d a b : BitVec 7) (p : BitVec 3) (cc : BitVec 7)
  /-- R128: Selects s[A] or s[B] by lane 0 of a predicate. -/
  | sel (d a b : BitVec 7) (p : BitVec 3) (c : BitVec 3)
  /-- R129: Writes a[A] plus s[B] to an address register. -/
  | adda (d a b : BitVec 7) (p : BitVec 3)
  /-- R129: Moves an s register into an address register. -/
  | movaAS (d a : BitVec 7) (p : BitVec 3)
  /-- R129: Moves an address register into an s register. -/
  | movaSA (d a : BitVec 7) (p : BitVec 3)
  /-- R129: Moves one address register into another. -/
  | movaAA (d a : BitVec 7) (p : BitVec 3)
  /-- R129: Moves a loop counter into an s register. -/
  | movaSN (d a : BitVec 7) (p : BitVec 3)
  /-- R130: Branches on a signed comparison of s[A] with zero, with a delay bundle. -/
  | br (a : BitVec 5) (c : BitVec 3) (off : BitVec 13)
  /-- R130: Branches on a predicate condition, with a delay bundle. -/
  | brp (a : BitVec 5) (c : BitVec 3) (off : BitVec 13)
  /-- R131: Branches on a predicate that must be uniform over the mask, trapping NONUNIFORM otherwise. -/
  | brv (a : BitVec 5) (c : BitVec 3) (off : BitVec 13)
  /-- R132: Branches to an absolute bundle address. -/
  | jmp (target : BitVec 12)
  /-- R132: Branches to the bundle address in s[A]. -/
  | jr (a : BitVec 7) (p : BitVec 3)
  /-- R132: Branches to s[A] and writes the return address to s[D]. -/
  | jrLink (d a : BitVec 7) (p : BitVec 3)
  /-- R132: Branches to an absolute address and writes the return address. -/
  | call (d : BitVec 5) (target : BitVec 12)
  /-- R132: Returns to the bundle address in s[A]. -/
  | ret (a : BitVec 7) (p : BitVec 3)
  /-- R135: Arms a loop level with a count and body length. -/
  | loop (d a : BitVec 5) (p : BitVec 3) (imm : BitVec 12)
  /-- R136: Sets the post-add stride of an address register for a loop level. -/
  | lstr (d b : BitVec 7) (p : BitVec 3) (l : BitVec 3)
  /-- R156: Raises SWTRAP with an immediate code. -/
  | trap (p : BitVec 3) (code : BitVec 12)
  /-- R150: Reads a K-register into s[D]. -/
  | krd (d : BitVec 5) (p : BitVec 3) (k : BitVec 12)
  /-- R150: Writes a K-register field by field under its access codes. -/
  | kwr (a : BitVec 5) (p : BitVec 3) (k : BitVec 12)
  /-- R155: Supervisor read of a management register, acting as fence.k first. -/
  | mrd (d a : BitVec 7) (p : BitVec 3)
  /-- R155: Supervisor write of a management register, stalling for its answer and trapping BUSY on refusal. -/
  | mwr (a b : BitVec 7) (p : BitVec 3)
  /-- R149: Reads 8 bytes of the parameter window. -/
  | ldpw (d a : BitVec 5) (p : BitVec 3) (imm : BitVec 12)
  /-- R157: Returns from a supervisor trap to KEPC. -/
  | eret
  /-- R201: Adds vector elements. -/
  | vadd (d a b : BitVec 7) (p : BitVec 3) (sb sat : Bool) (t : BitVec 4)
  /-- R201: Subtracts vector elements. -/
  | vsub (d a b : BitVec 7) (p : BitVec 3) (sb sat : Bool) (t : BitVec 4)
  /-- R201: Multiplies vector elements. -/
  | vmul (d a b : BitVec 7) (p : BitVec 3) (sb sat : Bool) (t : BitVec 4)
  /-- R201: Fused multiply-add or subtract into v[D], rounded once. -/
  | vfma (d a b : BitVec 7) (p : BitVec 3) (neg sb sat : Bool) (t : BitVec 4)
  /-- R201: Elementwise minimum. -/
  | vmin (d a b : BitVec 7) (p : BitVec 3) (sb sat : Bool) (t : BitVec 4)
  /-- R201: Elementwise maximum. -/
  | vmax (d a b : BitVec 7) (p : BitVec 3) (sb sat : Bool) (t : BitVec 4)
  /-- R201: Elementwise absolute value. -/
  | vabs (d a : BitVec 7) (p : BitVec 3) (sat : Bool) (t : BitVec 4)
  /-- R201: Elementwise negation. -/
  | vneg (d a : BitVec 7) (p : BitVec 3) (sat : Bool) (t : BitVec 4)
  /-- R202: Bitwise AND of vector registers, optionally with B inverted. -/
  | vand (d a b : BitVec 7) (p : BitVec 3) (nb : Bool)
  /-- R202: Bitwise OR of vector registers. -/
  | vor (d a b : BitVec 7) (p : BitVec 3) (nb : Bool)
  /-- R202: Bitwise XOR of vector registers. -/
  | vxor (d a b : BitVec 7) (p : BitVec 3) (nb : Bool)
  /-- R202: Shifts integer elements left. -/
  | vshl (d a b : BitVec 7) (p : BitVec 3) (sb : Bool) (t : BitVec 4)
  /-- R202: Shifts integer elements right. -/
  | vshr (d a b : BitVec 7) (p : BitVec 3) (sb : Bool) (t : BitVec 4)
  /-- R203: Compares elements and writes predicate lanes. -/
  | vcmp (d a b : BitVec 7) (p : BitVec 3) (cc : BitVec 3) (t : BitVec 4)
  /-- R204: Selects lanes of v[A] or v[B] by a predicate. -/
  | vsel (d a b : BitVec 7) (p : BitVec 3) (t : BitVec 4) (c : BitVec 3)
  /-- R205: Copies active lanes of v[A] to v[D]. -/
  | vmovV (d a : BitVec 7) (p : BitVec 3)
  /-- R205: Broadcasts the low bits of s[A] to every active element. -/
  | vmovSplat (d a : BitVec 7) (p : BitVec 3) (t : BitVec 4)
  /-- R205: Sets an h register from s[A]. -/
  | vmovHS (d a : BitVec 7) (p : BitVec 3)
  /-- R205: Reads an h register into s[D]. -/
  | vmovSH (d a : BitVec 7) (p : BitVec 3)
  /-- R205: Sets a predicate from s[A]. -/
  | vmovPS (d a : BitVec 7) (p : BitVec 3)
  /-- R205: Reads a predicate into s[D]. -/
  | vmovSP (d a : BitVec 7) (p : BitVec 3)
  /-- R205: Writes each active element its element index. -/
  | vmovIdx (d : BitVec 7) (p : BitVec 3) (t : BitVec 4)
  /-- R206: Converts elements between register types into a part of v[D]. -/
  | vcvt (d a : BitVec 7) (p : BitVec 3) (sat : Bool) (ts : BitVec 4) (part : BitVec 3) (td : BitVec 4)
  /-- R207: Quantises 32 F32 lanes into one DB8 or DB4 block. -/
  | vqdb (d a : BitVec 7) (p : BitVec 3) (single db4 : Bool)
  /-- R208: Packs active elements to the low end. -/
  | vcomp (d a : BitVec 7) (p : BitVec 3) (w64 : Bool)
  /-- R208: Expands packed elements to active positions. -/
  | vexpd (d a : BitVec 7) (p : BitVec 3) (w64 : Bool)
  /-- R209: Permutes lanes, pairs or bytes by index. -/
  | vperm (d a b : BitVec 7) (p : BitVec 3) (w64 byte : Bool)
  /-- R210: Reduces active elements into s[D]. -/
  | vred (d a : BitVec 7) (p : BitVec 3) (op : BitVec 3) (t : BitVec 4)
  /-- R212: Applies a correctly rounded special function to F32 elements. -/
  | vsfu (d a : BitVec 7) (p : BitVec 3) (f : BitVec 3)
  /-- R211: Extracts one element into s[D]. -/
  | vext (d a b : BitVec 7) (p : BitVec 3) (t : BitVec 4)
  /-- R211: Inserts s[A] into one element of v[D]. -/
  | vins (d a b : BitVec 7) (p : BitVec 3) (t : BitVec 4)
  /-- R213: Loads 128 bytes of scratchpad into v[D]. -/
  | vld (d a : BitVec 5) (p : BitVec 3) (off : BitVec 19)
  /-- R213: Stores active lanes of v[D] to scratchpad. -/
  | vst (d a : BitVec 5) (p : BitVec 3) (off : BitVec 19)
  /-- R214: Loads from each lane's lane slice. -/
  | vldl (d a b : BitVec 7) (p : BitVec 3) (sz : BitVec 3)
  /-- R214: Stores to each lane's lane slice. -/
  | vstl (d a b : BitVec 7) (p : BitVec 3) (sz : BitVec 3)
  /-- R215: ANDs two predicates under the guard. -/
  | pand (d a b : BitVec 7) (p : BitVec 3) (nb : Bool)
  /-- R215: ORs two predicates under the guard. -/
  | por (d a b : BitVec 7) (p : BitVec 3) (nb : Bool)
  /-- R215: XORs two predicates under the guard. -/
  | pxor (d a b : BitVec 7) (p : BitVec 3) (nb : Bool)
  /-- R215: Counts set bits of a predicate under the guard. -/
  | pcnt (d a : BitVec 7) (p : BitVec 3)
  /-- R223: Shape job adding two regions elementwise. -/
  | vjadd (d a b : BitVec 7) (p : BitVec 3) (sat : Bool) (rm : BitVec 2) (t : BitVec 4)
  /-- R223: Shape job subtracting regions. -/
  | vjsub (d a b : BitVec 7) (p : BitVec 3) (sat : Bool) (rm : BitVec 2) (t : BitVec 4)
  /-- R223: Shape job multiplying regions. -/
  | vjmul (d a b : BitVec 7) (p : BitVec 3) (sat : Bool) (rm : BitVec 2) (t : BitVec 4)
  /-- R223: Shape job fused multiply-add into the destination. -/
  | vjfma (d a b : BitVec 7) (p : BitVec 3) (sat : Bool) (rm : BitVec 2) (t : BitVec 4)
  /-- R223: Shape job elementwise minimum. -/
  | vjmin (d a b : BitVec 7) (p : BitVec 3) (sat : Bool) (rm : BitVec 2) (t : BitVec 4)
  /-- R223: Shape job elementwise maximum. -/
  | vjmax (d a b : BitVec 7) (p : BitVec 3) (sat : Bool) (rm : BitVec 2) (t : BitVec 4)
  /-- R224: Shape job converting a region between formats. -/
  | vjcvt (d a : BitVec 7) (p : BitVec 3) (sat : Bool) (ts : BitVec 4) (rm : BitVec 2) (td : BitVec 4)
  /-- R225: Shape job quantising a region into DB blocks. -/
  | vjqdb (d a : BitVec 7) (p : BitVec 3) (ts : BitVec 4) (single : Bool) (td : BitVec 4)
  /-- R226: Shape job reducing along dimension 0. -/
  | vjred (d a : BitVec 7) (p : BitVec 3) (sat : Bool) (rm : BitVec 2) (op : BitVec 3) (t : BitVec 4)
  /-- R227: Shape job applying a special function. -/
  | vjsfu (d a : BitVec 7) (p : BitVec 3) (sat : Bool) (rm : BitVec 2) (t : BitVec 4) (f : BitVec 3)
  /-- R228: Shape job compressing masked elements. -/
  | vjcomp (d a b : BitVec 7) (p : BitVec 3) (t : BitVec 4)
  /-- R228: Shape job expanding elements to masked positions. -/
  | vjexpd (d a b : BitVec 7) (p : BitVec 3) (t : BitVec 4)
  /-- R229: Shape job selecting A or B by D. -/
  | vjsel (d a b : BitVec 7) (p : BitVec 3) (sat : Bool) (rm : BitVec 2) (t : BitVec 4)
  /-- R229: Shape job writing comparison results. -/
  | vjcmp (d a b : BitVec 7) (p : BitVec 3) (cc : BitVec 3) (t : BitVec 4)
  /-- R230: Shape job filling a region with FILL. -/
  | vjfill (d : BitVec 7) (p : BitVec 3) (t : BitVec 4)
  /-- R137: Scalar load from the core scratchpad. -/
  | ld (d : BitVec 5) (a : BitVec 4) (sz : BitVec 3) (p : BitVec 3) (off : BitVec 17)
  /-- R137: Scalar store to the core scratchpad. -/
  | st (d : BitVec 5) (a : BitVec 4) (sz : BitVec 3) (p : BitVec 3) (off : BitVec 17)
  /-- R138: Indexed scalar load from scratchpad. -/
  | ldx (d a b : BitVec 7) (p : BitVec 3) (sc : Bool) (sz : BitVec 3)
  /-- R138: Indexed scalar store to scratchpad. -/
  | stx (d a b : BitVec 7) (p : BitVec 3) (sc : Bool) (sz : BitVec 3)
  /-- R141: Enters a queue load of an extended address. -/
  | qld (d a : BitVec 7) (p : BitVec 3) (ord scope : BitVec 2) (sz : BitVec 3)
  /-- R141: Enters a queue store of an extended address. -/
  | qst (d a b : BitVec 7) (p : BitVec 3) (ord scope : BitVec 2) (sz : BitVec 3)
  /-- R143: Removes the head queue entry, trapping on a failed entry. -/
  | qpop (d a : BitVec 7) (p : BitVec 3)
  /-- R143: Removes the head queue entry, reporting failure in a predicate. -/
  | qpopT (d a b : BitVec 7) (p : BitVec 3)
  /-- R144: Waits for the head queue entry to complete. -/
  | qwait (d a : BitVec 7) (p : BitVec 3)
  /-- R144: Waits for every present queue entry to complete. -/
  | qwaitAll (d a : BitVec 7) (p : BitVec 3)
  /-- R147: Stalls until earlier covered accesses are performed and publications accepted. -/
  | fence (p : BitVec 3) (scope : BitVec 2)
  /-- R145: Queued atomic add. -/
  | amoAdd (d a b : BitVec 7) (p : BitVec 3) (ord scope : BitVec 2) (sz : BitVec 3)
  /-- R145: Queued atomic swap. -/
  | amoSwap (d a b : BitVec 7) (p : BitVec 3) (ord scope : BitVec 2) (sz : BitVec 3)
  /-- R145: Queued atomic compare-and-swap. -/
  | amoCas (d a b : BitVec 7) (p : BitVec 3) (ord scope : BitVec 2) (sz : BitVec 3)
  /-- R145: Queued atomic AND. -/
  | amoAnd (d a b : BitVec 7) (p : BitVec 3) (ord scope : BitVec 2) (sz : BitVec 3)
  /-- R145: Queued atomic OR. -/
  | amoOr (d a b : BitVec 7) (p : BitVec 3) (ord scope : BitVec 2) (sz : BitVec 3)
  /-- R145: Queued atomic XOR. -/
  | amoXor (d a b : BitVec 7) (p : BitVec 3) (ord scope : BitVec 2) (sz : BitVec 3)
  /-- R145: Queued atomic signed minimum. -/
  | amoMin (d a b : BitVec 7) (p : BitVec 3) (ord scope : BitVec 2) (sz : BitVec 3)
  /-- R145: Queued atomic signed maximum. -/
  | amoMax (d a b : BitVec 7) (p : BitVec 3) (ord scope : BitVec 2) (sz : BitVec 3)
  /-- R145: Queued atomic unsigned minimum. -/
  | amoMinu (d a b : BitVec 7) (p : BitVec 3) (ord scope : BitVec 2) (sz : BitVec 3)
  /-- R145: Queued atomic unsigned maximum. -/
  | amoMaxu (d a b : BitVec 7) (p : BitVec 3) (ord scope : BitVec 2) (sz : BitVec 3)
  /-- R146: Queued sequential atomic on a sync cell, performed under the token. -/
  | amoSeq (d a b : BitVec 7) (p : BitVec 3) (op : BitVec 4)
  /-- R240: Issues a copy job from a descriptor onto a completion tracker. -/
  | copy (d a b : BitVec 7) (p : BitVec 3) (e : BitVec 5)
  /-- R254: Waits for a range of chunk bits of a tracker. -/
  | cwait (d a b : BitVec 7) (p : BitVec 3)
  /-- R254: Waits for a bit-mask set of chunks of a tracker. -/
  | cwaitW (d a b : BitVec 7) (p : BitVec 3) (k : BitVec 4)
  /-- R255: Reads 32 chunk bits into a predicate. -/
  | ctest (d a b : BitVec 7) (p : BitVec 3)
  /-- R255: Reads 64 chunk bits into s[D]. -/
  | ctestW (d a b : BitVec 7) (p : BitVec 3)
  /-- R255: Reads the completion record, acknowledging a fault. -/
  | ctestRec (d a : BitVec 7) (p : BitVec 3)
  /-- R255: Reads the address of the first failed run, acknowledging a fault. -/
  | ctestAddr (d a : BitVec 7) (p : BitVec 3)
  /-- R263: Loads a macro plane with B from a shape region. -/
  | mldb (k a : BitVec 7) (plane : Bool) (p : BitVec 3) (bt : Bool) (t : BitVec 4)
  /-- R268: Runs a matrix product on the core's macros. -/
  | mjob (d a b : BitVec 7) (p : BitVec 3) (t : BitVec 4)
  /-- R277: Leads a gang matrix job across cores of the grove. -/
  | mgang (d a b : BitVec 7) (p : BitVec 3) (t : BitVec 4)
  /-- R277: Joins a gang matrix job with a share on the leader's planes. -/
  | mgangJoin (d a b : BitVec 7) (p : BitVec 3) (t : BitVec 4)
  /-- R291: Publishes a scratchpad region as a new version of a channel's name. -/
  | pub (a b : BitVec 7) (p : BitVec 3) (ch : BitVec 6)
  /-- R292: Registers a kernel subscription, optionally masked. -/
  | sub (d b : BitVec 7) (p : BitVec 3) (ch : BitVec 6)
  /-- R292: Withdraws a kernel subscription. -/
  | unsub (d b : BitVec 7) (p : BitVec 3) (ch : BitVec 6)
  /-- R293: Copies the oldest landed version of a subscription into scratchpad. -/
  | recv (a b : BitVec 7) (p : BitVec 3) (ch : BitVec 6)
  /-- R294: Adds the oldest landed version into a scratchpad region. -/
  | recva (a b : BitVec 7) (p : BitVec 3) (sat : Bool) (ch : BitVec 6)
  /-- R295: Tests whether a complete version has landed. -/
  | peek (d b : BitVec 7) (p : BitVec 3) (ch : BitVec 6)
  /-- R297: Publishes a block's faces and subscribes to its neighbours' faces. -/
  | halo (a b : BitVec 7) (p : BitVec 3) (ch : BitVec 6)
  /-- R298: Receives every subscribed face into the ghost layer. -/
  | haloR (a b : BitVec 7) (p : BitVec 3) (ch : BitVec 6)
  /-- R296: Queries the root about a name. -/
  | nameq (d b : BitVec 7) (p : BitVec 3) (ch : BitVec 6)
  /-- R296: Writes the instantiated name to two s registers. -/
  | nameqN (d b : BitVec 7) (p : BitVec 3) (ch : BitVec 6)
  /-- R180: Takes a tag and installs a child task record. -/
  | spawn (d a b : BitVec 7) (p : BitVec 3) (l : BitVec 3)
  /-- R181: Installs a task record with a given WID and no tag. -/
  | tinst (a b : BitVec 7) (p : BitVec 3) (l : BitVec 3)
  /-- R182: Ends the task, draining its entries before DONE and commits. -/
  | exit (p : BitVec 3)
  /-- R185: Arrives at a grove barrier as a W-scope release. -/
  | barr (a : BitVec 7) (p : BitVec 3)
  /-- R186: Waits for a barrier phase to complete. -/
  | bwait (d a : BitVec 7) (p : BitVec 3)
  /-- R187: Tests whether the recorded barrier phase has completed. -/
  | btest (d a : BitVec 7) (p : BitVec 3)
  /-- R188: Configures a barrier's count and level, now or pending. -/
  | bset (a b : BitVec 7) (p : BitVec 3)
  /-- R189: Supervisor request to move an ARMED or READY record to another grove. -/
  | migrate (a b : BitVec 7) (p : BitVec 3)
  /-- R329: Wires a trigger counter to a source. -/
  | tsrc (d a b : BitVec 7) (p : BitVec 3)
  /-- R330: Adds an amount to a counter as a W-scope release. -/
  | tadd (d a : BitVec 7) (p : BitVec 3)
  /-- R331: Arms a trigger slot from a scratchpad image. -/
  | tarm (a b : BitVec 7) (p : BitVec 3)
  /-- R332: Disarms or empties a trigger slot. -/
  | tdis (a : BitVec 7) (p : BitVec 3)
  /-- R333: Reads a counter word. -/
  | tget (d a : BitVec 7) (p : BitVec 3)
  /-- R333: Reads a slot's status word. -/
  | tgetSlot (d b : BitVec 7) (p : BitVec 3)
  /-- R333: Reads the old value of a slot's last AMO. -/
  | tgetRes (d b : BitVec 7) (p : BitVec 3)
  /-- R330: Sets a counter value as a W-scope release. -/
  | tset (d a : BitVec 7) (p : BitVec 3)
  /-- R350: Starts a collective on a KIND 2 channel. -/
  | coll (d a b : BitVec 7) (p : BitVec 3) (ch : BitVec 6)
  /-- R352: Waits for a channel's collectives and returns the latest record. -/
  | colw (d : BitVec 7) (p : BitVec 3) (ch : BitVec 6)
  /-- R352: Reads the latest collective record of a channel. -/
  | colt (d : BitVec 7) (p : BitVec 3) (ch : BitVec 6)
  /-- R389: Supervisor start of a snapshot of a context. -/
  | snap (a : BitVec 7) (p : BitVec 3)
  /-- R392: Reads SN_STAT of the running context. -/
  | snrd (d : BitVec 7) (p : BitVec 3)
  /-- R392: Reads the last rollback target and ROLLS. -/
  | snrdRb (d : BitVec 7) (p : BitVec 3)
  /-- R83: A register result with exposed latency lands L clocks after issue. -/
  | exposedResultLand (core : Nat)
  /-- R84: A bundle held by interlocks, queues or the scoreboard issues once its wait ends. -/
  | stalledBundleIssue (core : Nat)
  /-- R160: A job's fault is taken at the next allowed bundle boundary. -/
  | impreciseFault (core : Nat)
  /-- R289: An X-slot operation reaches its grove engine 6 clk after issue. -/
  | xOpAccept (core : Nat)
  /-- R142: A queue request held by acquire or release rules is sent once they allow. -/
  | queueRequestSend (core q : Nat)
  /-- R139: A queue request is performed or fails at its home and its entry completes. -/
  | queueAccessPerform (core q i : Nat)
  /-- R41: A translation miss walks the page tables at a free walker. -/
  | pageWalk (g ctx va : Nat)
  /-- R20: A job's access to a region completes and its entry is released. -/
  | scoreboardEntryRelease (core id : Nat)
  /-- R222: A shape job starts its passes once conflicts clear and the previous job ends. -/
  | vectorJobStart (core : Nat)
  /-- R222: A shape job's writes are performed, flags set and its event emitted. -/
  | vectorJobComplete (core : Nat)
  /-- R242: A copy run is read and written, or fails. -/
  | copyRunPerform (core job run : Nat)
  /-- R252: A copy finishes when every run is performed or failed and makes its events. -/
  | copyFinish (core job : Nat)
  /-- R264: A plane load starts reading its rows once its conditions hold. -/
  | mldbLoadStart (core : Nat)
  /-- R264: A macro plane is loaded at the end of its occupancy. -/
  | planeLoaded (core : Nat)
  /-- R270: A matrix job or share starts its digit clocks. -/
  | matrixJobStart (core : Nat)
  /-- R271: A matrix job's write entry is released, emitting completion and barrier events. -/
  | matrixJobComplete (core : Nat)
  /-- R275: A new 64-clk governor window renews the grove's digit-step budget. -/
  | governorWindow (g : Nat)
  /-- R279: The leader's planes are checked and transferred to a sharing member. -/
  | planeTransfer (g job m : Nat)
  /-- R280: At 65,536 clk unaccepted members become late. -/
  | gangWindowExpire (g job : Nat)
  /-- R281: The gang job completes, recording KMJOB and multicasting arrivals. -/
  | gangCompletion (g job : Nat)
  /-- R281: Gang completion arrivals are counted at their barriers 4 clk later. -/
  | gangArrivalCount (g job : Nat)
  /-- R19: At the start tick launch records become ARMED and send subscriptions. -/
  | launchStartTick (ctx : Nat)
  /-- R15: The task engine starts a READY task on a fitting core, clearing banks and entering held jobs. -/
  | taskStart (g : Nat)
  /-- R15: A task READY for 2^20 ticks rises one priority class. -/
  | taskAging (g i : Nat)
  /-- R175: A higher-class READY task pre-empts a victim, which stops and begins spilling. -/
  | preemptStart (g : Nat)
  /-- R176: A save frame is complete and the victim becomes READY with SAVED set. -/
  | spillComplete (g i : Nat)
  /-- R176: A save frame restore ends and the task's first bundle issues. -/
  | restoreComplete (g i : Nat)
  /-- R182: An exiting task's entries drain, it becomes DONE and commits are sent. -/
  | exitDrainEnd (g i : Nat)
  /-- R167: A DONE record is freed and its tag returned once banks and commits are done. -/
  | recordFree (g i : Nat)
  /-- R191: A faulted task is replayed or becomes FAULTED with a fault tile. -/
  | containmentComplete (g i : Nat)
  /-- R178: A low tag lease is refilled from the pool's home. -/
  | tagLeaseRefill (g k : Nat)
  /-- R178: Tags unused for 2^16 ticks return to the home. -/
  | tagLeaseReturn (g k : Nat)
  /-- R179: The home grants the reserved tag to the oldest waiting spawner. -/
  | reservedTagGrant (g k : Nat)
  /-- R184: Arrivals reaching a barrier are counted and completed phases release waiters. -/
  | barrierArrival (g bar : Nat)
  /-- R190: A migrated record arrives at its destination and reissues subscriptions. -/
  | migrationArrive (k : Nat)
  /-- R312: A waiting publication is admitted within the budget, stamped and read out. -/
  | pubAdmit (g k : Nat)
  /-- R312: A new 4,096-tick admission window renews the byte budgets. -/
  | admitWindowRoll (g : Nat)
  /-- R311: A router output chooses and forwards the next packet. -/
  | packetForward (g k : Nat)
  /-- R300: A root accepts a publication, assigns its version and forwards it, or refuses it. -/
  | rootAccept (g k : Nat)
  /-- R307: A refused publication is admitted again 1,024 ticks later. -/
  | pubRetry (g k : Nat)
  /-- R299: A waiting subscription reserves landing space and leaves for its root. -/
  | landingReserve (g : Nat)
  /-- R300: A subscription arrives at its root and is registered and served. -/
  | subRegister (g k : Nat)
  /-- R304: A withdrawal removes its port from name-match entries toward the root. -/
  | subWithdraw (g k : Nat)
  /-- R301: A chunk packet lands at a subscriber's grove or is dropped. -/
  | chunkLand (g k : Nat)
  /-- R293: A waiting receive copies its landed version once all chunks are set. -/
  | recvDeliver (core k : Nat)
  /-- R314: A root raises DELIVERY_LATE when an acknowledgement misses bound plus 2,000 ticks. -/
  | deliveryAckTimeout (g k : Nat)
  /-- R306: A version's retention time ends and it may be dropped. -/
  | retentionExpire (g k : Nat)
  /-- R306: An unpin message releases a guarded landing's pin. -/
  | versionUnpin (g k : Nat)
  /-- R296: A root answers a name query. -/
  | nameqQuery (g k : Nat)
  /-- R315: A commit gives a tentative publication its version at the root. -/
  | commit (g k : Nat)
  /-- R315: A discard drops a tentative publication at its root. -/
  | discard (g k : Nat)
  /-- R316: The voter compares triad copies chunk by chunk and forwards agreed chunks. -/
  | triadVote (g k : Nat)
  /-- R404: A rim agent writes a KEEP version back to HBM. -/
  | keepWriteback (rim k : Nat)
  /-- R308: A write-back completes and WB is set. -/
  | writebackComplete (g k : Nat)
  /-- R403: A holder fetches a backed tile and publishes it from the rim. -/
  | rimFetch (rim k : Nat)
  /-- R322: A counter applies tset and adds the clock's events, judging slot eligibility. -/
  | counterEvent (g n : Nat)
  /-- R335: An eligible slot's operation starts within the fire bound. -/
  | triggerOpStart (g : Nat)
  /-- R338: A triggered operation completes, raising DCTR or re-arming. -/
  | triggerOpComplete (g slot : Nat)
  /-- R360: A queued collective becomes active in its class set. -/
  | collActivate (core : Nat) (cls : Bool)
  /-- R361: A collective unit takes its next segment. -/
  | collSegmentStart (core : Nat) (cls : Bool)
  /-- R356: A root takes a member's contribution and adds it in member order. -/
  | collContribution (g k : Nat)
  /-- R354: A collective completes at a member and makes its COLL event. -/
  | collComplete (core k : Nat)
  /-- R372: A lantern reaches a node, which records on the first and closes that channel's log. -/
  | lanternArrive (ctx node chan : Nat)
  /-- R379: An armed scratchpad chunk is written out in the background. -/
  | chunkWriteout (ctx core chunk : Nat)
  /-- R380: An armed page or window unit is written out and becomes PRESERVED. -/
  | pageWriteout (ctx va : Nat)
  /-- R384: A finished node reports, the trunk writes the ring record and the snapshot may complete. -/
  | captureReport (ctx node : Nat)
  /-- R408: A remote store or atomic arrives at a slice and is deduplicated, held, refused or performed. `src` holds its source in the low
  22 bits (R406), above it the port by which it comes, in 5 bits, and then the tick of its first sending. -/
  | remoteRequestArrive (slice src seq : Nat) (cls : Bool) (op sz off : Nat) (v w : BitVec 64)
  /-- R407: An unanswered remote request is retransmitted after 2,000 ticks. -/
  | remoteRetransmit (core k : Nat)
  /-- R407: After 20,000 ticks a remote request completes failed. -/
  | remoteRequestExpire (core k : Nat)
  /-- R408: A duplicate-suppression entry retires after 40,000 ticks. -/
  | dupEntryRetire (slice k : Nat)
  /-- R409: The token visits a slice controller, which performs waiting amo.seq operations. -/
  | tokenVisit (rim : Nat)
  /-- R409: A token missing for 1 µs is regenerated at rim field 0. -/
  | tokenRegenerate
  /-- R410: The patrol scrubber reads and rewrites a word. -/
  | scrubStep (stack : Nat)
  /-- R417: Host command that creates a context and installs a launch image. -/
  | loadImage (qp : Nat) (cmd : List (BitVec 8)) (choice : List Nat)
  /-- R438: Host command that checks and stages signed firmware, optionally restarting. -/
  | loadImageFirmware (qp : Nat) (cmd : List (BitVec 8))
  /-- R420: Host command that checks and loads a signed supervisor image. -/
  | loadImageSupervisor (qp : Nat) (cmd : List (BitVec 8))
  /-- R418: Host command installing a context's records to wait for the start tick. -/
  | launch (qp : Nat) (cmd : List (BitVec 8)) (choice : List Nat)
  /-- R420: Host command running a supervisor image on trunk core 3. -/
  | launchSupervisor (qp : Nat) (cmd : List (BitVec 8))
  /-- R416: Host command migrating a task record. -/
  | migrateCmd (qp : Nat) (cmd : List (BitVec 8))
  /-- R416: Host command starting a snapshot as snap does. -/
  | snapshot (qp : Nat) (cmd : List (BitVec 8))
  /-- R393: Host command restoring a context to a completed snapshot. -/
  | rollback (qp : Nat) (cmd : List (BitVec 8))
  /-- R434: Host command merging two partitions; `choice` may name the first 64 GiB unit of their memory. -/
  | partitionMerge (qp : Nat) (cmd : List (BitVec 8)) (choice : List Nat)
  /-- R435: Host command splitting a partition; `choice` may name the first 64 GiB unit of its parts' memory. -/
  | partitionSplit (qp : Nat) (cmd : List (BitVec 8)) (choice : List Nat)
  /-- R422: Host command writing the SUMMARY record, optionally naming a notification QP or quoting. -/
  | summary (qp : Nat) (cmd : List (BitVec 8))
  /-- R419: Host command stopping and clearing a context's tasks. -/
  | resetContext (qp : Nat) (cmd : List (BitVec 8))
  /-- R419: Host command freeing only FAULTED records. -/
  | resetContextClear (qp : Nat) (cmd : List (BitVec 8))
  /-- R419: Host command resetting and deleting a context. -/
  | resetContextFree (qp : Nat) (cmd : List (BitVec 8))
  /-- R415: A SEND with no valid command code is answered UNKNOWN. -/
  | unknownCommand (qp : Nat) (cmd : List (BitVec 8))
  /-- R413: Host RDMA WRITE into the image buffer or a context space. -/
  | rdmaWrite (qp rkey addr : Nat) (data : List (BitVec 8))
  /-- R413: Host RDMA READ of the trunk region or a context space. -/
  | rdmaRead (qp rkey addr len : Nat)
  /-- R412: An atomic or other opcode is answered NAK invalid request. -/
  | rdmaInvalid (qp opcode : Nat)
  /-- R421: A supervisor fault tile reaching the trunk is sent to the notification QP. -/
  | faultNotify (k : Nat)
  /-- R426: Power-on or reset starts independent bring-up of every function. -/
  | moduleReset
  /-- R426: A function reports ready or not and the readiness map updates. -/
  | bringupReport (kind idx : Nat) (ready : Bool) (info : Nat)
  /-- R427: Trunk, rim field 1 or port 0 not ready within 60 s counts a failed start. -/
  | startTimeout
  /-- R424: A PTP message sets or slews the time base. -/
  | ptpMessage (port time : Nat)
  /-- R424: Port 0 loses its master and the clock falls back to port 1. -/
  | ptpMasterLoss (port : Nat)
  /-- R424: A link sync symbol disciplines a member's time base to the reference. -/
  | syncSymbol (time err : Nat)
  /-- R436: Every 2^20 ticks the governor measures power and adjusts budgets. -/
  | powerMeasure (watts : Nat)
  /-- R437: A grove at HOT raises a hot-grove event and migrates its waiting records. -/
  | hotGroveEvent (g temp : Nat)
  /-- R437: A grove below HOT minus HYST clears its event. -/
  | hotGroveClear (g temp : Nat)
  /-- R426: A grove at CRIT or failing leaves readiness and its tasks are moved or faulted. -/
  | groveWithdraw (g reason : Nat)
  /-- R437: A withdrawn grove returns after 2^30 ticks cool. -/
  | groveReturn (g : Nat)
  /-- R49: After the hold, root state moves to new roots and cores resume. -/
  | forcedFlushMove (ctx : Nat)
  /-- R48: Writing START to TK_CTX_FLUSH starts a flush of the context. -/
  | ctxFlush (ctx : Nat)
  /-- R48: A flush completes and DONE rises. -/
  | flushComplete (ctx : Nat)
  /-- R48: A write to TK_CTX_SEED is accepted only while DONE is set. -/
  | seedWrite (ctx : Nat) (v : BitVec 64)
  /-- R48: A write to a root override entry is accepted only while DONE is set. -/
  | rootovrWrite (ctx i : Nat) (v : BitVec 64)
  /-- R35: A write to RA_SLICE_SPLIT invalidates the cache region after write-back. -/
  | sliceSplitWrite (slice : Nat) (v : BitVec 64)
  /-- R430: A write to TK_PARTMAP changes the partition layout or is refused. -/
  | partmapWrite (v : BitVec 64)
  /-- R432: QUIESCE stops new flits into a seam and waits for its queues to empty. -/
  | seamQuiesce (seam : Nat) (v : BitVec 64)
  /-- R432: All seam queues empty and the seam enters STATE 1. -/
  | seamQuiesced (seam : Nat)
  /-- R432: A quiesce still waiting after TIMEOUT is refused and recorded. -/
  | seamQuiesceTimeout (seam : Nat)
  /-- R432: OPEN lets all traffic cross a quiesced seam. -/
  | seamOpen (seam : Nat)
  /-- R432: CLOSE splits a quiesced seam to trunk traffic only. -/
  | seamClose (seam : Nat)
  /-- R431: A valid TK_ILV write sets a partition's memory and starts its clear. -/
  | ilvWrite (part : Nat) (v : BitVec 64)
  /-- R431: The clear of a partition's memory range ends. -/
  | hbmClearComplete (part : Nat)
  /-- R433: A TK_SHOOT write invalidates translations and waits for every grove's acknowledgement. -/
  | shootdown (v : BitVec 64)
  /-- R343: A GE_GRANT write grants counters and slots or is refused on overlap. -/
  | grantWrite (g ctx : Nat) (v : BitVec 64)
  /-- R155: An mwr to a register with no row of its own writes its K fields or is refused BUSY. -/
  | registerWrite (addr v : BitVec 64)
  /-- R51: A soft error flips bits of a stored SRAM or HBM word, leaving a correctable or uncorrectable syndrome. -/
  | softError (addr bit : Nat)
  /-- R426: A rim field, HBM stack or module-link port in service loses readiness, so the map changes, walkers are reassigned and R401 forced flushes run. -/
  | readinessLost (kind idx : Nat)
  /-- R426: A function that was not ready, other than a thermally withdrawn grove, becomes ready again and the readiness map and distance tables update. -/
  | readinessRegained (kind idx : Nat)
  /-- R306: A subscriber's landing acknowledgement reaches the root, which ends the lateness watch and pins the version for a guarded landing. -/
  | landingAcknowledgement (g k : Nat)
  /-- R406: A remote request held because its sequence number was used within 40,000 ticks is released and sent once that time has passed. -/
  | sequenceNumberFree (core k : Nat)
deriving DecidableEq, Repr

end Sys2Proof
end

