-- ==== Sys2Proof/WellFormed.lean ====
section
/-!
DEFINITION. Which slot operations are well formed: every register number lies in its file (R71, R81) and every
minor function, condition, size, type code and K-register number is one that the operation's entry lists (R75).
An operation that is not well formed traps ILLEGAL at issue with the cause computed here (KTRAP.ILC, R152).
-/

namespace Sys2Proof

/-- The ILLEGAL cause of KTRAP.ILC (R152), in the order of its codes 0 to 7. -/
inductive Ilc where
  | major | fn | reserved | file | kreg | supOnly | seq | emptyPop
deriving DecidableEq, Repr

/-- The code of an ILLEGAL cause in KTRAP.ILC (R152). -/
def Ilc.code : Ilc → Nat
  | .major => 0 | .fn => 1 | .reserved => 2 | .file => 3 | .kreg => 4 | .supOnly => 5 | .seq => 6 | .emptyPop => 7

/-- The numbered files an operand can name (R81), with the copy trackers ct (R240) and the matrix macros m (R263). -/
inductive RegFile where
  | s | a | p | v | h | n | q | b | g | ct | m
deriving DecidableEq, Repr

/-- How many registers a file holds (R81, R240, R261). -/
def RegFile.size : RegFile → Nat
  | .s => 32 | .a => 16 | .p => 8 | .v => 32 | .h => 16 | .n => 6 | .q => 8 | .b => 16 | .g => 128 | .ct => 16 | .m => 4

/-- The code of a file in KTRAP.FILE (R152); files without a code read as 0. -/
def RegFile.code : RegFile → Nat
  | .s => 0 | .a => 1 | .p => 2 | .v => 3 | .h => 4 | .n => 5 | .q => 6 | .b => 0 | .g => 0 | .ct => 0 | .m => 0

/-- One register named by an operation. -/
structure Reg where
  file : RegFile
  num  : Nat
deriving DecidableEq, Repr

/-- The register number lies in its file (R71). -/
def Reg.inFile (r : Reg) : Bool := decide (r.num < r.file.size)

/-- Type codes a register form accepts: all but 0, DB8 and DB4 (R199). -/
def regType (t : BitVec 4) : Bool := !(decide (t = 0) || decide (t = 7) || decide (t = 8))

/-- The float type codes 0x1 to 0x6 (R199). -/
def floatType (t : BitVec 4) : Bool := decide (1 ≤ t) && decide (t ≤ 6)

/-- The integer type codes 0x9 to 0xF (R199). -/
def intType (t : BitVec 4) : Bool := decide (9 ≤ t)

/-- The type codes of compares and selects: F64, F32, I32, N32 (R203, R204). -/
def cmpType (t : BitVec 4) : Bool := decide (t = 1) || decide (t = 2) || decide (t = 9) || decide (t = 15)

/-- The element width in bits of a type code of R199; 0 where a code has no width of its own. -/
def typeWidth (t : BitVec 4) : Nat :=
  match t.toNat with
  | 1 => 64 | 2 => 32 | 3 => 16 | 4 => 16 | 5 => 8 | 6 => 8 | 9 => 32 | 10 => 16 | 11 => 8 | 12 => 4
  | 13 => 8 | 14 => 16 | 15 => 32 | _ => 0

/-- The width ratio and PART limits of `vcvt` (R206). -/
def cvtShape (ts td : BitVec 4) (part : BitVec 3) : Bool :=
  let a := max (typeWidth ts) (typeWidth td)
  let b := min (typeWidth ts) (typeWidth td)
  b != 0 && decide (a / b ≤ 8) && decide (part.toNat < a / b)

/-- ORD and SCOPE agree (R140): scope 3 is not used, and a plain request names no scope. -/
def scopeOk (ord scope : BitVec 2) : Bool := decide (scope ≠ 3) && (decide (ord ≠ 0) || decide (scope = 0))

/-- The registers an operation reads at issue, its guard apart (R67, R84). -/
def Instr.reads : Instr → List Reg
  | .add _ a b _ => [⟨.s, a.toNat⟩, ⟨.s, b.toNat⟩]
  | .isub _ a b _ => [⟨.s, a.toNat⟩, ⟨.s, b.toNat⟩]
  | .and _ a b _ => [⟨.s, a.toNat⟩, ⟨.s, b.toNat⟩]
  | .or _ a b _ => [⟨.s, a.toNat⟩, ⟨.s, b.toNat⟩]
  | .xor _ a b _ => [⟨.s, a.toNat⟩, ⟨.s, b.toNat⟩]
  | .andn _ a b _ => [⟨.s, a.toNat⟩, ⟨.s, b.toNat⟩]
  | .shl _ a b _ => [⟨.s, a.toNat⟩, ⟨.s, b.toNat⟩]
  | .shr _ a b _ => [⟨.s, a.toNat⟩, ⟨.s, b.toNat⟩]
  | .sar _ a b _ => [⟨.s, a.toNat⟩, ⟨.s, b.toNat⟩]
  | .min _ a b _ => [⟨.s, a.toNat⟩, ⟨.s, b.toNat⟩]
  | .max _ a b _ => [⟨.s, a.toNat⟩, ⟨.s, b.toNat⟩]
  | .minu _ a b _ => [⟨.s, a.toNat⟩, ⟨.s, b.toNat⟩]
  | .maxu _ a b _ => [⟨.s, a.toNat⟩, ⟨.s, b.toNat⟩]
  | .bcntPop _ a _ => [⟨.s, a.toNat⟩]
  | .bcntLz _ a _ => [⟨.s, a.toNat⟩]
  | .bcntTz _ a _ => [⟨.s, a.toNat⟩]
  | .mul _ a b _ => [⟨.s, a.toNat⟩, ⟨.s, b.toNat⟩]
  | .mulh _ a b _ => [⟨.s, a.toNat⟩, ⟨.s, b.toNat⟩]
  | .mulhu _ a b _ => [⟨.s, a.toNat⟩, ⟨.s, b.toNat⟩]
  | .div _ a b _ => [⟨.s, a.toNat⟩, ⟨.s, b.toNat⟩]
  | .divu _ a b _ => [⟨.s, a.toNat⟩, ⟨.s, b.toNat⟩]
  | .rem _ a b _ => [⟨.s, a.toNat⟩, ⟨.s, b.toNat⟩]
  | .remu _ a b _ => [⟨.s, a.toNat⟩, ⟨.s, b.toNat⟩]
  | .addi _ a _ _ => [⟨.s, a.toNat⟩]
  | .andi _ a _ _ => [⟨.s, a.toNat⟩]
  | .ori _ a _ _ => [⟨.s, a.toNat⟩]
  | .xori _ a _ _ => [⟨.s, a.toNat⟩]
  | .shli _ a _ _ => [⟨.s, a.toNat⟩]
  | .shri _ a _ _ => [⟨.s, a.toNat⟩]
  | .sari _ a _ _ => [⟨.s, a.toNat⟩]
  | .lsh d _ => [⟨.s, d.toNat⟩]
  | .cmp _ a b _ _ => [⟨.s, a.toNat⟩, ⟨.s, b.toNat⟩]
  | .cmpp _ a b _ _ => [⟨.s, a.toNat⟩, ⟨.s, b.toNat⟩]
  | .sel _ a b _ c => [⟨.s, a.toNat⟩, ⟨.s, b.toNat⟩, ⟨.p, c.toNat⟩]
  | .adda _ a b _ => [⟨.a, a.toNat⟩, ⟨.s, b.toNat⟩]
  | .movaAS _ a _ => [⟨.s, a.toNat⟩]
  | .movaSA _ a _ => [⟨.a, a.toNat⟩]
  | .movaAA _ a _ => [⟨.a, a.toNat⟩]
  | .movaSN _ a _ => [⟨.n, a.toNat⟩]
  | .br a _ _ => [⟨.s, a.toNat⟩]
  | .brp a _ _ => [⟨.p, a.toNat⟩]
  | .brv a c _ => [⟨.p, a.toNat⟩, ⟨.p, c.toNat⟩]
  | .jr a _ => [⟨.s, a.toNat⟩]
  | .jrLink _ a _ => [⟨.s, a.toNat⟩]
  | .ret a _ => [⟨.s, a.toNat⟩]
  | .loop _ a _ _ => [⟨.s, a.toNat⟩]
  | .lstr _ b _ _ => [⟨.s, b.toNat⟩]
  | .kwr a _ _ => [⟨.s, a.toNat⟩]
  | .mrd _ a _ => [⟨.s, a.toNat⟩]
  | .mwr a b _ => [⟨.s, a.toNat⟩, ⟨.s, b.toNat⟩]
  | .ldpw _ a _ _ => [⟨.s, a.toNat⟩]
  | .vadd _ a b _ sb _ _ => [⟨.v, a.toNat⟩, (if sb then ⟨.s, b.toNat⟩ else ⟨.v, b.toNat⟩)]
  | .vsub _ a b _ sb _ _ => [⟨.v, a.toNat⟩, (if sb then ⟨.s, b.toNat⟩ else ⟨.v, b.toNat⟩)]
  | .vmul _ a b _ sb _ _ => [⟨.v, a.toNat⟩, (if sb then ⟨.s, b.toNat⟩ else ⟨.v, b.toNat⟩)]
  | .vfma d a b _ _ sb _ _ => [⟨.v, a.toNat⟩, (if sb then ⟨.s, b.toNat⟩ else ⟨.v, b.toNat⟩), ⟨.v, d.toNat⟩]
  | .vmin _ a b _ sb _ _ => [⟨.v, a.toNat⟩, (if sb then ⟨.s, b.toNat⟩ else ⟨.v, b.toNat⟩)]
  | .vmax _ a b _ sb _ _ => [⟨.v, a.toNat⟩, (if sb then ⟨.s, b.toNat⟩ else ⟨.v, b.toNat⟩)]
  | .vabs _ a _ _ _ => [⟨.v, a.toNat⟩]
  | .vneg _ a _ _ _ => [⟨.v, a.toNat⟩]
  | .vand _ a b _ _ => [⟨.v, a.toNat⟩, ⟨.v, b.toNat⟩]
  | .vor _ a b _ _ => [⟨.v, a.toNat⟩, ⟨.v, b.toNat⟩]
  | .vxor _ a b _ _ => [⟨.v, a.toNat⟩, ⟨.v, b.toNat⟩]
  | .vshl _ a b _ sb _ => [⟨.v, a.toNat⟩, (if sb then ⟨.s, b.toNat⟩ else ⟨.v, b.toNat⟩)]
  | .vshr _ a b _ sb _ => [⟨.v, a.toNat⟩, (if sb then ⟨.s, b.toNat⟩ else ⟨.v, b.toNat⟩)]
  | .vcmp _ a b _ _ _ => [⟨.v, a.toNat⟩, ⟨.v, b.toNat⟩]
  | .vsel _ a b _ _ c => [⟨.v, a.toNat⟩, ⟨.v, b.toNat⟩, ⟨.p, c.toNat⟩]
  | .vmovV _ a _ => [⟨.v, a.toNat⟩]
  | .vmovSplat _ a _ _ => [⟨.s, a.toNat⟩]
  | .vmovHS _ a _ => [⟨.s, a.toNat⟩]
  | .vmovSH _ a _ => [⟨.h, a.toNat⟩]
  | .vmovPS _ a _ => [⟨.s, a.toNat⟩]
  | .vmovSP _ a _ => [⟨.p, a.toNat⟩]
  | .vcvt d a _ _ _ _ _ => [⟨.v, a.toNat⟩, ⟨.v, d.toNat⟩]
  | .vqdb _ a _ _ _ => [⟨.v, a.toNat⟩]
  | .vcomp _ a _ _ => [⟨.v, a.toNat⟩]
  | .vexpd _ a _ _ => [⟨.v, a.toNat⟩]
  | .vperm _ a b _ _ _ => [⟨.v, a.toNat⟩, ⟨.v, b.toNat⟩]
  | .vred _ a _ _ _ => [⟨.v, a.toNat⟩]
  | .vsfu _ a _ _ => [⟨.v, a.toNat⟩]
  | .vext _ a b _ _ => [⟨.v, a.toNat⟩, ⟨.s, b.toNat⟩]
  | .vins _ a b _ _ => [⟨.s, a.toNat⟩, ⟨.s, b.toNat⟩]
  | .vld _ a _ _ => [⟨.a, a.toNat⟩]
  | .vst d a _ _ => [⟨.a, a.toNat⟩, ⟨.v, d.toNat⟩]
  | .vldl _ a b _ _ => [⟨.v, a.toNat⟩, ⟨.s, b.toNat⟩]
  | .vstl d a b _ _ => [⟨.v, a.toNat⟩, ⟨.s, b.toNat⟩, ⟨.v, d.toNat⟩]
  | .pand _ a b _ _ => [⟨.p, a.toNat⟩, ⟨.p, b.toNat⟩]
  | .por _ a b _ _ => [⟨.p, a.toNat⟩, ⟨.p, b.toNat⟩]
  | .pxor _ a b _ _ => [⟨.p, a.toNat⟩, ⟨.p, b.toNat⟩]
  | .pcnt _ a _ => [⟨.p, a.toNat⟩]
  | .vjadd d a b _ _ _ _ => [⟨.h, d.toNat⟩, ⟨.h, a.toNat⟩, ⟨.h, b.toNat⟩]
  | .vjsub d a b _ _ _ _ => [⟨.h, d.toNat⟩, ⟨.h, a.toNat⟩, ⟨.h, b.toNat⟩]
  | .vjmul d a b _ _ _ _ => [⟨.h, d.toNat⟩, ⟨.h, a.toNat⟩, ⟨.h, b.toNat⟩]
  | .vjfma d a b _ _ _ _ => [⟨.h, d.toNat⟩, ⟨.h, a.toNat⟩, ⟨.h, b.toNat⟩]
  | .vjmin d a b _ _ _ _ => [⟨.h, d.toNat⟩, ⟨.h, a.toNat⟩, ⟨.h, b.toNat⟩]
  | .vjmax d a b _ _ _ _ => [⟨.h, d.toNat⟩, ⟨.h, a.toNat⟩, ⟨.h, b.toNat⟩]
  | .vjcvt d a _ _ _ _ _ => [⟨.h, d.toNat⟩, ⟨.h, a.toNat⟩]
  | .vjqdb d a _ _ _ _ => [⟨.h, d.toNat⟩, ⟨.h, a.toNat⟩]
  | .vjred d a _ _ _ _ _ => [⟨.h, d.toNat⟩, ⟨.h, a.toNat⟩]
  | .vjsfu d a _ _ _ _ _ => [⟨.h, d.toNat⟩, ⟨.h, a.toNat⟩]
  | .vjcomp d a b _ _ => [⟨.h, d.toNat⟩, ⟨.h, a.toNat⟩, ⟨.h, b.toNat⟩]
  | .vjexpd d a b _ _ => [⟨.h, d.toNat⟩, ⟨.h, a.toNat⟩, ⟨.h, b.toNat⟩]
  | .vjsel d a b _ _ _ _ => [⟨.h, d.toNat⟩, ⟨.h, a.toNat⟩, ⟨.h, b.toNat⟩]
  | .vjcmp d a b _ _ _ => [⟨.h, d.toNat⟩, ⟨.h, a.toNat⟩, ⟨.h, b.toNat⟩]
  | .vjfill d _ _ => [⟨.h, d.toNat⟩]
  | .ld _ a _ _ _ => [⟨.a, a.toNat⟩]
  | .st d a _ _ _ => [⟨.a, a.toNat⟩, ⟨.s, d.toNat⟩]
  | .ldx _ a b _ _ _ => [⟨.a, a.toNat⟩, ⟨.s, b.toNat⟩]
  | .stx d a b _ _ _ => [⟨.a, a.toNat⟩, ⟨.s, b.toNat⟩, ⟨.s, d.toNat⟩]
  | .qld _ a _ _ _ _ => [⟨.a, a.toNat⟩]
  | .qst _ a b _ _ _ _ => [⟨.a, a.toNat⟩, ⟨.s, b.toNat⟩]
  | .amoAdd _ a b _ _ _ _ => [⟨.a, a.toNat⟩, ⟨.s, b.toNat⟩]
  | .amoSwap _ a b _ _ _ _ => [⟨.a, a.toNat⟩, ⟨.s, b.toNat⟩]
  | .amoCas _ a b _ _ _ _ => [⟨.a, a.toNat⟩, ⟨.s, b.toNat⟩, ⟨.s, b.toNat + 1⟩]
  | .amoAnd _ a b _ _ _ _ => [⟨.a, a.toNat⟩, ⟨.s, b.toNat⟩]
  | .amoOr _ a b _ _ _ _ => [⟨.a, a.toNat⟩, ⟨.s, b.toNat⟩]
  | .amoXor _ a b _ _ _ _ => [⟨.a, a.toNat⟩, ⟨.s, b.toNat⟩]
  | .amoMin _ a b _ _ _ _ => [⟨.a, a.toNat⟩, ⟨.s, b.toNat⟩]
  | .amoMax _ a b _ _ _ _ => [⟨.a, a.toNat⟩, ⟨.s, b.toNat⟩]
  | .amoMinu _ a b _ _ _ _ => [⟨.a, a.toNat⟩, ⟨.s, b.toNat⟩]
  | .amoMaxu _ a b _ _ _ _ => [⟨.a, a.toNat⟩, ⟨.s, b.toNat⟩]
  | .amoSeq _ a b _ op => [⟨.a, a.toNat⟩, ⟨.s, b.toNat⟩, (if op = 2 then ⟨.s, b.toNat + 1⟩ else ⟨.s, b.toNat⟩)]
  | .copy _ a b _ e => [⟨.a, a.toNat⟩, ⟨.s, b.toNat⟩, ⟨.s, e.toNat⟩]
  | .cwait _ _ b _ => [⟨.s, b.toNat⟩]
  | .cwaitW _ _ b _ _ => [⟨.s, b.toNat⟩]
  | .ctest _ _ b _ => [⟨.s, b.toNat⟩]
  | .ctestW _ _ b _ => [⟨.s, b.toNat⟩]
  | .mldb _ a _ _ _ _ => [⟨.h, a.toNat⟩]
  | .mjob d a b _ _ => [⟨.h, d.toNat⟩, ⟨.h, a.toNat⟩, ⟨.s, b.toNat⟩]
  | .mgang d a b _ _ => [⟨.h, d.toNat⟩, ⟨.h, a.toNat⟩, ⟨.s, b.toNat⟩]
  | .mgangJoin d a b _ _ => [⟨.h, d.toNat⟩, ⟨.h, a.toNat⟩, ⟨.s, b.toNat⟩]
  | .pub a b _ _ => [⟨.a, a.toNat⟩, ⟨.s, b.toNat⟩]
  | .sub d b _ _ => [⟨.s, d.toNat⟩, ⟨.s, b.toNat⟩]
  | .unsub d b _ _ => [⟨.s, d.toNat⟩, ⟨.s, b.toNat⟩]
  | .recv a b _ _ => [⟨.a, a.toNat⟩, ⟨.s, b.toNat⟩]
  | .recva a b _ _ _ => [⟨.a, a.toNat⟩, ⟨.s, b.toNat⟩]
  | .peek _ b _ _ => [⟨.s, b.toNat⟩]
  | .halo a b _ _ => [⟨.a, a.toNat⟩, ⟨.s, b.toNat⟩]
  | .haloR a b _ _ => [⟨.a, a.toNat⟩, ⟨.s, b.toNat⟩]
  | .nameq _ b _ _ => [⟨.s, b.toNat⟩]
  | .nameqN _ b _ _ => [⟨.s, b.toNat⟩]
  | .spawn _ a _ _ _ => [⟨.s, a.toNat⟩]
  | .tinst a b _ _ => [⟨.s, a.toNat⟩, ⟨.s, b.toNat⟩]
  | .bset _ b _ => [⟨.s, b.toNat⟩]
  | .migrate a b _ => [⟨.s, a.toNat⟩, ⟨.s, b.toNat⟩]
  | .tsrc _ a b _ => [⟨.s, a.toNat⟩, ⟨.s, b.toNat⟩]
  | .tadd _ a _ => [⟨.s, a.toNat⟩]
  | .tarm a b _ => [⟨.a, a.toNat⟩, ⟨.s, b.toNat⟩]
  | .tdis a _ => [⟨.s, a.toNat⟩]
  | .tgetSlot _ b _ => [⟨.s, b.toNat⟩]
  | .tgetRes _ b _ => [⟨.s, b.toNat⟩]
  | .tset _ a _ => [⟨.s, a.toNat⟩]
  | .coll d a b _ _ => [⟨.a, d.toNat⟩, ⟨.a, a.toNat⟩, ⟨.s, b.toNat⟩]
  | .snap a _ => [⟨.s, a.toNat⟩]
  | .nop | .eret | .tokenRegenerate | .moduleReset | .startTimeout => []
  | .li _ _ | .call _ _ | .trap _ _ | .fence _ _ | .barr _ _ | .snrd _ _ | .snrdRb _ _ | .queueRequestSend _ _
  | .scoreboardEntryRelease _ _ | .copyFinish _ _ | .gangWindowExpire _ _ | .gangCompletion _ _
  | .gangArrivalCount _ _ | .taskAging _ _ | .spillComplete _ _ | .restoreComplete _ _ | .exitDrainEnd _ _
  | .recordFree _ _ | .containmentComplete _ _ | .tagLeaseRefill _ _ | .tagLeaseReturn _ _ | .reservedTagGrant _ _
  | .barrierArrival _ _ | .pubAdmit _ _ | .packetForward _ _ | .rootAccept _ _ | .pubRetry _ _ | .subRegister _ _
  | .subWithdraw _ _ | .chunkLand _ _ | .recvDeliver _ _ | .deliveryAckTimeout _ _ | .retentionExpire _ _
  | .versionUnpin _ _ | .nameqQuery _ _ | .commit _ _ | .discard _ _ | .triadVote _ _ | .keepWriteback _ _
  | .writebackComplete _ _ | .rimFetch _ _ | .counterEvent _ _ | .triggerOpComplete _ _ | .collActivate _ _
  | .collSegmentStart _ _ | .collContribution _ _ | .collComplete _ _ | .pageWriteout _ _ | .captureReport _ _
  | .remoteRetransmit _ _ | .remoteRequestExpire _ _ | .dupEntryRetire _ _ | .loadImageFirmware _ _
  | .loadImageSupervisor _ _ | .launchSupervisor _ _ | .migrateCmd _ _ | .snapshot _ _ | .rollback _ _
  | .summary _ _ | .resetContext _ _ | .resetContextClear _ _ | .resetContextFree _ _ | .unknownCommand _ _
  | .rdmaInvalid _ _ | .ptpMessage _ _ | .syncSymbol _ _ | .hotGroveEvent _ _ | .hotGroveClear _ _
  | .groveWithdraw _ _ | .seedWrite _ _ | .sliceSplitWrite _ _ | .seamQuiesce _ _ | .ilvWrite _ _
  | .registerWrite _ _ | .softError _ _ | .readinessLost _ _ | .readinessRegained _ _ | .landingAcknowledgement _ _
  | .sequenceNumberFree _ _ => []
  | .jmp _ | .exit _ | .exposedResultLand _ | .stalledBundleIssue _ | .impreciseFault _ | .xOpAccept _
  | .vectorJobStart _ | .vectorJobComplete _ | .mldbLoadStart _ | .planeLoaded _ | .matrixJobStart _
  | .matrixJobComplete _ | .governorWindow _ | .launchStartTick _ | .taskStart _ | .preemptStart _
  | .migrationArrive _ | .admitWindowRoll _ | .landingReserve _ | .triggerOpStart _ | .tokenVisit _ | .scrubStep _
  | .faultNotify _ | .ptpMasterLoss _ | .powerMeasure _ | .groveReturn _ | .forcedFlushMove _ | .ctxFlush _
  | .flushComplete _ | .partmapWrite _ | .seamQuiesced _ | .seamQuiesceTimeout _ | .seamOpen _ | .seamClose _
  | .hbmClearComplete _ | .shootdown _ => []
  | .krd _ _ _ | .vmovIdx _ _ _ | .qpop _ _ _ | .qwait _ _ _ | .qwaitAll _ _ _ | .ctestRec _ _ _ | .ctestAddr _ _ _
  | .bwait _ _ _ | .btest _ _ _ | .tget _ _ _ | .colw _ _ _ | .colt _ _ _ | .queueAccessPerform _ _ _
  | .pageWalk _ _ _ | .copyRunPerform _ _ _ | .planeTransfer _ _ _ | .lanternArrive _ _ _ | .chunkWriteout _ _ _
  | .loadImage _ _ _ | .launch _ _ _ | .partitionMerge _ _ _ | .partitionSplit _ _ _ | .rootovrWrite _ _ _
  | .grantWrite _ _ _ => []
  | .qpopT _ _ _ _ | .rdmaWrite _ _ _ _ | .rdmaRead _ _ _ _ | .bringupReport _ _ _ _ => []
  | .remoteRequestArrive _ _ _ _ _ _ _ _ _ => []

/-- The registers an operation names as destination (R67, R84). -/
def Instr.writes : Instr → List Reg
  | .add d _ _ _ => [⟨.s, d.toNat⟩]
  | .isub d _ _ _ => [⟨.s, d.toNat⟩]
  | .and d _ _ _ => [⟨.s, d.toNat⟩]
  | .or d _ _ _ => [⟨.s, d.toNat⟩]
  | .xor d _ _ _ => [⟨.s, d.toNat⟩]
  | .andn d _ _ _ => [⟨.s, d.toNat⟩]
  | .shl d _ _ _ => [⟨.s, d.toNat⟩]
  | .shr d _ _ _ => [⟨.s, d.toNat⟩]
  | .sar d _ _ _ => [⟨.s, d.toNat⟩]
  | .min d _ _ _ => [⟨.s, d.toNat⟩]
  | .max d _ _ _ => [⟨.s, d.toNat⟩]
  | .minu d _ _ _ => [⟨.s, d.toNat⟩]
  | .maxu d _ _ _ => [⟨.s, d.toNat⟩]
  | .bcntPop d _ _ => [⟨.s, d.toNat⟩]
  | .bcntLz d _ _ => [⟨.s, d.toNat⟩]
  | .bcntTz d _ _ => [⟨.s, d.toNat⟩]
  | .mul d _ _ _ => [⟨.s, d.toNat⟩]
  | .mulh d _ _ _ => [⟨.s, d.toNat⟩]
  | .mulhu d _ _ _ => [⟨.s, d.toNat⟩]
  | .div d _ _ _ => [⟨.s, d.toNat⟩]
  | .divu d _ _ _ => [⟨.s, d.toNat⟩]
  | .rem d _ _ _ => [⟨.s, d.toNat⟩]
  | .remu d _ _ _ => [⟨.s, d.toNat⟩]
  | .addi d _ _ _ => [⟨.s, d.toNat⟩]
  | .andi d _ _ _ => [⟨.s, d.toNat⟩]
  | .ori d _ _ _ => [⟨.s, d.toNat⟩]
  | .xori d _ _ _ => [⟨.s, d.toNat⟩]
  | .shli d _ _ _ => [⟨.s, d.toNat⟩]
  | .shri d _ _ _ => [⟨.s, d.toNat⟩]
  | .sari d _ _ _ => [⟨.s, d.toNat⟩]
  | .li d _ => [⟨.s, d.toNat⟩]
  | .lsh d _ => [⟨.s, d.toNat⟩]
  | .cmp d _ _ _ _ => [⟨.s, d.toNat⟩]
  | .cmpp d _ _ _ _ => [⟨.p, d.toNat⟩]
  | .sel d _ _ _ _ => [⟨.s, d.toNat⟩]
  | .adda d _ _ _ => [⟨.a, d.toNat⟩]
  | .movaAS d _ _ => [⟨.a, d.toNat⟩]
  | .movaSA d _ _ => [⟨.s, d.toNat⟩]
  | .movaAA d _ _ => [⟨.a, d.toNat⟩]
  | .movaSN d _ _ => [⟨.s, d.toNat⟩]
  | .jrLink d _ _ => [⟨.s, d.toNat⟩]
  | .call d _ => [⟨.s, d.toNat⟩]
  | .krd d _ _ => [⟨.s, d.toNat⟩]
  | .mrd d _ _ => [⟨.s, d.toNat⟩]
  | .ldpw d _ _ _ => [⟨.s, d.toNat⟩]
  | .vadd d _ _ _ _ _ _ => [⟨.v, d.toNat⟩]
  | .vsub d _ _ _ _ _ _ => [⟨.v, d.toNat⟩]
  | .vmul d _ _ _ _ _ _ => [⟨.v, d.toNat⟩]
  | .vfma d _ _ _ _ _ _ _ => [⟨.v, d.toNat⟩]
  | .vmin d _ _ _ _ _ _ => [⟨.v, d.toNat⟩]
  | .vmax d _ _ _ _ _ _ => [⟨.v, d.toNat⟩]
  | .vabs d _ _ _ _ => [⟨.v, d.toNat⟩]
  | .vneg d _ _ _ _ => [⟨.v, d.toNat⟩]
  | .vand d _ _ _ _ => [⟨.v, d.toNat⟩]
  | .vor d _ _ _ _ => [⟨.v, d.toNat⟩]
  | .vxor d _ _ _ _ => [⟨.v, d.toNat⟩]
  | .vshl d _ _ _ _ _ => [⟨.v, d.toNat⟩]
  | .vshr d _ _ _ _ _ => [⟨.v, d.toNat⟩]
  | .vcmp d _ _ _ _ _ => [⟨.p, d.toNat⟩]
  | .vsel d _ _ _ _ _ => [⟨.v, d.toNat⟩]
  | .vmovV d _ _ => [⟨.v, d.toNat⟩]
  | .vmovSplat d _ _ _ => [⟨.v, d.toNat⟩]
  | .vmovHS d _ _ => [⟨.h, d.toNat⟩]
  | .vmovSH d _ _ => [⟨.s, d.toNat⟩]
  | .vmovPS d _ _ => [⟨.p, d.toNat⟩]
  | .vmovSP d _ _ => [⟨.s, d.toNat⟩]
  | .vmovIdx d _ _ => [⟨.v, d.toNat⟩]
  | .vcvt d _ _ _ _ _ _ => [⟨.v, d.toNat⟩]
  | .vqdb d _ _ _ _ => [⟨.v, d.toNat⟩]
  | .vcomp d _ _ _ => [⟨.v, d.toNat⟩]
  | .vexpd d _ _ _ => [⟨.v, d.toNat⟩]
  | .vperm d _ _ _ _ _ => [⟨.v, d.toNat⟩]
  | .vred d _ _ _ _ => [⟨.s, d.toNat⟩]
  | .vsfu d _ _ _ => [⟨.v, d.toNat⟩]
  | .vext d _ _ _ _ => [⟨.s, d.toNat⟩]
  | .vins d _ _ _ _ => [⟨.v, d.toNat⟩]
  | .vld d _ _ _ => [⟨.v, d.toNat⟩]
  | .vldl d _ _ _ _ => [⟨.v, d.toNat⟩]
  | .pand d _ _ _ _ => [⟨.p, d.toNat⟩]
  | .por d _ _ _ _ => [⟨.p, d.toNat⟩]
  | .pxor d _ _ _ _ => [⟨.p, d.toNat⟩]
  | .pcnt d _ _ => [⟨.s, d.toNat⟩]
  | .ld d _ _ _ _ => [⟨.s, d.toNat⟩]
  | .ldx d _ _ _ _ _ => [⟨.s, d.toNat⟩]
  | .qpop d _ _ => [⟨.s, d.toNat⟩]
  | .qpopT d _ b _ => [⟨.s, d.toNat⟩, ⟨.p, b.toNat⟩]
  | .qwait d _ _ => [⟨.p, d.toNat⟩]
  | .qwaitAll d _ _ => [⟨.p, d.toNat⟩]
  | .cwait d _ _ _ => [⟨.p, d.toNat⟩]
  | .cwaitW d _ _ _ _ => [⟨.p, d.toNat⟩]
  | .ctest d _ _ _ => [⟨.p, d.toNat⟩]
  | .ctestW d _ _ _ => [⟨.s, d.toNat⟩]
  | .ctestRec d _ _ => [⟨.s, d.toNat⟩]
  | .ctestAddr d _ _ => [⟨.s, d.toNat⟩]
  | .peek d _ _ _ => [⟨.p, d.toNat⟩]
  | .nameq d _ _ _ => [⟨.s, d.toNat⟩]
  | .nameqN d _ _ _ => [⟨.s, d.toNat⟩, ⟨.s, d.toNat + 1⟩]
  | .spawn d _ b _ _ => [⟨.s, d.toNat⟩, ⟨.p, b.toNat⟩]
  | .bwait d _ _ => [⟨.p, d.toNat⟩]
  | .btest d _ _ => [⟨.p, d.toNat⟩]
  | .tget d _ _ => [⟨.s, d.toNat⟩]
  | .tgetSlot d _ _ => [⟨.s, d.toNat⟩]
  | .tgetRes d _ _ => [⟨.s, d.toNat⟩]
  | .colw d _ _ => [⟨.s, d.toNat⟩]
  | .colt d _ _ => [⟨.s, d.toNat⟩]
  | .snrd d _ => [⟨.s, d.toNat⟩]
  | .snrdRb d _ => [⟨.s, d.toNat⟩]
  | .nop | .eret | .tokenRegenerate | .moduleReset | .startTimeout => []
  | .br _ _ _ | .brp _ _ _ | .brv _ _ _ | .kwr _ _ _ | .mwr _ _ _ | .vjfill _ _ _ | .bset _ _ _ | .migrate _ _ _
  | .tadd _ _ _ | .tarm _ _ _ | .tset _ _ _ | .queueAccessPerform _ _ _ | .pageWalk _ _ _ | .copyRunPerform _ _ _
  | .planeTransfer _ _ _ | .lanternArrive _ _ _ | .chunkWriteout _ _ _ | .loadImage _ _ _ | .launch _ _ _
  | .partitionMerge _ _ _ | .partitionSplit _ _ _ | .rootovrWrite _ _ _ | .grantWrite _ _ _ => []
  | .jmp _ | .exit _ | .exposedResultLand _ | .stalledBundleIssue _ | .impreciseFault _ | .xOpAccept _
  | .vectorJobStart _ | .vectorJobComplete _ | .mldbLoadStart _ | .planeLoaded _ | .matrixJobStart _
  | .matrixJobComplete _ | .governorWindow _ | .launchStartTick _ | .taskStart _ | .preemptStart _
  | .migrationArrive _ | .admitWindowRoll _ | .landingReserve _ | .triggerOpStart _ | .tokenVisit _ | .scrubStep _
  | .faultNotify _ | .ptpMasterLoss _ | .powerMeasure _ | .groveReturn _ | .forcedFlushMove _ | .ctxFlush _
  | .flushComplete _ | .partmapWrite _ | .seamQuiesced _ | .seamQuiesceTimeout _ | .seamOpen _ | .seamClose _
  | .hbmClearComplete _ | .shootdown _ => []
  | .jr _ _ | .ret _ _ | .trap _ _ | .fence _ _ | .barr _ _ | .tdis _ _ | .snap _ _ | .queueRequestSend _ _
  | .scoreboardEntryRelease _ _ | .copyFinish _ _ | .gangWindowExpire _ _ | .gangCompletion _ _
  | .gangArrivalCount _ _ | .taskAging _ _ | .spillComplete _ _ | .restoreComplete _ _ | .exitDrainEnd _ _
  | .recordFree _ _ | .containmentComplete _ _ | .tagLeaseRefill _ _ | .tagLeaseReturn _ _ | .reservedTagGrant _ _
  | .barrierArrival _ _ | .pubAdmit _ _ | .packetForward _ _ | .rootAccept _ _ | .pubRetry _ _ | .subRegister _ _
  | .subWithdraw _ _ | .chunkLand _ _ | .recvDeliver _ _ | .deliveryAckTimeout _ _ | .retentionExpire _ _
  | .versionUnpin _ _ | .nameqQuery _ _ | .commit _ _ | .discard _ _ | .triadVote _ _ | .keepWriteback _ _
  | .writebackComplete _ _ | .rimFetch _ _ | .counterEvent _ _ | .triggerOpComplete _ _ | .collActivate _ _
  | .collSegmentStart _ _ | .collContribution _ _ | .collComplete _ _ | .pageWriteout _ _ | .captureReport _ _
  | .remoteRetransmit _ _ | .remoteRequestExpire _ _ | .dupEntryRetire _ _ | .loadImageFirmware _ _
  | .loadImageSupervisor _ _ | .launchSupervisor _ _ | .migrateCmd _ _ | .snapshot _ _ | .rollback _ _
  | .summary _ _ | .resetContext _ _ | .resetContextClear _ _ | .resetContextFree _ _ | .unknownCommand _ _
  | .rdmaInvalid _ _ | .ptpMessage _ _ | .syncSymbol _ _ | .hotGroveEvent _ _ | .hotGroveClear _ _
  | .groveWithdraw _ _ | .seedWrite _ _ | .sliceSplitWrite _ _ | .seamQuiesce _ _ | .ilvWrite _ _
  | .registerWrite _ _ | .softError _ _ | .readinessLost _ _ | .readinessRegained _ _ | .landingAcknowledgement _ _
  | .sequenceNumberFree _ _ => []
  | .loop _ _ _ _ | .lstr _ _ _ _ | .vst _ _ _ _ | .pub _ _ _ _ | .sub _ _ _ _ | .unsub _ _ _ _ | .recv _ _ _ _
  | .halo _ _ _ _ | .haloR _ _ _ _ | .tinst _ _ _ _ | .tsrc _ _ _ _ | .rdmaWrite _ _ _ _ | .rdmaRead _ _ _ _
  | .bringupReport _ _ _ _ => []
  | .vstl _ _ _ _ _ | .vjcomp _ _ _ _ _ | .vjexpd _ _ _ _ _ | .st _ _ _ _ _ | .amoSeq _ _ _ _ _ | .copy _ _ _ _ _
  | .mjob _ _ _ _ _ | .mgang _ _ _ _ _ | .mgangJoin _ _ _ _ _ | .recva _ _ _ _ _ | .coll _ _ _ _ _ => []
  | .vjadd _ _ _ _ _ _ _ | .vjsub _ _ _ _ _ _ _ | .vjmul _ _ _ _ _ _ _ | .vjfma _ _ _ _ _ _ _ | .vjmin _ _ _ _ _ _ _
  | .vjmax _ _ _ _ _ _ _ | .vjcvt _ _ _ _ _ _ _ | .vjred _ _ _ _ _ _ _ | .vjsfu _ _ _ _ _ _ _ | .vjsel _ _ _ _ _ _ _
  | .qst _ _ _ _ _ _ _ | .amoAdd _ _ _ _ _ _ _ | .amoSwap _ _ _ _ _ _ _ | .amoCas _ _ _ _ _ _ _
  | .amoAnd _ _ _ _ _ _ _ | .amoOr _ _ _ _ _ _ _ | .amoXor _ _ _ _ _ _ _ | .amoMin _ _ _ _ _ _ _
  | .amoMax _ _ _ _ _ _ _ | .amoMinu _ _ _ _ _ _ _ | .amoMaxu _ _ _ _ _ _ _ => []
  | .vjqdb _ _ _ _ _ _ | .vjcmp _ _ _ _ _ _ | .stx _ _ _ _ _ _ | .qld _ _ _ _ _ _ | .mldb _ _ _ _ _ _ => []
  | .remoteRequestArrive _ _ _ _ _ _ _ _ _ => []

/-- The other numbered things an operation names: queues, barriers, counters, trackers, macros and the stride
registers of `lstr`. -/
def Instr.names : Instr → List Reg
  | .lstr d _ _ _ => [⟨.a, d.toNat⟩]
  | .qld d _ _ _ _ _ => [⟨.q, d.toNat⟩]
  | .qst d _ _ _ _ _ _ => [⟨.q, d.toNat⟩]
  | .qpop _ a _ => [⟨.q, a.toNat⟩]
  | .qpopT _ a _ _ => [⟨.q, a.toNat⟩]
  | .qwait _ a _ => [⟨.q, a.toNat⟩]
  | .qwaitAll _ a _ => [⟨.q, a.toNat⟩]
  | .amoAdd d _ _ _ _ _ _ => [⟨.q, d.toNat⟩]
  | .amoSwap d _ _ _ _ _ _ => [⟨.q, d.toNat⟩]
  | .amoCas d _ _ _ _ _ _ => [⟨.q, d.toNat⟩]
  | .amoAnd d _ _ _ _ _ _ => [⟨.q, d.toNat⟩]
  | .amoOr d _ _ _ _ _ _ => [⟨.q, d.toNat⟩]
  | .amoXor d _ _ _ _ _ _ => [⟨.q, d.toNat⟩]
  | .amoMin d _ _ _ _ _ _ => [⟨.q, d.toNat⟩]
  | .amoMax d _ _ _ _ _ _ => [⟨.q, d.toNat⟩]
  | .amoMinu d _ _ _ _ _ _ => [⟨.q, d.toNat⟩]
  | .amoMaxu d _ _ _ _ _ _ => [⟨.q, d.toNat⟩]
  | .amoSeq d _ _ _ _ => [⟨.q, d.toNat⟩]
  | .copy d _ _ _ _ => [⟨.ct, d.toNat⟩]
  | .cwait _ a _ _ => [⟨.ct, a.toNat⟩]
  | .cwaitW _ a _ _ _ => [⟨.ct, a.toNat⟩]
  | .ctest _ a _ _ => [⟨.ct, a.toNat⟩]
  | .ctestW _ a _ _ => [⟨.ct, a.toNat⟩]
  | .ctestRec _ a _ => [⟨.ct, a.toNat⟩]
  | .ctestAddr _ a _ => [⟨.ct, a.toNat⟩]
  | .mldb k _ _ _ _ _ => [⟨.m, k.toNat⟩]
  | .barr a _ => [⟨.b, a.toNat⟩]
  | .bwait _ a _ => [⟨.b, a.toNat⟩]
  | .btest _ a _ => [⟨.b, a.toNat⟩]
  | .bset a _ _ => [⟨.b, a.toNat⟩]
  | .tsrc d _ _ _ => [⟨.g, d.toNat⟩]
  | .tadd d _ _ => [⟨.g, d.toNat⟩]
  | .tget _ a _ => [⟨.g, a.toNat⟩]
  | .tset d _ _ => [⟨.g, d.toNat⟩]
  | .nop | .eret | .tokenRegenerate | .moduleReset | .startTimeout => []
  | .add _ _ _ _ | .isub _ _ _ _ | .and _ _ _ _ | .or _ _ _ _ | .xor _ _ _ _ | .andn _ _ _ _ | .shl _ _ _ _
  | .shr _ _ _ _ | .sar _ _ _ _ | .min _ _ _ _ | .max _ _ _ _ | .minu _ _ _ _ | .maxu _ _ _ _ | .mul _ _ _ _
  | .mulh _ _ _ _ | .mulhu _ _ _ _ | .div _ _ _ _ | .divu _ _ _ _ | .rem _ _ _ _ | .remu _ _ _ _ | .addi _ _ _ _
  | .andi _ _ _ _ | .ori _ _ _ _ | .xori _ _ _ _ | .shli _ _ _ _ | .shri _ _ _ _ | .sari _ _ _ _ | .adda _ _ _ _
  | .loop _ _ _ _ | .ldpw _ _ _ _ | .vmovSplat _ _ _ _ | .vcomp _ _ _ _ | .vexpd _ _ _ _ | .vsfu _ _ _ _
  | .vld _ _ _ _ | .vst _ _ _ _ | .pub _ _ _ _ | .sub _ _ _ _ | .unsub _ _ _ _ | .recv _ _ _ _ | .peek _ _ _ _
  | .halo _ _ _ _ | .haloR _ _ _ _ | .nameq _ _ _ _ | .nameqN _ _ _ _ | .tinst _ _ _ _ | .rdmaWrite _ _ _ _
  | .rdmaRead _ _ _ _ | .bringupReport _ _ _ _ => []
  | .bcntPop _ _ _ | .bcntLz _ _ _ | .bcntTz _ _ _ | .movaAS _ _ _ | .movaSA _ _ _ | .movaAA _ _ _ | .movaSN _ _ _
  | .br _ _ _ | .brp _ _ _ | .brv _ _ _ | .jrLink _ _ _ | .krd _ _ _ | .kwr _ _ _ | .mrd _ _ _ | .mwr _ _ _
  | .vmovV _ _ _ | .vmovHS _ _ _ | .vmovSH _ _ _ | .vmovPS _ _ _ | .vmovSP _ _ _ | .vmovIdx _ _ _ | .pcnt _ _ _
  | .vjfill _ _ _ | .migrate _ _ _ | .tarm _ _ _ | .tgetSlot _ _ _ | .tgetRes _ _ _ | .colw _ _ _ | .colt _ _ _
  | .queueAccessPerform _ _ _ | .pageWalk _ _ _ | .copyRunPerform _ _ _ | .planeTransfer _ _ _
  | .lanternArrive _ _ _ | .chunkWriteout _ _ _ | .loadImage _ _ _ | .launch _ _ _ | .partitionMerge _ _ _
  | .partitionSplit _ _ _ | .rootovrWrite _ _ _ | .grantWrite _ _ _ => []
  | .li _ _ | .lsh _ _ | .jr _ _ | .call _ _ | .ret _ _ | .trap _ _ | .fence _ _ | .tdis _ _ | .snap _ _ | .snrd _ _
  | .snrdRb _ _ | .queueRequestSend _ _ | .scoreboardEntryRelease _ _ | .copyFinish _ _ | .gangWindowExpire _ _
  | .gangCompletion _ _ | .gangArrivalCount _ _ | .taskAging _ _ | .spillComplete _ _ | .restoreComplete _ _
  | .exitDrainEnd _ _ | .recordFree _ _ | .containmentComplete _ _ | .tagLeaseRefill _ _ | .tagLeaseReturn _ _
  | .reservedTagGrant _ _ | .barrierArrival _ _ | .pubAdmit _ _ | .packetForward _ _ | .rootAccept _ _
  | .pubRetry _ _ | .subRegister _ _ | .subWithdraw _ _ | .chunkLand _ _ | .recvDeliver _ _
  | .deliveryAckTimeout _ _ | .retentionExpire _ _ | .versionUnpin _ _ | .nameqQuery _ _ | .commit _ _
  | .discard _ _ | .triadVote _ _ | .keepWriteback _ _ | .writebackComplete _ _ | .rimFetch _ _ | .counterEvent _ _
  | .triggerOpComplete _ _ | .collActivate _ _ | .collSegmentStart _ _ | .collContribution _ _ | .collComplete _ _
  | .pageWriteout _ _ | .captureReport _ _ | .remoteRetransmit _ _ | .remoteRequestExpire _ _ | .dupEntryRetire _ _
  | .loadImageFirmware _ _ | .loadImageSupervisor _ _ | .launchSupervisor _ _ | .migrateCmd _ _ | .snapshot _ _
  | .rollback _ _ | .summary _ _ | .resetContext _ _ | .resetContextClear _ _ | .resetContextFree _ _
  | .unknownCommand _ _ | .rdmaInvalid _ _ | .ptpMessage _ _ | .syncSymbol _ _ | .hotGroveEvent _ _
  | .hotGroveClear _ _ | .groveWithdraw _ _ | .seedWrite _ _ | .sliceSplitWrite _ _ | .seamQuiesce _ _
  | .ilvWrite _ _ | .registerWrite _ _ | .softError _ _ | .readinessLost _ _ | .readinessRegained _ _
  | .landingAcknowledgement _ _ | .sequenceNumberFree _ _ => []
  | .cmp _ _ _ _ _ | .cmpp _ _ _ _ _ | .sel _ _ _ _ _ | .vabs _ _ _ _ _ | .vneg _ _ _ _ _ | .vand _ _ _ _ _
  | .vor _ _ _ _ _ | .vxor _ _ _ _ _ | .vqdb _ _ _ _ _ | .vred _ _ _ _ _ | .vext _ _ _ _ _ | .vins _ _ _ _ _
  | .vldl _ _ _ _ _ | .vstl _ _ _ _ _ | .pand _ _ _ _ _ | .por _ _ _ _ _ | .pxor _ _ _ _ _ | .vjcomp _ _ _ _ _
  | .vjexpd _ _ _ _ _ | .ld _ _ _ _ _ | .st _ _ _ _ _ | .mjob _ _ _ _ _ | .mgang _ _ _ _ _ | .mgangJoin _ _ _ _ _
  | .recva _ _ _ _ _ | .spawn _ _ _ _ _ | .coll _ _ _ _ _ => []
  | .jmp _ | .exit _ | .exposedResultLand _ | .stalledBundleIssue _ | .impreciseFault _ | .xOpAccept _
  | .vectorJobStart _ | .vectorJobComplete _ | .mldbLoadStart _ | .planeLoaded _ | .matrixJobStart _
  | .matrixJobComplete _ | .governorWindow _ | .launchStartTick _ | .taskStart _ | .preemptStart _
  | .migrationArrive _ | .admitWindowRoll _ | .landingReserve _ | .triggerOpStart _ | .tokenVisit _ | .scrubStep _
  | .faultNotify _ | .ptpMasterLoss _ | .powerMeasure _ | .groveReturn _ | .forcedFlushMove _ | .ctxFlush _
  | .flushComplete _ | .partmapWrite _ | .seamQuiesced _ | .seamQuiesceTimeout _ | .seamOpen _ | .seamClose _
  | .hbmClearComplete _ | .shootdown _ => []
  | .vadd _ _ _ _ _ _ _ | .vsub _ _ _ _ _ _ _ | .vmul _ _ _ _ _ _ _ | .vmin _ _ _ _ _ _ _ | .vmax _ _ _ _ _ _ _
  | .vcvt _ _ _ _ _ _ _ | .vjadd _ _ _ _ _ _ _ | .vjsub _ _ _ _ _ _ _ | .vjmul _ _ _ _ _ _ _ | .vjfma _ _ _ _ _ _ _
  | .vjmin _ _ _ _ _ _ _ | .vjmax _ _ _ _ _ _ _ | .vjcvt _ _ _ _ _ _ _ | .vjred _ _ _ _ _ _ _ | .vjsfu _ _ _ _ _ _ _
  | .vjsel _ _ _ _ _ _ _ => []
  | .vfma _ _ _ _ _ _ _ _ => []
  | .vshl _ _ _ _ _ _ | .vshr _ _ _ _ _ _ | .vcmp _ _ _ _ _ _ | .vsel _ _ _ _ _ _ | .vperm _ _ _ _ _ _
  | .vjqdb _ _ _ _ _ _ | .vjcmp _ _ _ _ _ _ | .ldx _ _ _ _ _ _ | .stx _ _ _ _ _ _ => []
  | .remoteRequestArrive _ _ _ _ _ _ _ _ _ => []

/-- The static conditions of an operation's entry, each with the ILLEGAL cause it raises when it is broken. -/
def Instr.entryChecks : Instr → List (Ilc × Bool)
  | .shli _ _ _ imm => [(.fn, decide (imm ≥ 64))]
  | .shri _ _ _ imm => [(.fn, decide (imm ≥ 64))]
  | .sari _ _ _ imm => [(.fn, decide (imm ≥ 64))]
  | .cmp _ _ _ _ cc => [(.fn, decide (cc ≥ 6))]
  | .cmpp _ _ _ _ cc => [(.fn, decide (cc ≥ 6))]
  | .br _ c _ => [(.fn, decide (c ≥ 6))]
  | .brp _ c _ => [(.fn, decide (c ≥ 6))]
  | .loop d _ _ imm => [(.seq, decide (d ≥ 6) || decide (imm = 0))]
  | .lstr _ _ _ l => [(.fn, decide (l ≥ 6))]
  | .krd _ _ k => [(.kreg, decide (k > 0x10))]
  | .kwr _ _ k => [(.kreg, decide (k > 0x10))]
  | .vadd _ _ _ _ _ _ t => [(.fn, !regType t)]
  | .vsub _ _ _ _ _ _ t => [(.fn, !regType t)]
  | .vmul _ _ _ _ _ _ t => [(.fn, !regType t)]
  | .vfma _ _ _ _ _ _ _ t => [(.fn, !regType t)]
  | .vmin _ _ _ _ _ _ t => [(.fn, !regType t)]
  | .vmax _ _ _ _ _ _ t => [(.fn, !regType t)]
  | .vabs _ _ _ _ t => [(.fn, !regType t)]
  | .vneg _ _ _ _ t => [(.fn, !regType t)]
  | .vshl _ _ _ _ _ t => [(.fn, !intType t)]
  | .vshr _ _ _ _ _ t => [(.fn, !intType t)]
  | .vcmp _ _ _ _ cc t => [(.fn, !cmpType t || decide (cc = 7) || (!floatType t && decide (cc = 6)))]
  | .vsel _ _ _ _ t _ => [(.fn, !cmpType t)]
  | .vmovSplat _ _ _ t => [(.fn, !regType t)]
  | .vmovIdx _ _ t => [(.fn, !regType t)]
  | .vcvt _ _ _ _ ts part td => [(.fn, !regType ts || !regType td || !cvtShape ts td part)]
  | .vperm _ _ _ _ w64 byte => [(.fn, w64 && byte)]
  | .vred _ _ _ op t => [(.fn, !regType t), (.fn, decide (op = 7) || (floatType t && decide (op ≥ 3 ∧ op ≤ 5)))]
  | .vext _ _ _ _ t => [(.fn, !regType t)]
  | .vins _ _ _ _ t => [(.fn, !regType t)]
  | .vldl _ _ _ _ sz => [(.fn, decide (sz ≥ 6))]
  | .vstl _ _ _ _ sz => [(.fn, decide (sz ≥ 6))]
  | .vjqdb _ _ _ _ _ td => [(.fn, !(decide (td = 0) || decide (td = 7) || decide (td = 8)))]
  | .vjred _ _ _ _ _ op _ => [(.fn, decide (op = 7))]
  | .vjcmp _ _ _ _ cc _ => [(.fn, decide (cc = 7))]
  | .ld _ _ sz _ _ => [(.fn, decide (sz = 7))]
  | .st _ _ sz _ _ => [(.fn, decide (sz = 7))]
  | .ldx _ _ _ _ _ sz => [(.fn, decide (sz = 7))]
  | .stx _ _ _ _ _ sz => [(.fn, decide (sz = 7))]
  | .qld _ _ _ ord scope sz => [(.fn, decide (sz = 7) || decide (ord ≥ 2) || !scopeOk ord scope)]
  | .qst _ _ _ _ ord scope sz => [(.fn, decide (sz = 7) || decide (ord = 1) || decide (ord = 3) || !scopeOk ord scope)]
  | .fence _ scope => [(.fn, decide (scope = 3))]
  | .amoAdd _ _ _ _ ord scope sz => [(.fn, decide (sz < 4) || decide (sz = 7) || !scopeOk ord scope)]
  | .amoSwap _ _ _ _ ord scope sz => [(.fn, decide (sz < 4) || decide (sz = 7) || !scopeOk ord scope)]
  | .amoCas _ _ _ _ ord scope sz => [(.fn, decide (sz < 4) || decide (sz = 7) || !scopeOk ord scope)]
  | .amoAnd _ _ _ _ ord scope sz => [(.fn, decide (sz < 4) || decide (sz = 7) || !scopeOk ord scope)]
  | .amoOr _ _ _ _ ord scope sz => [(.fn, decide (sz < 4) || decide (sz = 7) || !scopeOk ord scope)]
  | .amoXor _ _ _ _ ord scope sz => [(.fn, decide (sz < 4) || decide (sz = 7) || !scopeOk ord scope)]
  | .amoMin _ _ _ _ ord scope sz => [(.fn, decide (sz < 4) || decide (sz = 7) || !scopeOk ord scope)]
  | .amoMax _ _ _ _ ord scope sz => [(.fn, decide (sz < 4) || decide (sz = 7) || !scopeOk ord scope)]
  | .amoMinu _ _ _ _ ord scope sz => [(.fn, decide (sz < 4) || decide (sz = 7) || !scopeOk ord scope)]
  | .amoMaxu _ _ _ _ ord scope sz => [(.fn, decide (sz < 4) || decide (sz = 7) || !scopeOk ord scope)]
  | .amoSeq _ _ _ _ op => [(.fn, decide (op ≥ 10))]
  | .spawn _ _ _ _ l => [(.fn, decide (l ≥ 5))]
  | .tinst _ _ _ l => [(.fn, decide (l ≥ 6))]
  | .nop | .eret | .tokenRegenerate | .moduleReset | .startTimeout => []
  | .add _ _ _ _ | .isub _ _ _ _ | .and _ _ _ _ | .or _ _ _ _ | .xor _ _ _ _ | .andn _ _ _ _ | .shl _ _ _ _
  | .shr _ _ _ _ | .sar _ _ _ _ | .min _ _ _ _ | .max _ _ _ _ | .minu _ _ _ _ | .maxu _ _ _ _ | .mul _ _ _ _
  | .mulh _ _ _ _ | .mulhu _ _ _ _ | .div _ _ _ _ | .divu _ _ _ _ | .rem _ _ _ _ | .remu _ _ _ _ | .addi _ _ _ _
  | .andi _ _ _ _ | .ori _ _ _ _ | .xori _ _ _ _ | .adda _ _ _ _ | .ldpw _ _ _ _ | .vcomp _ _ _ _ | .vexpd _ _ _ _
  | .vsfu _ _ _ _ | .vld _ _ _ _ | .vst _ _ _ _ | .qpopT _ _ _ _ | .cwait _ _ _ _ | .ctest _ _ _ _ | .ctestW _ _ _ _
  | .pub _ _ _ _ | .sub _ _ _ _ | .unsub _ _ _ _ | .recv _ _ _ _ | .peek _ _ _ _ | .halo _ _ _ _ | .haloR _ _ _ _
  | .nameq _ _ _ _ | .nameqN _ _ _ _ | .tsrc _ _ _ _ | .rdmaWrite _ _ _ _ | .rdmaRead _ _ _ _
  | .bringupReport _ _ _ _ => []
  | .bcntPop _ _ _ | .bcntLz _ _ _ | .bcntTz _ _ _ | .movaAS _ _ _ | .movaSA _ _ _ | .movaAA _ _ _ | .movaSN _ _ _
  | .brv _ _ _ | .jrLink _ _ _ | .mrd _ _ _ | .mwr _ _ _ | .vmovV _ _ _ | .vmovHS _ _ _ | .vmovSH _ _ _
  | .vmovPS _ _ _ | .vmovSP _ _ _ | .pcnt _ _ _ | .vjfill _ _ _ | .qpop _ _ _ | .qwait _ _ _ | .qwaitAll _ _ _
  | .ctestRec _ _ _ | .ctestAddr _ _ _ | .bwait _ _ _ | .btest _ _ _ | .bset _ _ _ | .migrate _ _ _ | .tadd _ _ _
  | .tarm _ _ _ | .tget _ _ _ | .tgetSlot _ _ _ | .tgetRes _ _ _ | .tset _ _ _ | .colw _ _ _ | .colt _ _ _
  | .queueAccessPerform _ _ _ | .pageWalk _ _ _ | .copyRunPerform _ _ _ | .planeTransfer _ _ _
  | .lanternArrive _ _ _ | .chunkWriteout _ _ _ | .loadImage _ _ _ | .launch _ _ _ | .partitionMerge _ _ _
  | .partitionSplit _ _ _ | .rootovrWrite _ _ _ | .grantWrite _ _ _ => []
  | .li _ _ | .lsh _ _ | .jr _ _ | .call _ _ | .ret _ _ | .trap _ _ | .barr _ _ | .tdis _ _ | .snap _ _ | .snrd _ _
  | .snrdRb _ _ | .queueRequestSend _ _ | .scoreboardEntryRelease _ _ | .copyFinish _ _ | .gangWindowExpire _ _
  | .gangCompletion _ _ | .gangArrivalCount _ _ | .taskAging _ _ | .spillComplete _ _ | .restoreComplete _ _
  | .exitDrainEnd _ _ | .recordFree _ _ | .containmentComplete _ _ | .tagLeaseRefill _ _ | .tagLeaseReturn _ _
  | .reservedTagGrant _ _ | .barrierArrival _ _ | .pubAdmit _ _ | .packetForward _ _ | .rootAccept _ _
  | .pubRetry _ _ | .subRegister _ _ | .subWithdraw _ _ | .chunkLand _ _ | .recvDeliver _ _
  | .deliveryAckTimeout _ _ | .retentionExpire _ _ | .versionUnpin _ _ | .nameqQuery _ _ | .commit _ _
  | .discard _ _ | .triadVote _ _ | .keepWriteback _ _ | .writebackComplete _ _ | .rimFetch _ _ | .counterEvent _ _
  | .triggerOpComplete _ _ | .collActivate _ _ | .collSegmentStart _ _ | .collContribution _ _ | .collComplete _ _
  | .pageWriteout _ _ | .captureReport _ _ | .remoteRetransmit _ _ | .remoteRequestExpire _ _ | .dupEntryRetire _ _
  | .loadImageFirmware _ _ | .loadImageSupervisor _ _ | .launchSupervisor _ _ | .migrateCmd _ _ | .snapshot _ _
  | .rollback _ _ | .summary _ _ | .resetContext _ _ | .resetContextClear _ _ | .resetContextFree _ _
  | .unknownCommand _ _ | .rdmaInvalid _ _ | .ptpMessage _ _ | .syncSymbol _ _ | .hotGroveEvent _ _
  | .hotGroveClear _ _ | .groveWithdraw _ _ | .seedWrite _ _ | .sliceSplitWrite _ _ | .seamQuiesce _ _
  | .ilvWrite _ _ | .registerWrite _ _ | .softError _ _ | .readinessLost _ _ | .readinessRegained _ _
  | .landingAcknowledgement _ _ | .sequenceNumberFree _ _ => []
  | .sel _ _ _ _ _ | .vand _ _ _ _ _ | .vor _ _ _ _ _ | .vxor _ _ _ _ _ | .vqdb _ _ _ _ _ | .pand _ _ _ _ _
  | .por _ _ _ _ _ | .pxor _ _ _ _ _ | .vjcomp _ _ _ _ _ | .vjexpd _ _ _ _ _ | .copy _ _ _ _ _ | .cwaitW _ _ _ _ _
  | .mjob _ _ _ _ _ | .mgang _ _ _ _ _ | .mgangJoin _ _ _ _ _ | .recva _ _ _ _ _ | .coll _ _ _ _ _ => []
  | .jmp _ | .exit _ | .exposedResultLand _ | .stalledBundleIssue _ | .impreciseFault _ | .xOpAccept _
  | .vectorJobStart _ | .vectorJobComplete _ | .mldbLoadStart _ | .planeLoaded _ | .matrixJobStart _
  | .matrixJobComplete _ | .governorWindow _ | .launchStartTick _ | .taskStart _ | .preemptStart _
  | .migrationArrive _ | .admitWindowRoll _ | .landingReserve _ | .triggerOpStart _ | .tokenVisit _ | .scrubStep _
  | .faultNotify _ | .ptpMasterLoss _ | .powerMeasure _ | .groveReturn _ | .forcedFlushMove _ | .ctxFlush _
  | .flushComplete _ | .partmapWrite _ | .seamQuiesced _ | .seamQuiesceTimeout _ | .seamOpen _ | .seamClose _
  | .hbmClearComplete _ | .shootdown _ => []
  | .vjadd _ _ _ _ _ _ _ | .vjsub _ _ _ _ _ _ _ | .vjmul _ _ _ _ _ _ _ | .vjfma _ _ _ _ _ _ _ | .vjmin _ _ _ _ _ _ _
  | .vjmax _ _ _ _ _ _ _ | .vjcvt _ _ _ _ _ _ _ | .vjsfu _ _ _ _ _ _ _ | .vjsel _ _ _ _ _ _ _ => []
  | .mldb _ _ _ _ _ _ => []
  | .remoteRequestArrive _ _ _ _ _ _ _ _ _ => []

/-- The first ILLEGAL cause of an operation taken by itself, with the register concerned where a number lies outside its
file; none when the operation is well formed. -/
def Instr.illegal? (i : Instr) : Option (Ilc × Option Reg) :=
  match i.entryChecks.find? (·.2) with
  | some c => some (c.1, none)
  | none =>
    match (i.reads ++ i.writes ++ i.names).find? (fun r => !r.inFile) with
    | some r => some (.file, some r)
    | none => none

/-- A well-formed operation raises no ILLEGAL by itself. Events and host commands are always well formed. -/
def Instr.wf (i : Instr) : Bool := i.illegal?.isNone

end Sys2Proof
end

