-- ==== Sys2Proof/Machine/Flags.lean ====
section
/-!
DEFINITION. The exception flags of KFPX (R111), the rounding modes (R109), exact values, and the one rounding step
that every float result of the machine takes: round the exact value once, detect underflow after rounding and overflow
under R110.
-/

namespace Sys2Proof.Machine

/-- Sticky exception flags, as KFPX bits [4:0] lay them out (R111): NV 0, OF 1, UF 2, NX 3, SX 4. -/
abbrev Flags := BitVec 5

/-- Invalid (R111). -/
def flagNV : Flags := 1
/-- Overflow (R110). -/
def flagOF : Flags := 2
/-- Underflow: tiny after rounding and inexact, or flushed (R102, R111). -/
def flagUF : Flags := 4
/-- Inexact (R111). -/
def flagNX : Flags := 8
/-- Saturated: a result was clamped to a format or range limit (R111). -/
def flagSX : Flags := 16

/-- The flag when the condition holds. -/
def flagIf (c : Bool) (f : Flags) : Flags := if c then f else 0

/-- All flags raised by a list of results. -/
def flagsOr (l : List Flags) : Flags := l.foldl (· ||| ·) 0

/-- The four rounding modes with their two-bit codes (R109). -/
inductive Rm where
  | rne | rtz | rdn | rup
deriving DecidableEq, Repr

/-- Reads a rounding field (R109). -/
def Rm.ofBits (b : BitVec 2) : Rm :=
  match b.toNat with
  | 0 => .rne | 1 => .rtz | 2 => .rdn | _ => .rup

/-- An element's exact value (R6): a NaN, a signed infinity, or `(-1)^neg * m * 2^e`. A zero keeps its sign. -/
inductive Num where
  | nan (signalling : Bool)
  | inf (neg : Bool)
  | fin (neg : Bool) (m : Nat) (e : Int)
deriving DecidableEq, Repr

/-- A signed zero. -/
def Num.zero (neg : Bool) : Num := .fin neg 0 0

/-- An integer as an exact value; zero is +0. -/
def Num.ofInt (x : Int) : Num := .fin (decide (x < 0)) x.natAbs 0

/-- Is the value a NaN? -/
def Num.isNan : Num → Bool
  | .nan _ => true
  | _ => false

/-- Is the value a signalling NaN? -/
def Num.isSig : Num → Bool
  | .nan s => s
  | _ => false

/-- Is the value a zero of either sign? -/
def Num.isZero : Num → Bool
  | .fin _ m _ => decide (m = 0)
  | _ => false

/-- Is the value an infinity? -/
def Num.isInf : Num → Bool
  | .inf _ => true
  | _ => false

/-- The value's sign; a NaN counts as positive. -/
def Num.sign : Num → Bool
  | .nan _ => false
  | .inf s => s
  | .fin s _ _ => s

/-- The value with its sign inverted. -/
def Num.neg : Num → Num
  | .nan s => .nan s
  | .inf s => .inf (!s)
  | .fin s m e => .fin (!s) m e

/-- The value with its sign cleared. -/
def Num.abs : Num → Num
  | .nan s => .nan s
  | .inf _ => .inf false
  | .fin _ m e => .fin false m e

/-- The signed integer `±m * 2^(e - z)` for `z ≤ e`: a finite value counted in units of `2^z`. -/
def scaled (neg : Bool) (m : Nat) (e z : Int) : Int :=
  let a : Int := (m <<< (e - z).toNat : Nat)
  if neg then -a else a

/-- The exact value of `x * 2^z`, with the sign `zneg` when it is zero. -/
def Num.ofScaled (x z : Int) (zneg : Bool) : Num :=
  if x = 0 then .zero zneg else .fin (decide (x < 0)) x.natAbs z

/-- Compares two magnitudes `m1 * 2^e1` and `m2 * 2^e2`. -/
def cmpMag (m1 : Nat) (e1 : Int) (m2 : Nat) (e2 : Int) : Ordering :=
  let z := min e1 e2
  compare (scaled false m1 e1 z) (scaled false m2 e2 z)

/-- Compares two values; none when either is a NaN. -0 equals +0 (R203). -/
def Num.cmp : Num → Num → Option Ordering
  | .nan _, _ => none
  | _, .nan _ => none
  | .inf s, .inf t => some (if s = t then .eq else if s then .lt else .gt)
  | .inf s, .fin _ _ _ => some (if s then .lt else .gt)
  | .fin _ _ _, .inf t => some (if t then .gt else .lt)
  | .fin s m e, .fin t k f =>
    let z := min e f
    some (compare (scaled s m e z) (scaled t k f z))

/-- A result with the flags it raised. -/
abbrev Res (α : Type) := α × Flags

/-- NV when one of the operands is a signalling NaN (R101). -/
def sigFlags (l : List Num) : Flags := flagIf (l.any Num.isSig) flagNV

/-- Exact addition (R6, R201). ∞ − ∞ is a NaN with NV. An exact zero sum is +0, and −0 only when both operands are −0
(R118's IEEE rules; log entry 30). -/
def Num.add (x y : Num) : Res Num :=
  if x.isNan || y.isNan then (.nan false, sigFlags [x, y])
  else match x, y with
    | .inf s, .inf t => if s = t then (.inf s, 0) else (.nan false, flagNV)
    | .inf s, _ => (.inf s, 0)
    | _, .inf t => (.inf t, 0)
    | .fin s m e, .fin t k f =>
      let z := min e f
      (.ofScaled (scaled s m e z + scaled t k f z) z (s && t && decide (m = 0) && decide (k = 0)), 0)
    | _, _ => (.nan false, 0)

/-- Exact multiplication (R6, R201): 0 × ∞ is a NaN with NV. -/
def Num.mul (x y : Num) : Res Num :=
  if x.isNan || y.isNan then (.nan false, sigFlags [x, y])
  else if (x.isInf && y.isZero) || (x.isZero && y.isInf) then (.nan false, flagNV)
  else match x, y with
    | .fin s m e, .fin t k f => (if m * k = 0 then .zero (s != t) else .fin (s != t) (m * k) (e + f), 0)
    | _, _ => (.inf (x.sign != y.sign), 0)

/-- Exact multiply-add `d + a * b`, or `d - a * b` with `ng` (R201, R223); any NaN operand gives a NaN, and 0 × ∞ sets
NV beside a NaN `d` too. -/
def Num.fma (ng : Bool) (d a b : Num) : Res Num :=
  let p := a.mul b
  let r := d.add (if ng then p.1.neg else p.1)
  (r.1, p.2 ||| r.2)

/-- Which of two values is the smaller, −0 counting as smaller than +0 (R201). -/
def Num.before (x y : Num) : Bool :=
  match x.cmp y with
  | some .lt => true
  | some .eq => x.sign && !y.sign
  | _ => false

/-- Smaller of two values; a NaN operand gives a NaN (R201). -/
def Num.min (x y : Num) : Res Num :=
  if x.isNan || y.isNan then (.nan false, sigFlags [x, y])
  else (if y.before x then y else x, 0)

/-- Larger of two values; a NaN operand gives a NaN (R201). -/
def Num.max (x y : Num) : Res Num :=
  if x.isNan || y.isNan then (.nan false, sigFlags [x, y])
  else (if x.before y then y else x, 0)

/-- The exact sum of a list of values, independent of their order (R210): −0 only when every element is −0 and there is
one; NaN elements give a NaN; opposite infinities give a NaN with NV, beside a NaN too. -/
def Num.sum (l : List Num) : Res Num :=
  let bad := l.any (· == .inf false) && l.any (· == .inf true)
  if l.any Num.isNan || bad then (.nan false, sigFlags l ||| flagIf bad flagNV)
  else if l.any (· == .inf false) then (.inf false, 0)
  else if l.any (· == .inf true) then (.inf true, 0)
  else
    let z : Int := l.foldl (fun acc x => match x with | .fin _ m e => if m = 0 then acc else Min.min acc e | _ => acc) 0
    let t : Int := l.foldl (fun acc x => match x with
      | .fin s m e => if m = 0 then acc else acc + scaled s m e z | _ => acc) 0
    (.ofScaled t z (!l.isEmpty && l.all (·.sign)), 0)

/-- Rounds the magnitude `(m + θ) * 2^e`, `0 ≤ θ < 1` and `θ ≠ 0` exactly when `sticky`, to an integer count of units
`2^q`, and says whether the result is inexact (R109). -/
def roundAt (rm : Rm) (neg : Bool) (m : Nat) (sticky : Bool) (e q : Int) : Nat × Bool :=
  if q ≤ e then (m <<< (e - q).toNat, sticky)
  else
    let n := (q - e).toNat
    let k := m >>> n
    let r := m - (k <<< n)
    let half : Nat := 1 <<< (n - 1)
    let inexact := sticky || decide (r ≠ 0)
    let up := match rm with
      | .rne => decide (half < r) || (decide (r = half) && (sticky || decide (k % 2 = 1)))
      | .rtz => false
      | .rdn => neg && inexact
      | .rup => !neg && inexact
    (if up then k + 1 else k, inexact)

/-- How a float format ends its range: infinities and NaNs (IEEE and E5M2), a NaN only (E4M3), or neither (R100 to
R104). -/
inductive Specials where
  | ieee | e4m3 | none
deriving DecidableEq, Repr

/-- A float format: exponent and fraction widths, bias, and the kind of its specials (R100, R103, R104). -/
structure FloatFmt where
  ebits : Nat
  mbits : Nat
  bias  : Nat
  spec  : Specials
deriving DecidableEq, Repr

/-- The unit of the smallest subnormal, as a power of two. -/
def FloatFmt.emin (f : FloatFmt) : Int := 1 - f.bias - f.mbits

/-- The largest finite magnitude as significand and exponent (R100, R103, R104). -/
def FloatFmt.largest (f : FloatFmt) : Nat × Int :=
  match f.spec with
  | .ieee => (2 ^ (f.mbits + 1) - 1, 2 ^ f.ebits - 2 - f.bias - f.mbits)
  | .e4m3 => (2 ^ (f.mbits + 1) - 2, 2 ^ f.ebits - 1 - f.bias - f.mbits)
  | .none => (2 ^ (f.mbits + 1) - 1, 2 ^ f.ebits - 1 - f.bias - f.mbits)

/-- The outcome of an overflow (R110): the result, and whether it is a clamp. Without SAT the IEEE formats and E5M2 follow
the rounding mode, E4M3 gives a NaN of the result's sign and the interchange formats always clamp. -/
inductive Overflow where
  | inf | largest | clamp | nan
deriving DecidableEq, Repr

/-- The column of R110 that applies to an overflowing result. -/
def overflowOf (sp : Specials) (sat : Bool) (rm : Rm) (neg : Bool) : Overflow :=
  match sp with
  | .none => .clamp
  | .e4m3 => if sat then .clamp else .nan
  | .ieee =>
    if sat then .clamp
    else match rm with
      | .rne => .inf
      | .rtz => .largest
      | .rdn => if neg then .inf else .largest
      | .rup => if neg then .largest else .inf

/-- The bits of a sign above a magnitude field of a format. -/
def FloatFmt.signed (f : FloatFmt) (neg : Bool) (mag : Nat) : Nat :=
  mag + (if neg then 2 ^ (f.ebits + f.mbits) else 0)

/-- Encodes the magnitude `r * 2^q` that lies in the format, `q` being its unit. -/
def FloatFmt.pack (f : FloatFmt) (r : Nat) (q : Int) : Nat :=
  if r < 2 ^ f.mbits then r
  else if r < 2 ^ (f.mbits + 1) then (((q - f.emin).toNat + 1) <<< f.mbits) + (r - 2 ^ f.mbits)
  else (((q - f.emin).toNat + 2) <<< f.mbits) + (r / 2 - 2 ^ f.mbits)

/-- The bits of the largest finite magnitude. -/
def FloatFmt.largestBits (f : FloatFmt) : Nat :=
  match f.spec with
  | .ieee => (2 ^ f.ebits - 1) * 2 ^ f.mbits - 1
  | .e4m3 => 2 ^ (f.ebits + f.mbits) - 2
  | .none => 2 ^ (f.ebits + f.mbits) - 1

/-- The bits of a positive infinity, where the format has one. -/
def FloatFmt.infBits (f : FloatFmt) : Nat := (2 ^ f.ebits - 1) * 2 ^ f.mbits

/-- The bits of the default NaN (R101, R103); +0 where the format has no NaN (R113). -/
def FloatFmt.nanBits (f : FloatFmt) : Nat :=
  match f.spec with
  | .ieee => f.infBits + 2 ^ (f.mbits - 1)
  | .e4m3 => 2 ^ (f.ebits + f.mbits) - 1
  | .none => 0

/-- Rounds a finite nonzero magnitude `(m + θ) * 2^e` once into a format (R109 to R111): the bits and the flags. -/
def FloatFmt.round (f : FloatFmt) (rm : Rm) (sat neg : Bool) (m : Nat) (sticky : Bool) (e : Int) : Res Nat :=
  let top : Int := Nat.log2 m + e
  let qn : Int := top - f.mbits
  let q := max qn f.emin
  let (r, inexact) := roundAt rm neg m sticky e q
  let nx := flagIf inexact flagNX
  let (lm, le) := f.largest
  if cmpMag r q lm le = .gt then
    match overflowOf f.spec sat rm neg with
    | .inf => (f.signed neg f.infBits, flagOF ||| flagNX)
    | .largest => (f.signed neg f.largestBits, flagOF ||| flagNX)
    | .clamp => (f.signed neg f.largestBits, flagOF ||| flagNX ||| flagSX)
    | .nan => (f.signed neg f.nanBits, flagOF ||| flagNX)
  else
    let (r2, _) := roundAt rm neg m sticky e qn
    let tiny := cmpMag r2 qn 1 (1 - f.bias) = .lt
    (f.signed neg (f.pack r q), nx ||| flagIf (inexact && tiny) flagUF)

/-- Converts an exact value into a float format (R113, R110): the bits and the flags. -/
def FloatFmt.encode (f : FloatFmt) (rm : Rm) (sat : Bool) (x : Num) : Res Nat :=
  match x with
  | .nan s => (f.nanBits, match f.spec with | .none => flagNV | _ => flagIf s flagNV)
  | .inf s =>
    match f.spec with
    | .none => (f.signed s f.largestBits, flagSX)
    | .e4m3 => if sat then (f.signed s f.largestBits, flagSX) else (f.signed s f.nanBits, flagOF)
    | .ieee => if sat then (f.signed s f.largestBits, flagSX) else (f.signed s f.infBits, 0)
  | .fin s m e => if m = 0 then (f.signed s 0, 0) else f.round rm sat s m false e

/-- The exact value of a bit pattern of a float format (R100, R103, R104). -/
def FloatFmt.decode (f : FloatFmt) (bits : Nat) : Num :=
  let neg := bits.testBit (f.ebits + f.mbits)
  let e := (bits >>> f.mbits) % 2 ^ f.ebits
  let m := bits % 2 ^ f.mbits
  let value : Num := if e = 0 then .fin neg m f.emin else .fin neg (2 ^ f.mbits + m) (e - 1 + f.emin)
  match f.spec with
  | .none => value
  | .e4m3 => if e = 2 ^ f.ebits - 1 ∧ m = 2 ^ f.mbits - 1 then .nan false else value
  | .ieee =>
    if e = 2 ^ f.ebits - 1 then (if m = 0 then .inf neg else .nan (!(m.testBit (f.mbits - 1)))) else value

/-- Is the bit pattern a nonzero subnormal of the format (R102)? -/
def FloatFmt.isSubnormal (f : FloatFmt) (bits : Nat) : Bool :=
  decide ((bits >>> f.mbits) % 2 ^ f.ebits = 0) && decide (bits % 2 ^ f.mbits ≠ 0)

/-- Flushes a subnormal pattern to the zero of its sign (R102). -/
def FloatFmt.flush (f : FloatFmt) (bits : Nat) : Nat :=
  if f.isSubnormal bits then f.signed (bits.testBit (f.ebits + f.mbits)) 0 else bits

end Sys2Proof.Machine
end

