-- ==== Sys2Proof/Machine/Formats.lean ====
section
/-!
DEFINITION. The storage formats (R99 to R108), every conversion between them (R113, R114), the quantisation of
dual-exponent blocks (R115), the digit recoding of matrix operands (R116, R117) and the chunk step of matrix
accumulation (R118 to R120).
-/

namespace Sys2Proof.Machine

/-- Element formats: the bank codes 0x0 to 0xF (R99) and the three unsigned types of R199. -/
inductive Fmt where
  | raw | f64 | f32 | bf16 | f16 | e4m3 | e5m2 | db8 | db4 | i32 | i16 | i8 | i4 | e2m3 | e3m2 | e2m1 | n8 | n16 | n32
deriving DecidableEq, Repr

/-- The format of a bank code (R99). -/
def Fmt.ofBank (c : Nat) : Fmt :=
  match c % 16 with
  | 0 => .raw | 1 => .f64 | 2 => .f32 | 3 => .bf16 | 4 => .f16 | 5 => .e4m3 | 6 => .e5m2 | 7 => .db8
  | 8 => .db4 | 9 => .i32 | 10 => .i16 | 11 => .i8 | 12 => .i4 | 13 => .e2m3 | 14 => .e3m2 | _ => .e2m1

/-- The format of a type code T (R199); 0 stands for no suffix. -/
def Fmt.ofType (t : BitVec 4) : Fmt :=
  match t.toNat with
  | 13 => .n8 | 14 => .n16 | 15 => .n32 | c => Fmt.ofBank c

/-- The float format of an element format, where it is a float (R100, R103, R104). -/
def Fmt.float? : Fmt → Option FloatFmt
  | .f64 => some ⟨11, 52, 1023, .ieee⟩
  | .f32 => some ⟨8, 23, 127, .ieee⟩
  | .bf16 => some ⟨8, 7, 127, .ieee⟩
  | .f16 => some ⟨5, 10, 15, .ieee⟩
  | .e4m3 => some ⟨4, 3, 7, .e4m3⟩
  | .e5m2 => some ⟨5, 2, 15, .ieee⟩
  | .e2m3 => some ⟨2, 3, 1, .none⟩
  | .e3m2 => some ⟨3, 2, 3, .none⟩
  | .e2m1 => some ⟨2, 1, 1, .none⟩
  | _ => none

/-- The F32 format. -/
def ffF32 : FloatFmt := ⟨8, 23, 127, .ieee⟩

/-- The F64 format. -/
def ffF64 : FloatFmt := ⟨11, 52, 1023, .ieee⟩

/-- Element width in bits (R99, R106); a RAW element is one byte (R217). -/
def Fmt.width : Fmt → Nat
  | .raw => 8 | .f64 => 64 | .f32 => 32 | .bf16 => 16 | .f16 => 16 | .e4m3 => 8 | .e5m2 => 8 | .db8 => 8 | .db4 => 4
  | .i32 => 32 | .i16 => 16 | .i8 => 8 | .i4 => 4 | .e2m3 => 6 | .e3m2 => 6 | .e2m1 => 4 | .n8 => 8 | .n16 => 16
  | .n32 => 32

/-- Integer formats with their width and signedness (R108). -/
def Fmt.int? : Fmt → Option (Nat × Bool)
  | .i32 => some (32, true) | .i16 => some (16, true) | .i8 => some (8, true) | .i4 => some (4, true)
  | .n32 => some (32, false) | .n16 => some (16, false) | .n8 => some (8, false)
  | _ => none

/-- Is the format an integer? -/
def Fmt.isInt (f : Fmt) : Bool := f.int?.isSome

/-- Is the format a dual-exponent block (R106)? -/
def Fmt.isDb : Fmt → Bool
  | .db8 => true
  | .db4 => true
  | _ => false

/-- The least and greatest value of an n-bit integer (R108). -/
def intRange (n : Nat) (signed : Bool) : Int × Int :=
  if signed then (-(2 ^ (n - 1) : Nat), (2 ^ (n - 1) : Nat) - 1) else (0, (2 ^ n : Nat) - 1)

/-- An n-bit pattern as an integer value (R108). -/
def intVal (n : Nat) (signed : Bool) (bits : Nat) : Int :=
  let b := bits % 2 ^ n
  if signed && b.testBit (n - 1) then (b : Int) - (2 ^ n : Nat) else b

/-- An integer's low n bits. -/
def intBits (n : Nat) (x : Int) : Nat := (x % (2 ^ n : Nat)).toNat

/-- An integer result: wrapped to n bits, or clamped to the range with SX (R108). -/
def intResult (n : Nat) (signed sat : Bool) (x : Int) : Res Nat :=
  let (lo, hi) := intRange n signed
  if sat then
    if x < lo then (intBits n lo, flagSX) else if hi < x then (intBits n hi, flagSX) else (intBits n x, 0)
  else (intBits n x, 0)

/-- The exact value of one stored element (R100 to R108); a DB element is given with the exponent its selector picks. -/
def Fmt.decode (f : Fmt) (bits : Nat) (ehi elo : Nat) : Num :=
  match f.float? with
  | some ff => ff.decode bits
  | none =>
    match f.int? with
    | some (n, sg) => .ofInt (intVal n sg bits)
    | none =>
      match f with
      | .db8 =>
        let e := if bits.testBit 7 then ehi else elo
        if e = 255 then .nan false else .fin (bits.testBit 6) (bits % 64) ((e : Int) - 127 - 5)
      | .db4 =>
        let e := if bits.testBit 3 then ehi else elo
        if e = 255 then .nan false else .fin (bits.testBit 2) (bits % 4) ((e : Int) - 127 - 1)
      | _ => .ofInt (bits % 256)

/-- Is the exact value an integer, and which (R113's integer-to-integer row)? -/
def Num.toInt? : Num → Option Int
  | .fin s m e =>
    if 0 ≤ e then some (scaled s m e 0)
    else
      let k := (-e).toNat
      if (m >>> k) <<< k = m then some (scaled s (m >>> k) 0 0) else none
  | _ => none

/-- Converts a value into an n-bit integer: rounded per the mode, then clamped with NV and SX (R113). -/
def encodeInt (n : Nat) (signed : Bool) (rm : Rm) (x : Num) : Res Nat :=
  let (lo, hi) := intRange n signed
  match x with
  | .nan _ => (0, flagNV)
  | .inf s => (intBits n (if s then lo else hi), flagNV)
  | .fin s m e =>
    let (r, inexact) := roundAt rm s m false e 0
    let v : Int := if s then -(r : Int) else r
    let fl := flagIf inexact flagNX
    if v < lo then (intBits n lo, fl ||| flagNV ||| flagSX)
    else if hi < v then (intBits n hi, fl ||| flagNV ||| flagSX)
    else (intBits n v, fl)

/-- Converts an exact value into a non-block format (R113). `fromInt` marks an integer source, whose conversion to an
integer wraps, or saturates with SAT. A RAW destination keeps the low byte of an integer. -/
def Fmt.encode (f : Fmt) (rm : Rm) (sat fromInt : Bool) (x : Num) : Res Nat :=
  match f.float? with
  | some ff => ff.encode rm sat x
  | none =>
    match f.int? with
    | some (n, sg) =>
      match fromInt, x.toInt? with
      | true, some v => intResult n sg sat v
      | _, _ => encodeInt n sg rm x
    | none => (match x.toInt? with | some v => intBits 8 v | none => 0, 0)

/-- Flushes a subnormal pattern where the format has subnormals (R102). -/
def Fmt.flush (f : Fmt) (bits : Nat) : Nat :=
  match f.float? with
  | some ff => ff.flush bits
  | none => bits

/-- Writes a converted result to a bank whose FTZ bit is `ftz`: a subnormal result becomes zero with UF and NX (R102). -/
def Fmt.storeFlush (f : Fmt) (ftz : Bool) (r : Res Nat) : Res Nat :=
  match f.float? with
  | some ff => if ftz && ff.isSubnormal r.1 then (ff.flush r.1, r.2 ||| flagUF ||| flagNX) else r
  | none => r

/-- The bytes of a row of `e0` elements (R217). -/
def Fmt.rowBytes (f : Fmt) (e0 : Nat) : Nat :=
  match f with
  | .db8 => 34 * ((e0 + 31) / 32)
  | .db4 => 18 * ((e0 + 31) / 32)
  | .e2m3 => 3 * (e0 / 4) + (6 * (e0 % 4) + 7) / 8
  | .e3m2 => 3 * (e0 / 4) + (6 * (e0 % 4) + 7) / 8
  | f => (e0 * f.width + 7) / 8

/-- The bit offset of element `i` from its row's start (R105, R107). -/
def Fmt.bitOffset (f : Fmt) (i : Nat) : Nat :=
  match f with
  | .db8 => 8 * (34 * (i / 32) + i % 32)
  | .db4 => 8 * (18 * (i / 32)) + 4 * (i % 32)
  | f => i * f.width

/-- The byte offset of E_hi of the block that holds element `i`; E_lo follows it (R106). -/
def Fmt.expOffset (f : Fmt) (i : Nat) : Nat :=
  match f with
  | .db8 => 34 * (i / 32) + 32
  | _ => 18 * (i / 32) + 16

/-! ### Block quantisation (R115) -/

/-- A magnitude of R115's comparisons: infinite, or `m * 2^e`. -/
inductive Mag where
  | inf
  | fin (m : Nat) (e : Int)
deriving DecidableEq, Repr

/-- |x| of a non-NaN value. -/
def Num.mag : Num → Mag
  | .fin _ m e => .fin m e
  | _ => .inf

/-- Is the first magnitude at most the second? -/
def Mag.le : Mag → Mag → Bool
  | _, .inf => true
  | .inf, .fin _ _ => false
  | .fin m e, .fin k f => decide (cmpMag m e k f ≠ .gt)

/-- The larger magnitude. -/
def Mag.max (a b : Mag) : Mag := if a.le b then b else a

/-- A block format's parameters f and M (R106). -/
def dbParams (f : Fmt) : Nat × Nat :=
  match f with
  | .db4 => (1, 3)
  | _ => (5, 63)

/-- The smallest exponent of 0 to `top` whose largest magnitude reaches `a` (R115). -/
def smallestExp (fb mx top : Nat) (a : Mag) : Option Nat :=
  (List.range (top + 1)).find? fun E => a.le (.fin mx ((E : Int) - 127 - fb))

/-- One candidate of an element under exponent E (R115): the magnitude kept, the error in units of `2^min(e, E-127-f)`
with that unit's exponent (none: infinite), and whether `min` clamped it. -/
def candidate (fb mx E : Nat) (x : Mag) : Nat × Option (Nat × Int) × Bool :=
  match x with
  | .inf => (mx, none, true)
  | .fin m e =>
    let q : Int := (E : Int) - 127 - fb
    let (r, _) := roundAt .rne false m false e q
    let k := Min.min r mx
    let z := Min.min e q
    (k, some ((scaled false m e z - scaled false k q z).natAbs, z), decide (mx < r))

/-- A quantised block: its two exponents, its 32 element patterns and the flags raised. -/
structure DbBlock where
  ehi   : Nat
  elo   : Nat
  elems : List Nat
  flags : Flags
deriving DecidableEq, Repr

/-- Is the first candidate error smaller than the second (R115)? -/
def errLess : Option (Nat × Int) → Option (Nat × Int) → Bool
  | none, _ => false
  | some _, none => true
  | some (a, e), some (b, f) => decide (cmpMag a e b f = .lt)

/-- Quantises 32 values into a DB8 or DB4 block (R115); `single` sets E_lo := E_hi unless a NaN forces 0xFF (R207). -/
def quantise (f : Fmt) (single : Bool) (xs : List Num) : DbBlock :=
  let (fb, mx) := dbParams f
  let nan := xs.any Num.isNan
  let mags := (xs.filter (fun x => !x.isNan)).map Num.mag
  let amax := mags.foldl Mag.max (.fin 0 0)
  let hi? := smallestExp fb mx 254 amax
  let ehi := hi?.getD 254
  let fl0 := flagIf hi?.isNone (flagOF ||| flagSX) ||| sigFlags xs
  let bound : Mag := .fin 1 ((ehi : Int) - 127 - 3)
  let below := mags.filter (fun a => !(bound.le a))
  let elo :=
    if nan then 255
    else if single then ehi
    else if below.isEmpty then ehi
    else (smallestExp fb mx ehi (below.foldl Mag.max (.fin 0 0))).getD ehi
  let selBit := if f = .db4 then 8 else 128
  let signBit := if f = .db4 then 4 else 64
  let one (x : Num) : Res Nat :=
    if x.isNan then (0, 0)
    else
      let (qh, errh, ch) := candidate fb mx ehi x.mag
      let (ql, errl, cl) := candidate fb mx elo x.mag
      let useLo := decide (elo ≠ 255) && errLess errl errh
      let err := if useLo then errl else errh
      let clamp := if useLo then cl else ch
      let nx := match err with | none => true | some (a, _) => decide (a ≠ 0)
      ((if useLo then 0 else selBit) + (if x.sign then signBit else 0) + (if useLo then ql else qh),
       flagIf clamp flagSX ||| flagIf nx flagNX)
  let rs := xs.map one
  ⟨ehi, elo, rs.map (·.1), flagsOr (fl0 :: rs.map (·.2))⟩

/-- A block's storage bytes (R106): elements, then E_hi, then E_lo. -/
def DbBlock.bytes (f : Fmt) (b : DbBlock) : List Nat :=
  let es :=
    if f = .db4 then
      (List.range 16).map fun j => (b.elems.getD (2 * j) 0) % 16 + 16 * ((b.elems.getD (2 * j + 1) 0) % 16)
    else b.elems.map (· % 256)
  es ++ [b.ehi, b.elo]

/-! ### Digit recoding (R116, R117) -/

/-- The digit count D of an A format (R116). -/
def digitCount : Fmt → Nat
  | .f64 => 27 | .f32 => 13 | .f16 => 6 | .bf16 => 5 | .i8 => 4 | .db8 => 4 | .e4m3 => 3 | .e5m2 => 2 | .i4 => 2
  | .db4 => 2 | _ => 0

/-- Digit i of the canonical radix-4 recoding of X (R117). -/
def digit (x : Int) (i : Nat) : Int :=
  let b (j : Nat) : Int := if (x / (2 ^ j : Nat)) % 2 = 1 then 1 else 0
  (if i = 0 then 0 else b (2 * i - 1)) + b (2 * i) - 2 * b (2 * i + 1)

/-- X truncated to its leading k of D digits (R117). -/
def truncDigits (x : Int) (d k : Nat) : Int :=
  (List.range k).foldl (fun acc j => acc + digit x (d - k + j) * (4 ^ (d - k + j) : Nat)) 0

/-- The digits a job uses under DIG (R117, R274). -/
def digitsUsed (f : Fmt) (dig : Nat) : Nat :=
  if dig = 0 ∨ digitCount f ≤ dig then digitCount f else dig

/-- An A element's value with its significand truncated to the job's digits (R117); zeros, infinities and NaNs keep their
values. The significand X is the element's integer significand as its encoding gives it. An X_k of 0 keeps the element's sign (log
entry 51: R117 gives only the integer 0). -/
def truncA (f : Fmt) (dig : Nat) (x : Num) : Num :=
  let k := digitsUsed f dig
  match x with
  | .fin s m e =>
    if m = 0 ∨ k = digitCount f then x
    else .ofScaled (truncDigits (scaled s m 0 0) (digitCount f) k) e s
  | x => x

/-! ### Matrix accumulation (R118 to R120) -/

/-- Truncates a finite value toward zero to a multiple of `2^z`, counted in units of `2^z` (R118). -/
def truncUnits (x : Num) (z : Int) : Int :=
  match x with
  | .fin s m e => if z ≤ e then scaled s m e z else scaled s (m >>> (z - e).toNat) 0 0
  | _ => 0

/-- The chunk sum S of up to 32 exact products (R118). -/
def chunkSum (ps : List Num) : Num :=
  if ps.any Num.isNan || (ps.any (· == .inf false) && ps.any (· == .inf true)) then .nan false
  else if ps.any (· == .inf false) then .inf false
  else if ps.any (· == .inf true) then .inf true
  else
    let nz := ps.filter (fun p => !p.isZero)
    if nz.isEmpty then .zero (!ps.isEmpty && ps.all (·.sign))
    else
      let tops : List Int := nz.map fun p => match p with | .fin _ m e => (Nat.log2 m : Int) + e | _ => 0
      let z := tops.foldl max (tops.headD 0) - 153
      .ofScaled (ps.foldl (fun acc p => acc + truncUnits p z) 0) z false

/-- One chunk step of a float job: `acc := rne(acc + S)` in the accumulator format (R118). NV is set by a signalling operand,
by 0 × ∞ and by ∞ − ∞. -/
def chunkStepFloat (acc : FloatFmt) (sat : Bool) (a : Nat) (abs : List (Num × Num)) : Res Nat :=
  let prods := abs.map fun p => p.1.mul p.2
  let s := chunkSum (prods.map (·.1))
  let infClash := (prods.any (fun p => p.1 == .inf false)) && (prods.any (fun p => p.1 == .inf true))
  let x := acc.decode a
  let r := x.add s
  let e := acc.encode .rne (sat && !r.1.isInf) r.1
  (e.1, flagsOr (prods.map (·.2)) ||| flagIf infClash flagNV ||| r.2 ||| e.2)

/-- One chunk step of an integer job: exact sum, wrapped to I32 or clamped with SAT (R120). -/
def chunkStepInt (sat : Bool) (a : Nat) (abs : List (Int × Int)) : Res Nat :=
  intResult 32 true sat (intVal 32 true a + abs.foldl (fun acc p => acc + p.1 * p.2) 0)

end Sys2Proof.Machine
end

