-- ==== Sys2Proof/Decode.lean ====
section
/-!
DEFINITION. Decoding of the 128-bit bundle (R66), its header slot (R72, R73) and the four slots' opcode maps
(R77 to R80), total on every bit pattern and rejecting by an ILLEGAL cause (R75); after it, an encoder written from
the same tables.
-/

namespace Sys2Proof

/-- The fields of a Reg-format slot (R68), its register numbers with the lent bits of a header on top (R73). -/
structure RegF where
  op : BitVec 7
  d  : BitVec 7
  a  : BitVec 7
  b  : BitVec 7
  p  : BitVec 3
  fn : BitVec 7
deriving DecidableEq, Repr

/-- Reads the Reg format (R68, R73). -/
def regF (w : BitVec 32) (lx : BitVec 7) : RegF :=
  ⟨w.extractLsb' 25 7, lx.extractLsb' 0 2 ++ w.extractLsb' 20 5, lx.extractLsb' 2 2 ++ w.extractLsb' 15 5,
   lx.extractLsb' 4 2 ++ w.extractLsb' 10 5, w.extractLsb' 7 3, w.extractLsb' 0 7⟩

/-- The fields of an Imm-format slot (R68), the immediate as the 19-bit value of R73. -/
structure ImmF where
  op  : BitVec 7
  d   : BitVec 5
  a   : BitVec 5
  p   : BitVec 3
  imm : BitVec 19
deriving DecidableEq, Repr

/-- Reads the Imm format: with a header the lent bits are immediate bits [18:12], without one the 12 bits are
sign-extended (R73). -/
def immF (w : BitVec 32) (lx : Option (BitVec 7)) : ImmF :=
  ⟨w.extractLsb' 25 7, w.extractLsb' 20 5, w.extractLsb' 15 5, w.extractLsb' 12 3,
   match lx with
   | some x => x ++ w.extractLsb' 0 12
   | none => (w.extractLsb' 0 12).signExtend 19⟩

/-- The fields of a Mem-format slot (R68), the offset as the 17-bit value of R73. -/
structure MemF where
  op  : BitVec 7
  d   : BitVec 5
  a   : BitVec 4
  sz  : BitVec 3
  p   : BitVec 3
  off : BitVec 17
deriving DecidableEq, Repr

/-- Reads the Mem format (R68, R73). -/
def memF (w : BitVec 32) (lx : Option (BitVec 7)) : MemF :=
  ⟨w.extractLsb' 25 7, w.extractLsb' 20 5, w.extractLsb' 16 4, w.extractLsb' 13 3, w.extractLsb' 10 3,
   match lx with
   | some x => x ++ w.extractLsb' 0 10
   | none => (w.extractLsb' 0 10).signExtend 17⟩

/-- Rejects a nonzero reserved field (R3, R75). -/
def resv (bad : Bool) (i : Instr) : Except Ilc Instr := if bad then .error .reserved else .ok i

/-- The Reg-format scalar forms that S0 and S1 share (R77, R78, R122). -/
def decShared (f : RegF) : Except Ilc Instr :=
  match f.op.toNat with
  | 0x01 => (match f.fn.toNat with | 0 => .ok (.add f.d f.a f.b f.p) | _ => .error .fn)
  | 0x02 => (match f.fn.toNat with | 0 => .ok (.isub f.d f.a f.b f.p) | _ => .error .fn)
  | 0x03 => (match f.fn.toNat with | 0 => .ok (.and f.d f.a f.b f.p) | _ => .error .fn)
  | 0x04 => (match f.fn.toNat with | 0 => .ok (.or f.d f.a f.b f.p) | _ => .error .fn)
  | 0x05 => (match f.fn.toNat with | 0 => .ok (.xor f.d f.a f.b f.p) | _ => .error .fn)
  | 0x06 => (match f.fn.toNat with | 0 => .ok (.andn f.d f.a f.b f.p) | _ => .error .fn)
  | 0x07 => (match f.fn.toNat with | 0 => .ok (.shl f.d f.a f.b f.p) | _ => .error .fn)
  | 0x08 => (match f.fn.toNat with | 0 => .ok (.shr f.d f.a f.b f.p) | _ => .error .fn)
  | 0x09 => (match f.fn.toNat with | 0 => .ok (.sar f.d f.a f.b f.p) | _ => .error .fn)
  | 0x0A => (match f.fn.toNat with | 0 => .ok (.min f.d f.a f.b f.p) | _ => .error .fn)
  | 0x0B => (match f.fn.toNat with | 0 => .ok (.max f.d f.a f.b f.p) | _ => .error .fn)
  | 0x0C => (match f.fn.toNat with | 0 => .ok (.minu f.d f.a f.b f.p) | _ => .error .fn)
  | 0x0D => (match f.fn.toNat with | 0 => .ok (.maxu f.d f.a f.b f.p) | _ => .error .fn)
  | _ => .error .major

/-- The Imm-format scalar forms that S0 and S1 share (R125). -/
def decSharedImm (f : ImmF) : Except Ilc Instr :=
  match f.op.toNat with
  | 0x18 => .ok (.addi f.d f.a f.p f.imm)
  | 0x19 => .ok (.andi f.d f.a f.p f.imm)
  | 0x1A => .ok (.ori f.d f.a f.p f.imm)
  | 0x1B => .ok (.xori f.d f.a f.p f.imm)
  | _ => .error .major

/-- The Reg-format operations of the C slot alone (R77). -/
def decCReg (f : RegF) : Except Ilc Instr :=
  match f.op.toNat with
  | 0x0E => (match f.fn.toNat with | 0 => resv (decide (f.b ≠ 0)) (.bcntPop f.d f.a f.p) | 1 => resv (decide (f.b ≠ 0)) (.bcntLz f.d f.a f.p) | 2 => resv (decide (f.b ≠ 0)) (.bcntTz f.d f.a f.p) | _ => .error .fn)
  | 0x0F => (match f.fn.toNat with | 0 => .ok (.mul f.d f.a f.b f.p) | _ => .error .fn)
  | 0x10 => (match f.fn.toNat with | 0 => .ok (.mulh f.d f.a f.b f.p) | _ => .error .fn)
  | 0x11 => (match f.fn.toNat with | 0 => .ok (.mulhu f.d f.a f.b f.p) | _ => .error .fn)
  | 0x12 => (match f.fn.toNat with | 0 => .ok (.div f.d f.a f.b f.p) | _ => .error .fn)
  | 0x13 => (match f.fn.toNat with | 0 => .ok (.divu f.d f.a f.b f.p) | _ => .error .fn)
  | 0x14 => (match f.fn.toNat with | 0 => .ok (.rem f.d f.a f.b f.p) | _ => .error .fn)
  | 0x15 => (match f.fn.toNat with | 0 => .ok (.remu f.d f.a f.b f.p) | _ => .error .fn)
  | 0x21 => .ok (.cmp f.d f.a f.b f.p (f.fn.extractLsb' 0 7))
  | 0x22 => .ok (.cmpp f.d f.a f.b f.p (f.fn.extractLsb' 0 7))
  | 0x23 => resv (decide (f.fn.extractLsb' 3 4 ≠ 0)) (.sel f.d f.a f.b f.p (f.fn.extractLsb' 0 3))
  | 0x24 => (match f.fn.toNat with | 0 => .ok (.adda f.d f.a f.b f.p) | _ => .error .fn)
  | 0x25 => (match f.fn.toNat with | 0 => resv (decide (f.b ≠ 0)) (.movaAS f.d f.a f.p) | 1 => resv (decide (f.b ≠ 0)) (.movaSA f.d f.a f.p) | 2 => resv (decide (f.b ≠ 0)) (.movaAA f.d f.a f.p) | 3 => resv (decide (f.b ≠ 0)) (.movaSN f.d f.a f.p) | _ => .error .fn)
  | 0x2A => (match (f.fn.extractLsb' 0 1).toNat with | 0 => resv (decide (f.fn.extractLsb' 1 6 ≠ 0) || decide (f.d ≠ 0) || decide (f.b ≠ 0)) (.jr f.a f.p) | _ => resv (decide (f.fn.extractLsb' 1 6 ≠ 0) || decide (f.b ≠ 0)) (.jrLink f.d f.a f.p))
  | 0x2C => resv (decide (f.fn.extractLsb' 0 7 ≠ 0) || decide (f.d ≠ 0) || decide (f.b ≠ 0)) (.ret f.a f.p)
  | 0x2E => resv (decide (f.fn.extractLsb' 3 4 ≠ 0) || decide (f.a ≠ 0)) (.lstr f.d f.b f.p (f.fn.extractLsb' 0 3))
  | 0x32 => resv (decide (f.fn.extractLsb' 0 7 ≠ 0) || decide (f.b ≠ 0)) (.mrd f.d f.a f.p)
  | 0x33 => resv (decide (f.fn.extractLsb' 0 7 ≠ 0) || decide (f.d ≠ 0)) (.mwr f.a f.b f.p)
  | 0x35 => resv (decide (f.d ≠ 0) || decide (f.a ≠ 0) || decide (f.b ≠ 0) || decide (f.p ≠ 0) || decide (f.fn ≠ 0)) .eret
  | _ => .error .major

/-- The Imm-format operations of the C slot alone, whose immediates are 12 bits (R77, R125). -/
def decCImm (f : ImmF) : Except Ilc Instr :=
  match f.op.toNat with
  | 0x1C => .ok (.shli f.d f.a f.p (f.imm.extractLsb' 0 12))
  | 0x1D => .ok (.shri f.d f.a f.p (f.imm.extractLsb' 0 12))
  | 0x1E => .ok (.sari f.d f.a f.p (f.imm.extractLsb' 0 12))
  | 0x2D => .ok (.loop f.d f.a f.p (f.imm.extractLsb' 0 12))
  | 0x2F => resv (decide (f.d ≠ 0) || decide (f.a ≠ 0)) (.trap f.p (f.imm.extractLsb' 0 12))
  | 0x30 => resv (decide (f.a ≠ 0)) (.krd f.d f.p (f.imm.extractLsb' 0 12))
  | 0x31 => resv (decide (f.d ≠ 0)) (.kwr f.a f.p (f.imm.extractLsb' 0 12))
  | 0x34 => .ok (.ldpw f.d f.a f.p (f.imm.extractLsb' 0 12))
  | _ => .error .major

/-- The Br- and Long-format operations of the C slot (R68, R77, R126, R130 to R132). -/
def decCOther (w : BitVec 32) : Except Ilc Instr :=
  match (w.extractLsb' 25 7).toNat with
  | 0x1F => .ok (.li (w.extractLsb' 20 5) (w.extractLsb' 0 20))
  | 0x20 => .ok (.lsh (w.extractLsb' 20 5) (w.extractLsb' 0 20))
  | 0x26 => resv (decide (w.extractLsb' 13 4 ≠ 0)) (.br (w.extractLsb' 20 5) (w.extractLsb' 17 3) (w.extractLsb' 0 13))
  | 0x27 => resv (decide (w.extractLsb' 13 4 ≠ 0)) (.brp (w.extractLsb' 20 5) (w.extractLsb' 17 3) (w.extractLsb' 0 13))
  | 0x28 => resv (decide (w.extractLsb' 13 4 ≠ 0)) (.brv (w.extractLsb' 20 5) (w.extractLsb' 17 3) (w.extractLsb' 0 13))
  | 0x29 => resv (decide (w.extractLsb' 12 13 ≠ 0)) (.jmp (w.extractLsb' 0 12))
  | 0x2B => resv (decide (w.extractLsb' 12 8 ≠ 0)) (.call (w.extractLsb' 20 5) (w.extractLsb' 0 12))
  | _ => .error .major

/-- The Reg-format operations of the V slot alone (R78). -/
def decVReg (f : RegF) : Except Ilc Instr :=
  match f.op.toNat with
  | 0x40 => resv (decide (f.fn.extractLsb' 6 1 ≠ 0)) (.vadd f.d f.a f.b f.p (f.fn.getLsbD 5) (f.fn.getLsbD 4) (f.fn.extractLsb' 0 4))
  | 0x41 => resv (decide (f.fn.extractLsb' 6 1 ≠ 0)) (.vsub f.d f.a f.b f.p (f.fn.getLsbD 5) (f.fn.getLsbD 4) (f.fn.extractLsb' 0 4))
  | 0x42 => resv (decide (f.fn.extractLsb' 6 1 ≠ 0)) (.vmul f.d f.a f.b f.p (f.fn.getLsbD 5) (f.fn.getLsbD 4) (f.fn.extractLsb' 0 4))
  | 0x43 => .ok (.vfma f.d f.a f.b f.p (f.fn.getLsbD 6) (f.fn.getLsbD 5) (f.fn.getLsbD 4) (f.fn.extractLsb' 0 4))
  | 0x44 => resv (decide (f.fn.extractLsb' 6 1 ≠ 0)) (.vmin f.d f.a f.b f.p (f.fn.getLsbD 5) (f.fn.getLsbD 4) (f.fn.extractLsb' 0 4))
  | 0x45 => resv (decide (f.fn.extractLsb' 6 1 ≠ 0)) (.vmax f.d f.a f.b f.p (f.fn.getLsbD 5) (f.fn.getLsbD 4) (f.fn.extractLsb' 0 4))
  | 0x46 => resv (decide (f.fn.extractLsb' 5 2 ≠ 0) || decide (f.b ≠ 0)) (.vabs f.d f.a f.p (f.fn.getLsbD 4) (f.fn.extractLsb' 0 4))
  | 0x47 => resv (decide (f.fn.extractLsb' 5 2 ≠ 0) || decide (f.b ≠ 0)) (.vneg f.d f.a f.p (f.fn.getLsbD 4) (f.fn.extractLsb' 0 4))
  | 0x48 => resv (decide (f.fn.extractLsb' 1 6 ≠ 0)) (.vand f.d f.a f.b f.p (f.fn.getLsbD 0))
  | 0x49 => resv (decide (f.fn.extractLsb' 1 6 ≠ 0)) (.vor f.d f.a f.b f.p (f.fn.getLsbD 0))
  | 0x4A => resv (decide (f.fn.extractLsb' 1 6 ≠ 0)) (.vxor f.d f.a f.b f.p (f.fn.getLsbD 0))
  | 0x4B => resv (decide (f.fn.extractLsb' 6 1 ≠ 0) || decide (f.fn.extractLsb' 4 1 ≠ 0)) (.vshl f.d f.a f.b f.p (f.fn.getLsbD 5) (f.fn.extractLsb' 0 4))
  | 0x4C => resv (decide (f.fn.extractLsb' 6 1 ≠ 0) || decide (f.fn.extractLsb' 4 1 ≠ 0)) (.vshr f.d f.a f.b f.p (f.fn.getLsbD 5) (f.fn.extractLsb' 0 4))
  | 0x4D => .ok (.vcmp f.d f.a f.b f.p (f.fn.extractLsb' 4 3) (f.fn.extractLsb' 0 4))
  | 0x4E => .ok (.vsel f.d f.a f.b f.p (f.fn.extractLsb' 3 4) (f.fn.extractLsb' 0 3))
  | 0x4F => (match (f.fn.extractLsb' 4 3).toNat with | 0 => resv (decide (f.fn.extractLsb' 0 4 ≠ 0) || decide (f.b ≠ 0)) (.vmovV f.d f.a f.p) | 1 => resv (decide (f.b ≠ 0)) (.vmovSplat f.d f.a f.p (f.fn.extractLsb' 0 4)) | 2 => resv (decide (f.fn.extractLsb' 0 4 ≠ 0) || decide (f.b ≠ 0)) (.vmovHS f.d f.a f.p) | 3 => resv (decide (f.fn.extractLsb' 0 4 ≠ 0) || decide (f.b ≠ 0)) (.vmovSH f.d f.a f.p) | 4 => resv (decide (f.fn.extractLsb' 0 4 ≠ 0) || decide (f.b ≠ 0)) (.vmovPS f.d f.a f.p) | 5 => resv (decide (f.fn.extractLsb' 0 4 ≠ 0) || decide (f.b ≠ 0)) (.vmovSP f.d f.a f.p) | 6 => resv (decide (f.a ≠ 0) || decide (f.b ≠ 0)) (.vmovIdx f.d f.p (f.fn.extractLsb' 0 4)) | _ => .error .fn)
  | 0x50 => resv (decide (f.b.extractLsb' 5 2 ≠ 0)) (.vcvt f.d f.a f.p (f.b.getLsbD 4) (f.b.extractLsb' 0 4) (f.fn.extractLsb' 4 3) (f.fn.extractLsb' 0 4))
  | 0x51 => resv (decide (f.fn.extractLsb' 2 5 ≠ 0) || decide (f.b ≠ 0)) (.vqdb f.d f.a f.p (f.fn.getLsbD 1) (f.fn.getLsbD 0))
  | 0x52 => resv (decide (f.fn.extractLsb' 1 6 ≠ 0) || decide (f.b ≠ 0)) (.vcomp f.d f.a f.p (f.fn.getLsbD 0))
  | 0x53 => resv (decide (f.fn.extractLsb' 1 6 ≠ 0) || decide (f.b ≠ 0)) (.vexpd f.d f.a f.p (f.fn.getLsbD 0))
  | 0x54 => resv (decide (f.fn.extractLsb' 2 5 ≠ 0)) (.vperm f.d f.a f.b f.p (f.fn.getLsbD 1) (f.fn.getLsbD 0))
  | 0x55 => resv (decide (f.b ≠ 0)) (.vred f.d f.a f.p (f.fn.extractLsb' 4 3) (f.fn.extractLsb' 0 4))
  | 0x56 => resv (decide (f.fn.extractLsb' 3 4 ≠ 0) || decide (f.b ≠ 0)) (.vsfu f.d f.a f.p (f.fn.extractLsb' 0 3))
  | 0x57 => resv (decide (f.fn.extractLsb' 4 3 ≠ 0)) (.vext f.d f.a f.b f.p (f.fn.extractLsb' 0 4))
  | 0x58 => resv (decide (f.fn.extractLsb' 4 3 ≠ 0)) (.vins f.d f.a f.b f.p (f.fn.extractLsb' 0 4))
  | 0x5B => resv (decide (f.fn.extractLsb' 3 4 ≠ 0)) (.vldl f.d f.a f.b f.p (f.fn.extractLsb' 0 3))
  | 0x5C => resv (decide (f.fn.extractLsb' 3 4 ≠ 0)) (.vstl f.d f.a f.b f.p (f.fn.extractLsb' 0 3))
  | 0x5D => resv (decide (f.fn.extractLsb' 1 6 ≠ 0)) (.pand f.d f.a f.b f.p (f.fn.getLsbD 0))
  | 0x5E => resv (decide (f.fn.extractLsb' 1 6 ≠ 0)) (.por f.d f.a f.b f.p (f.fn.getLsbD 0))
  | 0x5F => resv (decide (f.fn.extractLsb' 1 6 ≠ 0)) (.pxor f.d f.a f.b f.p (f.fn.getLsbD 0))
  | 0x60 => resv (decide (f.fn.extractLsb' 0 7 ≠ 0) || decide (f.b ≠ 0)) (.pcnt f.d f.a f.p)
  | 0x68 => .ok (.vjadd f.d f.a f.b f.p (f.fn.getLsbD 6) (f.fn.extractLsb' 4 2) (f.fn.extractLsb' 0 4))
  | 0x69 => .ok (.vjsub f.d f.a f.b f.p (f.fn.getLsbD 6) (f.fn.extractLsb' 4 2) (f.fn.extractLsb' 0 4))
  | 0x6A => .ok (.vjmul f.d f.a f.b f.p (f.fn.getLsbD 6) (f.fn.extractLsb' 4 2) (f.fn.extractLsb' 0 4))
  | 0x6B => .ok (.vjfma f.d f.a f.b f.p (f.fn.getLsbD 6) (f.fn.extractLsb' 4 2) (f.fn.extractLsb' 0 4))
  | 0x6C => .ok (.vjmin f.d f.a f.b f.p (f.fn.getLsbD 6) (f.fn.extractLsb' 4 2) (f.fn.extractLsb' 0 4))
  | 0x6D => .ok (.vjmax f.d f.a f.b f.p (f.fn.getLsbD 6) (f.fn.extractLsb' 4 2) (f.fn.extractLsb' 0 4))
  | 0x6E => resv (decide (f.fn.extractLsb' 6 1 ≠ 0) || decide (f.b.extractLsb' 5 2 ≠ 0)) (.vjcvt f.d f.a f.p (f.b.getLsbD 4) (f.b.extractLsb' 0 4) (f.fn.extractLsb' 4 2) (f.fn.extractLsb' 0 4))
  | 0x6F => resv (decide (f.fn.extractLsb' 5 2 ≠ 0) || decide (f.b.extractLsb' 5 2 ≠ 0) || decide (f.b.extractLsb' 4 1 ≠ 0)) (.vjqdb f.d f.a f.p (f.b.extractLsb' 0 4) (f.fn.getLsbD 4) (f.fn.extractLsb' 0 4))
  | 0x70 => resv (decide (f.b.extractLsb' 5 2 ≠ 0) || decide (f.b.extractLsb' 3 2 ≠ 0)) (.vjred f.d f.a f.p (f.b.getLsbD 2) (f.b.extractLsb' 0 2) (f.fn.extractLsb' 4 3) (f.fn.extractLsb' 0 4))
  | 0x71 => resv (decide (f.b.extractLsb' 5 2 ≠ 0) || decide (f.b.extractLsb' 3 2 ≠ 0)) (.vjsfu f.d f.a f.p (f.b.getLsbD 2) (f.b.extractLsb' 0 2) (f.fn.extractLsb' 3 4) (f.fn.extractLsb' 0 3))
  | 0x72 => resv (decide (f.fn.extractLsb' 4 3 ≠ 0)) (.vjcomp f.d f.a f.b f.p (f.fn.extractLsb' 0 4))
  | 0x73 => resv (decide (f.fn.extractLsb' 4 3 ≠ 0)) (.vjexpd f.d f.a f.b f.p (f.fn.extractLsb' 0 4))
  | 0x74 => .ok (.vjsel f.d f.a f.b f.p (f.fn.getLsbD 6) (f.fn.extractLsb' 4 2) (f.fn.extractLsb' 0 4))
  | 0x75 => .ok (.vjcmp f.d f.a f.b f.p (f.fn.extractLsb' 4 3) (f.fn.extractLsb' 0 4))
  | 0x76 => resv (decide (f.fn.extractLsb' 4 3 ≠ 0) || decide (f.a ≠ 0) || decide (f.b ≠ 0)) (.vjfill f.d f.p (f.fn.extractLsb' 0 4))
  | _ => .error .major

/-- The Imm-format operations of the V slot alone (R78, R213). -/
def decVImm (f : ImmF) : Except Ilc Instr :=
  match f.op.toNat with
  | 0x59 => .ok (.vld f.d f.a f.p f.imm)
  | 0x5A => .ok (.vst f.d f.a f.p f.imm)
  | _ => .error .major

/-- The Mem-format operations of the M slot (R79, R137). -/
def decMMem (f : MemF) : Except Ilc Instr :=
  match f.op.toNat with
  | 0x01 => .ok (.ld f.d f.a f.sz f.p f.off)
  | 0x02 => .ok (.st f.d f.a f.sz f.p f.off)
  | _ => .error .major

/-- The Reg-format operations of the M slot (R79). -/
def decMReg (f : RegF) : Except Ilc Instr :=
  match f.op.toNat with
  | 0x03 => resv (decide (f.fn.extractLsb' 4 3 ≠ 0)) (.ldx f.d f.a f.b f.p (f.fn.getLsbD 3) (f.fn.extractLsb' 0 3))
  | 0x04 => resv (decide (f.fn.extractLsb' 4 3 ≠ 0)) (.stx f.d f.a f.b f.p (f.fn.getLsbD 3) (f.fn.extractLsb' 0 3))
  | 0x08 => resv (decide (f.b ≠ 0)) (.qld f.d f.a f.p (f.fn.extractLsb' 5 2) (f.fn.extractLsb' 3 2) (f.fn.extractLsb' 0 3))
  | 0x09 => .ok (.qst f.d f.a f.b f.p (f.fn.extractLsb' 5 2) (f.fn.extractLsb' 3 2) (f.fn.extractLsb' 0 3))
  | 0x0A => (match (f.fn.extractLsb' 0 1).toNat with | 0 => resv (decide (f.fn.extractLsb' 1 6 ≠ 0) || decide (f.b ≠ 0)) (.qpop f.d f.a f.p) | _ => resv (decide (f.fn.extractLsb' 1 6 ≠ 0)) (.qpopT f.d f.a f.b f.p))
  | 0x0B => (match (f.fn.extractLsb' 0 1).toNat with | 0 => resv (decide (f.fn.extractLsb' 1 6 ≠ 0) || decide (f.b ≠ 0)) (.qwait f.d f.a f.p) | _ => resv (decide (f.fn.extractLsb' 1 6 ≠ 0) || decide (f.b ≠ 0)) (.qwaitAll f.d f.a f.p))
  | 0x0C => resv (decide (f.fn.extractLsb' 2 5 ≠ 0) || decide (f.d ≠ 0) || decide (f.a ≠ 0) || decide (f.b ≠ 0)) (.fence f.p (f.fn.extractLsb' 0 2))
  | 0x10 => .ok (.amoAdd f.d f.a f.b f.p (f.fn.extractLsb' 5 2) (f.fn.extractLsb' 3 2) (f.fn.extractLsb' 0 3))
  | 0x11 => .ok (.amoSwap f.d f.a f.b f.p (f.fn.extractLsb' 5 2) (f.fn.extractLsb' 3 2) (f.fn.extractLsb' 0 3))
  | 0x12 => .ok (.amoCas f.d f.a f.b f.p (f.fn.extractLsb' 5 2) (f.fn.extractLsb' 3 2) (f.fn.extractLsb' 0 3))
  | 0x13 => .ok (.amoAnd f.d f.a f.b f.p (f.fn.extractLsb' 5 2) (f.fn.extractLsb' 3 2) (f.fn.extractLsb' 0 3))
  | 0x14 => .ok (.amoOr f.d f.a f.b f.p (f.fn.extractLsb' 5 2) (f.fn.extractLsb' 3 2) (f.fn.extractLsb' 0 3))
  | 0x15 => .ok (.amoXor f.d f.a f.b f.p (f.fn.extractLsb' 5 2) (f.fn.extractLsb' 3 2) (f.fn.extractLsb' 0 3))
  | 0x16 => .ok (.amoMin f.d f.a f.b f.p (f.fn.extractLsb' 5 2) (f.fn.extractLsb' 3 2) (f.fn.extractLsb' 0 3))
  | 0x17 => .ok (.amoMax f.d f.a f.b f.p (f.fn.extractLsb' 5 2) (f.fn.extractLsb' 3 2) (f.fn.extractLsb' 0 3))
  | 0x18 => .ok (.amoMinu f.d f.a f.b f.p (f.fn.extractLsb' 5 2) (f.fn.extractLsb' 3 2) (f.fn.extractLsb' 0 3))
  | 0x19 => .ok (.amoMaxu f.d f.a f.b f.p (f.fn.extractLsb' 5 2) (f.fn.extractLsb' 3 2) (f.fn.extractLsb' 0 3))
  | 0x1A => resv (decide (f.fn.extractLsb' 4 3 ≠ 0)) (.amoSeq f.d f.a f.b f.p (f.fn.extractLsb' 0 4))
  | 0x20 => resv (decide (f.fn.extractLsb' 5 2 ≠ 0)) (.copy f.d f.a f.b f.p (f.fn.extractLsb' 0 5))
  | 0x21 => (match (f.fn.extractLsb' 0 1).toNat with | 0 => resv (decide (f.fn.extractLsb' 5 2 ≠ 0) || decide (f.fn.extractLsb' 1 4 ≠ 0)) (.cwait f.d f.a f.b f.p) | _ => resv (decide (f.fn.extractLsb' 5 2 ≠ 0)) (.cwaitW f.d f.a f.b f.p (f.fn.extractLsb' 1 4)))
  | 0x22 => (match (f.fn.extractLsb' 0 2).toNat with | 0 => resv (decide (f.fn.extractLsb' 2 5 ≠ 0)) (.ctest f.d f.a f.b f.p) | 1 => resv (decide (f.fn.extractLsb' 2 5 ≠ 0)) (.ctestW f.d f.a f.b f.p) | 2 => resv (decide (f.fn.extractLsb' 2 5 ≠ 0) || decide (f.b ≠ 0)) (.ctestRec f.d f.a f.p) | _ => resv (decide (f.fn.extractLsb' 2 5 ≠ 0) || decide (f.b ≠ 0)) (.ctestAddr f.d f.a f.p))
  | 0x28 => if !(decide (f.fn.extractLsb' 5 2 ≠ 0) || decide (f.b.extractLsb' 5 2 ≠ 0)) && decide (f.b.extractLsb' 1 4 ≠ 0) then .error .file else resv (decide (f.fn.extractLsb' 5 2 ≠ 0) || decide (f.b.extractLsb' 5 2 ≠ 0)) (.mldb f.d f.a (f.b.getLsbD 0) f.p (f.fn.getLsbD 4) (f.fn.extractLsb' 0 4))
  | 0x29 => resv (decide (f.fn.extractLsb' 4 3 ≠ 0)) (.mjob f.d f.a f.b f.p (f.fn.extractLsb' 0 4))
  | 0x2A => (match (f.fn.extractLsb' 4 1).toNat with | 0 => resv (decide (f.fn.extractLsb' 5 2 ≠ 0)) (.mgang f.d f.a f.b f.p (f.fn.extractLsb' 0 4)) | _ => resv (decide (f.fn.extractLsb' 5 2 ≠ 0)) (.mgangJoin f.d f.a f.b f.p (f.fn.extractLsb' 0 4)))
  | _ => .error .major

/-- The Reg-format operations of the X slot (R80). -/
def decXReg (f : RegF) : Except Ilc Instr :=
  match f.op.toNat with
  | 0x01 => resv (decide (f.fn.extractLsb' 6 1 ≠ 0) || decide (f.d ≠ 0)) (.pub f.a f.b f.p (f.fn.extractLsb' 0 6))
  | 0x02 => resv (decide (f.fn.extractLsb' 6 1 ≠ 0) || decide (f.a ≠ 0)) (.sub f.d f.b f.p (f.fn.extractLsb' 0 6))
  | 0x03 => resv (decide (f.fn.extractLsb' 6 1 ≠ 0) || decide (f.a ≠ 0)) (.unsub f.d f.b f.p (f.fn.extractLsb' 0 6))
  | 0x04 => resv (decide (f.fn.extractLsb' 6 1 ≠ 0) || decide (f.d ≠ 0)) (.recv f.a f.b f.p (f.fn.extractLsb' 0 6))
  | 0x05 => resv (decide (f.d ≠ 0)) (.recva f.a f.b f.p (f.fn.getLsbD 6) (f.fn.extractLsb' 0 6))
  | 0x06 => resv (decide (f.fn.extractLsb' 6 1 ≠ 0) || decide (f.a ≠ 0)) (.peek f.d f.b f.p (f.fn.extractLsb' 0 6))
  | 0x07 => (match (f.fn.extractLsb' 6 1).toNat with | 0 => resv (decide (f.d ≠ 0)) (.halo f.a f.b f.p (f.fn.extractLsb' 0 6)) | _ => resv (decide (f.d ≠ 0)) (.haloR f.a f.b f.p (f.fn.extractLsb' 0 6)))
  | 0x08 => (match (f.fn.extractLsb' 6 1).toNat with | 0 => resv (decide (f.a ≠ 0)) (.nameq f.d f.b f.p (f.fn.extractLsb' 0 6)) | _ => resv (decide (f.a ≠ 0)) (.nameqN f.d f.b f.p (f.fn.extractLsb' 0 6)))
  | 0x10 => resv (decide (f.fn.extractLsb' 3 4 ≠ 0)) (.spawn f.d f.a f.b f.p (f.fn.extractLsb' 0 3))
  | 0x11 => resv (decide (f.fn.extractLsb' 3 4 ≠ 0) || decide (f.d ≠ 0)) (.tinst f.a f.b f.p (f.fn.extractLsb' 0 3))
  | 0x12 => resv (decide (f.fn.extractLsb' 0 7 ≠ 0) || decide (f.d ≠ 0) || decide (f.a ≠ 0) || decide (f.b ≠ 0)) (.exit f.p)
  | 0x13 => resv (decide (f.fn.extractLsb' 0 7 ≠ 0) || decide (f.d ≠ 0) || decide (f.b ≠ 0)) (.barr f.a f.p)
  | 0x14 => resv (decide (f.fn.extractLsb' 0 7 ≠ 0) || decide (f.b ≠ 0)) (.bwait f.d f.a f.p)
  | 0x15 => resv (decide (f.fn.extractLsb' 0 7 ≠ 0) || decide (f.b ≠ 0)) (.btest f.d f.a f.p)
  | 0x16 => resv (decide (f.fn.extractLsb' 0 7 ≠ 0) || decide (f.d ≠ 0)) (.bset f.a f.b f.p)
  | 0x17 => resv (decide (f.fn.extractLsb' 0 7 ≠ 0) || decide (f.d ≠ 0)) (.migrate f.a f.b f.p)
  | 0x20 => resv (decide (f.fn.extractLsb' 0 7 ≠ 0)) (.tsrc f.d f.a f.b f.p)
  | 0x21 => resv (decide (f.fn.extractLsb' 0 7 ≠ 0) || decide (f.b ≠ 0)) (.tadd f.d f.a f.p)
  | 0x22 => resv (decide (f.fn.extractLsb' 0 7 ≠ 0) || decide (f.d ≠ 0)) (.tarm f.a f.b f.p)
  | 0x23 => resv (decide (f.fn.extractLsb' 0 7 ≠ 0) || decide (f.d ≠ 0) || decide (f.b ≠ 0)) (.tdis f.a f.p)
  | 0x24 => (match f.fn.toNat with | 0 => resv (decide (f.b ≠ 0)) (.tget f.d f.a f.p) | 1 => resv (decide (f.a ≠ 0)) (.tgetSlot f.d f.b f.p) | 2 => resv (decide (f.a ≠ 0)) (.tgetRes f.d f.b f.p) | _ => .error .fn)
  | 0x25 => resv (decide (f.fn.extractLsb' 0 7 ≠ 0) || decide (f.b ≠ 0)) (.tset f.d f.a f.p)
  | 0x30 => resv (decide (f.fn.extractLsb' 6 1 ≠ 0)) (.coll f.d f.a f.b f.p (f.fn.extractLsb' 0 6))
  | 0x31 => resv (decide (f.fn.extractLsb' 6 1 ≠ 0) || decide (f.a ≠ 0) || decide (f.b ≠ 0)) (.colw f.d f.p (f.fn.extractLsb' 0 6))
  | 0x32 => resv (decide (f.fn.extractLsb' 6 1 ≠ 0) || decide (f.a ≠ 0) || decide (f.b ≠ 0)) (.colt f.d f.p (f.fn.extractLsb' 0 6))
  | 0x38 => resv (decide (f.fn.extractLsb' 0 7 ≠ 0) || decide (f.d ≠ 0) || decide (f.b ≠ 0)) (.snap f.a f.p)
  | 0x39 => (match (f.fn.extractLsb' 0 2).toNat with | 0 => resv (decide (f.fn.extractLsb' 2 5 ≠ 0) || decide (f.a ≠ 0) || decide (f.b ≠ 0)) (.snrd f.d f.p) | 1 => resv (decide (f.fn.extractLsb' 2 5 ≠ 0) || decide (f.a ≠ 0) || decide (f.b ≠ 0)) (.snrdRb f.d f.p) | _ => .error .fn)
  | _ => .error .major

/-- The four slots of a bundle (R66). -/
inductive SlotId where
  | c | v | m | x
deriving DecidableEq, Repr

/-- A slot's number, as KTRAP.SLOT gives it (R152). -/
def SlotId.num : SlotId → Nat
  | .c => 0 | .v => 1 | .m => 2 | .x => 3

/-- The format a major opcode uses in a slot (R68, R77 to R80); none where the major is unassigned. -/
inductive Format where
  | reg | imm | mem | other
deriving DecidableEq, Repr

/-- The format of each assigned major opcode (R77 to R80). -/
def slotFormat (sl : SlotId) (op : Nat) : Option Format :=
  match sl with
  | .c =>
    if op = 0 then none
    else if op ≤ 0x15 then some .reg
    else if op < 0x18 then none
    else if op ≤ 0x1E then some .imm
    else if op ≤ 0x20 then some .other
    else if op ≤ 0x25 then some .reg
    else if op ≤ 0x29 then some .other
    else if op = 0x2A then some .reg
    else if op = 0x2B then some .other
    else if op = 0x2C then some .reg
    else if op = 0x2D then some .imm
    else if op = 0x2E then some .reg
    else if op ≤ 0x31 then some .imm
    else if op ≤ 0x33 then some .reg
    else if op = 0x34 then some .imm
    else if op = 0x35 then some .reg
    else none
  | .v =>
    if op = 0 then none
    else if op ≤ 0x0D then some .reg
    else if op < 0x18 then none
    else if op ≤ 0x1B then some .imm
    else if op < 0x40 then none
    else if op ≤ 0x58 then some .reg
    else if op ≤ 0x5A then some .imm
    else if op ≤ 0x60 then some .reg
    else if op < 0x68 then none
    else if op ≤ 0x76 then some .reg
    else none
  | .m => if op = 1 ∨ op = 2 then some .mem else if op = 0 then none else some .reg
  | .x => if op = 0 then none else some .reg

/-- The operation of one slot word before its register numbers and codes are checked. -/
def parseSlot (sl : SlotId) (w : BitVec 32) (lx : Option (BitVec 7)) : Except Ilc Instr :=
  if w = 0 then (if lx.getD 0 = 0 then .ok .nop else .error .reserved)
  else
    let op := (w.extractLsb' 25 7).toNat
    let f := regF w (lx.getD 0)
    match slotFormat sl op with
    | none => .error .major
    | some .reg =>
      if (lx.getD 0).getLsbD 6 then .error .reserved
      else match sl with
        | .c => if op ≤ 0x0D then decShared f else decCReg f
        | .v => if op ≤ 0x0D then decShared f else decVReg f
        | .m => decMReg f
        | .x => decXReg f
    | some .imm =>
      match sl with
      | .c => if 0x18 ≤ op ∧ op ≤ 0x1B then decSharedImm (immF w lx) else decCImm (immF w lx)
      | _ => if 0x18 ≤ op ∧ op ≤ 0x1B then decSharedImm (immF w lx) else decVImm (immF w lx)
    | some .mem => decMMem (memF w lx)
    | some .other => decCOther w

/-- Decodes one slot: an operation that is well formed, or an ILLEGAL cause (R75). `lx` is the slot's lent field when the
bundle has a header. -/
def decodeSlot (sl : SlotId) (w : BitVec 32) (lx : Option (BitVec 7)) : Except Ilc Instr :=
  match parseSlot sl w lx with
  | .ok i =>
    match i.illegal? with
    | none => .ok i
    | some c => .error c.1
  | .error e => .error e

/-- The header slot (R72): first-only and last-only flags and lent bits of the V, M and X slots. -/
structure Header where
  vf : Bool
  vl : Bool
  mf : Bool
  ml : Bool
  xf : Bool
  xl : Bool
  lxv : BitVec 7
  lxm : BitVec 7
  lxx : BitVec 7
deriving DecidableEq, Repr

/-- Reads a header slot (R72). -/
def headerOf (w : BitVec 32) : Header :=
  ⟨w.getLsbD 26, w.getLsbD 25, w.getLsbD 24, w.getLsbD 23, w.getLsbD 22, w.getLsbD 21,
   w.extractLsb' 14 7, w.extractLsb' 7 7, w.extractLsb' 0 7⟩

/-- S0 is a header slot when its bits [31:28] are 0b1111 (R72). -/
def isHeader (w : BitVec 32) : Bool := decide (w.extractLsb' 28 4 = 0xF)

/-- One decoded slot with its first-only and last-only flags (R74). -/
structure SlotOp where
  slot  : SlotId
  op    : Except Ilc Instr
  first : Bool
  last  : Bool

/-- A decoded bundle: its four slots in issue order S0, S1, S2, S3 (R56, R66). -/
def decodeBundle (w : BitVec 128) : List SlotOp :=
  let w0 := w.extractLsb' 0 32
  let w1 := w.extractLsb' 32 32
  let w2 := w.extractLsb' 64 32
  let w3 := w.extractLsb' 96 32
  if isHeader w0 then
    let h := headerOf w0
    [⟨.c, if w0.getLsbD 27 then .error .reserved else .ok .nop, false, false⟩,
     ⟨.v, decodeSlot .v w1 (some h.lxv), h.vf, h.vl⟩,
     ⟨.m, decodeSlot .m w2 (some h.lxm), h.mf, h.ml⟩,
     ⟨.x, decodeSlot .x w3 (some h.lxx), h.xf, h.xl⟩]
  else
    [⟨.c, decodeSlot .c w0 none, false, false⟩, ⟨.v, decodeSlot .v w1 none, false, false⟩,
     ⟨.m, decodeSlot .m w2 none, false, false⟩, ⟨.x, decodeSlot .x w3 none, false, false⟩]

/-- The sixteen bytes of a bundle as its 128-bit value, little-endian (R2, R66). -/
def bundleOfBytes (bs : List Byte) : BitVec 128 :=
  BitVec.ofNat 128 (bs.foldr (fun b n => n * 256 + b.toNat) 0)

/-- The slot in which a lone slot word decodes: the first of S0, S1, S2, S3 that accepts it. -/
def slotOfWord (w : BitVec 32) : Option (SlotId × Instr) :=
  [SlotId.c, SlotId.v, SlotId.m, SlotId.x].findSome? fun sl =>
    match decodeSlot sl w none with
    | .ok i => some (sl, i)
    | .error _ => none

/-- The instruction of an opcode-table word of `nbits` bits: a table word is one 32-bit slot, read in the first slot that
accepts it (log entry 3). -/
def decodeTableWord (nbits w : Nat) : Option Instr :=
  if nbits ≤ 32 then (slotOfWord (BitVec.ofNat 32 w)).map (·.2) else none

/-! ### The encoder -/

/-- Writes the Reg format: the slot word and the lent field it needs (R68, R73). -/
def encReg (op d a b : BitVec 7) (p : BitVec 3) (fn : BitVec 7) : BitVec 32 × BitVec 7 :=
  (op ++ d.extractLsb' 0 5 ++ a.extractLsb' 0 5 ++ b.extractLsb' 0 5 ++ p ++ fn,
   (0 : BitVec 1) ++ b.extractLsb' 5 2 ++ a.extractLsb' 5 2 ++ d.extractLsb' 5 2)

/-- Writes the Imm format with a 19-bit immediate (R68, R73). -/
def encImm (op : BitVec 7) (d a : BitVec 5) (p : BitVec 3) (imm : BitVec 19) : BitVec 32 × BitVec 7 :=
  (op ++ d ++ a ++ p ++ imm.extractLsb' 0 12, imm.extractLsb' 12 7)

/-- Writes the Mem format (R68, R73). -/
def encMem (op : BitVec 7) (d : BitVec 5) (a : BitVec 4) (sz p : BitVec 3) (off : BitVec 17) : BitVec 32 × BitVec 7 :=
  (op ++ d ++ a ++ sz ++ p ++ off.extractLsb' 0 10, off.extractLsb' 10 7)

/-- One bit as a one-bit field. -/
def bit1 (b : Bool) : BitVec 1 := BitVec.ofBool b

/-- The slots whose map holds an operation (R77 to R80); none for events and host commands. -/
def Instr.slots : Instr → List SlotId
  | .nop => [.c, .v, .m, .x]
  | .add _ _ _ _ | .isub _ _ _ _ | .and _ _ _ _ | .or _ _ _ _ | .xor _ _ _ _ | .andn _ _ _ _ | .shl _ _ _ _
  | .shr _ _ _ _ | .sar _ _ _ _ | .min _ _ _ _ | .max _ _ _ _ | .minu _ _ _ _ | .maxu _ _ _ _ | .addi _ _ _ _
  | .andi _ _ _ _ | .ori _ _ _ _ | .xori _ _ _ _ => [.c, .v]
  | .bcntPop _ _ _ | .bcntLz _ _ _ | .bcntTz _ _ _ | .mul _ _ _ _ | .mulh _ _ _ _ | .mulhu _ _ _ _ | .div _ _ _ _
  | .divu _ _ _ _ | .rem _ _ _ _ | .remu _ _ _ _ | .shli _ _ _ _ | .shri _ _ _ _ | .sari _ _ _ _ | .li _ _
  | .lsh _ _ | .cmp _ _ _ _ _ | .cmpp _ _ _ _ _ | .sel _ _ _ _ _ | .adda _ _ _ _ | .movaAS _ _ _ | .movaSA _ _ _
  | .movaAA _ _ _ | .movaSN _ _ _ | .br _ _ _ | .brp _ _ _ | .brv _ _ _ | .jmp _ | .jr _ _ | .jrLink _ _ _
  | .call _ _ | .ret _ _ | .loop _ _ _ _ | .lstr _ _ _ _ | .trap _ _ | .krd _ _ _ | .kwr _ _ _ | .mrd _ _ _
  | .mwr _ _ _ | .ldpw _ _ _ _ | .eret => [.c]
  | .vadd _ _ _ _ _ _ _ | .vsub _ _ _ _ _ _ _ | .vmul _ _ _ _ _ _ _ | .vfma _ _ _ _ _ _ _ _ | .vmin _ _ _ _ _ _ _
  | .vmax _ _ _ _ _ _ _ | .vabs _ _ _ _ _ | .vneg _ _ _ _ _ | .vand _ _ _ _ _ | .vor _ _ _ _ _ | .vxor _ _ _ _ _
  | .vshl _ _ _ _ _ _ | .vshr _ _ _ _ _ _ | .vcmp _ _ _ _ _ _ | .vsel _ _ _ _ _ _ | .vmovV _ _ _
  | .vmovSplat _ _ _ _ | .vmovHS _ _ _ | .vmovSH _ _ _ | .vmovPS _ _ _ | .vmovSP _ _ _ | .vmovIdx _ _ _
  | .vcvt _ _ _ _ _ _ _ | .vqdb _ _ _ _ _ | .vcomp _ _ _ _ | .vexpd _ _ _ _ | .vperm _ _ _ _ _ _ | .vred _ _ _ _ _
  | .vsfu _ _ _ _ | .vext _ _ _ _ _ | .vins _ _ _ _ _ | .vld _ _ _ _ | .vst _ _ _ _ | .vldl _ _ _ _ _
  | .vstl _ _ _ _ _ | .pand _ _ _ _ _ | .por _ _ _ _ _ | .pxor _ _ _ _ _ | .pcnt _ _ _ | .vjadd _ _ _ _ _ _ _
  | .vjsub _ _ _ _ _ _ _ | .vjmul _ _ _ _ _ _ _ | .vjfma _ _ _ _ _ _ _ | .vjmin _ _ _ _ _ _ _ | .vjmax _ _ _ _ _ _ _
  | .vjcvt _ _ _ _ _ _ _ | .vjqdb _ _ _ _ _ _ | .vjred _ _ _ _ _ _ _ | .vjsfu _ _ _ _ _ _ _ | .vjcomp _ _ _ _ _
  | .vjexpd _ _ _ _ _ | .vjsel _ _ _ _ _ _ _ | .vjcmp _ _ _ _ _ _ | .vjfill _ _ _ => [.v]
  | .ld _ _ _ _ _ | .st _ _ _ _ _ | .ldx _ _ _ _ _ _ | .stx _ _ _ _ _ _ | .qld _ _ _ _ _ _ | .qst _ _ _ _ _ _ _
  | .qpop _ _ _ | .qpopT _ _ _ _ | .qwait _ _ _ | .qwaitAll _ _ _ | .fence _ _ | .amoAdd _ _ _ _ _ _ _
  | .amoSwap _ _ _ _ _ _ _ | .amoCas _ _ _ _ _ _ _ | .amoAnd _ _ _ _ _ _ _ | .amoOr _ _ _ _ _ _ _
  | .amoXor _ _ _ _ _ _ _ | .amoMin _ _ _ _ _ _ _ | .amoMax _ _ _ _ _ _ _ | .amoMinu _ _ _ _ _ _ _
  | .amoMaxu _ _ _ _ _ _ _ | .amoSeq _ _ _ _ _ | .copy _ _ _ _ _ | .cwait _ _ _ _ | .cwaitW _ _ _ _ _
  | .ctest _ _ _ _ | .ctestW _ _ _ _ | .ctestRec _ _ _ | .ctestAddr _ _ _ | .mldb _ _ _ _ _ _ | .mjob _ _ _ _ _
  | .mgang _ _ _ _ _ | .mgangJoin _ _ _ _ _ => [.m]
  | .pub _ _ _ _ | .sub _ _ _ _ | .unsub _ _ _ _ | .recv _ _ _ _ | .recva _ _ _ _ _ | .peek _ _ _ _ | .halo _ _ _ _
  | .haloR _ _ _ _ | .nameq _ _ _ _ | .nameqN _ _ _ _ | .spawn _ _ _ _ _ | .tinst _ _ _ _ | .exit _ | .barr _ _
  | .bwait _ _ _ | .btest _ _ _ | .bset _ _ _ | .migrate _ _ _ | .tsrc _ _ _ _ | .tadd _ _ _ | .tarm _ _ _
  | .tdis _ _ | .tget _ _ _ | .tgetSlot _ _ _ | .tgetRes _ _ _ | .tset _ _ _ | .coll _ _ _ _ _ | .colw _ _ _
  | .colt _ _ _ | .snap _ _ | .snrd _ _ | .snrdRb _ _ => [.x]
  | .exposedResultLand _ | .stalledBundleIssue _ | .impreciseFault _ | .xOpAccept _ | .queueRequestSend _ _
  | .queueAccessPerform _ _ _ | .pageWalk _ _ _ | .scoreboardEntryRelease _ _ | .vectorJobStart _
  | .vectorJobComplete _ | .copyRunPerform _ _ _ | .copyFinish _ _ | .mldbLoadStart _ | .planeLoaded _
  | .matrixJobStart _ | .matrixJobComplete _ | .governorWindow _ | .planeTransfer _ _ _ | .gangWindowExpire _ _
  | .gangCompletion _ _ | .gangArrivalCount _ _ | .launchStartTick _ | .taskStart _ | .taskAging _ _
  | .preemptStart _ | .spillComplete _ _ | .restoreComplete _ _ | .exitDrainEnd _ _ | .recordFree _ _
  | .containmentComplete _ _ | .tagLeaseRefill _ _ | .tagLeaseReturn _ _ | .reservedTagGrant _ _
  | .barrierArrival _ _ | .migrationArrive _ | .pubAdmit _ _ | .admitWindowRoll _ | .packetForward _ _
  | .rootAccept _ _ | .pubRetry _ _ | .landingReserve _ | .subRegister _ _ | .subWithdraw _ _ | .chunkLand _ _
  | .recvDeliver _ _ | .deliveryAckTimeout _ _ | .retentionExpire _ _ | .versionUnpin _ _ | .nameqQuery _ _
  | .commit _ _ | .discard _ _ | .triadVote _ _ | .keepWriteback _ _ | .writebackComplete _ _ | .rimFetch _ _
  | .counterEvent _ _ | .triggerOpStart _ | .triggerOpComplete _ _ | .collActivate _ _ | .collSegmentStart _ _
  | .collContribution _ _ | .collComplete _ _ | .lanternArrive _ _ _ | .chunkWriteout _ _ _ | .pageWriteout _ _
  | .captureReport _ _ | .remoteRequestArrive _ _ _ _ _ _ _ _ _ | .remoteRetransmit _ _ | .remoteRequestExpire _ _
  | .dupEntryRetire _ _ | .tokenVisit _ | .tokenRegenerate | .scrubStep _ | .loadImage _ _ _
  | .loadImageFirmware _ _ | .loadImageSupervisor _ _ | .launch _ _ _ | .launchSupervisor _ _ | .migrateCmd _ _
  | .snapshot _ _ | .rollback _ _ | .partitionMerge _ _ _ | .partitionSplit _ _ _ | .summary _ _ | .resetContext _ _
  | .resetContextClear _ _ | .resetContextFree _ _ | .unknownCommand _ _ | .rdmaWrite _ _ _ _ | .rdmaRead _ _ _ _
  | .rdmaInvalid _ _ | .faultNotify _ | .moduleReset | .bringupReport _ _ _ _ | .startTimeout | .ptpMessage _ _
  | .ptpMasterLoss _ | .syncSymbol _ _ | .powerMeasure _ | .hotGroveEvent _ _ | .hotGroveClear _ _
  | .groveWithdraw _ _ | .groveReturn _ | .forcedFlushMove _ | .ctxFlush _ | .flushComplete _ | .seedWrite _ _
  | .rootovrWrite _ _ _ | .sliceSplitWrite _ _ | .partmapWrite _ | .seamQuiesce _ _ | .seamQuiesced _
  | .seamQuiesceTimeout _ | .seamOpen _ | .seamClose _ | .ilvWrite _ _ | .hbmClearComplete _ | .shootdown _
  | .grantWrite _ _ _ | .registerWrite _ _ | .softError _ _ | .readinessLost _ _ | .readinessRegained _ _
  | .landingAcknowledgement _ _ | .sequenceNumberFree _ _ => []

/-- The slot word of an operation and the lent field it needs; none for events and host commands, which have no
encoding. -/
def encodeWord : Instr → Option (BitVec 32 × BitVec 7)
  | .nop => some (0, 0)
  | .li d imm => some ((0x1F : BitVec 7) ++ d ++ imm, 0)
  | .lsh d imm => some ((0x20 : BitVec 7) ++ d ++ imm, 0)
  | .br a c off => some ((0x26 : BitVec 7) ++ a ++ c ++ (0 : BitVec 4) ++ off, 0)
  | .brp a c off => some ((0x27 : BitVec 7) ++ a ++ c ++ (0 : BitVec 4) ++ off, 0)
  | .brv a c off => some ((0x28 : BitVec 7) ++ a ++ c ++ (0 : BitVec 4) ++ off, 0)
  | .jmp target => some ((0x29 : BitVec 7) ++ (0 : BitVec 13) ++ target, 0)
  | .call d target => some ((0x2B : BitVec 7) ++ d ++ (0 : BitVec 8) ++ target, 0)
  | .eret => some (encReg 0x35 0 0 0 0 0)
  | .ld d a sz p off => some (encMem 0x01 d a sz p off)
  | .st d a sz p off => some (encMem 0x02 d a sz p off)
  | .add d a b p => some (encReg 0x01 d a b p (0 : BitVec 7))
  | .isub d a b p => some (encReg 0x02 d a b p (0 : BitVec 7))
  | .and d a b p => some (encReg 0x03 d a b p (0 : BitVec 7))
  | .or d a b p => some (encReg 0x04 d a b p (0 : BitVec 7))
  | .xor d a b p => some (encReg 0x05 d a b p (0 : BitVec 7))
  | .andn d a b p => some (encReg 0x06 d a b p (0 : BitVec 7))
  | .shl d a b p => some (encReg 0x07 d a b p (0 : BitVec 7))
  | .shr d a b p => some (encReg 0x08 d a b p (0 : BitVec 7))
  | .sar d a b p => some (encReg 0x09 d a b p (0 : BitVec 7))
  | .min d a b p => some (encReg 0x0A d a b p (0 : BitVec 7))
  | .max d a b p => some (encReg 0x0B d a b p (0 : BitVec 7))
  | .minu d a b p => some (encReg 0x0C d a b p (0 : BitVec 7))
  | .maxu d a b p => some (encReg 0x0D d a b p (0 : BitVec 7))
  | .bcntPop d a p => some (encReg 0x0E d a 0 p (0 : BitVec 7))
  | .bcntLz d a p => some (encReg 0x0E d a 0 p (1 : BitVec 7))
  | .bcntTz d a p => some (encReg 0x0E d a 0 p (2 : BitVec 7))
  | .mul d a b p => some (encReg 0x0F d a b p (0 : BitVec 7))
  | .mulh d a b p => some (encReg 0x10 d a b p (0 : BitVec 7))
  | .mulhu d a b p => some (encReg 0x11 d a b p (0 : BitVec 7))
  | .div d a b p => some (encReg 0x12 d a b p (0 : BitVec 7))
  | .divu d a b p => some (encReg 0x13 d a b p (0 : BitVec 7))
  | .rem d a b p => some (encReg 0x14 d a b p (0 : BitVec 7))
  | .remu d a b p => some (encReg 0x15 d a b p (0 : BitVec 7))
  | .addi d a p imm => some (encImm 0x18 d a p imm)
  | .andi d a p imm => some (encImm 0x19 d a p imm)
  | .ori d a p imm => some (encImm 0x1A d a p imm)
  | .xori d a p imm => some (encImm 0x1B d a p imm)
  | .shli d a p imm => some (encImm 0x1C d a p ((0 : BitVec 7) ++ imm))
  | .shri d a p imm => some (encImm 0x1D d a p ((0 : BitVec 7) ++ imm))
  | .sari d a p imm => some (encImm 0x1E d a p ((0 : BitVec 7) ++ imm))
  | .cmp d a b p cc => some (encReg 0x21 d a b p cc)
  | .cmpp d a b p cc => some (encReg 0x22 d a b p cc)
  | .sel d a b p c => some (encReg 0x23 d a b p ((0 : BitVec 4) ++ c))
  | .adda d a b p => some (encReg 0x24 d a b p (0 : BitVec 7))
  | .movaAS d a p => some (encReg 0x25 d a 0 p (0 : BitVec 7))
  | .movaSA d a p => some (encReg 0x25 d a 0 p (1 : BitVec 7))
  | .movaAA d a p => some (encReg 0x25 d a 0 p (2 : BitVec 7))
  | .movaSN d a p => some (encReg 0x25 d a 0 p (3 : BitVec 7))
  | .jr a p => some (encReg 0x2A 0 a 0 p ((0 : BitVec 6) ++ (0 : BitVec 1)))
  | .jrLink d a p => some (encReg 0x2A d a 0 p ((0 : BitVec 6) ++ (1 : BitVec 1)))
  | .ret a p => some (encReg 0x2C 0 a 0 p (0 : BitVec 7))
  | .loop d a p imm => some (encImm 0x2D d a p ((0 : BitVec 7) ++ imm))
  | .lstr d b p l => some (encReg 0x2E d 0 b p ((0 : BitVec 4) ++ l))
  | .trap p code => some (encImm 0x2F 0 0 p ((0 : BitVec 7) ++ code))
  | .krd d p k => some (encImm 0x30 d 0 p ((0 : BitVec 7) ++ k))
  | .kwr a p k => some (encImm 0x31 0 a p ((0 : BitVec 7) ++ k))
  | .mrd d a p => some (encReg 0x32 d a 0 p (0 : BitVec 7))
  | .mwr a b p => some (encReg 0x33 0 a b p (0 : BitVec 7))
  | .ldpw d a p imm => some (encImm 0x34 d a p ((0 : BitVec 7) ++ imm))
  | .vadd d a b p sb sat t => some (encReg 0x40 d a b p ((0 : BitVec 1) ++ bit1 sb ++ bit1 sat ++ t))
  | .vsub d a b p sb sat t => some (encReg 0x41 d a b p ((0 : BitVec 1) ++ bit1 sb ++ bit1 sat ++ t))
  | .vmul d a b p sb sat t => some (encReg 0x42 d a b p ((0 : BitVec 1) ++ bit1 sb ++ bit1 sat ++ t))
  | .vfma d a b p neg sb sat t => some (encReg 0x43 d a b p (bit1 neg ++ bit1 sb ++ bit1 sat ++ t))
  | .vmin d a b p sb sat t => some (encReg 0x44 d a b p ((0 : BitVec 1) ++ bit1 sb ++ bit1 sat ++ t))
  | .vmax d a b p sb sat t => some (encReg 0x45 d a b p ((0 : BitVec 1) ++ bit1 sb ++ bit1 sat ++ t))
  | .vabs d a p sat t => some (encReg 0x46 d a 0 p ((0 : BitVec 2) ++ bit1 sat ++ t))
  | .vneg d a p sat t => some (encReg 0x47 d a 0 p ((0 : BitVec 2) ++ bit1 sat ++ t))
  | .vand d a b p nb => some (encReg 0x48 d a b p ((0 : BitVec 6) ++ bit1 nb))
  | .vor d a b p nb => some (encReg 0x49 d a b p ((0 : BitVec 6) ++ bit1 nb))
  | .vxor d a b p nb => some (encReg 0x4A d a b p ((0 : BitVec 6) ++ bit1 nb))
  | .vshl d a b p sb t => some (encReg 0x4B d a b p ((0 : BitVec 1) ++ bit1 sb ++ (0 : BitVec 1) ++ t))
  | .vshr d a b p sb t => some (encReg 0x4C d a b p ((0 : BitVec 1) ++ bit1 sb ++ (0 : BitVec 1) ++ t))
  | .vcmp d a b p cc t => some (encReg 0x4D d a b p (cc ++ t))
  | .vsel d a b p t c => some (encReg 0x4E d a b p (t ++ c))
  | .vmovV d a p => some (encReg 0x4F d a 0 p ((0 : BitVec 3) ++ (0 : BitVec 4)))
  | .vmovSplat d a p t => some (encReg 0x4F d a 0 p ((1 : BitVec 3) ++ t))
  | .vmovHS d a p => some (encReg 0x4F d a 0 p ((2 : BitVec 3) ++ (0 : BitVec 4)))
  | .vmovSH d a p => some (encReg 0x4F d a 0 p ((3 : BitVec 3) ++ (0 : BitVec 4)))
  | .vmovPS d a p => some (encReg 0x4F d a 0 p ((4 : BitVec 3) ++ (0 : BitVec 4)))
  | .vmovSP d a p => some (encReg 0x4F d a 0 p ((5 : BitVec 3) ++ (0 : BitVec 4)))
  | .vmovIdx d p t => some (encReg 0x4F d 0 0 p ((6 : BitVec 3) ++ t))
  | .vcvt d a p sat ts part td => some (encReg 0x50 d a ((0 : BitVec 2) ++ bit1 sat ++ ts) p (part ++ td))
  | .vqdb d a p single db4 => some (encReg 0x51 d a 0 p ((0 : BitVec 5) ++ bit1 single ++ bit1 db4))
  | .vcomp d a p w64 => some (encReg 0x52 d a 0 p ((0 : BitVec 6) ++ bit1 w64))
  | .vexpd d a p w64 => some (encReg 0x53 d a 0 p ((0 : BitVec 6) ++ bit1 w64))
  | .vperm d a b p w64 byte => some (encReg 0x54 d a b p ((0 : BitVec 5) ++ bit1 w64 ++ bit1 byte))
  | .vred d a p op t => some (encReg 0x55 d a 0 p (op ++ t))
  | .vsfu d a p f => some (encReg 0x56 d a 0 p ((0 : BitVec 4) ++ f))
  | .vext d a b p t => some (encReg 0x57 d a b p ((0 : BitVec 3) ++ t))
  | .vins d a b p t => some (encReg 0x58 d a b p ((0 : BitVec 3) ++ t))
  | .vld d a p off => some (encImm 0x59 d a p off)
  | .vst d a p off => some (encImm 0x5A d a p off)
  | .vldl d a b p sz => some (encReg 0x5B d a b p ((0 : BitVec 4) ++ sz))
  | .vstl d a b p sz => some (encReg 0x5C d a b p ((0 : BitVec 4) ++ sz))
  | .pand d a b p nb => some (encReg 0x5D d a b p ((0 : BitVec 6) ++ bit1 nb))
  | .por d a b p nb => some (encReg 0x5E d a b p ((0 : BitVec 6) ++ bit1 nb))
  | .pxor d a b p nb => some (encReg 0x5F d a b p ((0 : BitVec 6) ++ bit1 nb))
  | .pcnt d a p => some (encReg 0x60 d a 0 p (0 : BitVec 7))
  | .vjadd d a b p sat rm t => some (encReg 0x68 d a b p (bit1 sat ++ rm ++ t))
  | .vjsub d a b p sat rm t => some (encReg 0x69 d a b p (bit1 sat ++ rm ++ t))
  | .vjmul d a b p sat rm t => some (encReg 0x6A d a b p (bit1 sat ++ rm ++ t))
  | .vjfma d a b p sat rm t => some (encReg 0x6B d a b p (bit1 sat ++ rm ++ t))
  | .vjmin d a b p sat rm t => some (encReg 0x6C d a b p (bit1 sat ++ rm ++ t))
  | .vjmax d a b p sat rm t => some (encReg 0x6D d a b p (bit1 sat ++ rm ++ t))
  | .vjcvt d a p sat ts rm td => some (encReg 0x6E d a ((0 : BitVec 2) ++ bit1 sat ++ ts) p ((0 : BitVec 1) ++ rm ++ td))
  | .vjqdb d a p ts single td => some (encReg 0x6F d a ((0 : BitVec 2) ++ (0 : BitVec 1) ++ ts) p ((0 : BitVec 2) ++ bit1 single ++ td))
  | .vjred d a p sat rm op t => some (encReg 0x70 d a ((0 : BitVec 2) ++ (0 : BitVec 2) ++ bit1 sat ++ rm) p (op ++ t))
  | .vjsfu d a p sat rm t f => some (encReg 0x71 d a ((0 : BitVec 2) ++ (0 : BitVec 2) ++ bit1 sat ++ rm) p (t ++ f))
  | .vjcomp d a b p t => some (encReg 0x72 d a b p ((0 : BitVec 3) ++ t))
  | .vjexpd d a b p t => some (encReg 0x73 d a b p ((0 : BitVec 3) ++ t))
  | .vjsel d a b p sat rm t => some (encReg 0x74 d a b p (bit1 sat ++ rm ++ t))
  | .vjcmp d a b p cc t => some (encReg 0x75 d a b p (cc ++ t))
  | .vjfill d p t => some (encReg 0x76 d 0 0 p ((0 : BitVec 3) ++ t))
  | .ldx d a b p sc sz => some (encReg 0x03 d a b p ((0 : BitVec 3) ++ bit1 sc ++ sz))
  | .stx d a b p sc sz => some (encReg 0x04 d a b p ((0 : BitVec 3) ++ bit1 sc ++ sz))
  | .qld d a p ord scope sz => some (encReg 0x08 d a 0 p (ord ++ scope ++ sz))
  | .qst d a b p ord scope sz => some (encReg 0x09 d a b p (ord ++ scope ++ sz))
  | .qpop d a p => some (encReg 0x0A d a 0 p ((0 : BitVec 6) ++ (0 : BitVec 1)))
  | .qpopT d a b p => some (encReg 0x0A d a b p ((0 : BitVec 6) ++ (1 : BitVec 1)))
  | .qwait d a p => some (encReg 0x0B d a 0 p ((0 : BitVec 6) ++ (0 : BitVec 1)))
  | .qwaitAll d a p => some (encReg 0x0B d a 0 p ((0 : BitVec 6) ++ (1 : BitVec 1)))
  | .fence p scope => some (encReg 0x0C 0 0 0 p ((0 : BitVec 5) ++ scope))
  | .amoAdd d a b p ord scope sz => some (encReg 0x10 d a b p (ord ++ scope ++ sz))
  | .amoSwap d a b p ord scope sz => some (encReg 0x11 d a b p (ord ++ scope ++ sz))
  | .amoCas d a b p ord scope sz => some (encReg 0x12 d a b p (ord ++ scope ++ sz))
  | .amoAnd d a b p ord scope sz => some (encReg 0x13 d a b p (ord ++ scope ++ sz))
  | .amoOr d a b p ord scope sz => some (encReg 0x14 d a b p (ord ++ scope ++ sz))
  | .amoXor d a b p ord scope sz => some (encReg 0x15 d a b p (ord ++ scope ++ sz))
  | .amoMin d a b p ord scope sz => some (encReg 0x16 d a b p (ord ++ scope ++ sz))
  | .amoMax d a b p ord scope sz => some (encReg 0x17 d a b p (ord ++ scope ++ sz))
  | .amoMinu d a b p ord scope sz => some (encReg 0x18 d a b p (ord ++ scope ++ sz))
  | .amoMaxu d a b p ord scope sz => some (encReg 0x19 d a b p (ord ++ scope ++ sz))
  | .amoSeq d a b p op => some (encReg 0x1A d a b p ((0 : BitVec 3) ++ op))
  | .copy d a b p e => some (encReg 0x20 d a b p ((0 : BitVec 2) ++ e))
  | .cwait d a b p => some (encReg 0x21 d a b p ((0 : BitVec 2) ++ (0 : BitVec 4) ++ (0 : BitVec 1)))
  | .cwaitW d a b p k => some (encReg 0x21 d a b p ((0 : BitVec 2) ++ k ++ (1 : BitVec 1)))
  | .ctest d a b p => some (encReg 0x22 d a b p ((0 : BitVec 5) ++ (0 : BitVec 2)))
  | .ctestW d a b p => some (encReg 0x22 d a b p ((0 : BitVec 5) ++ (1 : BitVec 2)))
  | .ctestRec d a p => some (encReg 0x22 d a 0 p ((0 : BitVec 5) ++ (2 : BitVec 2)))
  | .ctestAddr d a p => some (encReg 0x22 d a 0 p ((0 : BitVec 5) ++ (3 : BitVec 2)))
  | .mldb k a plane p bt t => some (encReg 0x28 k a ((0 : BitVec 2) ++ (0 : BitVec 4) ++ bit1 plane) p ((0 : BitVec 2) ++ bit1 bt ++ t))
  | .mjob d a b p t => some (encReg 0x29 d a b p ((0 : BitVec 3) ++ t))
  | .mgang d a b p t => some (encReg 0x2A d a b p ((0 : BitVec 2) ++ (0 : BitVec 1) ++ t))
  | .mgangJoin d a b p t => some (encReg 0x2A d a b p ((0 : BitVec 2) ++ (1 : BitVec 1) ++ t))
  | .pub a b p ch => some (encReg 0x01 0 a b p ((0 : BitVec 1) ++ ch))
  | .sub d b p ch => some (encReg 0x02 d 0 b p ((0 : BitVec 1) ++ ch))
  | .unsub d b p ch => some (encReg 0x03 d 0 b p ((0 : BitVec 1) ++ ch))
  | .recv a b p ch => some (encReg 0x04 0 a b p ((0 : BitVec 1) ++ ch))
  | .recva a b p sat ch => some (encReg 0x05 0 a b p (bit1 sat ++ ch))
  | .peek d b p ch => some (encReg 0x06 d 0 b p ((0 : BitVec 1) ++ ch))
  | .halo a b p ch => some (encReg 0x07 0 a b p ((0 : BitVec 1) ++ ch))
  | .haloR a b p ch => some (encReg 0x07 0 a b p ((1 : BitVec 1) ++ ch))
  | .nameq d b p ch => some (encReg 0x08 d 0 b p ((0 : BitVec 1) ++ ch))
  | .nameqN d b p ch => some (encReg 0x08 d 0 b p ((1 : BitVec 1) ++ ch))
  | .spawn d a b p l => some (encReg 0x10 d a b p ((0 : BitVec 4) ++ l))
  | .tinst a b p l => some (encReg 0x11 0 a b p ((0 : BitVec 4) ++ l))
  | .exit p => some (encReg 0x12 0 0 0 p (0 : BitVec 7))
  | .barr a p => some (encReg 0x13 0 a 0 p (0 : BitVec 7))
  | .bwait d a p => some (encReg 0x14 d a 0 p (0 : BitVec 7))
  | .btest d a p => some (encReg 0x15 d a 0 p (0 : BitVec 7))
  | .bset a b p => some (encReg 0x16 0 a b p (0 : BitVec 7))
  | .migrate a b p => some (encReg 0x17 0 a b p (0 : BitVec 7))
  | .tsrc d a b p => some (encReg 0x20 d a b p (0 : BitVec 7))
  | .tadd d a p => some (encReg 0x21 d a 0 p (0 : BitVec 7))
  | .tarm a b p => some (encReg 0x22 0 a b p (0 : BitVec 7))
  | .tdis a p => some (encReg 0x23 0 a 0 p (0 : BitVec 7))
  | .tget d a p => some (encReg 0x24 d a 0 p (0 : BitVec 7))
  | .tgetSlot d b p => some (encReg 0x24 d 0 b p (1 : BitVec 7))
  | .tgetRes d b p => some (encReg 0x24 d 0 b p (2 : BitVec 7))
  | .tset d a p => some (encReg 0x25 d a 0 p (0 : BitVec 7))
  | .coll d a b p ch => some (encReg 0x30 d a b p ((0 : BitVec 1) ++ ch))
  | .colw d p ch => some (encReg 0x31 d 0 0 p ((0 : BitVec 1) ++ ch))
  | .colt d p ch => some (encReg 0x32 d 0 0 p ((0 : BitVec 1) ++ ch))
  | .snap a p => some (encReg 0x38 0 a 0 p (0 : BitVec 7))
  | .snrd d p => some (encReg 0x39 d 0 0 p ((0 : BitVec 5) ++ (0 : BitVec 2)))
  | .snrdRb d p => some (encReg 0x39 d 0 0 p ((0 : BitVec 5) ++ (1 : BitVec 2)))
  | .exposedResultLand _ | .stalledBundleIssue _ | .impreciseFault _ | .xOpAccept _ | .queueRequestSend _ _
  | .queueAccessPerform _ _ _ | .pageWalk _ _ _ | .scoreboardEntryRelease _ _ | .vectorJobStart _
  | .vectorJobComplete _ | .copyRunPerform _ _ _ | .copyFinish _ _ | .mldbLoadStart _ | .planeLoaded _
  | .matrixJobStart _ | .matrixJobComplete _ | .governorWindow _ | .planeTransfer _ _ _ | .gangWindowExpire _ _
  | .gangCompletion _ _ | .gangArrivalCount _ _ | .launchStartTick _ | .taskStart _ | .taskAging _ _
  | .preemptStart _ | .spillComplete _ _ | .restoreComplete _ _ | .exitDrainEnd _ _ | .recordFree _ _
  | .containmentComplete _ _ | .tagLeaseRefill _ _ | .tagLeaseReturn _ _ | .reservedTagGrant _ _
  | .barrierArrival _ _ | .migrationArrive _ | .pubAdmit _ _ | .admitWindowRoll _ | .packetForward _ _
  | .rootAccept _ _ | .pubRetry _ _ | .landingReserve _ | .subRegister _ _ | .subWithdraw _ _ | .chunkLand _ _
  | .recvDeliver _ _ | .deliveryAckTimeout _ _ | .retentionExpire _ _ | .versionUnpin _ _ | .nameqQuery _ _
  | .commit _ _ | .discard _ _ | .triadVote _ _ | .keepWriteback _ _ | .writebackComplete _ _ | .rimFetch _ _
  | .counterEvent _ _ | .triggerOpStart _ | .triggerOpComplete _ _ | .collActivate _ _ | .collSegmentStart _ _
  | .collContribution _ _ | .collComplete _ _ | .lanternArrive _ _ _ | .chunkWriteout _ _ _ | .pageWriteout _ _
  | .captureReport _ _ | .remoteRequestArrive _ _ _ _ _ _ _ _ _ | .remoteRetransmit _ _ | .remoteRequestExpire _ _
  | .dupEntryRetire _ _ | .tokenVisit _ | .tokenRegenerate | .scrubStep _ | .loadImage _ _ _
  | .loadImageFirmware _ _ | .loadImageSupervisor _ _ | .launch _ _ _ | .launchSupervisor _ _ | .migrateCmd _ _
  | .snapshot _ _ | .rollback _ _ | .partitionMerge _ _ _ | .partitionSplit _ _ _ | .summary _ _ | .resetContext _ _
  | .resetContextClear _ _ | .resetContextFree _ _ | .unknownCommand _ _ | .rdmaWrite _ _ _ _ | .rdmaRead _ _ _ _
  | .rdmaInvalid _ _ | .faultNotify _ | .moduleReset | .bringupReport _ _ _ _ | .startTimeout | .ptpMessage _ _
  | .ptpMasterLoss _ | .syncSymbol _ _ | .powerMeasure _ | .hotGroveEvent _ _ | .hotGroveClear _ _
  | .groveWithdraw _ _ | .groveReturn _ | .forcedFlushMove _ | .ctxFlush _ | .flushComplete _ | .seedWrite _ _
  | .rootovrWrite _ _ _ | .sliceSplitWrite _ _ | .partmapWrite _ | .seamQuiesce _ _ | .seamQuiesced _
  | .seamQuiesceTimeout _ | .seamOpen _ | .seamClose _ | .ilvWrite _ _ | .hbmClearComplete _ | .shootdown _
  | .grantWrite _ _ _ | .registerWrite _ _ | .softError _ _ | .readinessLost _ _ | .readinessRegained _ _
  | .landingAcknowledgement _ _ | .sequenceNumberFree _ _ => none

/-- The word of an operation, with the lent field it needs, in a slot whose map holds it. -/
def encode (i : Instr) (sl : SlotId) : Option (BitVec 32 × BitVec 7) :=
  if sl ∈ i.slots then encodeWord i else none

/-- Can a slot word stand in its slot without the lent field it needs (R73)? A Reg-format word needs none when its lent bits are
zero; an immediate or offset needs none when its lent bits repeat the top bit that the word holds. -/
def standsAlone (sl : SlotId) (w : BitVec 32) (lx : BitVec 7) : Bool :=
  match slotFormat sl (w.extractLsb' 25 7).toNat with
  | some .imm => decide (lx = if w.getLsbD 11 then BitVec.allOnes 7 else 0)
  | some .mem => decide (lx = if w.getLsbD 9 then BitVec.allOnes 7 else 0)
  | _ => decide (lx = 0)

/-- A bundle holding one operation in slot `sl` and no-operations elsewhere, with a header when the operation needs lent
bits (R72, R90). -/
def encodeBundle (sl : SlotId) (w : BitVec 32) (lx : Option (BitVec 7)) : BitVec 128 :=
  let z : BitVec 32 := 0
  match lx, sl with
  | none, .c => z ++ z ++ z ++ w
  | none, .v => z ++ z ++ w ++ z
  | none, .m => z ++ w ++ z ++ z
  | none, .x => w ++ z ++ z ++ z
  | some x, .v => z ++ z ++ w ++ ((0xF : BitVec 4) ++ (0 : BitVec 7) ++ x ++ (0 : BitVec 14))
  | some x, .m => z ++ w ++ z ++ ((0xF : BitVec 4) ++ (0 : BitVec 14) ++ x ++ (0 : BitVec 7))
  | some x, .x => w ++ z ++ z ++ ((0xF : BitVec 4) ++ (0 : BitVec 21) ++ x)
  | some _, .c => z ++ z ++ z ++ w

end Sys2Proof
end

