-- ==== Sys2Proof/Machine/State.lean ====
section
/-!
DEFINITION. The state of one module (R10) as plain data: its cores, groves, rim fields, contexts, trunk and memory, the
packets on its fabric, the record of snapshots, and the model's own agenda of outside inputs. Sparse tables list only the
entries that differ from their reset contents. Every structure's fields name the registers and records of the spec.
-/

namespace Sys2Proof.Machine

/-- A sparse table: entries in rising key order; an unlisted key holds the table's default. -/
abbrev Tbl (α : Type) := List (Nat × α)

/-- Bytes that travel with their poison (R52): `none` is a byte of a poison word. -/
abbrev Payload := List (Option Byte)

/-- Why a machine step could stop. The spec gives every step of this part an effect, so nothing raises these. -/
inductive Fault where
  /-- Raised by nobody (safe: it can only stop a run): a place holder of the host interface. -/
  | halted
deriving DecidableEq, Repr

/-- Why an instruction would have no meaning. -/
inductive Refusal where
  /-- Raised by an arm of the dispatcher for an instruction that has no meaning yet; safe. -/
  | notModelled (mnemonic : String)
deriving DecidableEq, Repr

/-! ### Names, channels and images -/

/-- A 96-bit tile name (R13) with its context number; version apart. -/
structure Name where
  handle : Nat
  c0 : Nat
  c1 : Nat
  c2 : Nat
  c3 : Nat
deriving DecidableEq, Repr

/-- A shape record (R216): extents minus one, strides, fill and format. -/
structure ShapeRec where
  base : Nat
  x0 : Nat
  x1 : Nat
  x2 : Nat
  x3 : Nat
  s1 : Int
  s2 : Int
  s3 : Int
  fill : BitVec 32
  fmt : Nat
deriving DecidableEq, Repr

/-- A kernel table entry (R96). -/
structure KtabEntry where
  entry : Nat
  count : Nat
  kbank : Word
deriving DecidableEq, Repr

/-- A task template (R170). Subscription words as in word 4 of R166. -/
structure Template where
  kidx : Nat
  prio : Nat
  foot : BitVec 8
  guarded : Bool
  triad : Bool
  gang : Bool
  subs : List Word
deriving DecidableEq, Repr

/-- A name-directory entry (R400); extents and tile extents are in elements along shape dimensions 0 to 3. -/
structure Tensor where
  handle : Nat
  backed : Bool
  tiled : Bool
  fault : Bool
  fmt : Nat
  ndim : Nat
  shift : Nat
  base : Nat
  dims : List Nat
  tiles : List Nat
deriving DecidableEq, Repr

/-- A trigger section entry (R341): template, slot and slot image. -/
structure TrigImage where
  tmpl : Nat
  slot : Nat
  image : List Byte
deriving DecidableEq, Repr

/-- A placement record (R171). -/
structure Placement where
  tmpl : Nat
  mode : Nat
  grove : Nat
  region : List Nat
  ranges : List (Nat × Nat)
deriving DecidableEq, Repr

/-- An installed launch or supervisor image (R93 to R97, R169). -/
structure Image where
  widths : List Nat
  dbg : Bool
  faultH : BitVec 32
  kernels : List KtabEntry
  code : List (BitVec 128)
  tensors : List Tensor
  chans : List (List Byte)
  templates : List Template
  params : Tbl (List Byte)
  trigs : List TrigImage
  placements : List Placement
  digest : Nat
deriving DecidableEq, Repr

/-- An image with nothing in it. -/
def Image.empty : Image := ⟨[], false, 0, [], [], [], [], [], [], [], [], 0⟩

/-! ### A core -/

/-- One level of the loop nest (R121, R135). -/
structure LoopLvl where
  running : Bool
  start : BitVec 12
  stop : BitVec 12
  count : BitVec 32
deriving DecidableEq, Repr

/-- What a result waits for (R83, R85): a clock; a clock, once the X operation `id` has given the value; chunks of a tracker;
the phase of a barrier; the collectives of a channel; an answer, and an answer that has come, which lands at the end of the
clock. `ord` is the waiting operation's place in issue order. -/
inductive Wait where
  | timed (clk : Nat)
  | posted (clk id : Nat)
  | chunks (tracker : Nat) (set : List Nat) (ord : Nat)
  | phase (bar target ord : Nat)
  | colls (ch ord : Nat)
  | reply (id : Nat)
  | answered (clk : Nat)
deriving DecidableEq, Repr

/-- A register write that has not landed (R83, R84, R86): register, value, flags and what it waits for. -/
structure Pend where
  reg : Reg
  val : Nat
  flags : Flags
  wait : Wait
  issued : Nat
deriving DecidableEq, Repr

/-- How a queue request or atomic accesses memory (R139, R145, R146). -/
inductive QKind where
  | load | store | amo (op : Nat) | seq (op : Nat)
deriving DecidableEq, Repr

/-- The progress of a queue entry (R139, R142). -/
inductive QState where
  | held | sent | done | failed
deriving DecidableEq, Repr

/-- One decoupling-queue entry (R139): request, address, ordering suffix, completion state and result. `ord` numbers the
access in the core's issue order (R56); `seq` and `tick` serve remote requests (R406, R407). -/
structure QEntry where
  kind : QKind
  sz : BitVec 3
  rel : Bool
  acq : Bool
  scope : Nat
  addr : Word
  data : Word
  data2 : Word
  ord : Nat
  state : QState
  result : Word
  fkind : Nat
  fxc : Nat
  seq : Nat
  first : Nat
  last : Nat
deriving DecidableEq, Repr

/-- One scoreboard entry (R20): a region of whole 512-byte chunks and whether it is written. `lo > hi` covers nothing
(R367). -/
structure SbEntry where
  id : Nat
  job : Nat
  write : Bool
  lo : Nat
  hi : Nat
  ord : Nat
deriving DecidableEq, Repr

/-- A copy descriptor (R236 to R239). -/
structure CopyDesc where
  src : Word
  dst : Word
  ctl : Word
  aux : Word
  levels : List (Nat × Int × Int)
deriving DecidableEq, Repr

/-- One dimension of a window map (R246). -/
structure WinDim where
  istr : Int
  xm : Nat
  pad : Nat
  str : Nat
  dil : Nat
  lo : Nat
  lt : Nat
deriving DecidableEq, Repr

/-- A window map (R246). -/
structure WinMap where
  fsz : Nat
  fill : Word
  dims : List WinDim
deriving DecidableEq, Repr

/-- Where an access leads: a byte of a core's scratchpad, of a staging slice, of HBM (with the leaf entry, size and address of its
page), or of another module's staging. -/
inductive Place where
  | sp (core addr : Nat)
  | slice (i off : Nat)
  | hbm (pa : Nat) (leaf : Nat) (bits : Nat) (va : Nat)
  | remote (member slice off : Nat)
deriving DecidableEq, Repr

/-- A run of a copy that has begun and is not over (R242, R249): where its destination outside the scratchpad leads (place, offset,
length), how many bytes of the source have been read, those bytes of a converting run, the bytes to be written that have been read or
converted and not yet written, how many of them were present before the last read, the clock of that read, and the bytes written. -/
structure Moving where
  run : Nat
  dst : List (Place × Nat × Nat)
  got : Nat
  src : Payload
  data : Payload
  seen : Nat
  at_ : Nat
  wrote : Nat
deriving DecidableEq, Repr

/-- What a job card does. -/
inductive JobKind where
  /-- A shape job (R220) with its copied records of D, A and B. -/
  | vec (op : Instr) (d a b : ShapeRec)
  /-- A copy (R240) with displacements added; the tracker is absent for a triggered copy, which names its slot. -/
  | copy (tracker : Option Nat) (slot : Option Nat) (desc : CopyDesc) (map : Option WinMap) (srcDisp dstDisp : Int)
  /-- A plane load (R263): macro, plane, type, BT and record. -/
  | mldb (k : Nat) (plane : Nat) (t : BitVec 4) (bt : Bool) (r : ShapeRec)
  /-- A matrix job (R268) or a gang share (R277, `gang` names the member index): TA, control word, A and C records. -/
  | mat (t : BitVec 4) (ctl : Word) (a c : ShapeRec) (gang : Option Nat)
  /-- A publication from scratchpad (R291), of one face of a halo (R297), or triggered (R337). -/
  | pub (ch : Nat) (name : Name) (r : ShapeRec) (slot : Option Nat) (tent : Bool)
  /-- A receive (R293) or add-receive (R294). -/
  | recv (ch : Nat) (name : Name) (r : ShapeRec) (add sat : Bool)
  /-- A ghost-layer receive (R298). -/
  | haloRecv (ch : Nat) (base : Nat)
  /-- A collective at its member (R350). -/
  | coll (ch : Nat) (name : Name) (src dst : Nat) (round : Nat)
deriving DecidableEq, Repr

/-- A job card in flight: its scoreboard order, the bank formats in force when it entered (R31), its progress and what it
has to report. `entered` is the clock it entered at, `accept` the clock its engine accepted it or its reads end, `start` the
clock it started; `steps` counts work done in order (copy runs, passes, segments, payload bytes); `doneSet` lists runs
performed out of order; `failed` lists failed runs with cause, address and whether the destination failed; `buf` holds
results not yet written, by address; `moving` the copy runs that have begun and are not over. -/
structure Job where
  id : Nat
  slotNo : Nat
  ord : Nat
  kind : JobKind
  kbank : Word
  entered : Nat
  accept : Option Nat
  start : Option Nat
  steps : Nat
  doneSet : List Nat
  failed : List (Nat × Nat × Nat × Bool)
  flags : Flags
  poison : Option Nat
  buf : List (Nat × Payload)
  moving : List Moving
  dropped : Bool
  owner : Nat
deriving DecidableEq, Repr

/-- A completion tracker (R252, R253): state 0 idle, 1 busy, 2 done, 3 done with fault. -/
structure Tracker where
  state : Nat
  nch : Nat
  bits : BitVec 1024
  ack : Bool
  drop : Bool
  fault : Bool
  xc : Nat
  endDst : Bool
  fruns : Nat
  addr : Word
deriving DecidableEq, Repr

/-- The idle tracker of a task's first bundle (R252). -/
def Tracker.idle : Tracker := ⟨0, 0, 0, false, false, false, 0, false, 0, 0⟩

/-- A macro plane (R262): format tag (0 empty), the load record, and once loaded the elements by (k, n) with their
poison marks, an unlisted one being +0; `fmt` the format code of what it holds,
`next` the cells that a load under way has read. -/
structure Plane where
  tag : Nat
  record : Option (ShapeRec × BitVec 4 × Bool)
  elems : Tbl (Option Num)
  fmt : Nat
  next : Tbl (Option Num)
deriving DecidableEq, Repr

/-- The empty plane. -/
def Plane.empty : Plane := ⟨0, none, [], 0, []⟩

/-- A fault of a task being contained, and what its tile will hold (R160, R191, R195): kind code, raising engine, the K-register
values, the tick of detection, the name concerned and the DETAIL bytes. -/
structure FaultInfo where
  kind : Nat
  src : Nat
  ktrap : Word
  kepc : Word
  ktval : Word
  gang : Bool
  tick : Nat
  name : Option Name
  detail : List Byte
deriving DecidableEq, Repr

/-- What a core is doing. -/
inductive CoreMode where
  /-- Holds no task. -/
  | idle
  /-- A task has been placed; the first bundle issues at the clock (bank clears, restore; R29, R176). -/
  | starting (clk : Nat) (restore : Bool)
  /-- Issues bundles. -/
  | running
  /-- Stopped for a pre-emption; drains before the spill (R164). -/
  | preempting
  /-- Spilling to a save frame (R176). -/
  | spilling (clk : Nat)
  /-- `exit` has issued; the entries drain (R182). -/
  | exiting
  /-- A user-mode trap or imprecise fault ended the task; jobs drain (R161). -/
  | faulted
  /-- Held at a bundle boundary by a forced flush, a snapshot record or a rollback (R49, R374, R393). -/
  | stopped
  /-- A trunk core stopped by a trap with inh = 1 (R162), or not in use. -/
  | halted
deriving DecidableEq, Repr

/-- The outcome of the slot operations of the bundle being issued; `jumped`: the operation chose the next bundle itself; a trap
carries the runs of memory (key, length) that the trapping operation has read (R51). -/
inductive Latch where
  | none | held | trapped (ktrap ktval : Word) (reads : List (Nat × Nat)) | jumped
deriving DecidableEq, Repr

/-- An X-slot operation on its way to the grove engine (R289): acceptance clock, operation, operand values read at issue
and the register write it answers. -/
structure XOp where
  at_ : Nat
  op : Instr
  va : Word
  vb : Word
  vd : Word
  job : Nat
  rel : Bool
  ord : Nat
  wid : Word
  recs : List ShapeRec
  name : Option Name
  image : List Byte
deriving DecidableEq, Repr

/-- A core (R81, R121): register files, K-registers, loop nest, queues, trackers, planes, scoreboard and jobs, with the
banks' context tags (R29), the snapshot engine's dirty and armed chunk bits (R379), and the clock of its next issue. `delay`
marks the delay bundle of a branch, taken (to `branch`) or not (R87); `split` lists the slots of the next bundle whose job cards
have entered, while a later slot of that bundle waits for them (R21, R147); `inGang` counts the task's gang jobs in flight
(R278); `vForm` is one more than the clock in which a register form last issued in the V slot (R222); `trapTick` the tick at which
its last precise trap was detected (R195); `atTrap` whether a record waits to be made before its next bundle, which traps (R163). -/
structure Core where
  mode : CoreMode
  task : Nat
  next : Nat
  pc : BitVec 12
  branch : Option (BitVec 12)
  delay : Bool
  s : Vector Word 32
  a : Vector Word 16
  p : Vector (BitVec 32) 8
  v : Vector (BitVec 1024) 32
  h : Vector Word 16
  n : Vector (BitVec 32) 6
  loops : Vector LoopLvl 6
  strides : Vector Word 96
  kstat : Word
  ktrap : Word
  kepc : Word
  ktval : Word
  kctx : Word
  kpwin : Word
  kbank : Word
  kptroot : Word
  kwid : Word
  kfpx : Word
  ktvec : Word
  kscr : Vector Word 4
  kmjob : Word
  kpend : List (Nat × Word)
  window : List Byte
  pend : List Pend
  queues : Vector (List QEntry) 8
  trackers : Vector Tracker 16
  planes : Vector Plane 8
  board : List SbEntry
  jobs : List Job
  xops : List XOp
  ords : Nat
  bord : Nat
  tags : Vector (Option Nat) 8
  dirty : BitVec 768
  armed : BitVec 768
  arrivals : Vector (Option (BitVec 16)) 16
  imprecise : List FaultInfo
  rounds : Tbl Nat
  collRec : Tbl Word
  vecBusy : Nat
  vForm : Nat
  matBusy : Nat
  ldBusy : Nat
  seqs : Tbl Nat
  inGang : Nat
  split : List Nat
  latch : Latch
  trapTick : Nat
  atTrap : Bool
deriving DecidableEq, Repr

/-- A loop level that is not running. -/
def LoopLvl.idle : LoopLvl := ⟨false, 0, 0, 0⟩

/-- A core after module reset: every register zero (R81, R151 to R154), banks tagged with no context (R29). -/
def Core.reset : Core :=
  { mode := .idle, task := 0, next := 0, pc := 0, branch := .none, delay := false,
    s := Vector.replicate 32 0, a := Vector.replicate 16 0, p := Vector.replicate 8 0, v := Vector.replicate 32 0,
    h := Vector.replicate 16 0, n := Vector.replicate 6 0, loops := Vector.replicate 6 .idle,
    strides := Vector.replicate 96 0, kstat := 0, ktrap := 0, kepc := 0, ktval := 0, kctx := 0, kpwin := 0, kbank := 0,
    kptroot := 0, kwid := 0, kfpx := 0, ktvec := 0, kscr := Vector.replicate 4 0, kmjob := 0, kpend := [], window := [], pend := [],
    queues := Vector.replicate 8 [], trackers := Vector.replicate 16 .idle, planes := Vector.replicate 8 .empty,
    board := [], jobs := [], xops := [], ords := 0, bord := 0, tags := Vector.replicate 8 .none, dirty := 0, armed := 0,
    arrivals := Vector.replicate 16 .none, imprecise := [], rounds := [], collRec := [], vecBusy := 0, vForm := 0, matBusy := 0,
    ldBusy := 0, seqs := [], inGang := 0, split := [], latch := .none, trapTick := 0, atTrap := false }

/-- A trunk core after module reset: KSTAT.sup is 1 (R151) and no image runs on it. -/
def Core.resetTrunk : Core := { Core.reset with mode := .halted, kstat := 1 }

/-! ### A grove -/

/-- States of a task record (R166, R167). -/
inductive TState where
  | idle | armed | ready | running | suspended | done | faulted
deriving DecidableEq, Repr

/-- One subscription of a record (words 4 to 11 and VER of R166). -/
structure TSub where
  ch : Nat
  delta : Word
  landed : Bool
  ver : Nat
deriving DecidableEq, Repr

/-- A task record (R166) with its context, and the exit, commit and replay bookkeeping of R182 and R191: `uid` numbers the records of the module as they are installed, so that what names a task keeps
naming it wherever its record moves; `inst` is the number of a triad's instance; `lost` marks a task that faulted after its
spill had started (R163); `parent` is the number of the record whose
`spawn` or `tinst` installed this one, `exact` marks a replay that asks for exact versions,
`started` the tick of its start on its core; `pubSeq` counts a triad member's publications by name (R316),
`pinned` the versions its landings pin (R306: name, version, subscription); `pend`, `rounds` and `collRec` are what a
pre-emption carries along beside the save frame (R85, R349, R352). For the bound of R174, `able` is the tick since which a READY record
could start, `waited` the ticks counted since, and `longest` the longest time that a task has spent on a core of the grove since. -/
structure TaskRec where
  uid : Nat
  inst : Nat
  lost : Bool
  ctx : Nat
  wid : Word
  replay : Nat
  hold : Bool
  splvl : Nat
  tmpl : Nat
  entry : Nat
  foot : BitVec 8
  copy : Nat
  gang : Bool
  triad : Bool
  guarded : Bool
  base : Nat
  cls : Nat
  state : TState
  readyT : Option Nat
  instT : Nat
  subs : List TSub
  spv : Bool
  spl : Nat
  spt : Nat
  saved : Bool
  frame : Option Nat
  oncore : Bool
  slot : Nat
  parent : Option Nat
  tag : Option Nat
  started : Nat
  exact : Bool
  imageSnap : Option (Nat × Nat)
  pubSeq : List (Name × Nat)
  pinned : List (Name × Nat × Nat)
  pend : List Pend
  rounds : Tbl Nat
  collRec : Tbl Word
  able : Option Nat
  waited : Nat
  longest : Nat
deriving DecidableEq, Repr

/-- A grove barrier of one context (R183); `free` is the first clock at which it may complete a phase. -/
structure Barrier where
  count : Nat
  arrived : Nat
  lvl : Bool
  level : Nat
  key : Word
  npend : Bool
  ncount : Nat
  nlvl : Bool
  nlevel : Nat
  nkey : Word
  cgang : Bool
  cdmask : Nat
  pgang : Bool
  pdmask : Nat
  phase : BitVec 16
  free : Nat
deriving DecidableEq, Repr

/-- A barrier after reset: COUNT 1, every other field zero (R183). -/
def Barrier.reset : Barrier := ⟨1, 0, false, 0, 0, false, 0, false, 0, 0, false, 0, false, 0, 0, 0⟩

/-- An arrival on its way to a barrier (R184, R281): context, barrier, arrival clock, gang flag and done-mask of a gang
completion, and the trigger slot it ends. -/
structure Arrival where
  ctx : Nat
  bar : Nat
  at_ : Nat
  gang : Option (Bool × Nat)
  slot : Option Nat
deriving DecidableEq, Repr

/-- A trigger counter (R320, R321, R323): value, OVF, source word and range word, the task it is bound to, the byte
residue (R324), and the events and sets of the current clock (R322). -/
structure Counter where
  value : Nat
  ovf : Bool
  src : Word
  range : Word
  task : Option Nat
  residue : Nat
  adds : Nat
  set : Option Nat
  ctx : Nat
deriving DecidableEq, Repr

/-- A counter after reset. -/
def Counter.reset : Counter := ⟨0, false, 0, 0, none, 0, 0, none, 0⟩

/-- States of an operation slot (R325). -/
inductive SlotState where
  | empty | armed | held | active | done | failed
deriving DecidableEq, Repr

/-- An operation slot (R325 to R327, R333, R336): image bytes, owner (the number of its record, and its WID), arm sequence,
eligibility order, fires, recorded failure, last AMO result, the sequence number and ticks of a remote request, how the active
operation ended (failure kind or 0, cause, address), and the counter's value at the last start (R342). -/
structure Slot where
  state : SlotState
  image : List Byte
  thr : Nat
  owner : Nat
  wid : Word
  ctx : Nat
  arm : Nat
  eligible : Option Nat
  fires : Nat
  fkind : Nat
  fxc : Nat
  res : Word
  seq : Nat
  first : Nat
  last : Nat
  fin : Option (Nat × Nat × Word)
  value : Nat
deriving DecidableEq, Repr

/-- An empty slot. -/
def Slot.reset : Slot := ⟨.empty, [], 0, 0, 0, 0, 0, none, 0, 0, 0, 0, 0, 0, 0, none, 0⟩

/-- A tag lease of a grove (R178): pool key, tags with the tick of last use, and a granted reserved tag with its WID. -/
structure Lease where
  ctx : Nat
  level : Nat
  group : Word
  tags : List (Nat × Nat)
  used : Nat
  granted : Option Word
deriving DecidableEq, Repr

/-- A tag pool at its home (R178, R179): free tags, whether the reserved tag is free, and the waiting spawners. -/
structure Pool where
  ctx : Nat
  level : Nat
  group : Word
  free : List Nat
  resFree : Bool
  granted : Option Word
  waiters : List (Nat × Word × Nat)
deriving DecidableEq, Repr

/-- Who holds a subscription. -/
inductive SubOwner where
  | record (task idx : Nat)
  | kernel (task : Nat)
  | halo (task ch : Nat)
deriving DecidableEq, Repr

/-- A landed or landing version of a subscription (R299, R301): name and version, the chunks that are set and their number, payload,
valid extents, injection tick, its place in the order of arrival, the module links it crossed, and the longest that a chunk of it took
from the tick at which its bound began (R313). -/
structure Landing where
  name : Name
  ver : Nat
  bits : List Nat
  nchunk : Nat
  data : Payload
  valid : List Nat
  inj : Nat
  order : Nat
  cross : Nat
  took : Nat
deriving DecidableEq, Repr

/-- The progress of a subscription at its grove (R299). -/
inductive SubState where
  | waiting | sent | registered | satisfied | withdrawn
deriving DecidableEq, Repr

/-- A subscription held by a task of the grove (R173, R292, R297, R299 to R301). `mask` has the layout of s[M]; `last` keeps
LAST per name; `place` is the reserved bytes. -/
structure Sub where
  id : Nat
  ctx : Nat
  owner : SubOwner
  ch : Nat
  name : Name
  mask : Word
  depth : Nat
  place : Nat
  state : SubState
  last : List (Name × Nat)
  landings : List Landing
deriving DecidableEq, Repr

/-- A registration at a root (R300, R302, R304): subscriber's grove and subscription, name and mask, LAST, guard and
instance time, whether one version satisfies it, the exact version a replay asks for, whether it has been served one, and, where
the root's own match table is full, the next router toward the subscriber that holds its entry (`uni`). A subscription of another
member of the gang has the code of its grove there (see `farCode`). -/
structure SubReg where
  ctx : Nat
  name : Name
  mask : Word
  grove : Nat
  sub : Nat
  one : Bool
  backed : Bool
  guarded : Bool
  instT : Nat
  exact : Option Nat
  last : List (Name × Nat)
  wid : Word
  order : Nat
  served : Bool
  uni : Option Nat
deriving DecidableEq, Repr

/-- A name record at its root (R305, R308, R310). -/
structure NameRec where
  ctx : Nat
  name : Name
  latest : Option Nat
  wb : Bool
  rim : Bool
  del : Bool
  fetching : Bool
deriving DecidableEq, Repr

/-- A version, tentative publication or vote buffer at its root (R305, R306, R315, R316). `ver` is absent while tentative;
`vote` holds the chunks each triad copy has brought, `forwarded` and `bases` the chunks of a vote that have been sent and when (R313).
`acks` are the subscriptions to which it is on its way, with 0 where the promise does not hold, else 1 and the ticks without space for
it. `accOrd` is its place among what its root has accepted and registered (R313), `base` the tick from which its bound counts, `cross` the module links it crossed on its way here, `late` the subscriptions for which its root has raised
DELIVERY_LATE, `held` whether a snapshot has still to write it out (R382). -/
structure Version where
  ctx : Nat
  name : Name
  ver : Option Nat
  data : Payload
  valid : List Nat
  inj : Nat
  acceptT : Nat
  express : Bool
  keep : Bool
  rim : Bool
  pubGrove : Nat
  pubId : Option Nat
  pubWid : Word
  seq : Nat
  pins : List (Nat × Nat)
  owed : List (Nat × Nat)
  acks : List (Nat × Nat × Nat)
  wbDone : Bool
  used : Nat
  vote : List (Nat × List (Nat × Payload))
  forwarded : List Nat
  bases : List (Nat × Nat)
  order : Nat
  accOrd : Nat
  base : Nat
  cross : Nat
  late : List (Nat × Nat)
  held : Bool
deriving DecidableEq, Repr

/-- A publication between its acceptance by the grove and its acceptance at the root (R291, R307, R312), or, when tentative, its
commit. `uid` numbers the publishing task's record; `r` is the region still to be read; `sent` is 0 before its chunks are sent, 1 after, 2 when its root has accepted it as
tentative. -/
structure PubOp where
  id : Nat
  ctx : Nat
  core : Option Nat
  job : Nat
  name : Name
  ch : Nat
  data : Payload
  valid : List Nat
  express : Bool
  keep : Bool
  tent : Bool
  task : Option Nat
  uid : Nat
  wid : Word
  copy : Nat
  seq : Nat
  order : Nat
  slot : Option Nat
  r : Option ShapeRec
  admitted : Option Nat
  retryAt : Option Nat
  sent : Nat
  dropped : Bool
deriving DecidableEq, Repr

/-- A halo set of a task (R297): channel, block coordinate word and its subscriptions by face. -/
structure HaloSet where
  task : Nat
  ch : Nat
  coord : Word
  subs : List (Nat × Nat)
deriving DecidableEq, Repr

/-- A name-match table entry of a router (R304): ports are bit masks N, E, S, W, local; `uni` are the routers beyond a full
table, which are sent unicast packets. -/
structure MatchEntry where
  ctx : Nat
  name : Name
  mask : Word
  ports : BitVec 5
  uni : List Nat
deriving DecidableEq, Repr

/-- A cached translation (R42): partition and context, first address, size (16 or 21 bits), leaf physical address and the
leaf's W, U and SNAP bits. -/
structure TlbEntry where
  ctx : Nat
  va : Nat
  bits : Nat
  pa : Nat
  w : Bool
  u : Bool
  leaf : Nat
deriving DecidableEq, Repr

/-- A member of a gang job (R278 to R281): index, core, the number of its task's record, its job on that core, the place of its `mgang` in
the core's order, what became of it. -/
structure GangMember where
  index : Nat
  core : Nat
  uid : Nat
  leader : Bool
  job : Option Nat
  transferred : Option Nat
  ok : Option Bool
  ord : Nat
deriving DecidableEq, Repr

/-- A gang matrix job (R277 to R281): key, control word, first acceptance, members; `last` is the clock in which the last share
ended or member was settled, `kept` the leader's planes as the job uses them, where a later load has overwritten them (R279). -/
structure GangJob where
  id : Nat
  ctx : Nat
  level : Nat
  key : Word
  ctl : Word
  opened : Nat
  members : List GangMember
  late : BitVec 4
  closed : Bool
  completed : Option Nat
  last : Nat
  kept : List (Nat × Plane)
deriving DecidableEq, Repr

/-- A segment's round of a collective at its root (R356 to R359, R365): the descriptor of the first contribution (empty before it),
the contributions by member and place, the members that have registered (member, core, job, descriptor), a COLLECT's rows, the
result, the tick after which it was complete, how many found no room, and the tick of the last registration. -/
structure CollRound where
  ctx : Nat
  name : Name
  round : Nat
  desc : List Byte
  early : List (Nat × Nat × Payload)
  regs : List (Nat × Nat × Nat × List Byte)
  rows : List (Nat × Payload)
  result : Option (Payload × Flags)
  doneT : Nat
  refused : Nat
  regT : Nat
deriving DecidableEq, Repr

/-- A collective register set of one core and class (R360, R369). -/
structure CollSet where
  active : Option Nat
  queue : List Nat
  segs : Nat
deriving DecidableEq, Repr

/-! ### The fabric -/

/-- What a packet on the fabric carries (R303, R311, R370, R371). -/
inductive PktKind where
  /-- A chunk of a publication on its way to its root: sequence, copy index (3 none), chunk index and count. -/
  | pubChunk (id copy chunk nchunk : Nat) (tent keep : Bool) (seq : Nat) (valid : List Nat)
  /-- The root's answer to a publication: accepted or refused (R307). -/
  | pubAns (id : Nat) (ok : Bool) (ver : Nat)
  /-- A subscription or withdrawal (R304). -/
  | sub (reg : SubReg)
  | unsub (reg : SubReg)
  /-- A chunk of a version on its way to a subscriber (R301). -/
  | deliver (ver chunk nchunk : Nat) (valid : List Nat)
  /-- A landing acknowledgement, with its guard mark, and the later unpin (R306). -/
  | ack (ver sub : Nat) (guarded : Bool)
  | unpin (ver sub : Nat)
  /-- A commit or discard of a tentative publication, by its number at its grove, and the acceptance of a commit (R182, R191); the
  discard of what a triad's copy has published names the copy and the publication's place among its publications of the name (R316). -/
  | commit (id : Nat)
  | commitAns (id : Nat)
  | discard (id copy seq : Nat)
  /-- A name query and its answer (R296). -/
  | nameq (core id : Nat)
  | nameqAns (core id : Nat) (ans : Word)
  /-- A collective contribution, or a member's registration for the answers of a root (`join`), and its result (R355 to R359, R365). -/
  | collPart (core job ch member round seg off : Nat) (desc : List Byte) (join : Bool)
  | collRes (core job seg off : Nat) (flags : Flags) (fault : Nat) (row : Nat)
  /-- A task record in migration (R190) from a table index, with its subscriptions and halo sets; `inst` says that its trigger
  images are to be installed where it arrives (R341). -/
  | migrate (rec : TaskRec) (idx : Nat) (subs : List Sub) (halos : List HaloSet) (inst : Bool)
  /-- A fetch or write-back request to a rim agent and the completion of a write-back (R308, R310). -/
  | fetch (ver : Nat) (root : Nat)
  | writeback (ver : Nat) (root : Nat) (valid : List Nat)
  | wbDone (ver : Nat)
  /-- A request for a slice of another member (R38, R65, R406): slice, source, number, class, operation, size, offset, its two operands and
  the tick of its first sending. -/
  | request (slice src seq : Nat) (cls : Bool) (op sz off : Nat) (v w : Word) (first : Nat)
  /-- The answer to one (R407, R408); in a log, that to a request of core `asker`, with its order, or of slot `ord` of grove
  `asker` - 32,768. -/
  | reply (slice src seq asker ord : Nat) (result : Word) (fail : Nat)
  /-- What a root of an old list held of a name, on its way to the name's root in another member (R49). -/
  | moved (names : List NameRec) (vers : List Version) (rounds : List CollRound)
deriving DecidableEq, Repr

/-- A packet: context, name, kind, source and destination grove, the grove it stands at (2,592 + k for rim field k), its
class, injection tick, payload and WID, the clock at which it came there, and the router a subscription was
last installed at. `inp` is the port it came in by, `cross` the module links it has crossed, `base` the tick from which its delivery
bound counts (R313, R394). A source or destination in another member of the gang has the code of `farCode`; `port` is the module-link
port by which a packet leaves. -/
structure Pkt where
  ctx : Nat
  name : Name
  kind : PktKind
  src : Nat
  dst : Nat
  at_ : Nat
  inp : Nat
  express : Bool
  inj : Nat
  data : Payload
  wid : Word
  time : Nat
  via : Nat
  cross : Nat
  base : Nat
  port : Nat
deriving DecidableEq, Repr

/-! ### A grove's engines -/

/-- A grove (R165 to R197, R286 to R319, R320 to R344, R346 to R369, R391): task engine, exchange engine with router and
gallery, trigger engine, collective engine and snapshot engine state. `legs` are the results of collectives that wait for admission (R362). -/
structure Grove where
  tasks : Tbl TaskRec
  teSave : Word
  teMigstat : Word
  framesUsed : BitVec 31
  bars : Tbl Barrier
  arrivals : List Arrival
  leases : List Lease
  pools : List Pool
  preempt : Option (Nat × Nat)
  reservedIn : List (Nat × Nat)
  subs : List Sub
  regs : List SubReg
  names : List NameRec
  versions : List Version
  pubs : List PubOp
  halos : List HaloSet
  matchTab : List MatchEntry
  xeAdmit : Tbl Word
  glRetain : Tbl Word
  glRefused : Nat
  admitted : Tbl Nat
  window : Nat
  tlb : List TlbEntry
  counters : Tbl Counter
  slots : Tbl Slot
  armSeq : Nat
  eligSeq : Nat
  geGrant : Tbl Word
  trigSeqs : Tbl Nat
  gangs : List GangJob
  gangLate : List (Nat × Nat × Word × BitVec 4 × Bool)
  govWindow : Nat
  govUsed : Nat
  collSets : Tbl CollSet
  rounds : List CollRound
  clOvertake : Nat
  clSegs : Nat
  legs : List Pkt
  snBuf : Word
  hot : Bool
  cool : Option Nat
  ids : Nat
deriving DecidableEq, Repr

/-- A grove after module reset: empty tables, registers zero (R166, R177, R189, R309, R312, R343, R369, R391). -/
def Grove.reset : Grove :=
  { tasks := [], teSave := 0, teMigstat := 0, framesUsed := 0, bars := [], arrivals := [], leases := [], pools := [],
    preempt := none, reservedIn := [], subs := [], regs := [], names := [], versions := [], pubs := [], halos := [],
    matchTab := [], xeAdmit := [], glRetain := [], glRefused := 0, admitted := [], window := 0, tlb := [], counters := [],
    slots := [], armSeq := 0, eligSeq := 0, geGrant := [], trigSeqs := [], gangs := [], gangLate := [], govWindow := 0,
    govUsed := 0, collSets := [], rounds := [], clOvertake := 0, clSegs := 0, legs := [], snBuf := 0, hot := false,
    cool := none, ids := 0 }

/-! ### The rim -/

/-- A fetch or write-back of a rim agent (R403, R404). -/
structure RimOp where
  fetch : Bool
  ctx : Nat
  name : Name
  ver : Nat
  root : Nat
  agent : Nat
  data : Payload
  valid : List Nat
  retryAt : Option Nat
deriving DecidableEq, Repr

/-- An entry of a slice's duplicate-suppression window (R408); `fail` is 0, or the fault kind plus 16 times its cause. -/
structure DupEntry where
  source : Nat
  seq : Nat
  cls : Bool
  result : Word
  fail : Nat
  made : Nat
deriving DecidableEq, Repr

/-- A remote request that waits at a slice for its predecessor, or for the token (R408, R409), with the tick it came at, that of its first
sending (R407) and the port it came by. -/
structure RemoteReq where
  source : Nat
  seq : Nat
  cls : Bool
  op : Nat
  sz : Nat
  off : Nat
  val : Word
  new : Word
  came : Nat
  first : Nat
  port : Nat
deriving DecidableEq, Repr

/-- A staging slice and its controller (R35, R59, R408, R411). -/
structure Slice where
  split : Nat
  dups : List DupEntry
  expect : Tbl Nat
  waiting : List RemoteReq
  dupRefused : Nat
  dupHits : Nat
deriving DecidableEq, Repr

/-- A slice after reset. -/
def Slice.reset : Slice := ⟨0, [], [], [], 0, 0⟩

/-- An HBM stack's scrubber and error counts (R410, R411): the word it reads next, and when, in 8,192nds of a tick. -/
structure Stack where
  scrub : Word
  corr : Nat
  uncorr : Nat
  passes : Nat
  pos : Nat
  due : Nat
deriving DecidableEq, Repr

/-- A stack after reset: scrubbing enabled with PERIOD 0x4000 (R411). -/
def Stack.reset : Stack := ⟨0x8000000000004000, 0, 0, 0, 0, 0⟩

/-- A rim field (R9, R401 to R411): its agents' operations, and the context windows of its slices (R35), keyed by context
times 8 plus slice. -/
structure Rim where
  ops : List RimOp
  slwin : Tbl Word
deriving DecidableEq, Repr

/-- A rim field after reset. -/
def Rim.reset : Rim := ⟨[], []⟩

/-- A line of a memory-side cache slice (R46, R399): slice, line number, the context that used it, and the valid and dirty
sectors. The list is in order of use, the least recent first. -/
structure CacheLine where
  slice : Nat
  line : Nat
  ctx : Nat
  valid : BitVec 2
  dirty : BitVec 2
deriving DecidableEq, Repr

/-! ### Contexts and snapshots -/

/-- The life of a context (R423). -/
inductive CtxState where
  | free | loaded | launched | running | stopped | resetting
deriving DecidableEq, Repr

/-- Is a context held for a forced flush (R49)? -/
inductive Hold where
  | none | holding
deriving DecidableEq, Repr

/-- A context (R39, R47, R48, R390, R417, R418, R423), with the 2 MiB physical frames it owns and its gang route table: the ready
ports toward each member, and in `links` how many module links the way to it has; `poolSeed` and `poolList` place its tag
pools until it next has no spawned record (R178), `holdFrom` is the tick at which a hold began, `lost` the positions of its root list at
which other members have lost a grove (R49), and `marks` the members that have begun a rollback that runs here (R393). -/
structure Context where
  state : CtxState
  image : Image
  seed : Word
  flushDone : Bool
  flushing : Bool
  rootovr : Vector Word 16
  ptroot : Word
  rootList : List Nat
  rimList : List Nat
  snArea : Word
  snStat : Word
  lastRb : Nat
  nmem : Nat
  member : Nat
  ltag : Nat
  start : Nat
  ftiles : Nat
  ftick : Nat
  fkind : Nat
  fver : Nat
  fc1 : Nat
  hold : Hold
  frames : List Nat
  modules : List Word
  routes : List (Nat × List Nat)
  links : List (Nat × Nat)
  poolSeed : Word
  poolList : List Nat
  holdFrom : Nat
  lost : List Nat
  marks : List Nat
deriving DecidableEq, Repr

/-- A context that does not exist (R423 STATE 0); DONE of TK_CTX_FLUSH resets to 1 (R48). -/
def Context.reset : Context :=
  { state := .free, image := .empty, seed := 0, flushDone := true, flushing := false, rootovr := Vector.replicate 16 0,
    ptroot := 0, rootList := [], rimList := [], snArea := 0, snStat := 0, lastRb := 0, nmem := 0, member := 0,
    ltag := 0, start := 0, ftiles := 0, ftick := 0, fkind := 0, fver := 0, fc1 := 0, hold := .none,
    frames := [], modules := [], routes := [], links := [], poolSeed := 0, poolList := [], holdFrom := 0, lost := [], marks := [] }

/-- A grove's or rim's part of a snapshot (R374 to R383): node number (grove, or 0xFFF), record tick, the last clock before the
record, grove and core copies taken at the record, the jobs (core, id) that had started (R378), jobs of slots that act on no scratchpad, the rim agents' operations, `pending` chunks (core, chunk) still to be written out, chunk and page contents captured, and the
channel logs, and the bytes in its snapshot buffer (R373). -/
structure SnapNode where
  node : Nat
  tick : Nat
  clk : Nat
  grove : Grove
  cores : List (Nat × Core)
  started : List (Nat × Nat)
  loose : List Job
  fetches : List (Nat × RimOp)
  pending : List (Nat × Nat)
  chunks : List (Nat × Nat × Payload)
  pages : List (Nat × Payload)
  logs : List (Nat × Nat × Pkt)
  closed : List Nat
  reported : Bool
  buf : Nat
deriving DecidableEq, Repr

/-- A snapshot in progress or kept in the ring (R384 to R390): `wants` are the nodes that a lantern has reached and that have still to
record (R374), `members` the other members of the gang that have written their ring records, `wrote` whether this one has, `released` whether its ring
record has been released. -/
structure Snap where
  ctx : Nat
  id : Nat
  full : Bool
  prev : Nat
  va : Nat
  size : Nat
  start : Nat
  done : Option Nat
  nodes : List SnapNode
  wants : List Nat
  members : List Nat
  wrote : Bool
  released : Bool
deriving DecidableEq, Repr

/-! ### The trunk -/

/-- What the module sends out (R370, R412, R414, R421): answers and notifications to the host, and to other gang members packets,
requests, lanterns of snapshots (R371), how their snapshots have ended (R384), rollbacks that start (R393), and groves of a root list that
are lost, with their entries or not (R49). -/
inductive Out where
  | response (qp : Nat) (bytes : List Byte)
  | notify (qp : Nat) (tile : List Byte)
  | nak (qp : Nat) (kind : Nat)
  | data (qp : Nat) (bytes : Payload)
  | packet (member port : Nat) (p : Pkt)
  | lantern (port ctx id vc : Nat) (full : Bool)
  | ringDone (member ctx id : Nat)
  | abandoned (member ctx id code : Nat)
  | request (member port slice source seq : Nat) (cls : Bool) (op sz off : Nat) (v w : Word) (first : Nat)
  | reply (member port source seq slice : Nat) (result : Word) (fail : Nat)
  | rollback (member ctx id : Nat)
  | rootLost (member ctx pos : Nat) (gone : Bool)
deriving DecidableEq, Repr

/-- What other members of a gang send to this one over module links (R19, R49, R303, R370, R384, R393): a packet for a member, a lantern,
and the news that a member has written its ring record of a snapshot, that the snapshot is abandoned, that the member rolls the context
back to a snapshot, or that it has lost a grove of the root list. -/
inductive LinkMsg where
  | packet (member : Nat) (p : Pkt)
  | lantern (ctx id vc : Nat) (full : Bool)
  | ringDone (ctx id : Nat)
  | abandoned (ctx id code : Nat)
  | rollback (ctx id : Nat)
  | rootLost (ctx pos : Nat) (gone : Bool)
deriving DecidableEq, Repr

/-- A message of another member, with the clock at which it arrives, its sender and the port it comes by. -/
structure Inbound where
  clk : Nat
  sender : Nat
  port : Nat
  msg : LinkMsg
deriving DecidableEq, Repr

/-- The readiness map (R425): GEN, a byte per grove index, walker rim fields, rim, stack and port bytes; the identities of
the peers that the link layer has identified, by port; and the functions that have reported (kind · 4,096 + index). -/
structure Readiness where
  gen : Nat
  groves : Tbl Nat
  walkers : Tbl Nat
  rims : BitVec 12
  hbmStacks : BitVec 24
  ports : BitVec 32
  peers : Tbl Nat
  reported : List Nat
deriving DecidableEq, Repr

/-- A PARTITION that runs (R434, R435): its queue pair and bytes, the seams between the partitions, how often its QUIESCE has been tried
again, the clock of the next try while it waits for that, the seams' registers as it found them, and where the trunk's choice begins the
new memory (log entry 37). -/
structure Parting where
  qp : Nat
  cmd : List Byte
  seams : List Nat
  tries : Nat
  wake : Option Nat
  ctl : Vector Word 3
  stat : Vector Word 3
  choice : List Nat
deriving DecidableEq, Repr

/-- The trunk (R412 to R439): firmware and fuses, module registers, power and temperatures, time base, start-up state,
notification queue, and what runs on its behalf. `seamBusy` holds, for a seam that is being quiesced, its previous STATE plus 4
times the tick at which its queues are empty, and the deadline; `seamAns` the answer an `mwr` waits for; `tokenAt` is the clock
of the token's next visit, `tokenZero` the tick at which it last came to the first rim field; `up` says that the trunk cores and host
port 0 are ready; `measured` counts power measurements' windows, `slewAt` is the tick of the last slew, `migrations` are MIGRATE
commands (queue pair, TAG, 256 · grove + index) that wait for their outcome, `resets` RESET_CONTEXT commands (queue pair, TAG, context, FREE) whose
flush runs, `rollbacks` ROLLBACK commands (queue pair, context, tick, bytes) in progress. `progress` is whether the bound of R174 has been broken, `failed` whether the start has been counted as failed (R427), `parting` a
PARTITION in progress. `supImage` is the supervisor image last loaded, `supCode` the one that runs or ran last. -/
structure Trunk where
  fw : Nat
  fwDigest : Option Nat
  staged : Option (Nat × Nat × Nat)
  rollMin : Nat
  revoked : BitVec 2
  minimal : Bool
  fails : Nat
  reason : Nat
  partmap : Word
  seamctl : Vector Word 3
  seamstat : Vector Word 3
  seamBusy : Vector (Option (Nat × Nat)) 3
  ilv : Vector Word 4
  clearing : BitVec 4
  shoot : Word
  pwrcap : Word
  gov : Vector Word 4
  therm : Word
  watts : Nat
  temps : Tbl Nat
  cecSram : Nat
  cecHbm : Nat
  syncErr : Bool
  syncPs : Int
  ptpLock : BitVec 2
  everPtp : Bool
  trunkFlt : Option (Word × Word)
  notifyQp : Option Nat
  tiles : List (List Byte)
  supImage : Option Image
  supCode : Image
  supRun : Option (Nat × Nat)
  supDigest : Nat
  token : Nat
  tokenLost : Bool
  tokenAt : Nat
  tokenZero : Nat
  seamAns : Vector (Option Bool) 3
  up : BitVec 2
  started : Bool
  startedAt : Nat
  measured : Nat
  slewAt : Nat
  joined : Bool
  migrations : List (Nat × Nat × Nat)
  resets : List (Nat × Nat × Nat × Bool)
  rollbacks : List (Nat × Nat × Nat × List Byte)
  progress : Bool
  failed : Bool
  parting : Option Parting
deriving DecidableEq, Repr

/-- The trunk after module reset (R430 to R437): one partition with every quarter, seams open, governor budget 0x400, cap
18 kW under AUTO, thresholds 0x73, 0x05, 0x69; the running firmware level is the covered level 4.1 (R1). -/
def Trunk.reset : Trunk :=
  { fw := 0x0401, fwDigest := none, staged := none, rollMin := 0, revoked := 0, minimal := false, fails := 0, reason := 0,
    partmap := 0x100, seamctl := Vector.replicate 3 0x0001000000000000, seamstat := Vector.replicate 3 2,
    seamBusy := Vector.replicate 3 none, ilv := Vector.replicate 4 0x000C000000000000, clearing := 0, shoot := 0,
    pwrcap := 0x100B4, gov := Vector.replicate 4 0x400, therm := 0x730569, watts := 0, temps := [], cecSram := 0,
    cecHbm := 0, syncErr := false, syncPs := 0, ptpLock := 0, everPtp := false, trunkFlt := none,
    notifyQp := none, tiles := [], supImage := none, supCode := .empty, supRun := none, supDigest := 0, token := 0, tokenLost := false,
    tokenAt := 0, tokenZero := 0, seamAns := Vector.replicate 3 none, up := 0, started := false, startedAt := 0,
    measured := 0, slewAt := 0, joined := false, migrations := [], resets := [], rollbacks := [], progress := false, failed := false, parting := none }

/-! ### The module -/

/-- A triad instance (R193): its number, a record to start it again from, the groves of its copies and how many have faulted. -/
structure Triad where
  inst : Nat
  task : TaskRec
  groves : List Nat
  faults : Nat
deriving DecidableEq, Repr

/-- The state of the module. `mem` holds every byte of HBM, staging, scratchpads, lane slices and the trunk region, and the
syndrome of every word whose check byte does not match (R50), under the keys of `Ops`. `cur`, `slot`, `turn`, `agenda`, `inbox`
and `fresh` are the model's own: the core and slot whose operation is being executed, the core whose turn it is to
issue, the outside inputs that are to come with their earliest clocks, the messages of other gang members that are to come, whether the clock's own work has been done (`late`:
what remains happens at the end of the clock), the number of the next free value, and `uids` the number of the next task record, from 1.
`triads` are the triad instances whose outcome is open. -/
structure State where
  clk : Nat
  base : Nat
  mem : List Host.Cell
  cores : Tbl Core
  groves : Tbl Grove
  rims : Tbl Rim
  slices : Tbl Slice
  hbmStacks : Tbl Stack
  fieldTlb : Tbl (List TlbEntry)
  contexts : Tbl Context
  snaps : List Snap
  trunk : Trunk
  ready : Readiness
  net : List Pkt
  cache : List CacheLine
  wins : Tbl Nat
  out : List Out
  agenda : List (Nat × Instr)
  inbox : List Inbound
  cur : Nat
  slot : Nat
  turn : Option Nat
  late : Bool
  fresh : Nat
  uids : Nat
  triads : List Triad
deriving DecidableEq, Repr

/-- The module right after reset: nothing has reported ready (R426), memory lists nothing (RAM reads as zero until written;
log entry 1), the time base counts from 0 (R424), trunk cores are in supervisor mode (R151). -/
def State.reset : State :=
  { clk := 0, base := 0, mem := [], cores := [(10368, .resetTrunk), (10369, .resetTrunk), (10370, .resetTrunk),
      (10371, .resetTrunk)], groves := [], rims := [], slices := [], hbmStacks := [], fieldTlb := [], contexts := [],
    snaps := [], trunk := .reset, ready := ⟨0, [], [], 0, 0, 0, [], []⟩, net := [], cache := [], wins := [], out := [], agenda := [], inbox := [],
    cur := 0, slot := 0, turn := none, late := false, fresh := 0, uids := 1, triads := [] }

end Sys2Proof.Machine
end

