-- ==== Sys2Proof/Machine/Ops.lean ====
section
/-!
DEFINITION. The named operations over the state: sparse tables, the one memory with its check codes and poison (R50 to R53),
the registers of a core (R81), K-registers (R150), pending writes (R83 to R86), time (R5), hashing (R45 to R47), taking a
trap and returning from one (R157 to R162).
-/

namespace Sys2Proof.Machine

/-! ### Sparse tables -/

/-- The entry of a key, where it is listed. -/
def Tbl.get? {α : Type} (t : Tbl α) (k : Nat) : Option α := (t.find? (fun e => e.1 == k)).map (·.2)

/-- The entry of a key, or the default. -/
def Tbl.getD {α : Type} (t : Tbl α) (k : Nat) (d : α) : α := (Tbl.get? t k).getD d

/-- Lists a key's entry in rising key order. -/
def Tbl.set {α : Type} (t : Tbl α) (k : Nat) (v : α) : Tbl α :=
  match t with
  | [] => [(k, v)]
  | (j, w) :: r => if k < j then (k, v) :: (j, w) :: r else if k = j then (k, v) :: r else (j, w) :: Tbl.set r k v

/-- Removes a key's entry. -/
def Tbl.del {α : Type} (t : Tbl α) (k : Nat) : Tbl α := t.filter (fun e => e.1 != k)

/-! ### Memory -/

/-- The memory's canonical form: addresses strictly rising and no entry equal to what an unlisted address reads as. -/
def Memory.wf : List Host.Cell → Bool
  | [] => true
  | [(_, b)] => decide (b ≠ 0)
  | (a, b) :: (a', b') :: r => decide (b ≠ 0) && decide (a < a') && Memory.wf ((a', b') :: r)

/-- Reads one byte; an unlisted address reads as zero (log entry 1). -/
def Memory.read : List Host.Cell → Nat → Byte
  | [], _ => 0
  | (a, b) :: r, x => if a = x then b else if x < a then 0 else Memory.read r x

/-- Writes one byte and keeps the canonical form. -/
def Memory.write : List Host.Cell → Nat → Byte → List Host.Cell
  | [], x, v => if v = 0 then [] else [(x, v)]
  | (a, b) :: r, x, v =>
    if x < a then (if v = 0 then (a, b) :: r else (x, v) :: (a, b) :: r)
    else if x = a then (if v = 0 then r else (a, v) :: r)
    else (a, b) :: Memory.write r x v

/-- Sets a range of bytes to zero. -/
def Memory.clear (m : List Host.Cell) (lo len : Nat) : List Host.Cell :=
  m.filter (fun c => !(decide (lo ≤ c.1) && decide (c.1 < lo + len)))

/-- The listed cells of a range, with addresses relative to its start. -/
def Memory.slice (m : List Host.Cell) (lo len : Nat) : List Host.Cell :=
  (m.filter (fun c => decide (lo ≤ c.1) && decide (c.1 < lo + len))).map (fun c => (c.1 - lo, c.2))

/-- The key of the first byte of staging slice `i`. -/
def slKey (i off : Nat) : Nat := 2 ^ 44 + i * 2 ^ 27 + off
/-- The key of a scratchpad byte of a core. -/
def spKey (core addr : Nat) : Nat := 2 ^ 45 + core * 2 ^ 19 + addr
/-- The key of a lane-slice byte of a core (R27). -/
def laneKey (core lane off : Nat) : Nat := 2 ^ 46 + core * 2 ^ 15 + lane * 2 ^ 10 + off
/-- The key of a byte of the trunk region (R413). -/
def trunkKey (addr : Nat) : Nat := 2 ^ 47 + addr
/-- The key of the syndrome of the word that holds a byte: the XOR of its stored check byte and the check byte of its data
(R50), zero for a good word. -/
def synKey (key : Nat) : Nat := 2 ^ 60 + key / 8

/-! ### The check code (R50, R51) -/

/-- The number of set bits of a number below 2^n. -/
def popCount (n x : Nat) : Nat := (List.range n).foldl (fun c i => if x.testBit i then c + 1 else c) 0

/-- The columns of the 64 data bits (R50): the 56 byte values of weight 3 in ascending order, then eight of weight 5. -/
def dataColumns : List Nat :=
  ((List.range 256).filter (fun x => popCount 8 x == 3)) ++ [0x1F, 0x2F, 0x37, 0x3B, 0x3D, 0x3E, 0x4F, 0x57]

/-- The check byte of a data word (R50). -/
def checkByte (d : Nat) : Nat :=
  (dataColumns.zipIdx.foldl (fun c e => if d.testBit e.2 then c ^^^ e.1 else c) 0)

/-- The syndrome of poison (R50). -/
def poisonSyn : Nat := 0x8F

/-- What a syndrome says of a stored word (R51). -/
inductive WordState where
  | good | corrected (bit : Option Nat) | poison | uncorrectable
deriving DecidableEq, Repr

/-- Reads a syndrome (R51): a data column names the data bit, a check column no data bit. -/
def syndrome (s : Nat) : WordState :=
  if s = 0 then .good
  else if s = poisonSyn then .poison
  else match dataColumns.findIdx? (· == s) with
    | some i => .corrected (some i)
    | none => if popCount 8 s = 1 then .corrected none else .uncorrectable

/-- The stored data of the word that holds a byte, as a number. -/
def rawWord (m : List Host.Cell) (key : Nat) : Nat :=
  let b := key / 8 * 8
  (List.range 8).foldr (fun i n => n * 256 + (Memory.read m (b + i)).toNat) 0

/-- The syndrome of the word that holds a byte. -/
def synOf (m : List Host.Cell) (key : Nat) : Nat := (Memory.read m (synKey key)).toNat

/-- The word that holds a byte reads as poison: poison or uncorrectable (R51). -/
def isPoison (m : List Host.Cell) (key : Nat) : Bool :=
  match syndrome (synOf m key) with
  | .poison => true
  | .uncorrectable => true
  | _ => false

/-- The word that holds a byte, corrected where its syndrome says so; none when it reads as poison (R51). -/
def readWord? (m : List Host.Cell) (key : Nat) : Option Nat :=
  match syndrome (synOf m key) with
  | .good => some (rawWord m key)
  | .corrected (some i) => some (rawWord m key ^^^ (1 <<< i))
  | .corrected none => some (rawWord m key)
  | _ => none

/-- One byte as a read returns it; none for a byte of a poison word (R51). -/
def readByte? (m : List Host.Cell) (key : Nat) : Option Byte :=
  (readWord? m key).map fun w => BitVec.ofNat 8 (w >>> (8 * (key % 8)))

/-- A run of bytes as reads return them. -/
def readBytes (m : List Host.Cell) (key len : Nat) : Payload := (List.range len).map fun i => readByte? m (key + i)

/-- Little-endian value of bytes; a poison byte counts as zero (R2). -/
def payloadNat (p : Payload) : Nat := p.foldr (fun b n => n * 256 + (b.getD 0).toNat) 0

/-- The bytes of a number, little-endian (R2). -/
def natBytes (len n : Nat) : List Byte := (List.range len).map fun i => BitVec.ofNat 8 (n >>> (8 * i))

/-- Does any byte carry poison? -/
def Payload.poisoned (p : Payload) : Bool := p.any Option.isNone

/-- Good bytes as a payload. -/
def goodBytes (l : List Byte) : Payload := l.map some

/-- Stores the word that holds a byte as poison: data 0 with check byte 0x8F (R50). -/
def poisonWord (m : List Host.Cell) (key : Nat) : List Host.Cell :=
  Memory.write ((List.range 8).foldl (fun m i => Memory.write m (key / 8 * 8 + i) 0) m) (synKey key)
    (BitVec.ofNat 8 poisonSyn)

/-- Stores a whole good word. -/
def storeWord (m : List Host.Cell) (key w : Nat) : List Host.Cell :=
  Memory.write ((List.range 8).foldl (fun m i => Memory.write m (key / 8 * 8 + i) (BitVec.ofNat 8 (w >>> (8 * i)))) m)
    (synKey key) 0

/-- Writes bytes into the one word that holds `key` (R50, R53): a poison word stays poison unless all eight bytes are
written; poison bytes poison the word; a corrected word is stored corrected. The flag says that a part of a poison word
was written. -/
def writeInWord (m : List Host.Cell) (key : Nat) (bytes : Payload) : List Host.Cell × Bool :=
  let off := key % 8
  if bytes.isEmpty then (m, false)
  else if bytes.any Option.isNone then (poisonWord m key, decide (bytes.length < 8) && isPoison m key)
  else if bytes.length = 8 then (storeWord m key (payloadNat bytes), false)
  else
    match readWord? m key with
    | none => (poisonWord m key, true)
    | some w =>
      let mask := ((1 <<< (8 * bytes.length)) - 1) <<< (8 * off)
      let keep := w - (w &&& mask)
      (storeWord m key (keep + (payloadNat bytes <<< (8 * off))), false)

/-- Writes a run of bytes, word by word; the flag says whether some poison word was written only in part (R53). `fuel`
bounds the number of words. -/
def writeRun (m : List Host.Cell) (key : Nat) (bytes : Payload) : List Host.Cell × Bool :=
  let rec go : Nat → List Host.Cell → Nat → Payload → Bool → List Host.Cell × Bool
    | 0, m, _, _, f => (m, f)
    | fuel + 1, m, key, bytes, f =>
      if bytes.isEmpty then (m, f)
      else
        let n := 8 - key % 8
        let r := writeInWord m key (bytes.take n)
        go fuel r.1 (key + n) (bytes.drop n) (f || r.2)
  go (bytes.length / 8 + 2) m key bytes false

/-- Rewrites as poison every uncorrectable word of a run that has been read (R51), and counts the corrected ones. -/
def scrubRun (m : List Host.Cell) (key len : Nat) : List Host.Cell × Nat :=
  (List.range ((key % 8 + len + 7) / 8)).foldl (fun acc i =>
    match syndrome (synOf acc.1 (key + 8 * i)) with
    | .uncorrectable => (poisonWord acc.1 (key + 8 * i), acc.2)
    | .corrected _ => (acc.1, acc.2 + 1)
    | _ => acc) (m, 0)

/-- The word that holds a byte as a read that corrects it would store it again (R51). -/
def correctWord (m : List Host.Cell) (key : Nat) : List Host.Cell :=
  match syndrome (synOf m key) with
  | .corrected _ => (match readWord? m key with | some w => storeWord m key w | none => m)
  | _ => m

/-- The words that a write of a run of bytes covers only in part: they are read (R53). -/
def partWords (key len : Nat) : List Nat :=
  if len = 0 then []
  else
    let a := key / 8 * 8
    let b := (key + len - 1) / 8 * 8
    (if key % 8 ≠ 0 ∨ key + len < a + 8 then [a] else []) ++ (if b ≠ a ∧ (key + len) % 8 ≠ 0 then [b] else [])

/-! ### Time and hashing -/

/-- The time base in ticks at a clock: 1 clk is 5/9 ns (R5), counted from `base` (R424). -/
def State.tick (s : State) : Nat := (s.base + s.clk * 5 / 9) % 2 ^ 64

/-- The time that paces the scrubbers, which no setting of the time base changes: the ticks since reset, in parts of 8,192 (R411). -/
def State.scrubTime (s : State) : Nat := s.clk * 5 / 9 * 8192

/-- The mixing function of R45. -/
def mix64 (x : Word) : Word :=
  let x := x ^^^ (x >>> 31)
  let x := x * 0x7FB5D329728EA185
  let x := x ^^^ (x >>> 27)
  let x := x * 0x81DADEF4BC2DD44D
  x ^^^ (x >>> 33)

/-- The entry `(key * n) >> 64` of a list of n (R46, R47, R401). -/
def pick {α : Type} (key : Word) (l : List α) : Option α := l[(key.toNat * l.length) >>> 64]?

/-- The port by which traffic of a route key goes to a member (R418). -/
def portOf (x : Context) (member : Nat) (k : Word) : Nat :=
  match x.routes.find? fun e => decide (e.1 = member) with
  | some e => (pick (mix64 k) e.2).getD 0
  | none => 0

/-- The coordinate value c of R47 under a block shift. -/
def coordHash (n : Name) (sh : Nat) : Word :=
  BitVec.ofNat 64 ((n.c0 >>> sh) + (n.c1 >>> sh) * 2 ^ 14 + (n.c2 >>> sh) * 2 ^ 28 + (n.c3 >>> sh) * 2 ^ 42)

/-- The root key of a name (R47). -/
def rootKey (seed : Word) (n : Name) (sh : Nat) : Word :=
  mix64 (mix64 (BitVec.ofNat 64 n.handle ^^^ seed) ^^^ coordHash n sh)

/-- The home key of a tag pool (R178). -/
def poolKey (seed : Word) (level : Nat) (group : Word) : Word :=
  mix64 (mix64 (BitVec.ofNat 64 level ^^^ seed) ^^^ group)

/-- Is injection tick `a` older than `b` (R311)? -/
def olderTick (a b : Nat) : Bool :=
  let d := (b + 2 ^ 32 - a % 2 ^ 32) % 2 ^ 32
  decide (1 ≤ d) && decide (d ≤ 2 ^ 31 - 1)

/-- Is version `v` newer than `u` (R300)? -/
def newerVer (v u : Nat) : Bool :=
  let d := (v + 65536 - u % 65536) % 65536
  decide (1 ≤ d) && decide (d ≤ 32767)

/-! ### Parts of the state -/

/-- A core; an unlisted one is as after reset. -/
def State.core (s : State) (k : Nat) : Core := Tbl.getD s.cores k .reset
/-- Replaces a core. -/
def State.setCore (s : State) (k : Nat) (c : Core) : State := { s with cores := Tbl.set s.cores k c }
/-- Changes a core. -/
def State.updCore (s : State) (k : Nat) (f : Core → Core) : State := s.setCore k (f (s.core k))
/-- A grove; an unlisted one is as after reset. -/
def State.grove (s : State) (g : Nat) : Grove := Tbl.getD s.groves g .reset
/-- Replaces a grove. -/
def State.setGrove (s : State) (g : Nat) (v : Grove) : State := { s with groves := Tbl.set s.groves g v }
/-- Changes a grove. -/
def State.updGrove (s : State) (g : Nat) (f : Grove → Grove) : State := s.setGrove g (f (s.grove g))
/-- A context; an unlisted one does not exist. -/
def State.ctx (s : State) (c : Nat) : Context := Tbl.getD s.contexts c .reset
/-- Replaces a context. -/
def State.setCtx (s : State) (c : Nat) (v : Context) : State := { s with contexts := Tbl.set s.contexts c v }
/-- Changes a context. -/
def State.updCtx (s : State) (c : Nat) (f : Context → Context) : State := s.setCtx c (f (s.ctx c))
/-- The tick at which a rollback of a context that is in progress began (R393). -/
def State.rollingFrom (s : State) (ctx : Nat) : Option Nat := (s.trunk.rollbacks.find? fun e => decide (e.2.1 = ctx)).map (·.2.2.1)
/-- Is a context held, for a forced flush (R49) or a rollback (R393)? -/
def State.heldCtx (s : State) (ctx : Nat) : Bool := decide ((s.ctx ctx).hold ≠ .none) || (s.rollingFrom ctx).isSome
/-- A staging slice. -/
def State.sliceOf (s : State) (i : Nat) : Slice := Tbl.getD s.slices i .reset
/-- Changes a slice. -/
def State.updSlice (s : State) (i : Nat) (f : Slice → Slice) : State :=
  { s with slices := Tbl.set s.slices i (f (s.sliceOf i)) }
/-- A rim field. -/
def State.rim (s : State) (k : Nat) : Rim := Tbl.getD s.rims k .reset
/-- Changes a rim field. -/
def State.updRim (s : State) (k : Nat) (f : Rim → Rim) : State := { s with rims := Tbl.set s.rims k (f (s.rim k)) }
/-- An HBM stack. -/
def State.stack (s : State) (k : Nat) : Stack := Tbl.getD s.hbmStacks k .reset
/-- Changes a stack. -/
def State.updStack (s : State) (k : Nat) (f : Stack → Stack) : State :=
  { s with hbmStacks := Tbl.set s.hbmStacks k (f (s.stack k)) }
/-- Changes the trunk. -/
def State.updTrunk (s : State) (f : Trunk → Trunk) : State := { s with trunk := f s.trunk }

/-! ### Packets (R303) -/

/-- A packet that has just been made at a position: it may move from the next clock on. -/
def mkPkt (ctx : Nat) (name : Name) (kind : PktKind) (src dst : Nat) (express : Bool) (inj : Nat) (data : Payload) (wid : Word)
    (clk : Nat) : Pkt :=
  { ctx := ctx, name := name, kind := kind, src := src, dst := dst, at_ := src, inp := 4, express := express,
    inj := inj, data := data, wid := wid, time := clk, via := src, cross := 0, base := inj, port := 0 }

/-- The code of position `x` of member `m` of the gang, as the source of a packet that has come in from it (log entry 9). -/
def farCode (m x : Nat) : Nat := 4096 * (m + 1) + x
/-- Is a code that of a position in another member? -/
def isFar (x : Nat) : Bool := decide (4096 ≤ x)
/-- The position of the gang, member · 2,592 + grove, that a far code names. -/
def farPos (x : Nat) : Nat := (x / 4096 - 1) * 2592 + x % 4096

/-- Puts a packet on the fabric. -/
def State.send (s : State) (p : Pkt) : State := { s with net := s.net ++ [p] }

/-- The first trunk core's index. -/
def trunkCore0 : Nat := 10368
/-- Is the core one of the trunk's four? -/
def isTrunkCore (k : Nat) : Bool := decide (trunkCore0 ≤ k)
/-- The grove of a core (R7). -/
def groveOf (core : Nat) : Nat := core / 4
/-- A core's record of the task it holds. -/
def State.taskOf (s : State) (core : Nat) : Option TaskRec := Tbl.get? (s.grove (groveOf core)).tasks (s.core core).task
/-- Changes a task record of a grove. -/
def State.updTask (s : State) (g i : Nat) (f : TaskRec → TaskRec) : State :=
  s.updGrove g fun gr => match Tbl.get? gr.tasks i with
    | some t => { gr with tasks := Tbl.set gr.tasks i (f t) }
    | none => gr

/-- The partition and context number of a core's running task, from KCTX (R154). -/
def Core.ctxNo (c : Core) : Nat := (c.kctx.toNat) % 64

/-- The image whose code a core issues: its context's, or the supervisor image on a trunk core (R420). -/
def State.imageOf (s : State) (core : Nat) : Image :=
  if isTrunkCore core then s.trunk.supCode else (s.ctx (s.core core).ctxNo).image

/-- A free value (log entry 8). -/
def State.freeWord (s : State) : Word × State := (Config.freeValue s.fresh, { s with fresh := s.fresh + 1 })

/-! ### Registers of a core (R81) -/

/-- Reads an s register; s0 reads zero. -/
def Core.rs (c : Core) (i : Nat) : Word := if i = 0 then 0 else c.s[i]?.getD 0
/-- Reads an a register. -/
def Core.ra (c : Core) (i : Nat) : Word := c.a[i]?.getD 0
/-- Reads a predicate; p0 reads all ones. -/
def Core.rp (c : Core) (i : Nat) : BitVec 32 := if i = 0 then BitVec.allOnes 32 else c.p[i]?.getD 0
/-- Reads a v register. -/
def Core.rv (c : Core) (i : Nat) : BitVec 1024 := c.v[i]?.getD 0
/-- Reads an h register. -/
def Core.rh (c : Core) (i : Nat) : Word := c.h[i]?.getD 0
/-- Reads an n register. -/
def Core.rn (c : Core) (i : Nat) : BitVec 32 := c.n[i]?.getD 0

/-- The bits of an h register that are kept (R81). -/
def hMask : Word := 0x7FFE0

/-- Writes a register; writes to s0 and p0 are discarded (R81). -/
def Core.wr (c : Core) (r : Reg) (v : Nat) : Core :=
  match r.file with
  | .s => if r.num = 0 then c else { c with s := c.s.setIfInBounds r.num (BitVec.ofNat 64 v) }
  | .a => { c with a := c.a.setIfInBounds r.num (BitVec.ofNat 64 v) }
  | .p => if r.num = 0 then c else { c with p := c.p.setIfInBounds r.num (BitVec.ofNat 32 v) }
  | .v => { c with v := c.v.setIfInBounds r.num (BitVec.ofNat 1024 v) }
  | .h => { c with h := c.h.setIfInBounds r.num (BitVec.ofNat 64 v &&& hMask) }
  | .n => { c with n := c.n.setIfInBounds r.num (BitVec.ofNat 32 v) }
  | _ => c

/-- ORs flags into KFPX (R111, R112). -/
def Core.raise (c : Core) (f : Flags) : Core := { c with kfpx := c.kfpx ||| f.setWidth 64 }

/-- The rounding mode of vector register forms, KFPX.RM (R111). -/
def Core.rm (c : Core) : Rm := Rm.ofBits (c.kfpx.extractLsb' 8 2)

/-- Lands a pending write: the register takes its value and the flags enter KFPX (R83, R112). -/
def Core.landOne (c : Core) (p : Pend) : Core := (c.wr p.reg p.val).raise p.flags

/-- Is a pending write due at the end of a clock (R83)? -/
def Pend.due (p : Pend) (clk : Nat) : Bool :=
  match p.wait with
  | .timed t => decide (t ≤ clk)
  | .answered t => decide (t ≤ clk)
  | _ => false

/-- Lands every write due at the end of a clock (R83, R86). -/
def Core.landDue (c : Core) (clk : Nat) : Core :=
  let due := c.pend.filter (·.due clk)
  due.foldl Core.landOne { c with pend := c.pend.filter (fun p => !p.due clk) }

/-- Lands every write with exposed latency, as a trap or a pre-emption requires (R86). -/
def Core.landAll (c : Core) : Core :=
  let timed (p : Pend) : Bool := match p.wait with | .timed _ => true | _ => false
  (c.pend.filter timed).foldl Core.landOne { c with pend := c.pend.filter (fun p => !timed p) }

/-- Issues a register write with exposed latency L at a clock: it lands at the end of clock t + L − 1 (R83). Writes to s0
and p0 are discarded and so never pending. -/
def Core.issueWrite (c : Core) (clk lat : Nat) (r : Reg) (v : Nat) (f : Flags) : Core :=
  if (r.file = .s ∨ r.file = .p) ∧ r.num = 0 then
    { c with pend := c.pend ++ [⟨r, 0, f, .timed (clk + lat - 1), clk⟩] }
  else { c with pend := c.pend ++ [⟨r, v, f, .timed (clk + lat - 1), clk⟩] }

/-! ### K-registers (R150 to R154) -/

/-- The value a `krd` returns; KTICK is the time base of the issue clock (R82, R154). Unassigned numbers read zero. -/
def Core.getK (c : Core) (k tick : Nat) : Word :=
  match k with
  | 0x0 => c.kstat
  | 0x1 => c.ktrap
  | 0x2 => c.kepc
  | 0x3 => c.kctx
  | 0x4 => BitVec.ofNat 64 tick
  | 0x5 => c.kpwin
  | 0x6 => c.kbank
  | 0x7 => c.kptroot
  | 0x8 => c.kwid
  | 0x9 => c.kfpx
  | 0xA => c.ktval
  | 0xB => c.ktvec
  | 0xC => c.kscr[0]
  | 0xD => c.kscr[1]
  | 0xE => c.kscr[2]
  | 0xF => c.kscr[3]
  | 0x10 => c.kmjob
  | _ => 0

/-- A field-by-field write: RW fields take the bits of `v`, W1C fields clear where `v` holds ones (R4, R150). -/
def fieldWrite (old v rw w1c : Word) : Word := ((old &&& ~~~rw) ||| (v &&& rw)) &&& ~~~(v &&& w1c)

/-- The effect of a `kwr` (R150); KTRAP, KCTX, KTICK, KPWIN, KWID, KTVAL and KMJOB have no writable field. -/
def Core.putK (c : Core) (k : Nat) (v : Word) : Core :=
  match k with
  | 0x0 => { c with kstat := fieldWrite c.kstat v 0 0x30 }
  | 0x2 => { c with kepc := fieldWrite c.kepc v 0x1FFF0FFF 0 }
  | 0x6 => { c with kbank := fieldWrite c.kbank v 0xFFFFFFFFFF 0 }
  | 0x7 => { c with kptroot := fieldWrite c.kptroot v 0x000FFFFFFFFFF000 0 }
  | 0x9 => { c with kfpx := fieldWrite c.kfpx v 0x300 0x1F }
  | 0xB => { c with ktvec := fieldWrite c.ktvec v 0xFFF 0 }
  | 0xC => { c with kscr := c.kscr.set 0 v }
  | 0xD => { c with kscr := c.kscr.set 1 v }
  | 0xE => { c with kscr := c.kscr.set 2 v }
  | 0xF => { c with kscr := c.kscr.set 3 v }
  | _ => c

/-- Lands the K-register writes of the bundle just issued: they take effect for the bundles after it (R150). -/
def Core.landK (c : Core) : Core :=
  { (c.kpend.foldl (fun c e => c.putK e.1 e.2) c) with kpend := [] }

/-! ### Traps (R158 to R162) -/

/-- The trap kinds with their codes (R158). -/
inductive Kind where
  | illegal | hazard | nonuniform | poison | xlate | align | pwunbound | scorefull | swtrap | busy | gang | gangLate
deriving DecidableEq, Repr

/-- The kind code of KTRAP.KIND (R158). -/
def Kind.code : Kind → Nat
  | .illegal => 1 | .hazard => 2 | .nonuniform => 3 | .poison => 4 | .xlate => 5 | .align => 6 | .pwunbound => 7
  | .scorefull => 8 | .swtrap => 9 | .busy => 10 | .gang => 11 | .gangLate => 12

/-- XLATE causes (R43). -/
def xcNotMapped : Nat := 1
/-- XLATE cause PERM (R43). -/
def xcPerm : Nat := 2
/-- XLATE cause MALFORMED (R43). -/
def xcMalformed : Nat := 3
/-- XLATE cause RANGE (R43). -/
def xcRange : Nat := 4
/-- XLATE cause WINDOW (R43). -/
def xcWindow : Nat := 5
/-- XLATE cause PHYS (R43). -/
def xcPhys : Nat := 6
/-- XLATE cause NOTSYNC (R43). -/
def xcNotSync : Nat := 7

/-- A trap as KTRAP and KTVAL will describe it (R152); `reads` are the runs of memory (key, length) that the operation has read,
whose uncorrectable words are rewritten as poison all the same (R51). -/
structure Trap where
  kind : Kind
  ilc : Nat
  xc : Nat
  reg : Option Reg
  miss : Nat
  code : Nat
  tval : Word
  reads : List (Nat × Nat)
deriving DecidableEq, Repr

/-- A trap with nothing beside its kind. -/
def Trap.of (k : Kind) : Trap := ⟨k, 0, 0, none, 0, 0, 0, []⟩
/-- An ILLEGAL trap with its cause (R152). -/
def Trap.illegal (c : Ilc) : Trap := { Trap.of .illegal with ilc := c.code }
/-- An XLATE trap with its cause and address (R152). -/
def Trap.xlate (xc : Nat) (addr : Word) : Trap := { Trap.of .xlate with xc := xc, tval := addr }
/-- A trap that carries an address. -/
def Trap.at_ (k : Kind) (addr : Word) : Trap := { Trap.of k with tval := addr }
/-- A POISON trap at an address, of an operation that has read a run of memory (R51, R137). -/
def Trap.poisonRead (addr : Word) (key len : Nat) : Trap := { Trap.at_ .poison addr with reads := [(key, len)] }

/-- The KTRAP word of a trap raised in a slot (R152). -/
def Trap.word (t : Trap) (slot : Nat) (imp : Bool) : Word :=
  let file := match t.reg with | some r => r.file.code | none => 0
  let num := match t.reg with | some r => r.num | none => 0
  BitVec.ofNat 64 (t.kind.code + (slot % 4) * 2 ^ 4 + (if imp then 2 ^ 6 else 0) + t.xc % 8 * 2 ^ 8 + t.ilc % 8 * 2 ^ 11
    + num % 128 * 2 ^ 16 + file % 16 * 2 ^ 23 + t.miss % 32 * 2 ^ 27 + t.code % 4096 * 2 ^ 32)

/-- Counts corrected words in the totals of SUMMARY (R51). -/
def State.countCorr (s : State) (key n : Nat) : State :=
  if n = 0 then s
  else if key < 2 ^ 44 then s.updTrunk fun t => { t with cecHbm := t.cecHbm + n }
  else s.updTrunk fun t => { t with cecSram := t.cecSram + n }

/-- What the reading of a run of memory does to it (R51): uncorrectable words are rewritten as poison, corrected ones counted. -/
def State.scrub (s : State) (key len : Nat) : State :=
  let r := scrubRun s.mem key len
  ({ s with mem := r.1 }).countCorr key r.2

/-- The words of a run of memory that have a listed syndrome. -/
def syndromesIn (m : List Host.Cell) (lo len : Nat) : List Nat :=
  m.filterMap fun c =>
    if decide (synKey lo ≤ c.1) && decide (c.1 ≤ synKey (lo + len - 1)) then some ((c.1 - 2 ^ 60) * 8) else none

/-- What the reading of a long run of memory does to it (R51): as for a short one, from the listed syndromes. -/
def State.scrubLong (s : State) (key len : Nat) : State := (syndromesIn s.mem key len).foldl (fun s k => s.scrub k 8) s

/-- Writes a run of bytes to memory: the words that it covers in part are read as R51 states. The flag says that a part of a poison
word was written (R53). -/
def State.writeBytes (s : State) (key : Nat) (bytes : Payload) : State × Bool :=
  let s := (partWords key bytes.length).foldl (fun s k => s.scrub k 8) s
  let r := writeRun s.mem key bytes
  ({ s with mem := r.1 }, r.2)

/-- What the reading of several runs does. -/
def State.scrubs (s : State) (l : List (Nat × Nat)) : State := l.foldl (fun s r => s.scrub r.1 r.2) s

/-- KEPC for the core's next bundle: its address, and whether it is the delay bundle of a taken branch (R153). -/
def Core.returnPoint (c : Core) : Word :=
  match c.branch with
  | some t => BitVec.ofNat 64 (c.pc.toNat + t.toNat * 2 ^ 16 + 2 ^ 28)
  | none => BitVec.ofNat 64 c.pc.toNat

/-- KSTAT bits: sup 0, dbg 1, pwb 4, rb 5, psup 6, inh 7 (R151). -/
def Core.sup (c : Core) : Bool := c.kstat.getLsbD 0
/-- Debug mode, KSTAT.dbg (R151). -/
def Core.dbg (c : Core) : Bool := c.kstat.getLsbD 1
/-- KSTAT.inh: a supervisor trap handler is running (R151). -/
def Core.inh (c : Core) : Bool := c.kstat.getLsbD 7
/-- KSTAT.psup (R151). -/
def Core.psup (c : Core) : Bool := c.kstat.getLsbD 6

/-- Sets or clears one bit of a word. -/
def setBit (w : Word) (i : Nat) (b : Bool) : Word :=
  if b then w ||| ((1 : Word) <<< i) else w &&& ~~~((1 : Word) <<< i)

/-- Takes a trap on a core (R159 to R162): pending writes land, KTRAP, KTVAL and KEPC are written; in user mode the core
ends its task and issues nothing further; in supervisor mode with inh = 0 the handler at KTVEC issues next with psup := sup,
sup := 1, inh := 1; with inh = 1 the core stops. -/
def Core.takeTrap (c : Core) (ktrap ktval : Word) : Core :=
  let c := c.landAll
  let c := { c with ktrap := ktrap, ktval := ktval, kepc := c.returnPoint, split := [] }
  if c.sup then
    if c.inh then { c with mode := .halted }
    else
      { c with
        kstat := setBit (setBit (setBit c.kstat 6 c.sup) 0 true) 7 true,
        pc := c.ktvec.extractLsb' 0 12, branch := none, delay := false }
  else { c with mode := .faulted }

/-- Returns from a trap (R157): sup := psup, inh := 0, and the bundle at KEPC.PC issues next, as the delay bundle of a
branch to KEPC.TGT when KEPC.DLY is set. -/
def Core.returnFromTrap (c : Core) : Core :=
  let dly := c.kepc.getLsbD 28
  { c with
    kstat := setBit (setBit c.kstat 0 c.psup) 7 false,
    pc := c.kepc.extractLsb' 0 12,
    branch := if dly then some (c.kepc.extractLsb' 16 12) else none,
    delay := dly }

end Sys2Proof.Machine
end

