-- ==== Sys2Proof/Machine/Mem.lean ====
section
/-!
DEFINITION. The paths to memory: geometry of the wafer (R7, R9), extended addresses (R38), translation (R39 to R44), windows
and sync cells (R35, R36), the memory-side cache as far as traffic and flushes see it (R46, R48, R399), and the writes and
reads of each level with everything that goes with a write: bank tags (R29), dirty and armed chunks (R379), page and
window-unit snapshot states (R380, R381) and watched ranges (R324).
-/

namespace Sys2Proof.Machine

/-! ### Geometry (R7, R9, R430) -/

/-- The column of a grove. -/
def groveX (g : Nat) : Nat := g % 48
/-- The row of a grove. -/
def groveY (g : Nat) : Nat := g / 48
/-- The compute field of a grove (R7). -/
def fieldOf (g : Nat) : Nat := groveY g / 6 * 8 + groveX g / 6
/-- The quarter of a grove (R430). -/
def quarterOf (g : Nat) : Nat := groveX g / 12
/-- |Δgx| + |Δgy| of two groves. -/
def groveDist (g h : Nat) : Nat :=
  (groveX g - groveX h) + (groveX h - groveX g) + (groveY g - groveY h) + (groveY h - groveY g)
/-- The rim fields of a quarter (R430). -/
def rimsOfQuarter (q : Nat) : List Nat :=
  match q with
  | 0 => [9, 10, 11] | 1 => [0, 7, 8] | 2 => [1, 2, 6] | _ => [3, 4, 5]

/-- The partition of a quarter under TK_PARTMAP (R430). -/
def Trunk.partOf (t : Trunk) (q : Nat) : Nat := (t.partmap.toNat / 4 ^ q) % 4
/-- Does the partition exist (VMASK of R430)? -/
def Trunk.partExists (t : Trunk) (p : Nat) : Bool := t.partmap.getLsbD (8 + p)
/-- The quarters of a partition. -/
def Trunk.quarters (t : Trunk) (p : Nat) : List Nat := (List.range 4).filter fun q => decide (t.partOf q = p)
/-- The rim fields of a partition, ascending. -/
def Trunk.partRims (t : Trunk) (p : Nat) : List Nat :=
  (List.range 12).filter fun k => (t.quarters p).any fun q => (rimsOfQuarter q).contains k
/-- Does a grove lie in a partition? -/
def Trunk.groveIn (t : Trunk) (p g : Nat) : Bool := decide (t.partOf (quarterOf g) = p)

/-- Is the grove index ready (R425)? -/
def State.groveReady (s : State) (g : Nat) : Bool := (Tbl.getD s.ready.groves g 0).testBit 0
/-- Is the rim field ready (R425)? -/
def State.rimReady (s : State) (k : Nat) : Bool := s.ready.rims.getLsbD k
/-- The ready groves of a partition, ascending (R47). -/
def State.partGroves (s : State) (p : Nat) : List Nat :=
  (s.ready.groves.map (·.1)).filter fun g => s.groveReady g && s.trunk.groveIn p g
/-- The ready rim fields of a partition, ascending (R401). -/
def State.readyRims (s : State) (p : Nat) : List Nat := (s.trunk.partRims p).filter s.rimReady
/-- The partition of a context number. -/
def partOfCtx (ctx : Nat) : Nat := ctx / 16

/-! ### The partition's memory (R431) -/

/-- TK_ILVp. -/
def State.ilv (s : State) (p : Nat) : Word := s.trunk.ilv[p]?.getD 0
/-- The stacks of SMASK, ascending. -/
def ilvStacks (w : Word) : List Nat := (List.range 24).filter fun i => w.getLsbD i
/-- Does a physical address lie in the partition's range (R431)? -/
def State.physOk (s : State) (p pa : Nat) : Bool :=
  let w := s.ilv p
  let base := (w.extractLsb' 36 6).toNat * 2 ^ 36
  w.getLsbD 63 && decide (base ≤ pa) && decide (pa < base + (ilvStacks w).length * 2 ^ 36) &&
    decide (pa < 0x18000000000)
/-- The stack that holds a physical address (R431). -/
def State.stackOf (s : State) (p pa : Nat) : Nat :=
  let w := s.ilv p
  let l := ilvStacks w
  let off := pa - (w.extractLsb' 36 6).toNat * 2 ^ 36
  (l[(off >>> (w.extractLsb' 48 6).toNat) % (max l.length 1)]?).getD 0

/-! ### Page tables (R39 to R41) -/

/-- What a successful walk returns (R41): address and bits of the leaf entry and the page. -/
structure Leaf where
  key : Nat
  entry : Word
  pa : Nat
  bits : Nat
deriving DecidableEq, Repr

/-- Reads a page-table entry, corrected under R51; none where it reads as poison. -/
def readEntry (m : List Host.Cell) (pa : Nat) : Option Word := (readWord? m pa).map (BitVec.ofNat 64)

/-- Walks the levels `lvl` to 3 of a page table (R39, R41); the error is the XLATE cause. `fuel` counts the levels left. -/
def walkFrom (s : State) (p va : Nat) : Nat → Nat → Nat → Except Nat Leaf
  | 0, _, _ => .error xcMalformed
  | fuel + 1, lvl, table =>
    let idx := match lvl with
      | 0 => va / 2 ^ 39 % 512
      | 1 => va / 2 ^ 30 % 512
      | 2 => va / 2 ^ 21 % 512
      | _ => va / 2 ^ 16 % 32
    let key := table + idx * 8
    if !s.physOk p key then .error xcPhys
    else match readEntry s.mem key with
      | none => .error xcMalformed
      | some e =>
        let addr := (e.extractLsb' 8 44).toNat * 256
        if !e.getLsbD 0 then .error xcNotMapped
        else if e.extractLsb' 52 12 ≠ 0 || e.getLsbD 4 then .error xcMalformed
        else if lvl < 2 then
          if e.getLsbD 1 || decide (addr % 4096 ≠ 0) then .error xcMalformed
          else if !s.physOk p addr then .error xcPhys
          else walkFrom s p va fuel (lvl + 1) addr
        else if lvl = 2 ∧ !e.getLsbD 1 then
          if !s.physOk p addr then .error xcPhys else walkFrom s p va fuel 3 addr
        else
          let bits := if lvl = 2 then 21 else 16
          if addr % 2 ^ bits ≠ 0 then .error xcMalformed
          else if !s.physOk p addr then .error xcPhys
          else .ok ⟨key, e, addr, bits⟩

/-- The page-table root of the walks of a grove's agents in a context (R39): the context's, which KPTROOT of a core that runs a
task of it holds; on the trunk (2,592), KPTROOT of the core that runs the supervisor image (R420). -/
def State.ptrootOf (s : State) (g ctx : Nat) : Nat :=
  if g = 2592 then (s.core 10371).kptroot.toNat else (s.ctx ctx).ptroot.toNat

/-- A walk for a grove's agents in a context (R39, R41). -/
def State.walk (s : State) (g ctx va : Nat) : Except Nat Leaf := walkFrom s (partOfCtx ctx) va 4 0 (s.ptrootOf g ctx)

/-- The entries that a walk reads, in order, up to the one it ends at (R41). -/
def walkKeys (s : State) (p va : Nat) : Nat → Nat → Nat → List Nat
  | 0, _, _ => []
  | fuel + 1, lvl, table =>
    let idx := match lvl with
      | 0 => va / 2 ^ 39 % 512
      | 1 => va / 2 ^ 30 % 512
      | 2 => va / 2 ^ 21 % 512
      | _ => va / 2 ^ 16 % 32
    let key := table + idx * 8
    if !s.physOk p key then []
    else
      match readEntry s.mem key with
      | none => [key]
      | some e =>
        if !e.getLsbD 0 || (decide (2 ≤ lvl) && e.getLsbD 1) || decide (3 ≤ lvl) then [key]
        else key :: walkKeys s p va fuel (lvl + 1) ((e.extractLsb' 8 44).toNat * 256)

/-- Sets A of a leaf that has it clear (R41). -/
def setAccessed (m : List Host.Cell) (l : Leaf) : List Host.Cell :=
  if l.entry.getLsbD 5 then m else storeWord m l.key (l.entry ||| 0x20).toNat

/-- The cached form of a leaf (R42). -/
def Leaf.toTlb (l : Leaf) (ctx va : Nat) : TlbEntry :=
  ⟨ctx, va / 2 ^ l.bits * 2 ^ l.bits, l.bits, l.pa, l.entry.getLsbD 2, l.entry.getLsbD 3, l.key⟩

/-- Does a cached translation serve an address (R42)? -/
def TlbEntry.hits (e : TlbEntry) (ctx va : Nat) : Bool :=
  decide (e.ctx = ctx) && decide (e.va / 2 ^ e.bits = va / 2 ^ e.bits)

/-- Enters a translation as the most recently used one of a cache of `cap` entries (R42). -/
def tlbPut (l : List TlbEntry) (cap : Nat) (e : TlbEntry) : List TlbEntry :=
  let l := l.filter (fun x => !(decide (x.ctx = e.ctx) && decide (x.va = e.va) && decide (x.bits = e.bits))) ++ [e]
  l.drop (l.length - cap)

/-- The cached translation an access of a grove uses: the grove's cache first, then the compute field's (R42). -/
def State.tlbHit (s : State) (g ctx va : Nat) : Option TlbEntry :=
  match (s.grove g).tlb.find? (·.hits ctx va) with
  | some e => some e
  | none => (Tbl.getD s.fieldTlb (fieldOf g) []).find? (·.hits ctx va)

/-- Makes the first hit of an address the most recently used entry of a cache (R42). -/
def tlbRenew (l : List TlbEntry) (ctx va : Nat) : List TlbEntry :=
  match l.find? (·.hits ctx va) with
  | some e => l.erase e ++ [e]
  | none => l

/-- A translation that an access of a grove uses becomes the most recently used one of the cache it was found in (R42). -/
def State.tlbUse (s : State) (g ctx va : Nat) : State :=
  if (s.grove g).tlb.any (·.hits ctx va) then s.updGrove g fun gr => { gr with tlb := tlbRenew gr.tlb ctx va }
  else
    match Tbl.get? s.fieldTlb (fieldOf g) with
    | some l => { s with fieldTlb := Tbl.set s.fieldTlb (fieldOf g) (tlbRenew l ctx va) }
    | none => s

/-- Enters a translation in the grove's and the field's caches (R42). -/
def State.tlbFill (s : State) (g : Nat) (e : TlbEntry) : State :=
  let s := s.updGrove g fun gr => { gr with tlb := tlbPut gr.tlb 32 e }
  { s with fieldTlb := Tbl.set s.fieldTlb (fieldOf g) (tlbPut (Tbl.getD s.fieldTlb (fieldOf g) []) 1024 e) }

/-! ### Extended addresses (R38) and windows (R35, R36) -/

/-- RA_CTX_SLWIN of a context at a slice (R35). -/
def State.slwin (s : State) (ctx slice : Nat) : Word := Tbl.getD (s.rim (slice / 8)).slwin (ctx % 16 * 8 + slice % 8) 0

/-- The effective range of a context's window at a slice, as offsets (R35). -/
def State.windowOf (s : State) (ctx slice : Nat) : Nat × Nat :=
  let w := s.slwin ctx slice
  let base := (w.extractLsb' 0 16).toNat
  let lim := (w.extractLsb' 16 16).toNat
  let e := min lim (s.sliceOf slice).split
  (base * 65536, e * 65536)

/-- Is a slice offset inside the context's effective range (R35)? -/
def State.inWindow (s : State) (ctx slice off : Nat) : Bool :=
  let w := s.windowOf ctx slice
  decide (w.1 ≤ off) && decide (off < w.2)

/-- Is a slice offset a sync cell of the context (R36)? -/
def State.isSync (s : State) (ctx slice off : Nat) : Bool :=
  let w := s.windowOf ctx slice
  let n := min (((s.slwin ctx slice).extractLsb' 32 8).toNat * 4096) (w.2 - w.1)
  decide (w.1 < w.2) && decide (off % 8 = 0) && decide (w.2 - n ≤ off) && decide (off < w.2)

/-- What an extended address names before translation: the fields of R38, or RANGE. -/
inductive ExtAddr where
  | virt (va : Nat)
  | grove (addr : Nat)
  | staging (remote : Bool) (member slice off : Nat)
deriving DecidableEq, Repr

/-- Reads the fields of an extended address; none where R38 calls it RANGE by itself. -/
def extAddr (ea : Word) : Option ExtAddr :=
  match (ea.extractLsb' 62 2).toNat with
  | 0 => if ea.extractLsb' 48 14 ≠ 0 then none else some (.virt (ea.extractLsb' 0 48).toNat)
  | 1 =>
    let a := (ea.extractLsb' 0 21).toNat
    if ea.extractLsb' 21 41 ≠ 0 ∨ a < 0x100000 ∨ 0x15FFFF < a then none else some (.grove a)
  | 2 =>
    let off := (ea.extractLsb' 0 27).toNat
    let slice := (ea.extractLsb' 48 7).toNat
    let member := (ea.extractLsb' 56 6).toNat
    let rem := ea.getLsbD 55
    if ea.extractLsb' 27 21 ≠ 0 ∨ 95 < slice ∨ 0x5000000 ≤ off ∨ (!rem ∧ member ≠ 0) then none
    else some (.staging rem member slice off)
  | _ => none

/-- The core and core-local address of a grove address (R33). -/
def grovePlace (g a : Nat) : Place :=
  let o := a - 0x100000
  let slot := o / 0x18000
  .sp (g * 4 + slot) (0x48000 + o % 0x18000)

/-- Locates an access of a context made from a grove (R38, R35, R41): a place, an XLATE cause, or none when the
translation is in no cache and a walk has to come first (R42). A walk that would fail fails at once. -/
def State.locate (s : State) (g ctx : Nat) (ea : Word) (write user : Bool) : Option (Except Nat Place) :=
  match extAddr ea with
  | none => some (.error xcRange)
  | some (.grove a) => some (.ok (grovePlace g a))
  | some (.staging rem member slice off) =>
    if rem && decide ((s.ctx ctx).nmem ≤ member) then some (.error xcRange)
    else if rem && decide (member ≠ (s.ctx ctx).member) then some (.ok (.remote member slice off))
    else if s.inWindow ctx slice off then some (.ok (.slice slice off)) else some (.error xcWindow)
  | some (.virt va) =>
    match s.tlbHit g ctx va with
    | some e =>
      if (write && !e.w) || (user && !e.u) then some (.error xcPerm)
      else some (.ok (.hbm (e.pa + va % 2 ^ e.bits) e.leaf e.bits va))
    | none =>
      match s.walk g ctx va with
      | .error c => some (.error c)
      | .ok l =>
        if (write && !l.entry.getLsbD 2) || (user && !l.entry.getLsbD 3) then some (.error xcPerm) else none

/-- Translates for an agent that walks at each access (rim agents, host, snapshot engine; R42), whose tables are those of the
context's groves. -/
def State.locateVa (s : State) (ctx va : Nat) (write : Bool) : Except Nat Place :=
  match s.walk 0 ctx va with
  | .error c => .error c
  | .ok l => if write && !l.entry.getLsbD 2 then .error xcPerm else .ok (.hbm (l.pa + va % 2 ^ l.bits) l.key l.bits va)

/-- The memory key of a place in the module. -/
def Place.key : Place → Nat
  | .sp c a => spKey c a
  | .slice i o => slKey i o
  | .hbm pa _ _ _ => pa
  | .remote _ _ _ => 0

/-! ### Reads (R51) -/

/-- A read of stored bytes: the bytes as R51 returns them, with uncorrectable words rewritten as poison. -/
def State.readMem (s : State) (key len : Nat) : Payload × State :=
  let s := s.scrub key len
  (readBytes s.mem key len, s)

/-! ### Scratchpad writes -/

/-- Sets a bit of a chunk map. -/
def setChunk (m : BitVec 768) (i : Nat) (b : Bool) : BitVec 768 :=
  if b then m ||| ((1 : BitVec 768) <<< i) else m &&& ~~~((1 : BitVec 768) <<< i)

/-- Changes the nodes of a snapshot. -/
def Snap.mapNodes (sn : Snap) (f : SnapNode → SnapNode) : Snap := { sn with nodes := sn.nodes.map f }

/-- Copies an armed chunk to the snapshot that waits for it, before its first write (R379). -/
def State.captureChunk (s : State) (core chunk : Nat) : State :=
  if (s.core core).armed.getLsbD chunk then
    let data := readBytes s.mem (spKey core (chunk * 512)) 512
    let node (n : SnapNode) : SnapNode :=
      if n.pending.contains (core, chunk) then
        { n with pending := n.pending.erase (core, chunk), chunks := n.chunks ++ [(core, chunk, data)] }
      else n
    let s := { s with snaps := s.snaps.map fun sn => Snap.mapNodes sn node }
    s.updCore core fun c => { c with armed := setChunk c.armed chunk false }
  else s

/-- The 512-byte chunks of a run of scratchpad bytes. -/
def chunksOf (addr len : Nat) : List Nat :=
  if len = 0 then [] else (List.range ((addr + len - 1) / 512 + 1 - addr / 512)).map (· + addr / 512)

/-- The banks of a run of scratchpad bytes (R28). -/
def banksOf (addr len : Nat) : List Nat :=
  if len = 0 then [] else (List.range ((addr + len - 1) / 0xC000 + 1 - addr / 0xC000)).map (· + addr / 0xC000)

/-- Counts the written bytes in every range that a WATCH source of the task watches (R323, R324). -/
def Grove.watchWrite (gr : Grove) (task addr len : Nat) : Grove :=
  let one (c : Counter) : Counter :=
    if c.src.extractLsb' 0 4 = 1 ∧ c.task = some task then
      let lo := max addr (c.range.extractLsb' 0 19).toNat
      let hi := min (addr + len) ((c.range.extractLsb' 19 19).toNat + 1)
      let n := hi - lo
      if c.src.getLsbD 4 then
        { c with adds := c.adds + (c.residue + n) / 512, residue := (c.residue + n) % 512 }
      else { c with adds := c.adds + n }
    else c
  { gr with counters := gr.counters.map fun e => (e.1, one e.2) }

/-- What goes with every write into a core's scratchpad: copy-on-write of armed chunks and dirty bits (R379), the bank tags
(R29) and the watched ranges of the task that runs on it (R324). -/
def State.touchSp (s : State) (core addr len ctx : Nat) (watch : Bool) : State :=
  let s := (chunksOf addr len).foldl (fun s k => s.captureChunk core k) s
  let s := s.updCore core fun c =>
    let d := (chunksOf addr len).foldl (fun d k => setChunk d k true) c.dirty
    let t := (banksOf addr len).foldl (fun (t : Vector (Option Nat) 8) k => t.setIfInBounds k (some ctx)) c.tags
    { c with dirty := d, tags := t }
  let runs := match s.taskOf core with | some t => t.oncore && decide (t.slot = core % 4) | none => false
  if watch && runs then s.updGrove (groveOf core) fun gr => gr.watchWrite (s.core core).task addr len else s

/-- Writes bytes into a core's scratchpad; the flag says that a poison word was written only in part (R53). -/
def State.writeSp (s : State) (core addr : Nat) (bytes : Payload) (ctx : Nat) (watch : Bool) : State × Bool :=
  (s.touchSp core addr bytes.length ctx watch).writeBytes (spKey core addr) bytes

/-! ### The memory-side cache (R46, R48, R399) -/

/-- The cache slices of a partition: the ready slices of its rim fields with SPLIT below 1,280 (R46). -/
def State.cacheSlices (s : State) (p : Nat) : List Nat :=
  ((s.readyRims p).flatMap fun k => (List.range 8).map (8 * k + ·)).filter fun i => decide ((s.sliceOf i).split < 1280)

/-- The slice that caches a line (R46). -/
def State.cacheSliceOf (s : State) (ctx pa : Nat) : Option Nat :=
  pick (mix64 (BitVec.ofNat 64 (pa / 64) ^^^ (s.ctx ctx).seed)) (s.cacheSlices (partOfCtx ctx))

/-- The set of a line in its slice (R399). -/
def State.cacheSet (s : State) (ctx slice line : Nat) : Nat :=
  ((mix64 (BitVec.ofNat 64 line ^^^ (s.ctx ctx).seed)).extractLsb' 0 32).toNat %
    max ((80 * 2 ^ 20 - (s.sliceOf slice).split * 65536) / 1024) 1

/-- Traffic of a context clears DONE (R48). -/
def State.traffic (s : State) (ctx : Nat) : State := s.updCtx ctx fun c => { c with flushDone := false }

/-- One access to a cache line (R399): a hit that fills nothing leaves no trace but its use; a miss or a write allocates,
fills or writes the line, evicts the least recently used one of a full set, and is traffic (R48). -/
def State.cacheTouch (s : State) (ctx pa : Nat) (write : Bool) : State :=
  match s.cacheSliceOf ctx pa with
  | none => s
  | some sl =>
    let line := pa / 64
    let sector : BitVec 2 := if pa / 32 % 2 = 0 then 1 else 2
    let mine (e : CacheLine) : Bool := decide (e.slice = sl) && decide (e.line = line)
    match s.cache.find? mine with
    | some e =>
      let hit := decide (e.valid &&& sector = sector)
      let e' := { e with valid := e.valid ||| sector, dirty := if write then e.dirty ||| sector else e.dirty }
      let s' := { s with cache := s.cache.filter (fun x => !mine x) ++ [e'] }
      if hit && !write then s' else s'.traffic ctx
    | none =>
      let e : CacheLine := ⟨sl, line, ctx, sector, if write then sector else 0⟩
      let set := s.cacheSet ctx sl line
      let same (x : CacheLine) : Bool := decide (x.slice = sl) && decide (s.cacheSet x.ctx sl x.line = set)
      let cache := if 16 ≤ (s.cache.filter same).length then
          (match s.cache.find? same with | some v => s.cache.erase v | none => s.cache)
        else s.cache
      ({ s with cache := cache ++ [e] }).traffic ctx

/-- The cache accesses of a run of bytes, one for each sector. -/
def State.cacheRun (s : State) (ctx pa len : Nat) (write : Bool) : State :=
  (List.range ((pa % 32 + len + 31) / 32)).foldl (fun s i => s.cacheTouch ctx (pa / 32 * 32 + 32 * i) write) s

/-! ### Writes to pages and staging (R380, R381) -/

/-- The running snapshot of a context. -/
def State.openSnap (s : State) (ctx : Nat) : Option Snap := s.snaps.find? fun n => decide (n.ctx = ctx) && n.done.isNone

/-- Adds the contents of an armed page or window unit, read as R51 and R410 state, to the rim node of the running snapshot. -/
def State.capturePage (s : State) (ctx id key len : Nat) : State :=
  let s := s.scrubLong key len
  let data := readBytes s.mem key len
  let node (n : SnapNode) : SnapNode := if n.node = 0xFFF then { n with pages := n.pages ++ [(id, data)] } else n
  let s := if id < 2 ^ 60 ∧ (s.cacheSliceOf ctx key).isSome then s.traffic ctx else s
  { s with snaps := s.snaps.map fun sn =>
      if sn.ctx = ctx ∧ sn.done.isNone then sn.mapNodes node else sn }

/-- The identity under which a captured window unit stands among captured pages: the KEY of R386 above the virtual space. -/
def winId (slice unit : Nat) : Nat := 2 ^ 60 + slice * 2 ^ 48 + unit * 65536

/-- The SNAP transition of a page of 2^bits bytes before a write to it (R380): unless the translation says DIRTY, the entry is read and
updated at its home (R51, R410). -/
def State.snapWritePage (s : State) (ctx leaf bits va : Nat) : State :=
  let dirty := match readEntry s.mem leaf with | some e => decide ((e.extractLsb' 6 2).toNat = 3) | none => false
  let s := if dirty then s else s.scrub leaf 8
  match readEntry s.mem leaf with
  | none => s
  | some e =>
    let st := (e.extractLsb' 6 2).toNat
    if st = 3 then s
    else
      let s := if st = 1 then
          s.capturePage ctx (va / 2 ^ bits * 2 ^ bits) ((e.extractLsb' 8 44).toNat * 256) (2 ^ bits)
        else s
      { s with mem := storeWord s.mem leaf (e ||| 0xC0).toNat }

/-- The state transition of a window unit before a write to it (R381). -/
def State.snapWriteUnit (s : State) (ctx slice off : Nat) : State :=
  let id := slice * 2 ^ 11 + off / 65536
  let st := Tbl.getD s.wins id 0
  if st = 3 then s
  else
    let s := if st = 1 then s.capturePage ctx (winId slice (off / 65536)) (slKey slice (off / 65536 * 65536)) 65536 else s
    { s with wins := Tbl.set s.wins id 3 }

/-- Writes bytes at a place of the module for a context; the flag says that a poison word was written only in part. -/
def State.writePlace (s : State) (pl : Place) (bytes : Payload) (ctx : Nat) (watch : Bool) : State × Bool :=
  match pl with
  | .sp core addr => s.writeSp core addr bytes ctx watch
  | .slice i off => (s.snapWriteUnit ctx i off).writeBytes (slKey i off) bytes
  | .hbm pa leaf bits va => ((s.snapWritePage ctx leaf bits va).cacheRun ctx pa bytes.length true).writeBytes pa bytes
  | .remote _ _ _ => (s, false)

/-- Reads bytes at a place of the module for a context. -/
def State.readPlace (s : State) (pl : Place) (len ctx : Nat) : Payload × State :=
  match pl with
  | .hbm pa _ _ _ => (s.cacheRun ctx pa len false).readMem pa len
  | .remote _ _ _ => ([], s)
  | pl => s.readMem pl.key len

/-- The memory key of frame f of a grove's save area (R177). -/
def Grove.frameKey (gr : Grove) (f : Nat) : Nat :=
  slKey (gr.teSave.extractLsb' 49 7).toNat ((gr.teSave.extractLsb' 0 11).toNat * 65536 + f * 0x6C000)

/-- The memory key of a save frame that a record at grove g refers to: frame f of its own area, or with 32 · (h + 1) added the
frame that a withdrawal left in grove h's area (R190). -/
def State.frameAddr (s : State) (g f : Nat) : Nat := (s.grove (if f < 32 then g else f / 32 - 1)).frameKey (f % 32)

/-- Frees a save frame that a record at grove g refers to. -/
def State.dropFrame (s : State) (g : Nat) (f : Option Nat) : State :=
  match f with
  | none => s
  | some f => s.updGrove (if f < 32 then g else f / 32 - 1) fun gr => { gr with framesUsed := gr.framesUsed &&& ~~~((1 : BitVec 31) <<< (f % 32)) }

/-- Splits a run of bytes so that no piece crosses a 64 KiB boundary: pieces of (offset, length). -/
def pieces (start len : Nat) : List (Nat × Nat) :=
  if len = 0 then []
  else
    let first := min len (65536 - start % 65536)
    let rest := len - first
    (0, first) :: (List.range ((rest + 65535) / 65536)).map fun i => (first + i * 65536, min 65536 (rest - i * 65536))

/-- What a walk does beside its result (R41, R48, R51): every entry it reads is a cache access of the context and is read as R51
states, and A of a leaf that is used is set. -/
def State.walked (s : State) (g ctx va : Nat) (used : Bool) : State :=
  let r := s.walk g ctx va
  let s := (walkKeys s (partOfCtx ctx) va 4 0 (s.ptrootOf g ctx)).foldl (fun s k => (s.cacheRun ctx k 8 false).scrub k 8) s
  match r with
  | .ok l => if !used || l.entry.getLsbD 5 then s else { s.cacheRun ctx l.key 8 true with mem := setAccessed s.mem l }
  | .error _ => s

/-- What locating an access of a grove does beside its result (R41, R42): a cached translation becomes the most recently used
one; an address that no cache holds has been walked for, and the walk has failed, so its leaf is not used. -/
def State.located (s : State) (g ctx : Nat) (ea : Word) : State :=
  match extAddr ea with
  | some (.virt va) => if (s.tlbHit g ctx va).isSome then s.tlbUse g ctx va else s.walked g ctx va false
  | _ => s

/-- What the walks for a range of a context's space do when one of them fails: those up to the failing one have read their entries, and
nothing is used (R41). -/
def State.probed (s : State) (ctx va len : Nat) (write : Bool) : State :=
  ((pieces va len).foldl (fun (acc : State × Bool) p =>
    if acc.2 then acc
    else (acc.1.walked 0 ctx (va + p.1) false,
      match acc.1.locateVa ctx (va + p.1) write with | .error _ => true | .ok _ => false)) (s, false)).1

/-- Reads virtual memory of a context through its page tables (rim agents, host, snapshot engine); the error is the cause
and the first failing address. -/
def State.readVa (s : State) (ctx va len : Nat) : State × Except (Nat × Nat) Payload :=
  (pieces va len).foldl (fun acc p =>
    match acc.2 with
    | .error e => (acc.1, .error e)
    | .ok d =>
      match acc.1.locateVa ctx (va + p.1) false with
      | .error c => (acc.1.walked 0 ctx (va + p.1) false, .error (c, va + p.1))
      | .ok pl => let r := (acc.1.walked 0 ctx (va + p.1) true).readPlace pl p.2 ctx; (r.2, .ok (d ++ r.1))) (s, .ok [])

/-- Writes virtual memory of a context through its page tables, stopping at the first failure; the failure is the cause and
the address. -/
def State.writeVa (s : State) (ctx va : Nat) (bytes : Payload) : State × Option (Nat × Nat) :=
  (pieces va bytes.length).foldl (fun acc p =>
    match acc.2 with
    | some _ => acc
    | none =>
      match acc.1.locateVa ctx (va + p.1) true with
      | .error c => (acc.1.walked 0 ctx (va + p.1) false, some (c, va + p.1))
      | .ok pl => (((acc.1.walked 0 ctx (va + p.1) true).writePlace pl ((bytes.drop p.1).take p.2) ctx false).1, none)) (s, none)

end Sys2Proof.Machine
end

