-- ==== Sys2Proof/Machine/Entries.lean ====
section
/-!
DEFINITION. The tables that an operation's fields name, as far as its checks at issue need them: shape records (R216, R217), WID
fields (R11, R12), channel entries of both kinds (R286, R346) and grants (R343); and those checks (R180, R289, R294, R320, R351).
-/

namespace Sys2Proof.Machine

/-! ### Shape records (R216 to R219) -/

/-- Little-endian field of a byte list. -/
def fieldOfBytes (b : List Byte) (off len : Nat) : Nat := ((b.drop off).take len).foldr (fun x n => n * 256 + x.toNat) 0

/-- Reads the 32 bytes of a shape record; the flag says that a reserved bit is set (R216). -/
def parseShape (b : List Byte) : ShapeRec × Bool :=
  let f := fieldOfBytes b
  (⟨f 0 4 % 2 ^ 19, f 4 2, f 6 2, f 8 2, f 10 2, intVal 32 true (f 12 4), intVal 32 true (f 16 4), intVal 32 true (f 20 4),
    BitVec.ofNat 32 (f 24 4), f 28 1 % 16⟩,
   decide (2 ^ 19 ≤ f 0 4) || decide (16 ≤ f 28 1) || decide (f 29 3 ≠ 0))

/-- Extents minus 1 by dimension. -/
def ShapeRec.x (r : ShapeRec) (k : Nat) : Nat := match k with | 0 => r.x0 | 1 => r.x1 | 2 => r.x2 | _ => r.x3
/-- The number of elements. -/
def ShapeRec.count (r : ShapeRec) : Nat := (r.x0 + 1) * (r.x1 + 1) * (r.x2 + 1) * (r.x3 + 1)
/-- The start of row (i1, i2, i3), exactly (R217). -/
def ShapeRec.row (r : ShapeRec) (i1 i2 i3 : Nat) : Int := r.base + i1 * r.s1 + i2 * r.s2 + i3 * r.s3
/-- The first and last byte of the region's span (R217). -/
def ShapeRec.span (r : ShapeRec) (f : Fmt) : Int × Int :=
  let e1 : Int := r.x1 * r.s1
  let e2 : Int := r.x2 * r.s2
  let e3 : Int := r.x3 * r.s3
  let lo : Int := r.base + min 0 e1 + min 0 e2 + min 0 e3
  let hi : Int := r.base + max 0 e1 + max 0 e2 + max 0 e3
  (lo, hi + f.rowBytes (r.x0 + 1) - 1)

/-- The format code of a bank (R30). -/
def bankCode (kbank : Word) (k : Nat) : Nat := (kbank.toNat / 16 ^ k) % 16
/-- The flush bit of a bank (R30). -/
def bankFtz (kbank : Word) (k : Nat) : Bool := kbank.getLsbD (32 + k)

/-- The effective format of a bank code under a type code T; none for RAW without a type (R219). -/
def effFmt (code : Nat) (t : BitVec 4) : Option Fmt :=
  if code = 0 then (if t = 0 then none else some (Fmt.ofType t))
  else
    let f := Fmt.ofBank code
    let u := Fmt.ofType t
    match f.int?, u.int? with
    | some (n, _), some (m, false) => if n = m then some u else some f
    | _, _ => some f

/-! ### Work identifiers (R11, R12) -/

/-- S(i): the sum of the widths below field i. -/
def widStart (w : List Nat) (i : Nat) : Nat := (w.take i).foldl (· + ·) 0
/-- The width of field i. -/
def widWidth (w : List Nat) (i : Nat) : Nat := w.getD i 0
/-- Field i of a WID; an absent field is zero. -/
def widField (w : List Nat) (i : Nat) (wid : Word) : Nat := (wid.toNat >>> (64 - widStart w (i + 1))) % 2 ^ widWidth w i
/-- The WID with every bit below field i cleared. -/
def widPrefix (w : List Nat) (i : Nat) (wid : Word) : Word :=
  let n := 64 - widStart w (i + 1)
  BitVec.ofNat 64 ((wid.toNat >>> n) <<< n)
/-- A WID with field i set. -/
def widSet (w : List Nat) (i : Nat) (wid : Word) (x : Nat) : Word :=
  let n := 64 - widStart w (i + 1)
  BitVec.ofNat 64 (wid.toNat - (widField w i wid <<< n) + ((x % 2 ^ widWidth w i) <<< n))

/-! ### Channel entries (R286, R346) -/

/-- A channel entry of an image. -/
def Image.chan (im : Image) (c : Nat) : List Byte := im.chans.getD c []
/-- KIND of an entry: 0 unused, 1 exchange, 2 collective. -/
def chKind (e : List Byte) : Nat := fieldOfBytes e 3 1
/-- The tensor handle of an entry. -/
def chHandle (e : List Byte) : Nat := fieldOfBytes e 0 3
/-- EXPRESS. -/
def chExpress (e : List Byte) : Bool := (fieldOfBytes e 4 1).testBit 0
/-- GUARDED. -/
def chGuarded (e : List Byte) : Bool := (fieldOfBytes e 4 1).testBit 1
/-- BACKED. -/
def chBacked (e : List Byte) : Bool := (fieldOfBytes e 4 1).testBit 2
/-- KEEP. -/
def chKeep (e : List Byte) : Bool := (fieldOfBytes e 4 1).testBit 3
/-- DEPTH: versions held landed for each subscription. -/
def chDepth (e : List Byte) : Nat := fieldOfBytes e 5 1
/-- The halo byte. -/
def chHalo (e : List Byte) : Nat := fieldOfBytes e 6 1
/-- HW: the halo width, 0 when the channel is no halo channel. -/
def chHw (e : List Byte) : Nat := fieldOfBytes e 7 1
/-- The tile's shape record, BASE zero. -/
def chShape (e : List Byte) : ShapeRec := (parseShape ((e.drop 32).take 32)).1
/-- The tile's element format. -/
def chFmt (e : List Byte) : Fmt := Fmt.ofBank (chShape e).fmt

/-! ### Collective entries (R346, R363) -/

/-- TYPE: 0 ALLREDUCE, 1 REDSCAT, 2 ALLGATHER, 3 BCAST, 4 COLLECT, 5 ALLTOALL. -/
def clType (e : List Byte) : Nat := fieldOfBytes e 5 1
/-- OP of a reduction. -/
def clOp (e : List Byte) : Nat := fieldOfBytes e 6 1
/-- FMT of a reduction. -/
def clFmt (e : List Byte) : Fmt := Fmt.ofBank (fieldOfBytes e 7 1)
/-- SAT. -/
def clSat (e : List Byte) : Bool := (fieldOfBytes e 4 1).testBit 1
/-- The number of members. -/
def clMembers (e : List Byte) : Nat := fieldOfBytes e 8 2 + 1
/-- MSEL. -/
def clMsel (e : List Byte) : Nat := fieldOfBytes e 10 1
/-- DEPTH. -/
def clDepth (e : List Byte) : Nat := fieldOfBytes e 11 1
/-- COUNT. -/
def clCount (e : List Byte) : Nat := fieldOfBytes e 12 4
/-- RM. -/
def clRoot (e : List Byte) : Nat := fieldOfBytes e 0x28 2
/-- CAP. -/
def clCap (e : List Byte) : Nat := fieldOfBytes e 0x2A 2
/-- Is the entry a reduction? -/
def clReduces (e : List Byte) : Bool := decide (clType e ≤ 1)
/-- Element width of a reduction in bytes. -/
def clWidth (e : List Byte) : Nat := (clFmt e).width / 8
/-- Source extent d of the layout map. -/
def mapX (e : List Byte) (d : Nat) : Nat := fieldOfBytes e (0x28 + 2 * d) 2 + 1
/-- Block extent d. -/
def mapB (e : List Byte) (d : Nat) : Nat := fieldOfBytes e (0x30 + 2 * d) 2 + 1
/-- PERM of destination dimension k. -/
def mapPerm (e : List Byte) (k : Nat) : Nat := fieldOfBytes e 0x38 1 / 4 ^ k % 4
/-- Element size of the layout map in bytes. -/
def mapEsz (e : List Byte) : Nat := 2 ^ (fieldOfBytes e 0x39 1 % 8)
/-- GDIM. -/
def mapGdim (e : List Byte) : Nat := fieldOfBytes e 0x3A 1
/-- The bytes of an array of the layout map. -/
def mapBytes (e : List Byte) : Nat := mapX e 0 * mapX e 1 * mapX e 2 * mapX e 3 * mapEsz e
/-- Block counts. -/
def mapNb (e : List Byte) (d : Nat) : Nat := mapX e d / max (mapB e d) 1

/-- The bytes a member contributes; zero when it has no source region (R355). -/
def clSrcLen (e : List Byte) (i : Nat) : Nat :=
  match clType e with
  | 0 => clCount e * clWidth e
  | 1 => clCount e * clWidth e
  | 2 => clCount e
  | 3 => if i = clRoot e then clCount e else 0
  | 4 => clCount e
  | _ => mapBytes e

/-- The bytes of a member's destination; zero when it has none (R355). -/
def clDstLen (e : List Byte) (i : Nat) : Nat :=
  match clType e with
  | 0 => clCount e * clWidth e
  | 1 => clCount e / clMembers e * clWidth e
  | 2 => clMembers e * clCount e
  | 3 => clCount e
  | 4 => if i = clRoot e then clCap e * clCount e else 0
  | _ => mapBytes e

/-! ### Grants (R343) -/

/-- The grant register of a context at a grove (R343). -/
def Grove.grant (gr : Grove) (ctx : Nat) : Word := Tbl.getD gr.geGrant (ctx % 16) 0
/-- Is a counter granted to a context? -/
def Grove.ownsCounter (gr : Grove) (ctx k : Nat) : Bool :=
  let w := gr.grant ctx
  let b := (w.extractLsb' 0 7).toNat
  decide (k < 128) && decide (b ≤ k) && decide (k < b + (w.extractLsb' 8 8).toNat)
/-- Is a slot granted to a context? -/
def Grove.ownsSlot (gr : Grove) (ctx k : Nat) : Bool :=
  let w := gr.grant ctx
  let b := (w.extractLsb' 33 9).toNat
  decide (k < 512) && decide (b ≤ k) && decide (k < b + (w.extractLsb' 42 10).toNat)

/-- A slot number of a register (R328). -/
def slotNo (w : Word) : Nat := (w.extractLsb' 0 9).toNat

/-! ### Checks at issue -/

/-- The traps of an entry's kind: KIND 1, and HW as the operation asks. -/
def chanTrap (e : List Byte) (halo : Bool) : Option Trap :=
  if chKind e ≠ 1 ∨ decide (chHw e ≠ 0) ≠ halo then some (.illegal .fn) else none

/-- The end of a span that leaves the scratchpad, as an address. -/
def outside (lo hi : Int) : Option Word :=
  if lo < 0 then some (BitVec.ofInt 64 lo) else if 0x5FFFF < hi then some (BitVec.ofInt 64 hi) else none

/-- The formats that `recva` adds in. -/
def Fmt.addable (f : Fmt) : Bool :=
  match f with
  | .f32 => true | .bf16 => true | .f16 => true | .i32 => true | .i16 => true | .i8 => true | _ => false

/-- Does a region of `recva` lie in a bank whose format differs from FMT (R289)? -/
def recvaMixed (c : Core) (e : List Byte) (base : Nat) : Bool :=
  let f := chFmt e
  let p := ({ chShape e with base := base } : ShapeRec).span f
  let lo := (max p.1 0).toNat
  let hi := (min p.2 0x5FFFF).toNat
  (banksOf lo (hi + 1 - lo)).any fun k => decide (bankCode c.kbank k ≠ 0) && decide (Fmt.ofBank (bankCode c.kbank k) ≠ f)

/-- Do the source and destination of a collective overlap, or has its coordinate register bits below c2 (R351)? -/
def collMixed (e : List Byte) (i : Nat) (coord : Word) (dst src : Nat) : Bool :=
  let sl := clSrcLen e i
  let dl := clDstLen e i
  decide (coord.extractLsb' 0 14 ≠ 0) || (decide (sl ≠ 0) && decide (dl ≠ 0) && decide (src < dst + dl) && decide (dst < src + sl))

/-- A core's member index on a channel (R349). -/
def State.memberOf (s : State) (core : Nat) (e : List Byte) : Nat := widField (s.imageOf core).widths (clMsel e) (s.core core).kwid

/-- A counter outside the grant traps as a register outside its file does (R320). -/
def State.counterTrap (s : State) (c : Core) (k : Nat) : Option Trap :=
  if (s.grove (groveOf s.cur)).ownsCounter c.ctxNo k then none
  else some { Trap.illegal .file with reg := some ⟨.g, k⟩ }

/-- A slot number outside the grant. -/
def State.slotTrap (s : State) (c : Core) (k : Nat) : Option Trap :=
  if (s.grove (groveOf s.cur)).ownsSlot c.ctxNo k then none else some (.illegal .file)

/-- The traps of `tsrc` (R329). -/
def sourceTrap (w r : Word) : Option Trap :=
  let kind := (w.extractLsb' 0 4).toNat
  let unit := w.getLsbD 4
  let ch := (w.extractLsb' 5 6).toNat
  let res := decide (w.extractLsb' 11 53 ≠ 0) || (unit && !(decide (kind = 1) || decide (kind = 2))) ||
    (decide (ch ≠ 0) && !(decide (kind = 2) || decide (kind = 6))) || (decide (kind = 1) && decide (r.extractLsb' 38 26 ≠ 0))
  let last := (r.extractLsb' 19 19).toNat
  if 7 ≤ kind then some (.illegal .fn)
  else if res then some (.illegal .reserved)
  else if kind ≠ 1 then none
  else if last < (r.extractLsb' 0 19).toNat then some (.illegal .fn)
  else if 0x5FFFF < last then some (.xlate xcRange (BitVec.ofNat 64 last))
  else none

end Sys2Proof.Machine
end

