-- ==== Sys2Proof/Machine/Operands.lean ====
section
/-!
DEFINITION. What every slot operation shares: the checks at issue (R75, R134, R150, R420), the interlocks (R84, R85), the
guard (R70), the ways an operation ends, the operand forms of vectors (R198) and shape records (R216 to R219), the
footprint scoreboard (R20 to R22), and what acquire, release and fence wait for (R55 to R64, R142, R147).
-/

namespace Sys2Proof.Machine

/-- How an operation ends: with a state, held at issue, or with a trap. -/
inductive Eff where
  | ok (s : State)
  | stall
  | trap (t : Trap)

/-- Takes a trap on the core that issues (R159 to R162), and marks it for the step that issues the bundle; what the operation has
read is read as R51 states; a trunk core that stops is recorded as a trunk fault (R162, R422). -/
def State.takeTrap (s : State) (t : Trap) : State :=
  let w := t.word s.slot false
  let s := s.scrubs t.reads
  let c := ((s.core s.cur).takeTrap w t.tval)
  let s' := s.setCore s.cur { c with latch := .trapped w t.tval t.reads }
  if c.mode = .halted ∧ isTrunkCore s.cur then s'.updTrunk fun k => { k with trunkFlt := some (c.ktrap, c.kepc) } else s'

/-- The machine's next state for an ended operation: a held bundle is marked, and changes nothing else. -/
def Eff.toOutcome (s : State) : Eff → Host.Outcome State Fault Refusal
  | .ok s' => .next s'
  | .stall => .next (s.updCore s.cur fun c => { c with latch := .held })
  | .trap t => .next (s.takeTrap t)

/-- The guard field of an operation (R70); none where the operation has none. -/
def Instr.guard? : Sys2Proof.Instr → Option (BitVec 3)
  | .add _ _ _ p => some p
  | .isub _ _ _ p => some p
  | .and _ _ _ p => some p
  | .or _ _ _ p => some p
  | .xor _ _ _ p => some p
  | .andn _ _ _ p => some p
  | .shl _ _ _ p => some p
  | .shr _ _ _ p => some p
  | .sar _ _ _ p => some p
  | .min _ _ _ p => some p
  | .max _ _ _ p => some p
  | .minu _ _ _ p => some p
  | .maxu _ _ _ p => some p
  | .bcntPop _ _ p => some p
  | .bcntLz _ _ p => some p
  | .bcntTz _ _ p => some p
  | .mul _ _ _ p => some p
  | .mulh _ _ _ p => some p
  | .mulhu _ _ _ p => some p
  | .div _ _ _ p => some p
  | .divu _ _ _ p => some p
  | .rem _ _ _ p => some p
  | .remu _ _ _ p => some p
  | .addi _ _ p _ => some p
  | .andi _ _ p _ => some p
  | .ori _ _ p _ => some p
  | .xori _ _ p _ => some p
  | .shli _ _ p _ => some p
  | .shri _ _ p _ => some p
  | .sari _ _ p _ => some p
  | .cmp _ _ _ p _ => some p
  | .cmpp _ _ _ p _ => some p
  | .sel _ _ _ p _ => some p
  | .adda _ _ _ p => some p
  | .movaAS _ _ p => some p
  | .movaSA _ _ p => some p
  | .movaAA _ _ p => some p
  | .movaSN _ _ p => some p
  | .jr _ p => some p
  | .jrLink _ _ p => some p
  | .ret _ p => some p
  | .loop _ _ p _ => some p
  | .lstr _ _ p _ => some p
  | .trap p _ => some p
  | .krd _ p _ => some p
  | .kwr _ p _ => some p
  | .mrd _ _ p => some p
  | .mwr _ _ p => some p
  | .ldpw _ _ p _ => some p
  | .vadd _ _ _ p _ _ _ => some p
  | .vsub _ _ _ p _ _ _ => some p
  | .vmul _ _ _ p _ _ _ => some p
  | .vfma _ _ _ p _ _ _ _ => some p
  | .vmin _ _ _ p _ _ _ => some p
  | .vmax _ _ _ p _ _ _ => some p
  | .vabs _ _ p _ _ => some p
  | .vneg _ _ p _ _ => some p
  | .vand _ _ _ p _ => some p
  | .vor _ _ _ p _ => some p
  | .vxor _ _ _ p _ => some p
  | .vshl _ _ _ p _ _ => some p
  | .vshr _ _ _ p _ _ => some p
  | .vcmp _ _ _ p _ _ => some p
  | .vsel _ _ _ p _ _ => some p
  | .vmovV _ _ p => some p
  | .vmovSplat _ _ p _ => some p
  | .vmovHS _ _ p => some p
  | .vmovSH _ _ p => some p
  | .vmovPS _ _ p => some p
  | .vmovSP _ _ p => some p
  | .vmovIdx _ p _ => some p
  | .vcvt _ _ p _ _ _ _ => some p
  | .vqdb _ _ p _ _ => some p
  | .vcomp _ _ p _ => some p
  | .vexpd _ _ p _ => some p
  | .vperm _ _ _ p _ _ => some p
  | .vred _ _ p _ _ => some p
  | .vsfu _ _ p _ => some p
  | .vext _ _ _ p _ => some p
  | .vins _ _ _ p _ => some p
  | .vld _ _ p _ => some p
  | .vst _ _ p _ => some p
  | .vldl _ _ _ p _ => some p
  | .vstl _ _ _ p _ => some p
  | .pand _ _ _ p _ => some p
  | .por _ _ _ p _ => some p
  | .pxor _ _ _ p _ => some p
  | .pcnt _ _ p => some p
  | .vjadd _ _ _ p _ _ _ => some p
  | .vjsub _ _ _ p _ _ _ => some p
  | .vjmul _ _ _ p _ _ _ => some p
  | .vjfma _ _ _ p _ _ _ => some p
  | .vjmin _ _ _ p _ _ _ => some p
  | .vjmax _ _ _ p _ _ _ => some p
  | .vjcvt _ _ p _ _ _ _ => some p
  | .vjqdb _ _ p _ _ _ => some p
  | .vjred _ _ p _ _ _ _ => some p
  | .vjsfu _ _ p _ _ _ _ => some p
  | .vjcomp _ _ _ p _ => some p
  | .vjexpd _ _ _ p _ => some p
  | .vjsel _ _ _ p _ _ _ => some p
  | .vjcmp _ _ _ p _ _ => some p
  | .vjfill _ p _ => some p
  | .ld _ _ _ p _ => some p
  | .st _ _ _ p _ => some p
  | .ldx _ _ _ p _ _ => some p
  | .stx _ _ _ p _ _ => some p
  | .qld _ _ p _ _ _ => some p
  | .qst _ _ _ p _ _ _ => some p
  | .qpop _ _ p => some p
  | .qpopT _ _ _ p => some p
  | .qwait _ _ p => some p
  | .qwaitAll _ _ p => some p
  | .fence p _ => some p
  | .amoAdd _ _ _ p _ _ _ => some p
  | .amoSwap _ _ _ p _ _ _ => some p
  | .amoCas _ _ _ p _ _ _ => some p
  | .amoAnd _ _ _ p _ _ _ => some p
  | .amoOr _ _ _ p _ _ _ => some p
  | .amoXor _ _ _ p _ _ _ => some p
  | .amoMin _ _ _ p _ _ _ => some p
  | .amoMax _ _ _ p _ _ _ => some p
  | .amoMinu _ _ _ p _ _ _ => some p
  | .amoMaxu _ _ _ p _ _ _ => some p
  | .amoSeq _ _ _ p _ => some p
  | .copy _ _ _ p _ => some p
  | .cwait _ _ _ p => some p
  | .cwaitW _ _ _ p _ => some p
  | .ctest _ _ _ p => some p
  | .ctestW _ _ _ p => some p
  | .ctestRec _ _ p => some p
  | .ctestAddr _ _ p => some p
  | .mldb _ _ _ p _ _ => some p
  | .mjob _ _ _ p _ => some p
  | .mgang _ _ _ p _ => some p
  | .mgangJoin _ _ _ p _ => some p
  | .pub _ _ p _ => some p
  | .sub _ _ p _ => some p
  | .unsub _ _ p _ => some p
  | .recv _ _ p _ => some p
  | .recva _ _ p _ _ => some p
  | .peek _ _ p _ => some p
  | .halo _ _ p _ => some p
  | .haloR _ _ p _ => some p
  | .nameq _ _ p _ => some p
  | .nameqN _ _ p _ => some p
  | .spawn _ _ _ p _ => some p
  | .tinst _ _ p _ => some p
  | .exit p => some p
  | .barr _ p => some p
  | .bwait _ _ p => some p
  | .btest _ _ p => some p
  | .bset _ _ p => some p
  | .migrate _ _ p => some p
  | .tsrc _ _ _ p => some p
  | .tadd _ _ p => some p
  | .tarm _ _ p => some p
  | .tdis _ p => some p
  | .tget _ _ p => some p
  | .tgetSlot _ _ p => some p
  | .tgetRes _ _ p => some p
  | .tset _ _ p => some p
  | .coll _ _ _ p _ => some p
  | .colw _ p _ => some p
  | .colt _ p _ => some p
  | .snap _ p => some p
  | .snrd _ p => some p
  | .snrdRb _ p => some p
  | .nop | .li _ _ | .lsh _ _ | .br _ _ _ | .brp _ _ _ | .brv _ _ _ | .jmp _ | .call _ _ | .eret
  | .exposedResultLand _ | .stalledBundleIssue _ | .impreciseFault _ | .xOpAccept _ | .queueRequestSend _ _
  | .queueAccessPerform _ _ _ | .pageWalk _ _ _ | .scoreboardEntryRelease _ _ | .vectorJobStart _
  | .vectorJobComplete _ | .copyRunPerform _ _ _ | .copyFinish _ _ | .mldbLoadStart _ | .planeLoaded _
  | .matrixJobStart _ | .matrixJobComplete _ | .governorWindow _ | .planeTransfer _ _ _ | .gangWindowExpire _ _
  | .gangCompletion _ _ | .gangArrivalCount _ _ | .launchStartTick _ | .taskStart _ | .taskAging _ _ | .preemptStart _
  | .spillComplete _ _ | .restoreComplete _ _ | .exitDrainEnd _ _ | .recordFree _ _ | .containmentComplete _ _
  | .tagLeaseRefill _ _ | .tagLeaseReturn _ _ | .reservedTagGrant _ _ | .barrierArrival _ _ | .migrationArrive _
  | .pubAdmit _ _ | .admitWindowRoll _ | .packetForward _ _ | .rootAccept _ _ | .pubRetry _ _ | .landingReserve _
  | .subRegister _ _ | .subWithdraw _ _ | .chunkLand _ _ | .recvDeliver _ _ | .deliveryAckTimeout _ _
  | .retentionExpire _ _ | .versionUnpin _ _ | .nameqQuery _ _ | .commit _ _ | .discard _ _ | .triadVote _ _
  | .keepWriteback _ _ | .writebackComplete _ _ | .rimFetch _ _ | .counterEvent _ _ | .triggerOpStart _
  | .triggerOpComplete _ _ | .collActivate _ _ | .collSegmentStart _ _ | .collContribution _ _ | .collComplete _ _
  | .lanternArrive _ _ _ | .chunkWriteout _ _ _ | .pageWriteout _ _ | .captureReport _ _
  | .remoteRequestArrive _ _ _ _ _ _ _ _ _ | .remoteRetransmit _ _ | .remoteRequestExpire _ _ | .dupEntryRetire _ _
  | .tokenVisit _ | .tokenRegenerate | .scrubStep _ | .loadImage _ _ _ | .loadImageFirmware _ _
  | .loadImageSupervisor _ _ | .launch _ _ _ | .launchSupervisor _ _ | .migrateCmd _ _ | .snapshot _ _ | .rollback _ _
  | .partitionMerge _ _ _ | .partitionSplit _ _ _ | .summary _ _ | .resetContext _ _ | .resetContextClear _ _
  | .resetContextFree _ _ | .unknownCommand _ _ | .rdmaWrite _ _ _ _ | .rdmaRead _ _ _ _ | .rdmaInvalid _ _
  | .faultNotify _ | .moduleReset | .bringupReport _ _ _ _ | .startTimeout | .ptpMessage _ _ | .ptpMasterLoss _
  | .syncSymbol _ _ | .powerMeasure _ | .hotGroveEvent _ _ | .hotGroveClear _ _ | .groveWithdraw _ _ | .groveReturn _
  | .forcedFlushMove _ | .ctxFlush _ | .flushComplete _ | .seedWrite _ _ | .rootovrWrite _ _ _ | .sliceSplitWrite _ _
  | .partmapWrite _ | .seamQuiesce _ _ | .seamQuiesced _ | .seamQuiesceTimeout _ | .seamOpen _ | .seamClose _
  | .ilvWrite _ _ | .hbmClearComplete _ | .shootdown _ | .grantWrite _ _ _ | .registerWrite _ _ | .softError _ _
  | .readinessLost _ _ | .readinessRegained _ _ | .landingAcknowledgement _ _ | .sequenceNumberFree _ _ => none

/-- Lane 0 of the guard is set (R70). `jr`, `jr.link` and `ret` are branches, which R130 says have no guard, but their format has the
field and R132 does not make it zero: the model takes it as a guard (log entry 66). -/
def Core.guardOn (c : Core) (i : Sys2Proof.Instr) : Bool :=
  match Instr.guard? i with
  | some p => (c.rp p.toNat).getLsbD 0
  | none => true

/-- The guard as a lane mask (R198). -/
def Core.guardMask (c : Core) (i : Sys2Proof.Instr) : BitVec 32 :=
  match Instr.guard? i with
  | some p => c.rp p.toNat
  | none => BitVec.allOnes 32

/-- Operations that read a record, a descriptor or an image at issue and may find it ILLEGAL (R218, R241, R269, R331). -/
def readsRecords : Sys2Proof.Instr → Bool
  | .vjadd _ _ _ _ _ _ _ => true
  | .vjsub _ _ _ _ _ _ _ => true
  | .vjmul _ _ _ _ _ _ _ => true
  | .vjfma _ _ _ _ _ _ _ => true
  | .vjmin _ _ _ _ _ _ _ => true
  | .vjmax _ _ _ _ _ _ _ => true
  | .vjcvt _ _ _ _ _ _ _ => true
  | .vjqdb _ _ _ _ _ _ => true
  | .vjred _ _ _ _ _ _ _ => true
  | .vjsfu _ _ _ _ _ _ _ => true
  | .vjcomp _ _ _ _ _ => true
  | .vjexpd _ _ _ _ _ => true
  | .vjsel _ _ _ _ _ _ _ => true
  | .vjcmp _ _ _ _ _ _ => true
  | .vjfill _ _ _ => true
  | .copy _ _ _ _ _ => true
  | .mldb _ _ _ _ _ _ => true
  | .mjob _ _ _ _ _ => true
  | .mgang _ _ _ _ _ => true
  | .mgangJoin _ _ _ _ _ => true
  | .tarm _ _ _ => true
  | _ => false

/-- The registers whose pending writes hold an operation: its reads, its guard and its destinations (R84). -/
def Instr.uses (i : Sys2Proof.Instr) : List Reg :=
  i.reads ++ (match Instr.guard? i with | some p => [⟨.p, p.toNat⟩] | none => []) ++ i.writes

/-- Branch-class operations (R87). -/
def isBranch : Sys2Proof.Instr → Bool
  | .br _ _ _ => true
  | .brp _ _ _ => true
  | .brv _ _ _ => true
  | .jmp _ => true
  | .jr _ _ => true
  | .jrLink _ _ _ => true
  | .call _ _ => true
  | .ret _ _ => true
  | .eret => true
  | _ => false

/-- X-slot operations other than `exit` (R80, R420). -/
def isGroveOp : Sys2Proof.Instr → Bool
  | .pub _ _ _ _ => true
  | .sub _ _ _ _ => true
  | .unsub _ _ _ _ => true
  | .recv _ _ _ _ => true
  | .recva _ _ _ _ _ => true
  | .peek _ _ _ _ => true
  | .halo _ _ _ _ => true
  | .haloR _ _ _ _ => true
  | .nameq _ _ _ _ => true
  | .nameqN _ _ _ _ => true
  | .spawn _ _ _ _ _ => true
  | .tinst _ _ _ _ => true
  | .barr _ _ => true
  | .bwait _ _ _ => true
  | .btest _ _ _ => true
  | .bset _ _ _ => true
  | .migrate _ _ _ => true
  | .tsrc _ _ _ _ => true
  | .tadd _ _ _ => true
  | .tarm _ _ _ => true
  | .tdis _ _ => true
  | .tget _ _ _ => true
  | .tgetSlot _ _ _ => true
  | .tgetRes _ _ _ => true
  | .tset _ _ _ => true
  | .coll _ _ _ _ _ => true
  | .colw _ _ _ => true
  | .colt _ _ _ => true
  | .snap _ _ => true
  | .snrd _ _ => true
  | .snrdRb _ _ => true
  | _ => false

/-- The running levels, outermost first, as (level number, level). -/
def Core.running (c : Core) : List (Nat × LoopLvl) :=
  (List.range 6).filterMap fun i =>
    match c.loops[i]? with
    | some l => if l.running then some (i, l) else none
    | none => none

/-- A bundle in the last or second-to-last place of the body of a running level (R134). -/
def Core.nearBodyEnd (c : Core) : Bool :=
  c.running.any fun e => decide (e.2.start ≤ c.pc) && decide (c.pc ≤ e.2.stop) && decide (e.2.stop.toNat ≤ c.pc.toNat + 1)

/-- The rules of `loop` (R135) that depend on the place of the bundle and the running levels. -/
def Core.loopRule (c : Core) (lvl len : Nat) : Bool :=
  decide (lvl < 6) && decide (1 ≤ len) && decide (c.pc.toNat + len ≤ 4095) &&
  c.running.all (fun e => decide (e.1 < lvl)) &&
  (match c.running.getLast? with | some e => decide (c.pc.toNat + len ≤ e.2.stop.toNat) | none => true)

/-- The sequencing faults of R134 and R135: ILLEGAL with ILC 6. -/
def Core.badSequence (c : Core) (i : Sys2Proof.Instr) : Bool :=
  match i with
  | .loop d _ _ imm => c.delay || !c.loopRule d.toNat imm.toNat
  | i => isBranch i && (c.delay || c.nearBodyEnd)

/-- Supervisor-only K-registers: KEPC, KPTROOT, KTVEC and KSCR0 to KSCR3 (R150). -/
def supK (k : Nat) : Bool := [0x2, 0x7, 0xB, 0xC, 0xD, 0xE, 0xF].contains k

/-- The trap of a supervisor-only operation in user mode (R75, R150). -/
def Core.privileged (c : Core) (i : Sys2Proof.Instr) : Option Trap :=
  if c.sup then none
  else match i with
    | .mrd _ _ _ => some (.illegal .supOnly)
    | .mwr _ _ _ => some (.illegal .supOnly)
    | .eret => some (.illegal .supOnly)
    | .migrate _ _ _ => some (.illegal .supOnly)
    | .snap _ _ => some (.illegal .supOnly)
    | .krd _ _ k => if supK k.toNat then some { Trap.illegal .supOnly with code := k.toNat } else none
    | .kwr _ _ k => if supK k.toNat then some { Trap.illegal .supOnly with code := k.toNat } else none
    | _ => none

/-- The ILLEGAL trap of an operation whose fields name what the core's tables do not give it: a channel of another KIND or halo width
(R289, R352), a member index past the channel's members (R351), a WID field of width 0 (R180), or a counter outside the grant
(R320). It needs no register. -/
def State.tableTrap (s : State) (c : Core) (i : Sys2Proof.Instr) : Option Trap :=
  let e (ch : BitVec 6) : List Byte := (s.imageOf s.cur).chan ch.toNat
  let coll (ch : BitVec 6) : Option Trap := if chKind (e ch) ≠ 2 then some (.illegal .fn) else none
  match i with
  | .pub _ _ _ ch => chanTrap (e ch) false
  | .sub _ _ _ ch => chanTrap (e ch) false
  | .unsub _ _ _ ch => chanTrap (e ch) false
  | .recv _ _ _ ch => chanTrap (e ch) false
  | .recva _ _ _ _ ch => if !(chFmt (e ch)).addable then some (.illegal .fn) else chanTrap (e ch) false
  | .peek _ _ _ ch => chanTrap (e ch) false
  | .nameq _ _ _ ch => chanTrap (e ch) false
  | .nameqN _ _ _ ch => chanTrap (e ch) false
  | .halo _ _ _ ch => chanTrap (e ch) true
  | .haloR _ _ _ ch => chanTrap (e ch) true
  | .coll _ _ _ _ ch => if clMembers (e ch) ≤ s.memberOf s.cur (e ch) then some (.illegal .fn) else coll ch
  | .colw _ _ ch => coll ch
  | .colt _ _ ch => coll ch
  | .spawn _ _ _ _ l => if widWidth (s.imageOf s.cur).widths (l.toNat + 1) = 0 then some (.illegal .fn) else none
  | .tsrc d _ _ _ => s.counterTrap c d.toNat
  | .tadd d _ _ => s.counterTrap c d.toNat
  | .tset d _ _ => s.counterTrap c d.toNat
  | .tget _ a _ => s.counterTrap c a.toNat
  | _ => none

/-- The ILLEGAL trap an operation raises at issue (R75, R134, R150, R420), the first one in this order: the X slot of a trunk core, the
encoding's own checks, the mode, the sequencing rules, the tables (log entry 7). -/
def State.issueTrap (s : State) (c : Core) (i : Sys2Proof.Instr) : Option Trap :=
  if isTrunkCore s.cur && isGroveOp i then some (.illegal .major)
  else match i.illegal? with
  | some (ilc, r) =>
    let code := match i with
      | .krd _ _ k => k.toNat
      | .kwr _ _ k => k.toNat
      | _ => 0
    some { Trap.illegal ilc with reg := r, code := if ilc = .kreg then code else 0 }
  | none =>
    match c.privileged i with
    | some t => some t
    | none => if c.badSequence i then some (.illegal .seq) else s.tableTrap c i

/-- The pending write that holds a register, if any: a write issued by an earlier bundle. s0 and p0 are never pending. -/
def Core.pendingOn (c : Core) (clk : Nat) (r : Reg) : Option Pend :=
  if (r.file = .s ∨ r.file = .p) ∧ r.num = 0 then none
  else c.pend.find? fun p => decide (p.reg = r) && decide (p.issued ≠ clk)

/-- The ILLEGAL trap of an operation that depends on register values, raised as soon as no write to them is pending (log entry 7): a
pop of an empty queue, which its guard lets execute (R143), a slot number outside the grant (R320), a source word (R329), a
region in a bank of another format (R289), and the operands of a collective (R351). -/
def State.valueTrap (s : State) (c : Core) (i : Sys2Proof.Instr) : Option Trap :=
  let now (l : List Reg) : Bool := l.all fun r => (c.pendingOn s.clk r).isNone
  let e (ch : BitVec 6) : List Byte := (s.imageOf s.cur).chan ch.toNat
  let pop (a : BitVec 7) (p : BitVec 3) : Option Trap :=
    if now [⟨.p, p.toNat⟩] && (c.rp p.toNat).getLsbD 0 && (c.queues[a.toNat]?.getD []).isEmpty then
      some { Trap.illegal .emptyPop with reg := some ⟨.q, a.toNat⟩ }
    else none
  let slot (b : BitVec 7) : Option Trap := if now [⟨.s, b.toNat⟩] then s.slotTrap c (slotNo (c.rs b.toNat)) else none
  match i with
  | .qpop _ a p => pop a p
  | .qpopT _ a _ p => pop a p
  | .tarm _ b _ => slot b
  | .tdis a _ => slot a
  | .tgetSlot _ b _ => slot b
  | .tgetRes _ b _ => slot b
  | .tsrc _ a b _ =>
    if now [⟨.s, a.toNat⟩, ⟨.s, b.toNat⟩] then (sourceTrap (c.rs a.toNat) (c.rs b.toNat)).filter fun t => decide (t.kind = .illegal)
    else none
  | .recva a _ _ _ ch => if now [⟨.a, a.toNat⟩] && recvaMixed c (e ch) (c.ra a.toNat).toNat then some (.illegal .fn) else none
  | .coll d a b _ ch =>
    if now [⟨.a, d.toNat⟩, ⟨.a, a.toNat⟩, ⟨.s, b.toNat⟩] &&
        collMixed (e ch) (s.memberOf s.cur (e ch)) (c.rs b.toNat) (c.ra d.toNat).toNat (c.ra a.toNat).toNat then some (.illegal .fn)
    else none
  | _ => none

/-- The clocks still missing before a bundle may read a pending write (R84); none for a variable-latency result (R85). -/
def Pend.missing (p : Pend) (clk : Nat) : Option Nat :=
  match p.wait with
  | .timed t => some (t + 1 - clk)
  | .posted t _ => some (t + 1 - clk)
  | _ => none

/-- The writes of earlier bundles that are pending on a register other than s0 and p0. -/
def Core.pendings (c : Core) (clk : Nat) (r : Reg) : List Pend :=
  if (r.file = .s ∨ r.file = .p) ∧ r.num = 0 then [] else c.pend.filter fun p => decide (p.reg = r) && decide (p.issued ≠ clk)

/-- The interlocks (R84, R85): a register with a pending write holds the bundle, and in debug mode a write of exposed latency
traps HAZARD instead, naming the register with the most missing clocks, the first one on a tie. -/
def Core.interlock (c : Core) (clk : Nat) (regs : List Reg) : Option Eff :=
  let ps := regs.flatMap (c.pendings clk)
  let timed := ps.filterMap fun p => (p.missing clk).map fun n => (p.reg, n)
  match c.dbg, timed with
  | true, e :: r =>
    let w := r.foldl (fun b x => if b.2 < x.2 then x else b) e
    some (.trap { Trap.of .hazard with reg := some w.1, miss := w.2 })
  | _, _ => if ps.isEmpty then none else some .stall

/-- Runs a slot operation of the issuing core: checks at issue, interlocks, then its body. -/
def runChecked (i : Sys2Proof.Instr) (s : State) (body : Core → Eff) : Host.Outcome State Fault Refusal :=
  let c := s.core s.cur
  (match s.issueTrap c i <|> s.valueTrap c i with
   | some t => Eff.trap t
   | none =>
     match c.interlock s.clk (Instr.uses i) with
     | some e => e
     | none => body c).toOutcome s

/-- Runs an operation that takes effect only when lane 0 of its guard is set (R70). One that is off reads no record, descriptor or map,
and traps for nothing that they hold (log entry 7: R70 does not say whether it does). -/
def runOp (i : Sys2Proof.Instr) (s : State) (body : Core → Eff) : Host.Outcome State Fault Refusal :=
  runChecked i s fun c => if c.guardOn i then body c else .ok s

/-- Writes a register of the issuing core with exposed latency (R83). -/
def State.writeReg (s : State) (lat : Nat) (r : Reg) (v : Nat) (f : Flags) : State :=
  s.updCore s.cur fun c => c.issueWrite s.clk lat r v f

/-- Enters a variable-latency register write of the issuing core (R85). -/
def State.writeLater (s : State) (r : Reg) (v : Nat) (w : Wait) : State :=
  s.updCore s.cur fun c => { c with pend := c.pend ++ [⟨r, v, 0, w, s.clk⟩] }

/-- Register shorthands. -/
def sReg (n : BitVec 7) : Reg := ⟨.s, n.toNat⟩
/-- An a register by number. -/
def aReg (n : BitVec 7) : Reg := ⟨.a, n.toNat⟩
/-- A predicate by number. -/
def pReg (n : BitVec 7) : Reg := ⟨.p, n.toNat⟩
/-- A v register by number. -/
def vReg (n : BitVec 7) : Reg := ⟨.v, n.toNat⟩
/-- An h register by number. -/
def hReg (n : BitVec 7) : Reg := ⟨.h, n.toNat⟩
/-- An s register named by a 5-bit field. -/
def sReg5 (n : BitVec 5) : Reg := ⟨.s, n.toNat⟩

/-! ### Elements of a vector register (R198) -/

/-- Element j of width w. -/
def elemAt (v : BitVec 1024) (w j : Nat) : Nat := (v.toNat >>> (w * j)) % 2 ^ w
/-- The number of elements of width w. -/
def elemCount (w : Nat) : Nat := 1024 / w
/-- The lane of element j of width w; a 64-bit element counts for its even lane. -/
def laneOf (w j : Nat) : Nat := w * j / 32
/-- Is element j of width w active under a lane mask? -/
def activeElem (m : BitVec 32) (w j : Nat) : Bool := m.getLsbD (laneOf w j)
/-- A register value from its elements, element 0 lowest. -/
def ofElems (w : Nat) (l : List Nat) : Nat := l.foldr (fun e n => n * 2 ^ w + e % 2 ^ w) 0
/-- The elements of a register. -/
def elemsOf (w : Nat) (v : BitVec 1024) : List Nat := (List.range (elemCount w)).map (elemAt v w)

/-! ### Sizes and the scalar memory operand (R69, R73, R137) -/

/-- The bytes of a size code (R69). -/
def sizeOf (sz : BitVec 3) : Nat := 2 ^ (sz.toNat / 2)
/-- Does a load of this size code extend the sign (R69)? -/
def sizeSigned (sz : BitVec 3) : Bool := sz.getLsbD 0
/-- A loaded value extended per its size code (R69). -/
def extendSize (sz : BitVec 3) (x : Nat) : Nat :=
  let n := 8 * sizeOf sz
  if sizeSigned sz then intBits 64 (intVal n true x) else x % 2 ^ n

/-! ### The scoreboard (R20 to R22) -/

/-- A region of whole 512-byte chunks. -/
def chunkRange (lo len : Nat) : Nat × Nat := (lo / 512, (lo + len - 1) / 512)

/-- Do two chunk ranges overlap? -/
def overlap (a b : Nat × Nat) : Bool := decide (a.1 ≤ b.2) && decide (b.1 ≤ a.2) && decide (a.1 ≤ a.2) && decide (b.1 ≤ b.2)

/-- Does an access conflict with an entry made before order number `bound` (R21)? -/
def Core.conflicts (c : Core) (r : Nat × Nat) (write : Bool) (bound : Nat) : Bool :=
  c.board.any fun e => decide (e.ord < bound) && (write || e.write) && overlap r (e.lo, e.hi)

/-- A scalar access waits for the conflicting entries that are present, those of earlier slots of its bundle among them (R21, R67,
R137). -/
def Core.scalarWaits (c : Core) (addr len : Nat) (write : Bool) : Bool := c.conflicts (chunkRange addr len) write c.ords

/-- The entries the scoreboard has free (R20). -/
def Core.freeEntries (c : Core) : Nat := 64 - c.board.length

/-- A region of a job card: whether it is written, its first byte and its length; length 0 covers nothing. -/
structure Region where
  write : Bool
  lo : Nat
  len : Nat
deriving DecidableEq, Repr

/-- The scoreboard entry of a region. -/
def Region.entry (r : Region) (id job ord : Nat) : SbEntry :=
  if r.len = 0 then ⟨id, job, r.write, 1, 0, ord⟩ else ⟨id, job, r.write, (chunkRange r.lo r.len).1, (chunkRange r.lo r.len).2, ord⟩

/-- A job that has just entered. -/
def Job.fresh (id clk slotNo : Nat) (kind : JobKind) (kbank : Word) (owner : Nat) : Job :=
  ⟨id, slotNo, id, kind, kbank, clk, none, none, 0, [], [], 0, none, [], [], false, owner⟩

/-- Enters a job card with one entry per region (R20); its identity is its order number (R56). -/
def Core.enterJob (c : Core) (clk slotNo : Nat) (kind : JobKind) (regions : List Region) : Core :=
  let id := c.ords
  { c with
    ords := id + 1,
    board := c.board ++ regions.zipIdx.map (fun e => e.1.entry (id * 8 + e.2) id id),
    jobs := c.jobs ++ [Job.fresh id clk slotNo kind c.kbank c.task] }

/-- Does a run of scratchpad bytes touch banks 6 or 7 (R33)? -/
def touchesGrove (lo len : Nat) : Bool := decide (0 < len) && decide (0x48000 ≤ lo + len - 1)

/-! ### Scopes (R55, R57, R142, R147) -/

/-- The smallest scope that covers an access of a member to an extended address: 0 grove memory, 1 staging and HBM of the module,
also where a remote form names the member itself, 2 remote staging (R38, R55). -/
def scopeClass (member : Nat) (ea : Word) : Nat :=
  match (ea.extractLsb' 62 2).toNat with
  | 1 => 0
  | 2 => if ea.getLsbD 55 && decide ((ea.extractLsb' 56 6).toNat ≠ member) then 2 else 1
  | _ => 1

/-- The scope class of an access of a core (R55). -/
def State.scopeOf (s : State) (core : Nat) (ea : Word) : Nat := scopeClass (s.ctx (s.core core).ctxNo).member ea

/-- The scopes of the acquires issued before order number `bound` that have not been performed (R142, R146, R186, R254,
R352). -/
def Core.acquires (c : Core) (bound : Nat) : List Nat :=
  (c.queues.toList.flatten.filterMap fun e =>
    if e.acq && decide (e.ord < bound) && decide (e.state = .held ∨ e.state = .sent) then some e.scope else none) ++
  (c.pend.filterMap fun p => match p.wait with
    | .phase _ _ o => if o < bound then some 1 else none
    | .chunks _ _ o => if o < bound then some 2 else none
    | .colls _ o => if o < bound then some 2 else none
    | _ => none)

/-- Is a `cwait` or `colw` issued before order number `bound` still waiting (R254, R352)? -/
def Core.waitsBefore (c : Core) (bound : Nat) : Bool :=
  c.pend.any fun p => match p.wait with
    | .chunks _ _ o => decide (o < bound)
    | .colls _ o => decide (o < bound)
    | _ => false

/-- Is a `cwait` or `colw` of an earlier bundle still waiting? Until it lands, every later scalar access, job card and
X-slot operation stalls (R254, R352); an X-slot operation of its own bundle is held at its acceptance. -/
def Core.waitHolds (c : Core) : Bool := c.waitsBefore c.bord

/-- Does an acquire issued before `bound` hold back an access that scope class `cls` covers (R142)? -/
def Core.acquireHolds (c : Core) (cls bound : Nat) : Bool := (c.acquires bound).any fun s => decide (cls ≤ s)

/-- Does an access of the scratchpad that is made as a scalar one wait: for conflicting entries, for a `cwait` or `colw`, or in banks 6
and 7 for an earlier acquire (R21, R142, R254, R352)? -/
def Core.accessWaits (c : Core) (addr len : Nat) (write : Bool) : Bool :=
  c.scalarWaits addr len write || c.waitHolds || (touchesGrove addr len && c.acquireHolds 0 c.bord)

/-- What a job card waits for at issue (R22, R142): free entries, and an acquire that covers its region in banks 6 and 7. -/
def Core.cardWaits (c : Core) (regions : List Region) : Option Eff :=
  if c.waitHolds then some .stall
  else if regions.length > c.freeEntries then (if c.dbg then some (.trap (.of .scorefull)) else some .stall)
  else if regions.any (fun r => touchesGrove r.lo r.len) && c.acquireHolds 0 c.bord then some .stall
  else none

/-- The root list and override list of a handle (R47): positions are member · 2,592 + grove. -/
def Context.rootListOf (x : Context) (handle : Nat) : List Nat :=
  let inRect (e : Word) (r : Nat) : Bool :=
    let g := r % 2592
    decide ((e.extractLsb' 32 6).toNat ≤ groveX g) && decide (groveX g ≤ (e.extractLsb' 38 6).toNat) &&
    decide ((e.extractLsb' 44 6).toNat ≤ groveY g) && decide (groveY g ≤ (e.extractLsb' 50 6).toNat)
  let cand := x.rootovr.toList.filterMap fun e =>
    if e.getLsbD 63 && decide ((e.extractLsb' 0 24).toNat = handle) then
      (let l := x.rootList.filter (inRect e); if l.isEmpty then none else some l)
    else none
  cand.headD x.rootList

/-- The directory entry of a handle (R400). -/
def Image.tensor? (i : Image) (handle : Nat) : Option Tensor := i.tensors.find? fun t => decide (t.handle = handle)

/-- The root of a name: member · 2,592 + grove (R47). -/
def Context.rootOf (x : Context) (n : Name) : Nat :=
  let sh := match x.image.tensor? n.handle with | some t => t.shift | none => 0
  (pick (rootKey x.seed n sh) (x.rootListOf n.handle)).getD 0

/-- The scope that covers the root acceptance of a name's publication by a core (R55): W in the module, K elsewhere. -/
def State.rootClass (s : State) (core : Nat) (n : Name) : Nat :=
  let x := s.ctx (s.core core).ctxNo
  if x.rootOf n / 2592 = x.member then 1 else 2

/-- The earlier publications of a core not yet accepted at a root that the scope covers (R64): 1 roots of the module, 2 roots
of the gang. -/
def State.pubsOpen (s : State) (core scope bound : Nat) : Bool :=
  let c := s.core core
  let x := s.ctx c.ctxNo
  let covered (n : Name) : Bool := decide (2 ≤ scope) || decide (x.rootOf n / 2592 = x.member)
  decide (1 ≤ scope) &&
  ((c.xops.any fun o => decide (o.ord < bound) &&
      (match o.op with
       | .pub _ _ _ _ => (match o.name with | some n => covered n | none => true)
       | .halo _ _ _ _ => true
       | _ => false)) ||
   (c.jobs.any fun j => decide (j.ord < bound) && decide (j.accept.isNone) &&
      (match j.kind with | .pub _ n _ _ _ => covered n | _ => false)) ||
   ((s.grove (groveOf core)).pubs.any fun p => decide (p.core = some core) && decide (p.order < bound) && covered p.name))

/-- Does an entry belong to a collective? Fences and releases do not wait for those (R366). -/
def Core.ofColl (c : Core) (e : SbEntry) : Bool :=
  c.jobs.any fun j => decide (j.id = e.job) && (match j.kind with | .coll _ _ _ _ _ => true | _ => false)

/-- Are all accesses of a core before order number `bound` that a scope covers performed, and the publications it waits for
accepted (R55, R57, R64, R142, R147)? `self` is the asking request's own order number. -/
def State.released (s : State) (core scope bound : Nat) : Bool :=
  let c := s.core core
  c.queues.toList.flatten.all (fun e =>
    decide (bound ≤ e.ord) || decide (scope < s.scopeOf core e.addr) || decide (e.state = .done ∨ e.state = .failed)) &&
  c.board.all (fun e => decide (bound ≤ e.ord) || !decide (0x48000 / 512 ≤ e.hi) || decide (e.hi < e.lo) || c.ofColl e) &&
  !s.pubsOpen core scope bound

/-! ### Shape regions (R217 to R220) -/

/-- The checks of a shape region in the order of R218 (the record's own words apart): span, alignment, effective format. -/
def checkRegion (kbank : Word) (t : BitVec 4) (r : ShapeRec) : Except Trap (Fmt × Region) :=
  let at0 := effFmt (bankCode kbank (r.base / 0xC000)) t
  match at0 with
  | none => if 0x60000 ≤ r.base then .error (.xlate xcRange (BitVec.ofNat 64 r.base)) else .error (.illegal .fn)
  | some f =>
    let (lo, hi) := r.span f
    if lo < 0 ∨ 0x5FFFF < hi then .error (.xlate xcRange (BitVec.ofInt 64 (if lo < 0 then lo else hi)))
    else
      let w := f.width
      let bad (k : Nat) (st : Int) : Bool := decide (0 < r.x k) && decide (st % (w / 8 : Nat) ≠ 0)
      if 16 ≤ w ∧ (r.base % (w / 8) ≠ 0 ∨ bad 1 r.s1 ∨ bad 2 r.s2 ∨ bad 3 r.s3) then
        .error (.at_ .align (BitVec.ofNat 64 r.base))
      else if (banksOf lo.toNat (hi + 1 - lo).toNat).any (fun k => effFmt (bankCode kbank k) t ≠ some f) then
        .error (.illegal .fn)
      else .ok (f, ⟨false, lo.toNat, (hi + 1 - lo).toNat⟩)

/-- How the read of a record ends. -/
inductive RecRead where
  | stall
  | trap (t : Trap)
  | ok (r : ShapeRec) (s : State)

/-- Reads the record at an h address as a scalar load would (R218, R220): range, scoreboard, poison, reserved bits. -/
def State.readRecord (s : State) (core : Nat) (c : Core) (h : Word) : RecRead :=
  let a := h.toNat
  if 0x60000 ≤ a then .trap (.xlate xcRange h)
  else if c.accessWaits a 32 false then .stall
  else
    let b := s.readMem (spKey core a) 32
    if b.1.poisoned then .trap (.poisonRead h (spKey core a) 32)
    else
      let r := parseShape (b.1.map (·.getD 0))
      if r.2 then .trap (.illegal .reserved) else .ok r.1 b.2

end Sys2Proof.Machine
end

