-- ==== Sys2Proof/Machine/Events.lean ====
section
/-!
DEFINITION. Events between engines: what a trigger counter counts (R322 to R324), jobs and their scoreboard entries (R20), and
faults that jobs report to their task (R160, R191).
-/

namespace Sys2Proof.Machine

/-- Adds events of the current clock to a counter (R322). -/
def Grove.raiseCounter (gr : Grove) (i n : Nat) : Grove :=
  let c := Tbl.getD gr.counters i .reset
  if n = 0 then gr else { gr with counters := Tbl.set gr.counters i { c with adds := c.adds + n } }

/-- The kind code of a counter's source word (R323). -/
def Counter.kind (c : Counter) : Nat := (c.src.extractLsb' 0 4).toNat
/-- The UNIT bit of a source word. -/
def Counter.unit (c : Counter) : Bool := c.src.getLsbD 4
/-- The channel of a source word. -/
def Counter.chan (c : Counter) : Nat := (c.src.extractLsb' 5 6).toNat

/-- Raises every counter of the grove that a condition selects. -/
def Grove.raiseWhere (gr : Grove) (sel : Counter → Bool) (n : Nat) : Grove :=
  { gr with counters := gr.counters.map fun e => if sel e.2 then (e.1, { e.2 with adds := e.2.adds + n }) else e }

/-- A vector-completion event of a task (R231): KIND 4. -/
def Grove.vecEvent (gr : Grove) (task : Nat) : Grove :=
  gr.raiseWhere (fun c => decide (c.kind = 4) && decide (c.task = some task)) 1
/-- A matrix-completion event of a task (R271): KIND 5. -/
def Grove.matEvent (gr : Grove) (task : Nat) : Grove :=
  gr.raiseWhere (fun c => decide (c.kind = 5) && decide (c.task = some task)) 1
/-- A collective completion of a task on a channel (R354): KIND 6. -/
def Grove.collEvent (gr : Grove) (task ch : Nat) : Grove :=
  gr.raiseWhere (fun c => decide (c.kind = 6) && decide (c.task = some task) && decide (c.chan = ch)) 1
/-- A landing for a context's subscriptions on a channel: chunks, or whole versions (R323): KIND 2. -/
def Grove.landEvent (gr : Grove) (ctx ch : Nat) (chunk : Bool) (n : Nat) : Grove :=
  gr.raiseWhere (fun c => decide (c.kind = 2) && decide (c.ctx = ctx) && decide (c.chan = ch) && (c.unit == chunk)) n
/-- A copy event that names a counter wired to COPY; otherwise it is dropped (R258): KIND 3. -/
def Grove.copyEvent (gr : Grove) (ctx i : Nat) : Grove :=
  match Tbl.get? gr.counters i with
  | some c => if c.kind = 3 ∧ c.ctx = ctx then gr.raiseCounter i 1 else gr
  | none => gr

/-- Does a copy event that names a counter reach it (R258)? -/
def Grove.takesCopy (gr : Grove) (ctx i : Nat) : Bool :=
  match Tbl.get? gr.counters i with
  | some c => decide (c.kind = 3) && decide (c.ctx = ctx)
  | none => false

/-- Sends an arrival to a barrier of a context; it is counted at a clock (R184, R281). -/
def Grove.arrive (gr : Grove) (ctx bar at_ : Nat) (gang : Option (Bool × Nat)) (slot : Option Nat) : Grove :=
  { gr with arrivals := gr.arrivals ++ [⟨ctx, bar, at_, gang, slot⟩] }

/-- A barrier of a context at a grove (R183). -/
def Grove.barrier (gr : Grove) (ctx bar : Nat) : Barrier := Tbl.getD gr.bars (ctx * 16 + bar) .reset
/-- Replaces a barrier. -/
def Grove.setBarrier (gr : Grove) (ctx bar : Nat) (b : Barrier) : Grove :=
  { gr with bars := Tbl.set gr.bars (ctx * 16 + bar) b }

/-- Counts arrivals; a gang completion that carries the GANG flag leaves its done-mask (R184). -/
def Barrier.take (b : Barrier) (n : Nat) (gang : Option Nat) : Barrier :=
  let b := { b with arrived := b.arrived + n }
  match gang with
  | some m => { b with pgang := true, pdmask := m }
  | none => b

/-- Completes a phase when enough arrivals have been counted, once in a clock (R184). -/
def Barrier.settle (b : Barrier) (clk : Nat) : Barrier :=
  if b.arrived < b.count ∨ clk < b.free then b
  else
    let b := { b with phase := b.phase + 1, arrived := b.arrived - b.count, cgang := b.pgang, cdmask := b.pdmask,
                      pgang := false, pdmask := 0, free := clk + 1 }
    if b.npend then
      { b with count := b.ncount, lvl := b.nlvl, level := b.nlevel, key := b.nkey, npend := false }
    else b

/-- Changes a slot of the trigger engine. -/
def Grove.updSlot (gr : Grove) (k : Nat) (f : Slot → Slot) : Grove :=
  { gr with slots := Tbl.set gr.slots k (f (Tbl.getD gr.slots k .reset)) }

/-- Records how the active operation of a slot ended: kind 0 for success (R338, R339). -/
def Grove.endSlot (gr : Grove) (k kind xc : Nat) (addr : Word) : Grove :=
  gr.updSlot k fun t => { t with fin := some (kind, xc, addr) }

/-! ### Jobs of a core -/

/-- A job by identity. -/
def Core.job? (c : Core) (id : Nat) : Option Job := c.jobs.find? fun j => decide (j.id = id)
/-- Changes a job. -/
def Core.updJob (c : Core) (id : Nat) (f : Job → Job) : Core :=
  { c with jobs := c.jobs.map fun j => if j.id = id then f j else j }
/-- Removes a job that has ended. -/
def Core.dropJob (c : Core) (id : Nat) : Core := { c with jobs := c.jobs.filter fun j => !decide (j.id = id) }
/-- The entries of a job. -/
def Core.entriesOf (c : Core) (id : Nat) : List SbEntry := c.board.filter fun e => decide (e.job = id)
/-- Releases entries of a job: all, or its read entries only. -/
def Core.release (c : Core) (id : Nat) (readsOnly : Bool) : Core :=
  { c with board := c.board.filter fun e => !(decide (e.job = id) && (!readsOnly || !e.write)) }
/-- Releases one entry. -/
def Core.releaseEntry (c : Core) (eid : Nat) : Core := { c with board := c.board.filter fun e => !decide (e.id = eid) }
/-- Does an entry wait for a conflicting earlier one (R21)? -/
def Core.entryWaits (c : Core) (e : SbEntry) : Bool :=
  c.board.any fun f => decide (f.ord < e.ord) && (e.write || f.write) && overlap (e.lo, e.hi) (f.lo, f.hi)
/-- Does some entry of a job wait for an earlier one? -/
def Core.jobWaits (c : Core) (id : Nat) : Bool := (c.entriesOf id).any c.entryWaits

/-! ### Faults of a task's jobs -/

/-- Reports an imprecise fault of the task on a core (R160): trap kind, slot of the job card, raising engine (SRC of R195),
address, cause, and what its fault tile will carry. -/
def State.jobFault (s : State) (core : Nat) (t : Trap) (slot src : Nat) (name : Option Name) (detail : List Byte) : State :=
  s.updCore core fun c => { c with imprecise := c.imprecise ++
    [⟨t.kind.code, src, t.word slot true, 0, t.tval, false, s.tick, name, detail⟩] }

/-- Reports an imprecise fault of the matrix engine (R272, R285): SRC 3, slot 2, and the gang mark. -/
def State.matFault (s : State) (core : Nat) (t : Trap) (gang : Bool) (detail : List Byte) : State :=
  s.updCore core fun c => { c with imprecise := c.imprecise ++
    [⟨t.kind.code, 3, t.word 2 true, 0, t.tval, gang, s.tick, none, detail⟩] }

/-- Reports an imprecise fault whose kind has no trap code of R158 (R196). -/
def State.jobFaultKind (s : State) (core kind slot src : Nat) (tval : Word) (name : Option Name) (detail : List Byte) : State :=
  s.updCore core fun c => { c with imprecise := c.imprecise ++
    [⟨kind, src, BitVec.ofNat 64 (kind % 16 + slot % 4 * 16 + 64), 0, tval, false, s.tick, name, detail⟩] }

end Sys2Proof.Machine
end

