-- ==== Sys2Proof/Machine/Names.lean ====
section
/-!
DEFINITION. Work identifiers (R11, R12), tile names and their templates (R13, R14, R173, R288), channel entries (R286, R346),
payloads, valid extents and the range of names (R288), and fault tiles (R195, R196).
-/

namespace Sys2Proof.Machine

/-! ### Names (R13) -/

/-- Bits [95:16] of a name, without version. -/
def Name.bits (n : Name) : Nat :=
  n.handle % 2 ^ 24 * 2 ^ 72 + n.c0 % 2 ^ 14 * 2 ^ 58 + n.c1 % 2 ^ 14 * 2 ^ 44 + n.c2 % 2 ^ 14 * 2 ^ 30 + n.c3 % 2 ^ 14 * 2 ^ 16
/-- Coordinate j. -/
def Name.coord (n : Name) (j : Nat) : Nat := match j with | 0 => n.c0 | 1 => n.c1 | 2 => n.c2 | _ => n.c3
/-- Coordinate j of a coordinate word (R288): 14 bits each, c0 in bits [55:42]. -/
def coordOf (w : Word) (j : Nat) : Nat := (w.toNat >>> (42 - 14 * j)) % 2 ^ 14
/-- The coordinate word of a name. -/
def Name.coordWord (n : Name) : Word :=
  BitVec.ofNat 64 (n.c0 % 2 ^ 14 * 2 ^ 42 + n.c1 % 2 ^ 14 * 2 ^ 28 + n.c2 % 2 ^ 14 * 2 ^ 14 + n.c3 % 2 ^ 14)
/-- Does a name match another under a coordinate mask (R292)? -/
def Name.matches (n m : Name) (mask : Word) : Bool :=
  decide (n.handle = m.handle) && (List.range 4).all fun j =>
    let k := coordOf mask j
    decide (n.coord j - (n.coord j &&& k) = m.coord j - (m.coord j &&& k))

/-! ### Name templates (R14, R288) -/

/-- A coordinate of the entry's template: scale, offset, and the field it selects. -/
def chCoord (e : List Byte) (base j : Nat) : Int × Int × Option Nat :=
  let o := base + 6 * j
  let sel := fieldOfBytes e (o + 4) 1
  (intVal 16 true (fieldOfBytes e o 2), intVal 16 true (fieldOfBytes e (o + 2) 2), if sel < 6 then some sel else none)

/-- The name of an entry's template for a WID and coordinate word (R14, R288); `base` is where its coordinates stand. -/
def instantiate (widths : List Nat) (e : List Byte) (base : Nat) (wid coord : Word) : Name :=
  let c (j : Nat) : Nat :=
    let t := chCoord e base j
    let x : Int := match t.2.2 with | some f => t.1 * (widField widths f wid : Int) + t.2.1 | none => t.2.1
    ((x + coordOf coord j) % 16384).toNat
  ⟨chHandle e, c 0, c 1, c 2, c 3⟩

/-- The name of an exchange channel for a WID and coordinate word. -/
def Image.nameOf (im : Image) (ch : Nat) (wid coord : Word) : Name := instantiate im.widths (im.chan ch) 8 wid coord

/-! ### Payload, valid extents, range (R288, R217) -/

/-- The payload size of a shape. -/
def ShapeRec.payload (r : ShapeRec) (f : Fmt) : Nat := f.rowBytes (r.x0 + 1) * (r.x1 + 1) * (r.x2 + 1) * (r.x3 + 1)
/-- The payload size of an exchange channel's tile. -/
def chPayload (e : List Byte) : Nat := (chShape e).payload (chFmt e)
/-- The 512-byte chunks of a payload. -/
def chunksIn (n : Nat) : Nat := (n + 511) / 512

/-- The tile count of a tensor along shape dimension k (R400). -/
def Tensor.count (t : Tensor) (k : Nat) : Nat := (t.dims.getD k 1 + t.tiles.getD k 1 - 1) / max (t.tiles.getD k 1) 1

/-- The four valid extents of a tile (R288), in elements. -/
def validExtents (t : Option Tensor) (r : ShapeRec) (n : Name) : List Nat :=
  (List.range 4).map fun k =>
    match t with
    | none => r.x k + 1
    | some t =>
      if t.ndim ≤ k then r.x k + 1
      else
        let j := t.ndim - 1 - k
        let cnt := t.count k
        if n.coord j + 1 = cnt then t.dims.getD k 1 - t.tiles.getD k 1 * (cnt - 1) else r.x k + 1

/-- Is a name outside its tensor's tiles (R288)? Masked coordinates are not checked (R292). -/
def outOfRange (t : Option Tensor) (n : Name) (mask : Word) (halo : Bool) : Bool :=
  match t with
  | none => false
  | some t => (List.range 4).any fun j =>
      let c := n.coord j - (n.coord j &&& coordOf mask j)
      if j < t.ndim then decide (t.count (t.ndim - 1 - j) ≤ c)
      else if halo ∧ j = 3 then false else decide (c ≠ 0)

/-- Reads a region as a payload, row by row in iteration order (R288). -/
def State.readRegion (s : State) (core : Nat) (r : ShapeRec) (f : Fmt) : Payload × State :=
  let len := f.rowBytes (r.x0 + 1)
  (List.range ((r.x1 + 1) * (r.x2 + 1) * (r.x3 + 1))).foldl (fun (acc : Payload × State) k =>
    let i1 := k % (r.x1 + 1)
    let i2 := k / (r.x1 + 1) % (r.x2 + 1)
    let i3 := k / ((r.x1 + 1) * (r.x2 + 1))
    let b := acc.2.readMem (spKey core (r.row i1 i2 i3).toNat) len
    (acc.1 ++ b.1, b.2)) ([], s)

/-- The span of a region of bytes that move unchanged, as a scoreboard region. -/
def ShapeRec.region (r : ShapeRec) (f : Fmt) (write : Bool) : Region :=
  let p := r.span f
  ⟨write, p.1.toNat, (p.2 + 1 - p.1).toNat⟩

/-! ### Fault tiles (R195, R196) -/

/-- What a fault tile reports beside its task. -/
structure TileInfo where
  kind : Nat
  src : Nat
  ktrap : Word
  kepc : Word
  ktval : Word
  final : Bool
  gang : Bool
  name : Option (Name × Nat)
  detail : List Byte
deriving DecidableEq, Repr

/-- Bytes padded with zeros to a length. -/
def padTo (n : Nat) (l : List Byte) : List Byte := l.take n ++ List.replicate (n - l.length) 0

/-- The 256 bytes of a fault tile (R195); the supervisor form carries the place of its task. -/
def tileBytes (t : TileInfo) (task : Option TaskRec) (wid : Word) (tick : Nat) (place : Option (Nat × Nat × Nat)) : List Byte :=
  let b (x : Bool) (i : Nat) : Nat := if x then 2 ^ i else 0
  let flags := (match task with
    | some r => b r.guarded 0 + b (decide (0 < r.replay)) 1 + b r.triad 3 + (if r.triad then r.copy % 4 * 16 else 0)
    | none => 0) + b t.final 2 + b t.gang 6 + b place.isSome 7
  natBytes 2 t.kind ++ natBytes 2 t.src ++ natBytes 4 flags ++ natBytes 8 wid.toNat ++ natBytes 8 t.ktrap.toNat ++
  natBytes 8 t.kepc.toNat ++ natBytes 8 t.ktval.toNat ++ natBytes 8 tick ++
  (match t.name with | some (n, v) => natBytes 12 (n.bits + v % 65536) | none => natBytes 12 0) ++ natBytes 4 0 ++
  (match task with | some r => natBytes 2 r.tmpl ++ natBytes 2 r.entry | none => natBytes 4 0) ++
  (match place with | some (g, sl, i) => natBytes 2 g ++ natBytes 1 sl ++ natBytes 1 i | none => natBytes 4 0) ++
  padTo 56 t.detail ++ List.replicate 128 0

/-- A publication that a grove makes on its own behalf (R196). -/
def enginePub (id ctx : Nat) (name : Name) (data : List Byte) (wid : Word) (order : Nat) : PubOp :=
  { id := id, ctx := ctx, core := none, job := 0, name := name, ch := 64, data := goodBytes data,
    valid := [data.length, 1, 1, 1], express := false, keep := false, tent := false, task := none, uid := 0, wid := wid, copy := 3, seq := 0,
    order := order, slot := none, r := none, admitted := none, retryAt := none, sent := 0, dropped := false }

/-- Stops a context (R193): none of its tasks starts any longer. -/
def State.stopCtx (s : State) (ctx : Nat) : State := s.updCtx ctx fun c => { c with state := .stopped }

/-- Sends a fault tile to the trunk (R196), which keeps the latest 4,096 while it has no notification QP (R421). -/
def State.trunkTile (s : State) (tile : List Byte) : State :=
  s.updTrunk fun k => { k with tiles := if k.notifyQp.isNone then (k.tiles ++ [tile]).drop (k.tiles.length + 1 - 4096) else k.tiles ++ [tile] }

/-- Publishes a fault tile of a context from a grove, with the tick at which the fault was detected, and sends it to the trunk with its
place; without a fault tensor the context stops (R195, R196). -/
def State.faultTileAt (s : State) (tick g ctx : Nat) (t : TileInfo) (task : Option (Nat × TaskRec)) (wid : Word) : State :=
  let x := s.ctx ctx
  let rec? := task.map (·.2)
  let slot := match task with | some (_, r) => if r.oncore then r.slot else 0 | none => 0
  let idx := match task with | some (i, _) => i | none => 0
  let s := s.trunkTile (tileBytes t rec? wid tick (some (g, slot, idx)))
  if x.image.faultH.getLsbD 31 then
    let c1 := if widWidth x.image.widths 0 = 0 then 0 else widField x.image.widths 0 wid % 2 ^ 14
    let name : Name := ⟨(x.image.faultH.extractLsb' 0 24).toNat, t.kind % 2 ^ 14, c1, 0, 0⟩
    (s.updCtx ctx fun c => { c with ftiles := (c.ftiles + 1) % 2 ^ 32 }).updGrove g fun gr =>
      { gr with pubs := gr.pubs ++ [enginePub gr.ids ctx name (tileBytes t rec? wid tick none) wid 0], ids := gr.ids + 1 }
  else s.stopCtx ctx

/-- Publishes a fault tile of a fault that is detected now. -/
def State.faultTile (s : State) (g ctx : Nat) (t : TileInfo) (task : Option (Nat × TaskRec)) (wid : Word) : State :=
  s.faultTileAt s.tick g ctx t task wid

end Sys2Proof.Machine
end

