-- ==== Sys2Proof/Machine/Special.lean ====
section
/-!
DEFINITION. The special functions of R212 on F32 values. Each result is the exact mathematical value rounded once.
Reciprocal and roots are exact integer computations with a sticky remainder. The transcendental functions are enclosed
between two fixed-point bounds whose precision is raised until both bounds round to the same F32 value.
-/

namespace Sys2Proof.Machine

/-- Guard bits of every fixed-point series: the error of a series stays far below `2^guard` units. -/
def guardBits : Nat := 64

/-- Sums `t0 + t1 + …` where each next term is `t * num / den k` in fixed point, ending when a term is zero. -/
def seriesFrom (next : Nat → Nat → Nat) : Nat → Nat → Nat → Nat → Nat
  | 0, _, _, acc => acc
  | fuel + 1, k, t, acc => if t = 0 then acc else seriesFrom next fuel (k + 1) (next k t) (acc + t)

/-- The alternating sum `t0 - t1 + t2 - …` of the same terms. -/
def seriesAlt (next : Nat → Nat → Nat) : Nat → Nat → Nat → Int → Int
  | 0, _, _, acc => acc
  | fuel + 1, k, t, acc =>
    if t = 0 then acc else seriesAlt next fuel (k + 1) (next k t) (if k % 2 = 0 then acc + (t : Int) else acc - (t : Int))

/-- `arctan(1/k)` in units of `2^-q`: the terms `2^q / k^(2j+1)` are divided by `2j+1` as they are summed. -/
def atanInv (k q : Nat) : Int :=
  let rec go : Nat → Nat → Nat → Int → Int
    | 0, _, _, acc => acc
    | fuel + 1, j, t, acc =>
      if t = 0 then acc
      else go fuel (j + 1) (t / (k * k)) (if j % 2 = 0 then acc + (t / (2 * j + 1) : Nat) else acc - (t / (2 * j + 1) : Nat))
  go (q + 8) 0 ((1 <<< q) / k) 0

/-- π in units of `2^-q`, by Machin's formula with guard bits; the error is below one unit. -/
def piFix (q : Nat) : Nat :=
  ((16 * atanInv 5 (q + guardBits) - 4 * atanInv 239 (q + guardBits)).toNat) >>> guardBits

/-- `2 * artanh(n/d)` in units of `2^-q`, for `0 ≤ n/d ≤ 1/3`. -/
def atanh2 (n d q : Nat) : Nat :=
  let n2 := n * n
  let d2 := d * d
  let rec go : Nat → Nat → Nat → Nat → Nat
    | 0, _, _, acc => acc
    | fuel + 1, j, t, acc => if t = 0 then acc else go fuel (j + 1) (t * n2 / d2) (acc + t / (2 * j + 1))
  2 * go (q + 8) 0 ((n <<< q) / d) 0

/-- ln 2 in units of `2^-q`. -/
def ln2Fix (q : Nat) : Nat := (atanh2 1 3 (q + guardBits)) >>> guardBits

/-- `exp(y)` in units of `2^-q` for `y` in units of `2^-q`, `0 ≤ y < 32`. -/
def expFix (y q : Nat) : Nat :=
  (seriesFrom (fun k t => ((t * (y <<< guardBits)) >>> (q + guardBits)) / (k + 1)) (q + 256) 0 (1 <<< (q + guardBits)) 0)
    >>> guardBits

/-- `sin r` and `cos r` in units of `2^-q` for `0 ≤ r < 2` in the same units. -/
def sinCosFix (r q : Nat) : Int × Int :=
  let rg := r <<< guardBits
  let qg := q + guardBits
  let r2 := (rg * rg) >>> qg
  let s := seriesAlt (fun k t => ((t * r2) >>> qg) / ((2 * k + 2) * (2 * k + 3))) (q + 64) 0 rg 0
  let c := seriesAlt (fun k t => ((t * r2) >>> qg) / ((2 * k + 1) * (2 * k + 2))) (q + 64) 0 (1 <<< qg) 0
  (s / (2 ^ guardBits : Nat), c / (2 ^ guardBits : Nat))

/-- The functions of R212 with their fn codes. -/
inductive Sfu where
  | exp2 | log2 | rcp | rsqrt | sqrt | sin | cos | tanh
deriving DecidableEq, Repr

/-- Reads the function field of `vsfu` (R212). -/
def Sfu.ofBits (f : BitVec 3) : Sfu :=
  match f.toNat with
  | 0 => .exp2 | 1 => .log2 | 2 => .rcp | 3 => .rsqrt | 4 => .sqrt | 5 => .sin | 6 => .cos | _ => .tanh

/-- A transcendental function at the finite nonzero `±m * 2^e`, as a signed count of units `2^-q`, exact to within
`8` units. -/
def Sfu.approx (f : Sfu) (neg : Bool) (m : Nat) (e : Int) (q : Nat) : Int :=
  match f with
  | .exp2 =>
    -- 2^x with x = n + frac: exp(frac * ln 2), scaled by the caller through `n`
    let x := scaled neg m (e + q) 0
    let frac := (x % (2 ^ q : Nat)).toNat
    expFix ((frac * ln2Fix q) >>> q) q
  | .log2 =>
    let k : Int := Nat.log2 m
    let big := decide (3 * 2 ^ Nat.log2 m < 2 * m)
    let d := 2 ^ (if big then Nat.log2 m + 1 else Nat.log2 m)
    let up := decide (d ≤ m)
    let l := atanh2 (if up then m - d else d - m) (m + d) (q + guardBits)
    let lg : Int := ((l <<< q) / ln2Fix (q + guardBits)) 
    let fr := (if up then lg else -lg)
    (k + e + (if big then 1 else 0)) * (2 ^ q : Nat) + fr
  | .tanh =>
    let y := (2 * (scaled false m (e + q) 0)).toNat
    let ex := expFix y q
    let t : Nat := (((ex - (1 <<< q)) <<< q) / (ex + (1 <<< q)))
    if neg then -(t : Int) else t
  | .sin | .cos =>
    let extra := (max 0 (e + Nat.log2 m + 2)).toNat + 8
    let qq := q + extra
    let x := (scaled false m (e + qq) 0).toNat
    let h := (piFix (qq + 1)) / 4
    let n := x / h
    let r := (x - n * h) >>> extra
    let (s, c) := sinCosFix r q
    match f, n % 4 with
    | .sin, 0 => if neg then -s else s
    | .sin, 1 => if neg then -c else c
    | .sin, 2 => if neg then s else -s
    | .sin, _ => if neg then c else -c
    | _, 0 => c
    | _, 1 => -s
    | _, 2 => -c
    | _, _ => s
  | _ => 0

/-- Rounds a signed count of units `2^-q` (with more below) into F32 under RNE. -/
def roundUnits (x : Int) (q : Int) : Res Nat := ffF32.round .rne false (decide (x < 0)) x.natAbs true (-q)

/-- Raises the precision until both ends of the enclosure round alike (R212). The last precision is far beyond what any
F32 argument needs. -/
def Sfu.enclose (f : Sfu) (neg : Bool) (m : Nat) (e : Int) (scale : Int) : List Nat → Res Nat
  | [] => (ffF32.nanBits, 0)
  | q :: rest =>
    let v := f.approx neg m e q
    let lo := v - 8
    let hi := v + 8
    let a := roundUnits lo (q - scale)
    let b := roundUnits hi (q - scale)
    if rest.isEmpty ∨ (a = b ∧ decide (lo < 0) = decide (hi < 0) ∧ lo ≠ 0 ∧ hi ≠ 0) then a
    else f.enclose neg m e scale rest

/-- Working precisions for an argument of magnitude `2^top`. -/
def precisions (top : Int) : List Nat :=
  let b := (max 0 (-top)).toNat
  [b + 96, b + 160, b + 320, b + 640]

/-- Integer square root by bits from `2^k` down: the largest r with r * r ≤ n. -/
def isqrtFrom (n : Nat) : Nat → Nat → Nat
  | 0, r => if (r + 1) * (r + 1) ≤ n then r + 1 else r
  | k + 1, r =>
    let c := r + 2 ^ (k + 1)
    isqrtFrom n k (if c * c ≤ n then c else r)

/-- The integer square root. -/
def isqrt (n : Nat) : Nat := isqrtFrom n (Nat.log2 n / 2 + 1) 0

/-- Applies a special function to an F32 pattern (R212); `rm` is the rounding of `sqrt`. -/
def Sfu.apply (f : Sfu) (rm : Rm) (bits : Nat) : Res Nat :=
  match ffF32.decode bits with
  | .nan s => (ffF32.nanBits, flagIf s flagNV)
  | .inf neg =>
    match f with
    | .exp2 => (if neg then 0 else ffF32.infBits, 0)
    | .log2 => if neg then (ffF32.nanBits, flagNV) else (ffF32.infBits, 0)
    | .rcp => (ffF32.signed neg 0, 0)
    | .rsqrt => if neg then (ffF32.nanBits, flagNV) else (0, 0)
    | .sqrt => if neg then (ffF32.nanBits, flagNV) else (ffF32.infBits, 0)
    | .sin => (ffF32.nanBits, flagNV)
    | .cos => (ffF32.nanBits, flagNV)
    | .tanh => (ffF32.encode .rne false (.fin neg 1 0)).1 |> fun b => (b, flagNX)
  | .fin neg m e =>
    if m = 0 then
      match f with
      | .exp2 => (0x3F800000, 0)
      | .log2 => (ffF32.signed true ffF32.infBits, 0)
      | .rcp => (ffF32.signed neg ffF32.infBits, 0)
      | .rsqrt => (ffF32.signed neg ffF32.infBits, 0)
      | .sqrt => (ffF32.signed neg 0, 0)
      | .sin => (ffF32.signed neg 0, 0)
      | .cos => (0x3F800000, 0)
      | .tanh => (ffF32.signed neg 0, 0)
    else
      let top : Int := Nat.log2 m + e
      match f with
      | .exp2 =>
        let x : Num := .fin neg m e
        match x.toInt? with
        | some n =>
          if 128 ≤ n then (ffF32.infBits, flagOF ||| flagNX)
          else if n < -150 then (0, flagUF ||| flagNX)
          else ffF32.round .rne false false 1 false n
        | none =>
          if 7 ≤ top ∧ neg = false then (ffF32.infBits, flagOF ||| flagNX)
          else
            let n := (scaled neg m (e + 160) 0) / (2 ^ 160 : Nat)
            if n < -150 then (0, flagUF ||| flagNX)
            else f.enclose neg m e n (precisions top)
      | .log2 =>
        if neg then (ffF32.nanBits, flagNV)
        else if m = 2 ^ Nat.log2 m then ffF32.encode .rne false (.ofInt top)
        else f.enclose neg m e 0 (precisions (-32))
      | .rcp =>
        let n : Nat := 1 <<< 96
        ffF32.round .rne false neg (n / m) (decide (n % m ≠ 0)) (-e - 96)
      | .rsqrt =>
        if neg then (ffF32.nanBits, flagNV)
        else
          let odd := decide (e % 2 = 1)
          let d := if odd then 2 * m else m
          let e2 := (if odd then e - 1 else e) / 2
          let n : Nat := 1 <<< 192
          let a := n / d
          let r := isqrt a
          ffF32.round .rne false false r (decide (n % d ≠ 0) || decide (r * r ≠ a)) (-e2 - 96)
      | .sqrt =>
        if neg then (ffF32.nanBits, flagNV)
        else
          let odd := decide (e % 2 = 1)
          let d := (if odd then 2 * m else m) <<< 64
          let e2 := (if odd then e - 1 else e) / 2
          let r := isqrt d
          ffF32.round rm false false r (decide (r * r ≠ d)) (e2 - 32)
      | .tanh =>
        if (Num.fin false m e).cmp (.ofInt 10) ≠ some .lt then
          (ffF32.signed neg 0x3F800000, flagNX)
        else f.enclose neg m e 0 (precisions top)
      | .sin => f.enclose neg m e 0 (precisions (min top (-40)))
      | .cos => f.enclose neg m e 0 (precisions (min top (-40)))

end Sys2Proof.Machine
end

