-- ==== Sys2Proof/Machine/Vector.lean ====
section
/-!
DEFINITION. The register forms of the vector engine (R198 to R215): arithmetic, compares and selects, moves, conversion and
quantisation, rearranging and reducing, special functions, register loads and stores, lane slices and predicates.
-/

namespace Sys2Proof.Machine

/-! ### Element operations shared with shape jobs (R201, R223) -/

/-- The elementwise operations. -/
inductive VOp where
  | add | sub | mul | fma | min | max
deriving DecidableEq, Repr

/-- The exact float result of an elementwise operation; `d` is the third operand of a multiply-add (R201). -/
def VOp.float (op : VOp) (neg : Bool) (d a b : Num) : Res Num :=
  match op with
  | .add => a.add b
  | .sub => a.add b.neg
  | .mul => a.mul b
  | .fma => Num.fma neg d a b
  | .min => Num.min a b
  | .max => Num.max a b

/-- The exact integer result of an elementwise operation. -/
def VOp.int (op : VOp) (neg : Bool) (d a b : Int) : Int :=
  match op with
  | .add => a + b
  | .sub => a - b
  | .mul => a * b
  | .fma => if neg then d - a * b else d + a * b
  | .min => Min.min a b
  | .max => Max.max a b

/-- SAT has no effect on the smaller and the larger (R201). -/
def VOp.sat (op : VOp) (sat : Bool) : Bool :=
  match op with
  | .min => false
  | .max => false
  | _ => sat

/-- One element of a register form from the bits of its operands (R200, R201). SAT clamps a finite result that overflows, and leaves an
infinite one (R110). -/
def VOp.apply (op : VOp) (f : Fmt) (rm : Rm) (sat neg : Bool) (d a b : Nat) : Res Nat :=
  match f.float? with
  | some ff =>
    let r := op.float neg (ff.decode d) (ff.decode a) (ff.decode b)
    let e := ff.encode rm (op.sat sat && !r.1.isInf) r.1
    (e.1, r.2 ||| e.2)
  | none =>
    match f.int? with
    | some (w, sg) => intResult w sg (op.sat sat) (op.int neg (intVal w sg d) (intVal w sg a) (intVal w sg b))
    | none => (0, 0)

/-- |a| or −a of one element (R201). -/
def signOp (negate : Bool) (f : Fmt) (sat : Bool) (a : Nat) : Res Nat :=
  match f.float? with
  | some ff =>
    let x := ff.decode a
    let e := ff.encode .rne false (if negate then x.neg else x.abs)
    (e.1, e.2 ||| sigFlags [x])
  | none =>
    match f.int? with
    | some (w, sg) => let x := intVal w sg a; intResult w sg sat (if negate then -x else (x.natAbs : Int))
    | none => (0, 0)

/-- The conditions of R203 over exact values. -/
def vCond (cc : Nat) (x y : Num) : Bool :=
  match x.cmp y with
  | none => decide (cc = 1) || decide (cc = 6)
  | some o =>
    match cc with
    | 0 => decide (o = .eq)
    | 1 => decide (o ≠ .eq)
    | 2 => decide (o = .lt)
    | 3 => decide (o ≠ .gt)
    | 4 => decide (o = .gt)
    | 5 => decide (o ≠ .lt)
    | _ => false

/-- A reduction over exact values and the identity it has over no elements (R210); the width and sign of an integer type
decide the identities. -/
def reduceFloat (op : Nat) (l : List Num) : Res Num :=
  match op with
  | 1 => l.foldl (fun acc x => let r := Num.min acc.1 x; (r.1, acc.2 ||| r.2)) (match l with | [] => (.inf false, 0) | x :: _ => (x, 0))
  | 2 => l.foldl (fun acc x => let r := Num.max acc.1 x; (r.1, acc.2 ||| r.2)) (match l with | [] => (.inf true, 0) | x :: _ => (x, 0))
  | 6 =>
    let sq := l.map fun x => x.mul x
    let r := Num.sum (sq.map (·.1))
    (r.1, r.2 ||| flagsOr (sq.map (·.2)))
  | _ => Num.sum l

/-- An integer reduction, exact modulo 2^64 (R210). -/
def reduceInt (op w : Nat) (sg : Bool) (l : List Int) : Word :=
  let bits (x : Int) : Word := BitVec.ofInt 64 x
  match op with
  | 1 => bits (l.foldl Min.min (intRange w sg).2)
  | 2 => bits (l.foldl Max.max (intRange w sg).1)
  | 3 => l.foldl (fun acc x => acc &&& bits x) (if sg then BitVec.allOnes 64 else BitVec.ofNat 64 (2 ^ w - 1))
  | 4 => l.foldl (fun acc x => acc ||| bits x) 0
  | 5 => l.foldl (fun acc x => acc ^^^ bits x) 0
  | 6 => bits (l.foldl (fun acc x => acc + x * x) 0)
  | _ => bits (l.foldl (· + ·) 0)

/-! ### The shape of register forms -/

/-- The result register of a form: active elements take new values, the others keep theirs; the flags are those of the
active elements (R200). -/
def mergeElems (w : Nat) (mask : BitVec 32) (old : BitVec 1024) (f : Nat → Res Nat) : Res Nat :=
  let l := (List.range (elemCount w)).map fun j => if activeElem mask w j then f j else (elemAt old w j, 0)
  (ofElems w (l.map (·.1)), flagsOr (l.map (·.2)))

/-- A vector form that writes elements of width w of v[D]; it executes whatever the guard, which masks its lanes. -/
def vecForm (i : Sys2Proof.Instr) (s : State) (lat w : Nat) (d : BitVec 7) (f : Core → Nat → Res Nat) :
    Host.Outcome State Fault Refusal :=
  runChecked i s fun c =>
    let r := mergeElems w (c.guardMask i) (c.rv d.toNat) (f c)
    .ok (s.writeReg lat (vReg d) r.1 r.2)

/-- The latency of a type's class: float 4, integer 3 (R83). -/
def typeLat (t : BitVec 4) : Nat := if floatType t then 4 else 3

/-- The second operand's element j: of v[B], or the low bits of s[B] with SB (R201). -/
def Core.operandB (c : Core) (b : BitVec 7) (sb : Bool) (w j : Nat) : Nat :=
  if sb then (c.rs b.toNat).toNat % 2 ^ w else elemAt (c.rv b.toNat) w j

/-- The binary arithmetic forms. -/
def vecArith (i : Sys2Proof.Instr) (s : State) (lat : Nat) (op : VOp) (neg : Bool) (d a b : BitVec 7) (sb sat : Bool)
    (t : BitVec 4) : Host.Outcome State Fault Refusal :=
  let w := typeWidth t
  vecForm i s lat w d fun c j =>
    op.apply (Fmt.ofType t) c.rm sat neg (elemAt (c.rv d.toNat) w j) (elemAt (c.rv a.toNat) w j) (c.operandB b sb w j)

/-- R201. -/
def execVadd (d a b : BitVec 7) (p : BitVec 3) (sb sat : Bool) (t : BitVec 4) (s : State) :
    Host.Outcome State Fault Refusal :=
  vecArith (.vadd d a b p sb sat t) s (typeLat t) .add false d a b sb sat t
/-- R201. -/
def execVsub (d a b : BitVec 7) (p : BitVec 3) (sb sat : Bool) (t : BitVec 4) (s : State) :
    Host.Outcome State Fault Refusal :=
  vecArith (.vsub d a b p sb sat t) s (typeLat t) .sub false d a b sb sat t
/-- R201. -/
def execVmul (d a b : BitVec 7) (p : BitVec 3) (sb sat : Bool) (t : BitVec 4) (s : State) :
    Host.Outcome State Fault Refusal :=
  vecArith (.vmul d a b p sb sat t) s 4 .mul false d a b sb sat t
/-- R201: reads v[D]. -/
def execVfma (d a b : BitVec 7) (p : BitVec 3) (neg sb sat : Bool) (t : BitVec 4) (s : State) :
    Host.Outcome State Fault Refusal :=
  vecArith (.vfma d a b p neg sb sat t) s 4 .fma neg d a b sb sat t
/-- R201. -/
def execVmin (d a b : BitVec 7) (p : BitVec 3) (sb sat : Bool) (t : BitVec 4) (s : State) :
    Host.Outcome State Fault Refusal :=
  vecArith (.vmin d a b p sb sat t) s (typeLat t) .min false d a b sb sat t
/-- R201. -/
def execVmax (d a b : BitVec 7) (p : BitVec 3) (sb sat : Bool) (t : BitVec 4) (s : State) :
    Host.Outcome State Fault Refusal :=
  vecArith (.vmax d a b p sb sat t) s (typeLat t) .max false d a b sb sat t
/-- R201. -/
def execVabs (d a : BitVec 7) (p : BitVec 3) (sat : Bool) (t : BitVec 4) (s : State) : Host.Outcome State Fault Refusal :=
  vecForm (.vabs d a p sat t) s (typeLat t) (typeWidth t) d fun c j =>
    signOp false (Fmt.ofType t) sat (elemAt (c.rv a.toNat) (typeWidth t) j)
/-- R201. -/
def execVneg (d a : BitVec 7) (p : BitVec 3) (sat : Bool) (t : BitVec 4) (s : State) : Host.Outcome State Fault Refusal :=
  vecForm (.vneg d a p sat t) s (typeLat t) (typeWidth t) d fun c j =>
    signOp true (Fmt.ofType t) sat (elemAt (c.rv a.toNat) (typeWidth t) j)

/-- The bitwise forms, lane by lane (R202). -/
def vecBits (i : Sys2Proof.Instr) (s : State) (d a b : BitVec 7) (nb : Bool) (f : BitVec 1024 → BitVec 1024 → BitVec 1024) :
    Host.Outcome State Fault Refusal :=
  vecForm i s 2 32 d fun c j =>
    (elemAt (f (c.rv a.toNat) (if nb then ~~~(c.rv b.toNat) else c.rv b.toNat)) 32 j, 0)

/-- R202. -/
def execVand (d a b : BitVec 7) (p : BitVec 3) (nb : Bool) (s : State) : Host.Outcome State Fault Refusal :=
  vecBits (.vand d a b p nb) s d a b nb (· &&& ·)
/-- R202. -/
def execVor (d a b : BitVec 7) (p : BitVec 3) (nb : Bool) (s : State) : Host.Outcome State Fault Refusal :=
  vecBits (.vor d a b p nb) s d a b nb (· ||| ·)
/-- R202. -/
def execVxor (d a b : BitVec 7) (p : BitVec 3) (nb : Bool) (s : State) : Host.Outcome State Fault Refusal :=
  vecBits (.vxor d a b p nb) s d a b nb (· ^^^ ·)

/-- A shift of a w-bit element (R202). -/
def shiftElem (left : Bool) (w : Nat) (sg : Bool) (x n : Nat) : Nat :=
  if left then (if w ≤ n then 0 else (x <<< n) % 2 ^ w)
  else
    let v := intVal w sg x
    intBits w (v / (2 ^ Min.min n w : Nat))

/-- The shift forms: the count is the matching element, or the whole of s[B] (R202). -/
def vecShift (i : Sys2Proof.Instr) (s : State) (left : Bool) (d a b : BitVec 7) (sb : Bool) (t : BitVec 4) :
    Host.Outcome State Fault Refusal :=
  let w := typeWidth t
  let sg := match (Fmt.ofType t).int? with | some (_, g) => g | none => false
  vecForm i s 2 w d fun c j =>
    (shiftElem left w sg (elemAt (c.rv a.toNat) w j) (if sb then (c.rs b.toNat).toNat else elemAt (c.rv b.toNat) w j), 0)

/-- R202. -/
def execVshl (d a b : BitVec 7) (p : BitVec 3) (sb : Bool) (t : BitVec 4) (s : State) : Host.Outcome State Fault Refusal :=
  vecShift (.vshl d a b p sb t) s true d a b sb t
/-- R202. -/
def execVshr (d a b : BitVec 7) (p : BitVec 3) (sb : Bool) (t : BitVec 4) (s : State) : Host.Outcome State Fault Refusal :=
  vecShift (.vshr d a b p sb t) s false d a b sb t

/-- R203: a 64-bit element sets or clears both bits of its lane pair. -/
def execVcmp (d a b : BitVec 7) (p : BitVec 3) (cc : BitVec 3) (t : BitVec 4) (s : State) :
    Host.Outcome State Fault Refusal :=
  runChecked (.vcmp d a b p cc t) s fun c =>
    let w := typeWidth t
    let f := Fmt.ofType t
    let mask := c.guardMask (.vcmp d a b p cc t)
    let old := c.rp d.toNat
    let one (j : Nat) : Num × Num :=
      (f.decode (elemAt (c.rv a.toNat) w j) 0 0, f.decode (elemAt (c.rv b.toNat) w j) 0 0)
    let bit (i : Nat) : Bool :=
      let j := i * 32 / w
      if activeElem mask w j then vCond cc.toNat (one j).1 (one j).2 else old.getLsbD i
    let fl := flagsOr ((List.range (elemCount w)).map fun j =>
      if activeElem mask w j then sigFlags [(one j).1, (one j).2] else 0)
    .ok (s.writeReg (typeLat t) (pReg d) (ofElems 1 ((List.range 32).map fun i => if bit i then 1 else 0)) fl)

/-- R204: T decides the lane pairing and the latency. -/
def execVsel (d a b : BitVec 7) (p : BitVec 3) (t : BitVec 4) (q : BitVec 3) (s : State) :
    Host.Outcome State Fault Refusal :=
  vecForm (.vsel d a b p t q) s (typeLat t) (typeWidth t) d fun c j =>
    (elemAt (if (c.rp q.toNat).getLsbD (laneOf (typeWidth t) j) then c.rv a.toNat else c.rv b.toNat) (typeWidth t) j, 0)

/-- R205, form 0. -/
def execVmovV (d a : BitVec 7) (p : BitVec 3) (s : State) : Host.Outcome State Fault Refusal :=
  vecForm (.vmovV d a p) s 2 32 d fun c j => (elemAt (c.rv a.toNat) 32 j, 0)
/-- R205, form 1. -/
def execVmovSplat (d a : BitVec 7) (p : BitVec 3) (t : BitVec 4) (s : State) : Host.Outcome State Fault Refusal :=
  vecForm (.vmovSplat d a p t) s 2 (typeWidth t) d fun c _ => ((c.rs a.toNat).toNat % 2 ^ typeWidth t, 0)
/-- R205, form 2. -/
def execVmovHS (d a : BitVec 7) (p : BitVec 3) (s : State) : Host.Outcome State Fault Refusal :=
  runOp (.vmovHS d a p) s fun c => .ok (s.writeReg 2 (hReg d) (c.rs a.toNat &&& hMask).toNat 0)
/-- R205, form 3. -/
def execVmovSH (d a : BitVec 7) (p : BitVec 3) (s : State) : Host.Outcome State Fault Refusal :=
  runOp (.vmovSH d a p) s fun c => .ok (s.writeReg 2 (sReg d) (c.rh a.toNat).toNat 0)
/-- R205, form 4. -/
def execVmovPS (d a : BitVec 7) (p : BitVec 3) (s : State) : Host.Outcome State Fault Refusal :=
  runOp (.vmovPS d a p) s fun c => .ok (s.writeReg 2 (pReg d) ((c.rs a.toNat).toNat % 2 ^ 32) 0)
/-- R205, form 5. -/
def execVmovSP (d a : BitVec 7) (p : BitVec 3) (s : State) : Host.Outcome State Fault Refusal :=
  runOp (.vmovSP d a p) s fun c => .ok (s.writeReg 2 (sReg d) (c.rp a.toNat).toNat 0)
/-- R205, form 6: no flag is raised. -/
def execVmovIdx (d : BitVec 7) (p : BitVec 3) (t : BitVec 4) (s : State) : Host.Outcome State Fault Refusal :=
  vecForm (.vmovIdx d p t) s 2 (typeWidth t) d fun _ j =>
    match (Fmt.ofType t).float? with
    | some ff => ((ff.encode .rne false (.ofInt j)).1, 0)
    | none => (j % 2 ^ typeWidth t, 0)

/-! ### Conversion and quantisation -/

/-- Converts one stored element between formats (R113). -/
def cvtElem (src dst : Fmt) (rm : Rm) (sat : Bool) (bits : Nat) : Res Nat :=
  let x := src.decode bits 0 0
  let r := dst.encode rm sat src.isInt x
  (r.1, r.2)

/-- R206: the wider member of a pair decides whether it is active. -/
def execVcvt (d a : BitVec 7) (p : BitVec 3) (sat : Bool) (ts : BitVec 4) (part : BitVec 3) (td : BitVec 4) (s : State) :
    Host.Outcome State Fault Refusal :=
  let i := Sys2Proof.Instr.vcvt d a p sat ts part td
  runChecked i s fun c =>
    let ws := typeWidth ts
    let wd := typeWidth td
    let e := 1024 / Max.max ws wd
    let cvt (bits : Nat) := cvtElem (Fmt.ofType ts) (Fmt.ofType td) c.rm sat bits
    let mask := c.guardMask i
    let act (j : Nat) : Bool := activeElem mask (Max.max ws wd) j
    let old := c.rv d.toNat
    let src := c.rv a.toNat
    let l := (List.range (elemCount wd)).map fun k =>
      if wd < ws then
        if decide (part.toNat * e ≤ k) && decide (k < part.toNat * e + e) && act (k - part.toNat * e) then
          cvt (elemAt src ws (k - part.toNat * e))
        else (elemAt old wd k, 0)
      else if act k then cvt (elemAt src ws (if ws < wd then part.toNat * e + k else k))
      else (elemAt old wd k, 0)
    .ok (s.writeReg 4 (vReg d) (ofElems wd (l.map (·.1))) (flagsOr (l.map (·.2))))

/-- R207: an inactive lane counts as +0; every byte beyond the block is written zero. -/
def execVqdb (d a : BitVec 7) (p : BitVec 3) (single db4 : Bool) (s : State) : Host.Outcome State Fault Refusal :=
  let i := Sys2Proof.Instr.vqdb d a p single db4
  runChecked i s fun c =>
    let mask := c.guardMask i
    let f : Fmt := if db4 then .db4 else .db8
    let b := quantise f single ((List.range 32).map fun j =>
      if mask.getLsbD j then ffF32.decode (elemAt (c.rv a.toNat) 32 j) else .zero false)
    .ok (s.writeReg 4 (vReg d) (ofElems 8 (DbBlock.bytes f b)) b.flags)

/-! ### Rearranging and reducing -/

/-- The element width of the lane and pair forms (R208, R209). -/
def pairWidth (w64 : Bool) : Nat := if w64 then 64 else 32

/-- The active elements of a register, in order. -/
def activeElems (mask : BitVec 32) (w : Nat) (v : BitVec 1024) : List Nat :=
  (List.range (elemCount w)).filterMap fun j => if activeElem mask w j then some (elemAt v w j) else none

/-- R208: the active elements packed, zeros after them. -/
def execVcomp (d a : BitVec 7) (p : BitVec 3) (w64 : Bool) (s : State) : Host.Outcome State Fault Refusal :=
  let i := Sys2Proof.Instr.vcomp d a p w64
  runChecked i s fun c =>
    .ok (s.writeReg 5 (vReg d) (ofElems (pairWidth w64) (activeElems (c.guardMask i) (pairWidth w64) (c.rv a.toNat))) 0)

/-- R208: the leading elements spread over the active places, zeros elsewhere. -/
def execVexpd (d a : BitVec 7) (p : BitVec 3) (w64 : Bool) (s : State) : Host.Outcome State Fault Refusal :=
  let i := Sys2Proof.Instr.vexpd d a p w64
  runChecked i s fun c =>
    let w := pairWidth w64
    let mask := c.guardMask i
    let src := c.rv a.toNat
    let r := (List.range (elemCount w)).foldl (fun (acc : List Nat × Nat) j =>
      if activeElem mask w j then (acc.1 ++ [elemAt src w acc.2], acc.2 + 1) else (acc.1 ++ [0], acc.2)) ([], 0)
    .ok (s.writeReg 5 (vReg d) (ofElems w r.1) 0)

/-- R209. -/
def execVperm (d a b : BitVec 7) (p : BitVec 3) (w64 byte : Bool) (s : State) : Host.Outcome State Fault Refusal :=
  if byte then
    vecForm (.vperm d a b p w64 byte) s 5 8 d fun c k =>
      (elemAt (c.rv a.toNat) 8 (elemAt (c.rv b.toNat) 8 k % 128), 0)
  else if w64 then
    vecForm (.vperm d a b p w64 byte) s 5 64 d fun c j =>
      (elemAt (c.rv a.toNat) 64 (elemAt (c.rv b.toNat) 32 (2 * j) % 16), 0)
  else
    vecForm (.vperm d a b p w64 byte) s 5 32 d fun c i =>
      (elemAt (c.rv a.toNat) 32 (elemAt (c.rv b.toNat) 32 i % 32), 0)

/-- The result of a reduction over the bits of its elements (R210). -/
def reduceBits (op : Nat) (t : BitVec 4) (rm : Rm) (l : List Nat) : Res Nat :=
  let f := Fmt.ofType t
  match f.float? with
  | some ff =>
    let r := reduceFloat op (l.map ff.decode)
    let e := (if f = .f64 then ffF64 else ffF32).encode rm false r.1
    (e.1, r.2 ||| e.2)
  | none =>
    match f.int? with
    | some (w, sg) => ((reduceInt op w sg (l.map (intVal w sg))).toNat, 0)
    | none => (0, 0)

/-- R210. -/
def execVred (d a : BitVec 7) (p : BitVec 3) (op : BitVec 3) (t : BitVec 4) (s : State) :
    Host.Outcome State Fault Refusal :=
  let i := Sys2Proof.Instr.vred d a p op t
  runChecked i s fun c =>
    let r := reduceBits op.toNat t c.rm (activeElems (c.guardMask i) (typeWidth t) (c.rv a.toNat))
    .ok (s.writeReg 5 (sReg d) r.1 r.2)

/-- R211: an inactive element writes nothing. -/
def execVext (d a b : BitVec 7) (p : BitVec 3) (t : BitVec 4) (s : State) : Host.Outcome State Fault Refusal :=
  let i := Sys2Proof.Instr.vext d a b p t
  runChecked i s fun c =>
    let w := typeWidth t
    let j := (c.rs b.toNat).toNat % elemCount w
    let sg := match (Fmt.ofType t).int? with | some (_, g) => g | none => false
    if activeElem (c.guardMask i) w j then
      .ok (s.writeReg 2 (sReg d) (intBits 64 (intVal w sg (elemAt (c.rv a.toNat) w j))) 0)
    else .ok s
/-- R211. -/
def execVins (d a b : BitVec 7) (p : BitVec 3) (t : BitVec 4) (s : State) : Host.Outcome State Fault Refusal :=
  vecForm (.vins d a b p t) s 2 (typeWidth t) d fun c j =>
    (if j = (c.rs b.toNat).toNat % elemCount (typeWidth t) then (c.rs a.toNat).toNat % 2 ^ typeWidth t
      else elemAt (c.rv d.toNat) (typeWidth t) j, 0)

/-- R212. -/
def execVsfu (d a : BitVec 7) (p : BitVec 3) (f : BitVec 3) (s : State) : Host.Outcome State Fault Refusal :=
  vecForm (.vsfu d a p f) s 6 32 d fun c j => (Sfu.ofBits f).apply c.rm (elemAt (c.rv a.toNat) 32 j)

/-! ### Loads and stores -/

/-- Alignment, range and waiting of a 128-byte access (R213, R142): none when it may go on. -/
def Core.vecCheck (c : Core) (ea : Word) (write : Bool) : Option Eff :=
  if ea.toNat % 16 ≠ 0 then some (.trap (.at_ .align ea))
  else if 0x60000 ≤ ea.toNat + 127 then some (.trap (.xlate xcRange ea))
  else if c.accessWaits ea.toNat 128 write then some .stall
  else none

/-- The address of the vector loads and stores: units of 16 bytes (R73, R213). -/
def vecAddr (base : Word) (off : BitVec 19) : Word := base + off.signExtend 64 * 16

/-- The words of a 128-byte access that a lane mask selects, as runs of memory: those with an active lane, or with `part` those
with one active lane of the two. -/
def laneWords (core ea : Nat) (mask : BitVec 32) (part : Bool) : List (Nat × Nat) :=
  ((List.range 16).filter fun k =>
    if part then mask.getLsbD (2 * k) != mask.getLsbD (2 * k + 1) else mask.getLsbD (2 * k) || mask.getLsbD (2 * k + 1)).map
      fun k => (spKey core (ea + 8 * k), 8)

/-- R213. -/
def execVld (d a : BitVec 5) (p : BitVec 3) (off : BitVec 19) (s : State) : Host.Outcome State Fault Refusal :=
  let i := Sys2Proof.Instr.vld d a p off
  runChecked i s fun c =>
    let ea := vecAddr (c.ra a.toNat) off
    match c.vecCheck ea false with
    | some e => e
    | none =>
      let mask := c.guardMask i
      let words := laneWords s.cur ea.toNat mask false
      if words.any fun w => isPoison s.mem w.1 then .trap { Trap.at_ .poison ea with reads := words }
      else
        let b := readBytes s.mem (spKey s.cur ea.toNat) 128
        let r := mergeElems 32 mask (c.rv d.toNat) fun j => (payloadNat ((b.drop (4 * j)).take 4), 0)
        .ok ((s.scrubs words).writeReg 4 ⟨.v, d.toNat⟩ r.1 0)

/-- Stores the active lanes of a register, word by word, so that a word covered by two active lanes is replaced whole
(R53, R213). -/
def State.storeLanes (s : State) (core ea : Nat) (mask : BitVec 32) (v : BitVec 1024) (ctx : Nat) : State :=
  (List.range 16).foldl (fun s k =>
    let lo := mask.getLsbD (2 * k)
    let hi := mask.getLsbD (2 * k + 1)
    let bytes := goodBytes (natBytes 8 (elemAt v 64 k))
    if lo && hi then (s.writeSp core (ea + 8 * k) bytes ctx true).1
    else if lo then (s.writeSp core (ea + 8 * k) (bytes.take 4) ctx true).1
    else if hi then (s.writeSp core (ea + 8 * k + 4) (bytes.drop 4) ctx true).1
    else s) s

/-- R213. -/
def execVst (d a : BitVec 5) (p : BitVec 3) (off : BitVec 19) (s : State) : Host.Outcome State Fault Refusal :=
  let i := Sys2Proof.Instr.vst d a p off
  runChecked i s fun c =>
    let ea := vecAddr (c.ra a.toNat) off
    match c.vecCheck ea true with
    | some e => e
    | none =>
      let mask := c.guardMask i
      let words := laneWords s.cur ea.toNat mask true
      if words.any fun w => isPoison s.mem w.1 then .trap { Trap.at_ .poison ea with reads := words }
      else .ok (s.storeLanes s.cur ea.toNat mask (c.rv d.toNat) c.ctxNo)

/-- The lane-slice offset of a lane (R27, R214). -/
def laneOff (c : Core) (a b : BitVec 7) (i : Nat) : Nat :=
  (elemAt (c.rv a.toNat) 32 i + (c.rs b.toNat).toNat) % 1024

/-- The bytes of the lane slices that an access of the active lanes reaches, as runs of memory. -/
def laneRuns (core : Nat) (c : Core) (mask : BitVec 32) (size : Nat) (a b : BitVec 7) : List (Nat × Nat) :=
  ((List.range 32).filter fun i => mask.getLsbD i).map fun i => (laneKey core i (laneOff c a b i), size)

/-- The checks of the lane-slice forms over the active lanes: alignment of every lane, then poison (R214). -/
def laneCheck (s : State) (c : Core) (mask : BitVec 32) (size : Nat) (a b : BitVec 7) : Option Trap :=
  let act := (List.range 32).filter fun i => mask.getLsbD i
  match act.find? fun i => decide (laneOff c a b i % size ≠ 0) with
  | some i => some (.at_ .align (BitVec.ofNat 64 (laneOff c a b i)))
  | none =>
    match act.find? fun i => isPoison s.mem (laneKey s.cur i (laneOff c a b i)) with
    | some i => some { Trap.at_ .poison (BitVec.ofNat 64 (laneOff c a b i)) with reads := laneRuns s.cur c mask size a b }
    | none => none

/-- R214. -/
def execVldl (d a b : BitVec 7) (p : BitVec 3) (sz : BitVec 3) (s : State) : Host.Outcome State Fault Refusal :=
  let i := Sys2Proof.Instr.vldl d a b p sz
  runChecked i s fun c =>
    let mask := c.guardMask i
    match laneCheck s c mask (sizeOf sz) a b with
    | some t => .trap t
    | none =>
      let r := mergeElems 32 mask (c.rv d.toNat) fun j =>
        (extendSize sz (payloadNat (readBytes s.mem (laneKey s.cur j (laneOff c a b j)) (sizeOf sz))), 0)
      .ok ((s.scrubs (laneRuns s.cur c mask (sizeOf sz) a b)).writeReg 4 (vReg d) r.1 0)

/-- R214. -/
def execVstl (d a b : BitVec 7) (p : BitVec 3) (sz : BitVec 3) (s : State) : Host.Outcome State Fault Refusal :=
  let i := Sys2Proof.Instr.vstl d a b p sz
  runChecked i s fun c =>
    let mask := c.guardMask i
    match laneCheck s c mask (sizeOf sz) a b with
    | some t => .trap t
    | none =>
      .ok ((List.range 32).foldl (fun s j =>
        if mask.getLsbD j then
          (s.writeBytes (laneKey s.cur j (laneOff c a b j)) (goodBytes (natBytes (sizeOf sz) (elemAt (c.rv d.toNat) 32 j)))).1
        else s) s)

/-! ### Predicates -/

/-- The predicate forms: lanes outside the guard keep their bits (R215). -/
def predForm (i : Sys2Proof.Instr) (s : State) (d a b : BitVec 7) (nb : Bool) (f : BitVec 32 → BitVec 32 → BitVec 32) :
    Host.Outcome State Fault Refusal :=
  runChecked i s fun c =>
    let g := c.guardMask i
    let y := if nb then ~~~(c.rp b.toNat) else c.rp b.toNat
    .ok (s.writeReg 2 (pReg d) ((f (c.rp a.toNat) y &&& g) ||| (c.rp d.toNat &&& ~~~g)).toNat 0)

/-- R215. -/
def execPand (d a b : BitVec 7) (p : BitVec 3) (nb : Bool) (s : State) : Host.Outcome State Fault Refusal :=
  predForm (.pand d a b p nb) s d a b nb (· &&& ·)
/-- R215. -/
def execPor (d a b : BitVec 7) (p : BitVec 3) (nb : Bool) (s : State) : Host.Outcome State Fault Refusal :=
  predForm (.por d a b p nb) s d a b nb (· ||| ·)
/-- R215. -/
def execPxor (d a b : BitVec 7) (p : BitVec 3) (nb : Bool) (s : State) : Host.Outcome State Fault Refusal :=
  predForm (.pxor d a b p nb) s d a b nb (· ^^^ ·)
/-- R215. -/
def execPcnt (d a : BitVec 7) (p : BitVec 3) (s : State) : Host.Outcome State Fault Refusal :=
  let i := Sys2Proof.Instr.pcnt d a p
  runChecked i s fun c => .ok (s.writeReg 3 (sReg d) (popCount 32 (c.rp a.toNat &&& c.guardMask i).toNat) 0)

end Sys2Proof.Machine
end

