-- ==== Sys2Proof/Machine/ShapeJobs.lean ====
section
/-!
DEFINITION. Shape jobs (R216 to R232): checks at issue, the iteration of a job over its regions with its formats, poison and
flags, and the start and completion of a job.
-/

namespace Sys2Proof.Machine

/-! ### A working copy of the scratchpad -/

/-- What a read of runs of a core's scratchpad does to memory (R51): uncorrectable words become poison, corrected words are
counted. -/
def State.scrubSpans (s : State) (core : Nat) (spans : List Region) : State :=
  spans.foldl (fun s r => s.scrubLong (spKey core r.lo) r.len) s

/-- The working copy of a job: memory with corrected words, the poison words, the words tainted by the job, the bytes of
poison words the job has covered, flags, and the elements of a block not yet quantised. -/
structure Work where
  mem : List Host.Cell
  core : Nat
  bad : List Nat
  taint : List Nat
  cov : Tbl Nat
  flags : Flags
  pend : List (Num × Bool)
deriving DecidableEq, Repr

/-- Prepares the working copy over spans given as core-local address and length. -/
def Work.start (m : List Host.Cell) (core : Nat) (spans : List Region) : Work :=
  spans.foldl (fun w r =>
    (syndromesIn m (spKey core r.lo) r.len).foldl (fun w k =>
      if isPoison m k then { w with bad := if w.bad.contains k then w.bad else w.bad ++ [k] }
      else match readWord? m k with
        | some v => { w with mem := storeWord w.mem k v }
        | none => w) w) ⟨m, core, [], [], [], 0, []⟩

/-- The poison words among those of a byte run. -/
def Work.badIn (w : Work) (addr len : Nat) : Bool :=
  let k := spKey w.core addr
  w.bad.any fun b => decide (b < k + len) && decide (k < b + 8)

/-- Reads `n` bits at a bit offset from a core-local address. -/
def Work.bits (w : Work) (row off n : Nat) : Nat :=
  let a := spKey w.core row + off / 8
  let len := (off % 8 + n + 7) / 8
  let x := (List.range len).foldr (fun i acc => acc * 256 + (Memory.read w.mem (a + i)).toNat) 0
  (x >>> (off % 8)) % 2 ^ n

/-- Writes `n` bits at a bit offset from a core-local address. -/
def Work.putBits (w : Work) (row off n v : Nat) : Work :=
  let a := spKey w.core row + off / 8
  let len := (off % 8 + n + 7) / 8
  let x := (List.range len).foldr (fun i acc => acc * 256 + (Memory.read w.mem (a + i)).toNat) 0
  let old := (x >>> (off % 8)) % 2 ^ n
  let y := x - (old <<< (off % 8)) + ((v % 2 ^ n) <<< (off % 8))
  { w with mem := (List.range len).foldl (fun m i => Memory.write m (a + i) (BitVec.ofNat 8 (y >>> (8 * i)))) w.mem }

/-- Accounts for a write of bytes: a tainted one poisons its words; words of poison that the job's writes cover whole are
replaced, unless the job has tainted them (R53, R232). -/
def Work.mark (w : Work) (addr len : Nat) (t : Bool) : Work :=
  let k := spKey w.core addr
  let words := (List.range ((k % 8 + len + 7) / 8)).map fun i => k / 8 * 8 + 8 * i
  if t then
    { w with bad := w.bad ++ words.filter (fun x => !w.bad.contains x), taint := w.taint ++ words.filter (fun x => !w.taint.contains x) }
  else
    words.foldl (fun w x =>
      if !w.bad.contains x then w
      else
        let m0 := if w.taint.contains x then 0 else Tbl.getD w.cov x 0
        let m := (List.range 8).foldl (fun m i => if decide (k ≤ x + i) && decide (x + i < k + len) && !m.testBit i then m + 2 ^ i else m) m0
        if m = 255 then { w with bad := w.bad.erase x, taint := w.taint.erase x, cov := Tbl.del w.cov x }
        else { w with cov := Tbl.set w.cov x m }) w

/-! ### Elements of a region -/

/-- A region of a job: its record and effective format. -/
structure JRegion where
  r : ShapeRec
  f : Fmt
deriving DecidableEq, Repr

/-- The index of iteration n in a record's space, dimension 0 fastest (R221). -/
def ShapeRec.index (r : ShapeRec) (n : Nat) : Nat × Nat × Nat × Nat :=
  (n % (r.x0 + 1), n / (r.x0 + 1) % (r.x1 + 1), n / ((r.x0 + 1) * (r.x1 + 1)) % (r.x2 + 1),
    n / ((r.x0 + 1) * (r.x1 + 1) * (r.x2 + 1)))

/-- A source's index for a destination index: extent 1 is used throughout (R221). -/
def ShapeRec.broadcast (r : ShapeRec) (i : Nat × Nat × Nat × Nat) : Nat × Nat × Nat × Nat :=
  (if r.x0 = 0 then 0 else i.1, if r.x1 = 0 then 0 else i.2.1, if r.x2 = 0 then 0 else i.2.2.1,
    if r.x3 = 0 then 0 else i.2.2.2)

/-- The start of the row of an index. -/
def ShapeRec.rowAt (r : ShapeRec) (i : Nat × Nat × Nat × Nat) : Nat := (r.row i.2.1 i.2.2.1 i.2.2.2).toNat

/-- The flush bit of the bank that holds an element (R102). -/
def ftzAt (kbank : Word) (row off : Nat) : Bool := bankFtz kbank ((row + off / 8) / 0xC000)

/-- Reads an element of a row: its exact value and whether it depends on a poison word (R102, R106, R232); the bits of a poison word
read as 0, and what is computed from them raises its flags (log entry 64). -/
def Work.getAt (w : Work) (kbank : Word) (f : Fmt) (row i0 : Nat) : Num × Bool :=
  let off := f.bitOffset i0
  let bits := w.bits row off f.width
  if f.isDb then
    let e := f.expOffset i0
    (f.decode bits (w.bits row (8 * e) 8) (w.bits row (8 * (e + 1)) 8),
      w.badIn (row + off / 8) 1 || w.badIn (row + e) 2)
  else
    (f.decode (if ftzAt kbank row off then f.flush bits else bits) 0 0,
      w.badIn (row + off / 8) ((off % 8 + f.width + 7) / 8))

/-- Reads the element at an index of a region. -/
def Work.get (w : Work) (kbank : Word) (g : JRegion) (i : Nat × Nat × Nat × Nat) : Num × Bool :=
  w.getAt kbank g.f (g.r.rowAt i) i.1

/-- Writes an element of a row; a block is quantised once its 32nd element or the row's last arrives (R221), and the bits of a
six-bit partial group that no element occupies are written as zero (R105); so are the last 6 bits of a row of 4j + 3 six-bit elements,
whose groups are whole (log entry 52: R105 does not cover them). -/
def Work.putAt (w : Work) (kbank : Word) (f : Fmt) (row i0 last : Nat) (enc : Fmt → Res Nat) (x : Num) (single t : Bool) :
    Work :=
  if f.isDb then
    let w := { w with pend := w.pend ++ [(x, t)] }
    if i0 % 32 = 31 ∨ i0 = last then
      let xs := w.pend.map (·.1)
      let b := quantise f single (xs ++ List.replicate (32 - xs.length) (.zero false))
      let bytes := DbBlock.bytes f b
      let at_ := row + bytes.length * (i0 / 32)
      let w' := bytes.zipIdx.foldl (fun w e => w.putBits (at_ + e.2) 0 8 e.1) w
      { w'.mark at_ bytes.length (w.pend.any (·.2)) with pend := [], flags := w.flags ||| b.flags }
    else w
  else
    let off := f.bitOffset i0
    let r := f.storeFlush (ftzAt kbank row off) (enc f)
    let w := (w.putBits row off f.width r.1).mark (row + off / 8) ((off % 8 + f.width + 7) / 8) t
    let w := { w with flags := w.flags ||| r.2 }
    if f.width = 6 ∧ i0 = last ∧ (off + 6) % 8 ≠ 0 then w.putBits row (off + 6) (8 - (off + 6) % 8) 0 else w

/-- Writes a value at an index of the destination, converted by R113. -/
def Work.put (w : Work) (kbank : Word) (g : JRegion) (i : Nat × Nat × Nat × Nat) (rm : Rm) (sat fromInt single : Bool)
    (x : Num) (t : Bool) : Work :=
  w.putAt kbank g.f (g.r.rowAt i) i.1 g.r.x0 (fun f => f.encode rm sat fromInt x) x single t

/-- Raises flags. -/
def Work.raise (w : Work) (f : Flags) : Work := { w with flags := w.flags ||| f }

/-! ### The jobs (R223 to R230) -/

/-- A job's fields: type codes of the destination and of the sources, rounding, saturation. -/
structure JobFields where
  td : BitVec 4
  ts : BitVec 4
  rm : Rm
  sat : Bool
deriving DecidableEq, Repr

/-- The fields of a shape job (R223 to R230). -/
def jobFields : Sys2Proof.Instr → JobFields
  | .vjadd _ _ _ _ sat rm t => ⟨t, t, .ofBits rm, sat⟩
  | .vjsub _ _ _ _ sat rm t => ⟨t, t, .ofBits rm, sat⟩
  | .vjmul _ _ _ _ sat rm t => ⟨t, t, .ofBits rm, sat⟩
  | .vjfma _ _ _ _ sat rm t => ⟨t, t, .ofBits rm, sat⟩
  | .vjmin _ _ _ _ sat rm t => ⟨t, t, .ofBits rm, sat⟩
  | .vjmax _ _ _ _ sat rm t => ⟨t, t, .ofBits rm, sat⟩
  | .vjsel _ _ _ _ sat rm t => ⟨t, t, .ofBits rm, sat⟩
  | .vjcvt _ _ _ sat ts rm td => ⟨td, ts, .ofBits rm, sat⟩
  | .vjqdb _ _ _ ts _ td => ⟨td, ts, .rne, true⟩
  | .vjred _ _ _ sat rm _ t => ⟨t, t, .ofBits rm, sat⟩
  | .vjsfu _ _ _ sat rm t _ => ⟨t, t, .ofBits rm, sat⟩
  | .vjcomp _ _ _ _ t => ⟨t, t, .rne, true⟩
  | .vjexpd _ _ _ _ t => ⟨t, t, .rne, true⟩
  | .vjcmp _ _ _ _ _ t => ⟨t, t, .rne, false⟩
  | .vjfill _ _ t => ⟨t, t, .rne, true⟩
  | _ => ⟨0, 0, .rne, false⟩

/-- The FILL value of a record (R216): an I32 when the format is an integer, else an F32. -/
def fillValue (g : JRegion) : Num :=
  if g.f.isInt then .ofInt (intVal 32 true g.r.fill.toNat) else ffF32.decode g.r.fill.toNat

/-- A mask element is set when it is nonzero; NaN counts as set (R228). -/
def maskSet (x : Num) : Bool := !x.isZero

/-- Reads a mask element: a signalling NaN sets NV (R101). -/
def Work.getMask (w : Work) (kbank : Word) (g : JRegion) (i : Nat × Nat × Nat × Nat) : Work × Bool × Bool :=
  let m := w.get kbank g i
  ({ w with flags := w.flags ||| sigFlags [m.1] }, maskSet m.1, m.2)

/-- An elementwise job over two sources (R223). SAT acts on the conversion, of an infinite smaller or larger of two too (R113; log
entry 65). -/
def Work.elementwise (w : Work) (kbank : Word) (op : VOp) (fl : JobFields) (d a b : JRegion) : Work :=
  let allInt := d.f.isInt && a.f.isInt && b.f.isInt
  (List.range d.r.count).foldl (fun w n =>
    let i := d.r.index n
    let x := w.get kbank a (a.r.broadcast i)
    let y := w.get kbank b (b.r.broadcast i)
    let z := if op = .fma then w.get kbank d i else (.zero false, false)
    let t := x.2 || y.2 || z.2
    if allInt then
      let v := op.int false (z.1.toInt?.getD 0) (x.1.toInt?.getD 0) (y.1.toInt?.getD 0)
      w.put kbank d i fl.rm fl.sat true false (.ofInt v) t
    else
      let r := op.float false z.1 x.1 y.1
      (w.raise r.2).put kbank d i fl.rm fl.sat false false r.1 t) w

/-- A job that maps one source (R224, R225, R227). -/
def Work.mapped (w : Work) (kbank : Word) (fl : JobFields) (d a : JRegion) (fromInt single : Bool) (f : Num → Res Num) :
    Work :=
  (List.range d.r.count).foldl (fun w n =>
    let i := d.r.index n
    let x := w.get kbank a (a.r.broadcast i)
    let r := f x.1
    (w.raise r.2).put kbank d i fl.rm fl.sat fromInt single r.1 x.2) w

/-- The special function of a job: rounded to F32 first (R227). -/
def sfuJob (f : BitVec 3) (x : Num) : Res Num :=
  let a := ffF32.encode .rne false x
  let b := (Sfu.ofBits f).apply .rne a.1
  (ffF32.decode b.1, a.2 ||| b.2)

/-- One row's reduction to a value (R226). -/
def reduceRow (op : Nat) (l : List Num) : Res Num :=
  if 3 ≤ op ∧ op ≤ 5 then
    match l.map (fun x => x.toInt?.getD 0) with
    | [] => (.zero false, 0)
    | x :: r =>
      let bits (y : Int) : Word := BitVec.ofInt 64 y
      let v := r.foldl (fun acc y =>
        match op with | 3 => acc &&& bits y | 4 => acc ||| bits y | _ => acc ^^^ bits y) (bits x)
      (.ofInt v.toInt, 0)
  else reduceFloat op l

/-- The reduction job (R226). -/
def Work.reduction (w : Work) (kbank : Word) (op : Nat) (fl : JobFields) (d a : JRegion) : Work :=
  (List.range d.r.count).foldl (fun w n =>
    let i := d.r.index n
    let xs := (List.range (a.r.x0 + 1)).map fun k => w.get kbank a (k, i.2)
    let r := reduceRow op (xs.map (·.1))
    (w.raise r.2).put kbank d i fl.rm fl.sat (d.f.isInt && a.f.isInt) false r.1 (xs.any (·.2))) w

/-- The select job: D is read and replaced (R229). -/
def Work.select (w : Work) (kbank : Word) (fl : JobFields) (d a b : JRegion) : Work :=
  (List.range d.r.count).foldl (fun w n =>
    let i := d.r.index n
    let z := w.getMask kbank d i
    let g := if z.2.1 then a else b
    let x := w.get kbank g (g.r.broadcast i)
    z.1.put kbank d i fl.rm fl.sat g.f.isInt false x.1 (z.2.2 || x.2)) w

/-- The compare job (R229). -/
def Work.compareJob (w : Work) (kbank : Word) (cc : Nat) (fl : JobFields) (d a b : JRegion) : Work :=
  (List.range d.r.count).foldl (fun w n =>
    let i := d.r.index n
    let x := w.get kbank a (a.r.broadcast i)
    let y := w.get kbank b (b.r.broadcast i)
    let v : Int := if vCond cc x.1 y.1 then 1 else 0
    (w.raise (sigFlags [x.1, y.1])).put kbank d i fl.rm fl.sat true false (.ofInt v) (x.2 || y.2)) w

/-- Packs the selected elements of A into the destination, then FILL (R228). Every position from a mask element of a poison word on
depends on it (R232). -/
def Work.compress (w : Work) (kbank : Word) (fl : JobFields) (d a b : JRegion) : Work :=
  let r := (List.range a.r.count).foldl (fun (acc : Work × Nat × Bool) n =>
    let i := a.r.index n
    let m := acc.1.getMask kbank b i
    let t := acc.2.2 || m.2.2
    if m.2.1 && decide (acc.2.1 < d.r.count) then
      let x := m.1.get kbank a i
      (m.1.put kbank d (d.r.index acc.2.1) fl.rm fl.sat a.f.isInt false x.1 (x.2 || t), acc.2.1 + 1, t)
    else (m.1, acc.2.1, t)) (w, 0, false)
  (List.range (d.r.count - r.2.1)).foldl (fun w k =>
    w.put kbank d (d.r.index (r.2.1 + k)) fl.rm fl.sat d.f.isInt false (fillValue d) r.2.2) r.1

/-- Spreads A over the set positions of the mask, FILL elsewhere (R228). Every set position from a mask element of a poison word on
depends on it (R232). -/
def Work.expand (w : Work) (kbank : Word) (fl : JobFields) (d a b : JRegion) : Work :=
  ((List.range d.r.count).foldl (fun (acc : Work × Nat × Bool) n =>
    let i := d.r.index n
    let m := acc.1.getMask kbank b i
    let t := acc.2.2 || m.2.2
    if m.2.1 && decide (acc.2.1 < a.r.count) then
      let x := m.1.get kbank a (a.r.index acc.2.1)
      (m.1.put kbank d i fl.rm fl.sat a.f.isInt false x.1 (x.2 || t), acc.2.1 + 1, t)
    else (m.1.put kbank d i fl.rm fl.sat d.f.isInt false (fillValue d) (m.2.2 || (m.2.1 && t)), acc.2.1, t)) (w, 0, false)).1

/-- Fills the destination (R230). -/
def Work.fill (w : Work) (kbank : Word) (fl : JobFields) (d : JRegion) : Work :=
  (List.range d.r.count).foldl (fun w n =>
    w.put kbank d (d.r.index n) fl.rm fl.sat d.f.isInt false (fillValue d) false) w

/-- Performs all iterations of a job on the working copy. -/
def Work.run (w : Work) (kbank : Word) (i : Sys2Proof.Instr) (d a b : JRegion) : Work :=
  let fl := jobFields i
  match i with
  | .vjadd _ _ _ _ _ _ _ => w.elementwise kbank .add fl d a b
  | .vjsub _ _ _ _ _ _ _ => w.elementwise kbank .sub fl d a b
  | .vjmul _ _ _ _ _ _ _ => w.elementwise kbank .mul fl d a b
  | .vjfma _ _ _ _ _ _ _ => w.elementwise kbank .fma fl d a b
  | .vjmin _ _ _ _ _ _ _ => w.elementwise kbank .min fl d a b
  | .vjmax _ _ _ _ _ _ _ => w.elementwise kbank .max fl d a b
  | .vjcvt _ _ _ _ _ _ _ => w.mapped kbank fl d a a.f.isInt false fun x => (x, 0)
  | .vjqdb _ _ _ _ single _ => w.mapped kbank fl d a false single fun x => (x, 0)
  | .vjred _ _ _ _ _ op _ => w.reduction kbank op.toNat fl d a
  | .vjsfu _ _ _ _ _ _ f => w.mapped kbank fl d a false false (sfuJob f)
  | .vjcomp _ _ _ _ _ => w.compress kbank fl d a b
  | .vjexpd _ _ _ _ _ => w.expand kbank fl d a b
  | .vjsel _ _ _ _ _ _ _ => w.select kbank fl d a b
  | .vjcmp _ _ _ _ cc _ => w.compareJob kbank cc.toNat fl d a b
  | .vjfill _ _ _ => w.fill kbank fl d
  | _ => w

/-! ### Issue (R218 to R220) -/

/-- Along each dimension a source's extent equals the destination's, or is 1 (R221). -/
def ShapeRec.fits (d r : ShapeRec) : Bool :=
  (decide (r.x0 = 0) || decide (r.x0 = d.x0)) && (decide (r.x1 = 0) || decide (r.x1 = d.x1)) &&
  (decide (r.x2 = 0) || decide (r.x2 = d.x2)) && (decide (r.x3 = 0) || decide (r.x3 = d.x3))

/-- Equal extents. -/
def ShapeRec.sameExtents (d r : ShapeRec) : Bool :=
  decide (d.x0 = r.x0) && decide (d.x1 = r.x1) && decide (d.x2 = r.x2) && decide (d.x3 = r.x3)

/-- The extent and format rules of an instruction over its regions; `a` and `b` stand for `d` where there is none (R221, R225,
R226, R228). -/
def jobRule (i : Sys2Proof.Instr) (d a b : JRegion) : Bool :=
  match i with
  | .vjred _ _ _ _ _ op _ =>
    decide (d.r.x0 = 0) && decide (d.r.x1 = a.r.x1) && decide (d.r.x2 = a.r.x2) && decide (d.r.x3 = a.r.x3) &&
    (!(decide (3 ≤ op.toNat) && decide (op.toNat ≤ 5)) || (d.f.isInt && a.f.isInt))
  | .vjcomp _ _ _ _ _ => a.r.sameExtents b.r
  | .vjexpd _ _ _ _ _ => d.r.sameExtents b.r
  | .vjqdb _ _ _ _ _ _ => d.f.isDb && d.r.fits a.r
  | _ => d.r.fits a.r && d.r.fits b.r

/-- Checks the regions of a job in the order D, A, B (R218). -/
def checkRegions (kbank : Word) : List (BitVec 4 × ShapeRec × Bool) → Except Trap (List (JRegion × Region))
  | [] => .ok []
  | (t, r, wr) :: rest =>
    match checkRegion kbank t r with
    | .error e => .error e
    | .ok (f, g) =>
      match checkRegions kbank rest with
      | .error e => .error e
      | .ok l => .ok ((⟨r, f⟩, { g with write := wr }) :: l)

/-- Reads records at h addresses, first to last (R220). -/
def readRecords (s : State) (core : Nat) (c : Core) : List Word → Except Eff (List ShapeRec × State)
  | [] => .ok ([], s)
  | h :: rest =>
    match s.readRecord core c h with
    | .stall => .error .stall
    | .trap t => .error (.trap t)
    | .ok r s1 =>
      match readRecords s1 core c rest with
      | .error e => .error e
      | .ok (l, s2) => .ok (r :: l, s2)

/-- Issues a shape job (R220): its records are read, copied and checked, and it enters with one entry for each region. -/
def shapeJob (i : Sys2Proof.Instr) (s : State) (srcs : Core → List Word) (d : BitVec 7) :
    Host.Outcome State Fault Refusal :=
  runOp i s fun c =>
    match readRecords s s.cur c (c.rh d.toNat :: srcs c) with
    | .error e => e
    | .ok (recs, s1) =>
      let fl := jobFields i
      let named := recs.zipIdx.map fun e => if e.2 = 0 then (fl.td, e.1, true) else (fl.ts, e.1, false)
      match checkRegions c.kbank named with
      | .error t => .trap t
      | .ok gs =>
        match gs with
        | [] => .ok s
        | g :: rest =>
          let ga := (rest.headD g).1
          let gb := ((rest.drop 1).headD (rest.headD g)).1
          if !jobRule i g.1 ga gb then .trap (.illegal .fn)
          else
            let regions := gs.map (·.2)
            match c.cardWaits regions with
            | some e => e
            | none => .ok (s1.updCore s.cur fun x => x.enterJob s.clk 1 (.vec i g.1.r ga.r gb.r) regions)

/-- R223. -/
def execVjadd (d a b : BitVec 7) (p : BitVec 3) (sat : Bool) (rm : BitVec 2) (t : BitVec 4) (s : State) :
    Host.Outcome State Fault Refusal :=
  shapeJob (.vjadd d a b p sat rm t) s (fun c => [c.rh a.toNat, c.rh b.toNat]) d
/-- R223. -/
def execVjsub (d a b : BitVec 7) (p : BitVec 3) (sat : Bool) (rm : BitVec 2) (t : BitVec 4) (s : State) :
    Host.Outcome State Fault Refusal :=
  shapeJob (.vjsub d a b p sat rm t) s (fun c => [c.rh a.toNat, c.rh b.toNat]) d
/-- R223. -/
def execVjmul (d a b : BitVec 7) (p : BitVec 3) (sat : Bool) (rm : BitVec 2) (t : BitVec 4) (s : State) :
    Host.Outcome State Fault Refusal :=
  shapeJob (.vjmul d a b p sat rm t) s (fun c => [c.rh a.toNat, c.rh b.toNat]) d
/-- R223. -/
def execVjfma (d a b : BitVec 7) (p : BitVec 3) (sat : Bool) (rm : BitVec 2) (t : BitVec 4) (s : State) :
    Host.Outcome State Fault Refusal :=
  shapeJob (.vjfma d a b p sat rm t) s (fun c => [c.rh a.toNat, c.rh b.toNat]) d
/-- R223. -/
def execVjmin (d a b : BitVec 7) (p : BitVec 3) (sat : Bool) (rm : BitVec 2) (t : BitVec 4) (s : State) :
    Host.Outcome State Fault Refusal :=
  shapeJob (.vjmin d a b p sat rm t) s (fun c => [c.rh a.toNat, c.rh b.toNat]) d
/-- R223. -/
def execVjmax (d a b : BitVec 7) (p : BitVec 3) (sat : Bool) (rm : BitVec 2) (t : BitVec 4) (s : State) :
    Host.Outcome State Fault Refusal :=
  shapeJob (.vjmax d a b p sat rm t) s (fun c => [c.rh a.toNat, c.rh b.toNat]) d
/-- R224. -/
def execVjcvt (d a : BitVec 7) (p : BitVec 3) (sat : Bool) (ts : BitVec 4) (rm : BitVec 2) (td : BitVec 4) (s : State) :
    Host.Outcome State Fault Refusal :=
  shapeJob (.vjcvt d a p sat ts rm td) s (fun c => [c.rh a.toNat]) d
/-- R225. -/
def execVjqdb (d a : BitVec 7) (p : BitVec 3) (ts : BitVec 4) (single : Bool) (td : BitVec 4) (s : State) :
    Host.Outcome State Fault Refusal :=
  shapeJob (.vjqdb d a p ts single td) s (fun c => [c.rh a.toNat]) d
/-- R226. -/
def execVjred (d a : BitVec 7) (p : BitVec 3) (sat : Bool) (rm : BitVec 2) (op : BitVec 3) (t : BitVec 4) (s : State) :
    Host.Outcome State Fault Refusal :=
  shapeJob (.vjred d a p sat rm op t) s (fun c => [c.rh a.toNat]) d
/-- R227. -/
def execVjsfu (d a : BitVec 7) (p : BitVec 3) (sat : Bool) (rm : BitVec 2) (t : BitVec 4) (f : BitVec 3) (s : State) :
    Host.Outcome State Fault Refusal :=
  shapeJob (.vjsfu d a p sat rm t f) s (fun c => [c.rh a.toNat]) d
/-- R228. -/
def execVjcomp (d a b : BitVec 7) (p : BitVec 3) (t : BitVec 4) (s : State) : Host.Outcome State Fault Refusal :=
  shapeJob (.vjcomp d a b p t) s (fun c => [c.rh a.toNat, c.rh b.toNat]) d
/-- R228. -/
def execVjexpd (d a b : BitVec 7) (p : BitVec 3) (t : BitVec 4) (s : State) : Host.Outcome State Fault Refusal :=
  shapeJob (.vjexpd d a b p t) s (fun c => [c.rh a.toNat, c.rh b.toNat]) d
/-- R229. -/
def execVjsel (d a b : BitVec 7) (p : BitVec 3) (sat : Bool) (rm : BitVec 2) (t : BitVec 4) (s : State) :
    Host.Outcome State Fault Refusal :=
  shapeJob (.vjsel d a b p sat rm t) s (fun c => [c.rh a.toNat, c.rh b.toNat]) d
/-- R229. -/
def execVjcmp (d a b : BitVec 7) (p : BitVec 3) (cc : BitVec 3) (t : BitVec 4) (s : State) :
    Host.Outcome State Fault Refusal :=
  shapeJob (.vjcmp d a b p cc t) s (fun c => [c.rh a.toNat, c.rh b.toNat]) d
/-- R230. -/
def execVjfill (d : BitVec 7) (p : BitVec 3) (t : BitVec 4) (s : State) : Host.Outcome State Fault Refusal :=
  shapeJob (.vjfill d p t) s (fun _ => []) d

/-! ### Start and completion (R222, R231, R232) -/

/-- The region of a record in a job that has passed its checks: the format its base bank gives (R219). -/
def jobRegion (kbank : Word) (t : BitVec 4) (r : ShapeRec) : JRegion :=
  ⟨r, (effFmt (bankCode kbank (r.base / 0xC000)) t).getD .raw⟩

/-- The span of a region as a byte run. -/
def JRegion.span (g : JRegion) : Region :=
  let p := g.r.span g.f
  ⟨false, p.1.toNat, (p.2 + 1 - p.1).toNat⟩

/-- The number of elements that R222 counts passes over. -/
def jobElements (i : Sys2Proof.Instr) (d a : ShapeRec) : Nat :=
  match i with
  | .vjred _ _ _ _ _ _ _ => a.count
  | .vjcomp _ _ _ _ _ => a.count
  | .vjexpd _ _ _ _ _ => a.count
  | _ => d.count

/-- The passes of a job (R222). -/
def jobPasses (n w : Nat) : Nat := (n * w + 1023) / 1024

/-- The results of a job, row by row: bytes as written, those of poison words marked. -/
def Work.rows (w : Work) (d : JRegion) : List (Nat × Payload) :=
  let len := d.f.rowBytes (d.r.x0 + 1)
  (List.range ((d.r.x1 + 1) * (d.r.x2 + 1) * (d.r.x3 + 1))).map fun n =>
    let row := d.r.rowAt (d.r.index (n * (d.r.x0 + 1)))
    (row, (List.range len).map fun i =>
      if w.badIn (row + i) 1 then none else some (Memory.read w.mem (spKey w.core (row + i))))

/-- The first poison word that a job writes, as an address. -/
def firstPoison (rows : List (Nat × Payload)) : Option Nat :=
  rows.findSome? fun r => (r.2.zipIdx.find? fun e => e.1.isNone).map fun e => (r.1 + e.2) / 8 * 8

/-- The next shape job of a core: the earliest that has not started (R222). -/
def Core.nextVec (c : Core) : Option Job :=
  c.jobs.find? fun j => j.start.isNone && (match j.kind with | .vec _ _ _ _ => true | _ => false)

/-- The shape job whose reads are under way or done and whose results are not yet written. -/
def Core.activeVec (c : Core) : Option Job :=
  c.jobs.find? fun j => j.start.isSome && (match j.kind with | .vec _ _ _ _ => true | _ => false)

/-- May a shape job start (R222)? -/
def State.vecMayStart (s : State) (core : Nat) (j : Job) : Bool :=
  let c := s.core core
  decide (j.entered < s.clk) && decide (c.vecBusy ≤ s.clk) && !c.jobWaits j.id

/-- R222: the next shape job starts: it reads its sources in the order of R221; its passes end at `accept`, later by one clock for
every register form that issues in the V slot while they last. -/
def execVectorJobStart (core : Nat) (s : State) : Host.Outcome State Fault Refusal :=
  let c := s.core core
  match c.nextVec with
  | none => .next s
  | some j =>
    match j.kind with
    | .vec i d a b =>
      if !s.vecMayStart core j then .next s
      else
        let fl := jobFields i
        let gd := jobRegion j.kbank fl.td d
        let ga := jobRegion j.kbank fl.ts a
        let gb := jobRegion j.kbank fl.ts b
        let spans := [gd.span, ga.span, gb.span]
        let w := (Work.start s.mem core spans).run j.kbank i gd ga gb
        let rows := w.rows gd
        let passes := jobPasses (jobElements i d a) (Max.max gd.f.width (Max.max ga.f.width gb.f.width))
        let ends := s.clk + passes + (if c.vForm = s.clk + 1 then 1 else 0)
        .next ((s.scrubSpans core spans).updCore core fun x =>
          let y := { j with start := some s.clk, accept := some (ends - 1), buf := rows, flags := w.flags, poison := firstPoison rows }
          { x.updJob j.id (fun _ => y) with vecBusy := ends })
    | _ => .next s

/-- Do rows of results cover the word at an address whole, with good bytes? -/
def rowsCover (rows : List (Nat × Payload)) (w : Nat) : Bool :=
  (List.range 8).all fun i => rows.any fun r => decide (r.1 ≤ w + i) && ((r.2[w + i - r.1]?).getD none).isSome

/-- Poison words that the rows cover whole together, though no row does alone, are replaced (R53, R232). -/
def State.replaceCovered (s : State) (core : Nat) (rows : List (Nat × Payload)) : State :=
  rows.foldl (fun s r => [r.1 / 8 * 8, (r.1 + r.2.length - 1) / 8 * 8].foldl (fun s w =>
    if isPoison s.mem (spKey core w) && rowsCover rows w then { s with mem := storeWord s.mem (spKey core w) 0 } else s) s) s

/-- Writes results into the scratchpad of the core for the context of its bank tags. -/
def State.writeRows (s : State) (core : Nat) (rows : List (Nat × Payload)) : State :=
  rows.foldl (fun s r => (s.writeSp core r.1 r.2 (s.core core).ctxNo true).1) s

/-- R222, R231: the writes of a shape job are performed, its entries released, its flags set and its event emitted; poison it
met is reported (R232). -/
def execVectorJobComplete (core : Nat) (s : State) : Host.Outcome State Fault Refusal :=
  let c := s.core core
  match c.activeVec with
  | none => .next s
  | some j =>
    match j.accept with
    | none => .next s
    | some e =>
      if s.clk < e + 4 then .next s
      else
        let s := (s.replaceCovered core j.buf).writeRows core j.buf
        let s := s.updCore core fun x => ((x.raise j.flags).release j.id false).dropJob j.id
        let s := s.updGrove (groveOf core) fun g => g.vecEvent j.owner
        .next (match j.poison with
          | some a => s.jobFault core (.at_ .poison (BitVec.ofNat 64 a)) 1 1 none []
          | none => s)

end Sys2Proof.Machine
end

