-- ==== Sys2Proof/Machine/Matrix.lean ====
section
/-!
DEFINITION. The matrix engine (R261 to R285): planes and their loading, matrix jobs with their digit clocks under the rate
governor, and gang jobs.
-/

namespace Sys2Proof.Machine

/-! ### Formats and classes (R261, R266) -/

/-- The n-columns of a plane by B format (R261). -/
def planeCols : Fmt → Option Nat
  | .f64 => some 8
  | .f32 => some 16
  | .bf16 => some 32
  | .f16 => some 32
  | .i16 => some 32
  | .e4m3 => some 64
  | .e5m2 => some 64
  | .db8 => some 64
  | .i8 => some 64
  | .db4 => some 128
  | .i4 => some 128
  | _ => none

/-- The classes of R266. -/
inductive MatClass where
  | f64 | f32 | half | small | int
deriving DecidableEq, Repr

/-- The class of an A format (R266). -/
def classA : Fmt → Option MatClass
  | .f64 => some .f64
  | .f32 => some .f32
  | .bf16 => some .half
  | .f16 => some .half
  | .e4m3 => some .small
  | .e5m2 => some .small
  | .db8 => some .small
  | .db4 => some .small
  | .i8 => some .int
  | .i4 => some .int
  | _ => none

/-- The class of a B format (R266). -/
def classB (f : Fmt) : Option MatClass := if f = .i16 then some .int else classA f

/-- May C have this format in a class (R266)? -/
def MatClass.takesC (m : MatClass) (f : Fmt) : Bool :=
  match m with
  | .f64 => decide (f = .f64)
  | .f32 => decide (f = .f32)
  | .half => [Fmt.f32, .bf16, .f16].contains f
  | .small => [Fmt.f32, .bf16, .f16].contains f
  | .int => decide (f = .i32)

/-- The float format of the accumulator of a class. -/
def MatClass.acc (m : MatClass) : FloatFmt := if m = .f64 then ffF64 else ffF32

/-- The bank code of a storage format (R99). -/
def fmtCode (f : Fmt) : Nat := ((List.range 16).find? fun k => decide (Fmt.ofBank k = f)).getD 0

/-! ### The control word (R265) -/

/-- DIG. -/
def ctlDig (w : Word) : Nat := (w.extractLsb' 0 4).toNat
/-- ACC. -/
def ctlAcc (w : Word) : Bool := w.getLsbD 4
/-- SAT. -/
def ctlSat (w : Word) : Bool := w.getLsbD 5
/-- The number of k-chunks, KC + 1. -/
def ctlK (w : Word) : Nat := (w.extractLsb' 6 2).toNat + 1
/-- The number of n-blocks, NB + 1. -/
def ctlN (w : Word) : Nat := (w.extractLsb' 8 2).toNat + 1
/-- PLANE. -/
def ctlPlane (w : Word) : Nat := (w.extractLsb' 10 1).toNat
/-- BEN. -/
def ctlBen (w : Word) : Bool := w.getLsbD 11
/-- BAR. -/
def ctlBar (w : Word) : Nat := (w.extractLsb' 12 4).toNat
/-- MASK. -/
def ctlMask (w : Word) : Nat := (w.extractLsb' 24 4).toNat
/-- FATAL. -/
def ctlFatal (w : Word) : Bool := w.getLsbD 28
/-- LEVEL. -/
def ctlLevel (w : Word) : Nat := (w.extractLsb' 29 3).toNat
/-- GBAR of member i. -/
def ctlGbar (w : Word) (i : Nat) : Nat := (w.toNat >>> (32 + 4 * i)) % 16
/-- The planes a job uses, as 2K + P. -/
def ctlPlanes (w : Word) : List Nat := (List.range (ctlK w * ctlN w)).map fun m => 2 * m + ctlPlane w

/-- A plane of a core. -/
def Core.plane (c : Core) (k : Nat) : Plane := c.planes[k]?.getD .empty
/-- Replaces a plane. -/
def Core.setPlane (c : Core) (k : Nat) (p : Plane) : Core := { c with planes := c.planes.setIfInBounds k p }

/-! ### Loading B (R263, R264, R284) -/

/-- The checks of a plane's region (R263, R269), with the format and region it gives. -/
def checkPlane (kbank : Word) (t : BitVec 4) (bt : Bool) (r : ShapeRec) : Except Trap (Fmt × Region) :=
  match checkRegion kbank t r with
  | .error e => .error e
  | .ok (f, g) =>
    let rows := r.x1 + 1
    let cols := r.x0 + 1
    match planeCols f with
    | none => .error (.illegal .fn)
    | some nm =>
      if r.x2 ≠ 0 ∨ r.x3 ≠ 0 then .error (.illegal .fn)
      else if bt then (if cols ≤ 32 ∧ rows ≤ nm then .ok (f, g) else .error (.illegal .fn))
      else if rows ≤ 32 ∧ cols ≤ nm ∧ !f.isDb then .ok (f, g)
      else .error (.illegal .fn)

/-- Enters a plane load: the tag and the record change at issue (R263). -/
def Core.enterLoad (c : Core) (clk k plane : Nat) (t : BitVec 4) (bt : Bool) (r : ShapeRec) (f : Fmt) (g : Region) : Core :=
  let kp := 2 * k + plane
  let c := c.enterJob clk 2 (.mldb k plane t bt r) [g]
  c.setPlane kp { c.plane kp with tag := fmtCode f, record := some (r, t, bt) }

/-- R263: `mldb[.T][.bt] mK, P, hA`. -/
def execMldb (k a : BitVec 7) (plane : Bool) (p : BitVec 3) (bt : Bool) (t : BitVec 4) (s : State) :
    Host.Outcome State Fault Refusal :=
  runOp (.mldb k a plane p bt t) s fun c =>
    match s.readRecord s.cur c (c.rh a.toNat) with
    | .stall => .stall
    | .trap e => .trap e
    | .ok r s1 =>
      match checkPlane c.kbank t bt r with
      | .error e => .trap e
      | .ok (f, g) =>
        match c.cardWaits [g] with
        | some e => e
        | none => .ok (s1.updCore s.cur fun x => x.enterLoad s.clk k.toNat (if plane then 1 else 0) t bt r f g)

/-- The eight load records as a save frame holds them (R284). -/
def Core.planeRecords (c : Core) : List Byte :=
  c.planes.toList.flatMap fun p =>
    match p.record with
    | none => natBytes 40 0
    | some (r, t, bt) =>
      natBytes 4 r.base ++ natBytes 2 r.x0 ++ natBytes 2 r.x1 ++ natBytes 2 r.x2 ++ natBytes 2 r.x3 ++
      natBytes 4 (intBits 32 r.s1) ++ natBytes 4 (intBits 32 r.s2) ++ natBytes 4 (intBits 32 r.s3) ++
      natBytes 4 r.fill.toNat ++ natBytes 4 r.fmt ++
      natBytes 8 (t.toNat + (if bt then 16 else 0) + 32)

/-- Reloads the planes of a resumed task from the records of its frame, in increasing 2K + P (R284): a record that fails a
check, or whose region lies outside the footprint, leaves its plane empty. -/
def Core.reloadPlanes (c : Core) (clk : Nat) (foot : BitVec 8) (recs : List Byte) : Core :=
  (List.range 8).foldl (fun c kp =>
    let e := (recs.drop (40 * kp)).take 40
    let f := fieldOfBytes e 32 1
    if !f.testBit 5 then c
    else
      let r := (parseShape e).1
      let t := BitVec.ofNat 4 f
      match checkPlane c.kbank t (f.testBit 4) r with
      | .error _ => c
      | .ok (fm, g) =>
        if (banksOf g.lo g.len).all (foot.getLsbD ·) then
          c.enterLoad clk (kp / 2) (kp % 2) t (f.testBit 4) r fm g
        else c) c

/-- Plane loads and matrix jobs of a core in the order they entered. -/
def Core.loads (c : Core) : List Job := c.jobs.filter fun j => match j.kind with | .mldb _ _ _ _ _ => true | _ => false
/-- Matrix jobs and shares of a core in the order they entered. -/
def Core.mats (c : Core) : List Job := c.jobs.filter fun j => match j.kind with | .mat _ _ _ _ _ => true | _ => false
/-- The planes a job reads or loads. -/
def Job.planes (j : Job) : List Nat :=
  match j.kind with
  | .mldb k p _ _ _ => [2 * k + p]
  | .mat _ w _ _ _ => ctlPlanes w
  | _ => []
/-- Has a job's last digit clock, or last row read, passed? -/
def Job.past (j : Job) (clk : Nat) : Bool := match j.accept with | some t => decide (t < clk) | none => false
/-- Do two jobs use a plane in common? -/
def Job.shares (j k : Job) : Bool := j.planes.any k.planes.contains

/-- The next plane load. -/
def Core.nextLoad (c : Core) : Option Job := c.loads.find? fun j => j.start.isNone
/-- The plane load under way. -/
def Core.activeLoad (c : Core) : Option Job := c.loads.find? fun j => j.start.isSome

/-- The rows of a load's region and its occupancy L (R264). -/
def loadRows (r : ShapeRec) : Nat := r.x1 + 1
/-- L of R264. -/
def loadTime (bt : Bool) (r : ShapeRec) : Nat := if bt then Max.max 32 (r.x1 + 1) else 32

/-- May the next load start (R264)? -/
def State.loadMayStart (s : State) (core : Nat) (j : Job) : Bool :=
  let c := s.core core
  decide (j.entered < s.clk) && decide (c.ldBusy ≤ s.clk) && c.activeLoad.isNone && !c.jobWaits j.id &&
  c.mats.all fun m => !decide (m.ord < j.ord) || !m.shares j || m.past s.clk

/-- R264: a plane load starts at this clock. -/
def execMldbLoadStart (core : Nat) (s : State) : Host.Outcome State Fault Refusal :=
  match (s.core core).nextLoad with
  | none => .next s
  | some j =>
    match j.kind with
    | .mldb _ _ _ bt r =>
      if !s.loadMayStart core j then .next s
      else .next (s.updCore core fun c =>
        { c.updJob j.id (fun j => { j with start := some s.clk }) with ldBusy := s.clk + loadTime bt r })
    | _ => .next s

/-- A row of a region: its elements, none where one came from a poison word. -/
def State.readElems (s : State) (core : Nat) (kbank : Word) (g : JRegion) (row : Nat) : List (Option Num) × State :=
  let at_ := g.r.rowAt (0, row, 0, 0)
  let span : Region := ⟨false, at_, g.f.rowBytes (g.r.x0 + 1)⟩
  let w := Work.start s.mem core [span]
  ((List.range (g.r.x0 + 1)).map (fun i =>
    let x := w.getAt kbank g.f at_ i
    if x.2 then none else some x.1), s.scrubSpans core [span])

/-- Cells with a row's elements added: along n, or with BT along k (R263). The cell (k, n) has key 128 k + n. -/
def putCells (t : Tbl (Option Num)) (bt : Bool) (row : Nat) (xs : List (Option Num)) : Tbl (Option Num) :=
  xs.zipIdx.foldl (fun t e => Tbl.set t (if bt then e.2 * 128 + row else row * 128 + e.2) e.1) t

/-- Reads the next row of the load under way, one row in each clock (R264). -/
def State.loadRow (s : State) (core : Nat) : State :=
  match (s.core core).activeLoad with
  | none => s
  | some j =>
    match j.kind with
    | .mldb k p t bt r =>
      if loadRows r ≤ j.steps then s
      else
        let x := s.readElems core j.kbank (jobRegion j.kbank t r) j.steps
        x.2.updCore core fun c =>
          let kp := 2 * k + p
          let pl := c.plane kp
          let c := c.setPlane kp { pl with next := putCells (if j.steps = 0 then [] else pl.next) bt j.steps x.1 }
          c.updJob j.id fun j =>
            { j with steps := j.steps + 1, accept := if j.steps + 1 = loadRows r then some s.clk else none }
    | _ => s

/-- Has the load under way reached the end of its occupancy (R264)? -/
def State.loadEnds (s : State) (core : Nat) : Bool :=
  match (s.core core).activeLoad with
  | some j =>
    (match j.kind, j.start with
     | .mldb _ _ _ bt r, some t => decide (t + loadTime bt r ≤ s.clk + 1) && j.accept.isSome
     | _, _ => false)
  | none => false

/-- A load overwrites a plane of a leader: the gang jobs that its `mgang` began before the load keep what it held (R279). -/
def Grove.keepPlane (gr : Grove) (core ord kp : Nat) (p : Plane) : Grove :=
  { gr with gangs := gr.gangs.map fun G =>
      if G.completed.isNone && (ctlPlanes G.ctl).contains kp && !G.kept.any (fun e => decide (e.1 = kp)) &&
          G.members.any (fun m => m.leader && decide (m.core = core) && decide (m.ord < ord)) then
        { G with kept := G.kept ++ [(kp, p)] }
      else G }

/-- R264: the plane takes its new contents at the end of the load's occupancy. -/
def execPlaneLoaded (core : Nat) (s : State) : Host.Outcome State Fault Refusal :=
  if !s.loadEnds core then .next s
  else
    match (s.core core).activeLoad with
    | none => .next s
    | some j =>
      match j.kind with
      | .mldb k p t _ r =>
        let kp := 2 * k + p
        let s := s.updGrove (groveOf core) fun gr => gr.keepPlane core j.ord kp ((s.core core).plane kp)
        .next (s.updCore core fun c =>
          let pl := c.plane kp
          let c := c.setPlane kp { pl with elems := pl.next, fmt := fmtCode (jobRegion j.kbank t r).f, next := [] }
          (c.release j.id false).dropJob j.id)
      | _ => .next s

/-! ### Matrix jobs (R265 to R276) -/

/-- What issue learns of a matrix job: its records, regions and class (R266 to R269). -/
structure MatCard where
  a : ShapeRec
  c : ShapeRec
  fa : Fmt
  ra : Region
  rc : Region
  cls : MatClass
deriving DecidableEq, Repr

/-- Every used plane holds one tag of the class, and N fits (R269, R279): `tags` are the format codes of the planes. -/
def planesFit (tags : List Nat) (cls : MatClass) (n blocks : Nat) : Bool :=
  match tags with
  | [] => false
  | t :: r =>
    decide (t ≠ 0) && r.all (fun x => decide (x = t)) && decide (classB (Fmt.ofBank t) = some cls) &&
    (match planeCols (Fmt.ofBank t) with | some nm => decide (n ≤ blocks * nm) | none => false)

/-- The checks of R269 over the records, in its order; those that depend on planes only when `own`. -/
def checkMat (c : Core) (t : BitVec 4) (w : Word) (own : Bool) (rc ra : ShapeRec) : Except Trap MatCard :=
  match checkRegion c.kbank t ra with
  | .error e => .error e
  | .ok (fa, ga) =>
    match checkRegion c.kbank t rc with
    | .error e => .error e
    | .ok (fc, gc) =>
      match classA fa with
      | none => .error (.illegal .fn)
      | some cls =>
        let bad :=
          decide (ra.x2 ≠ 0) || decide (ra.x3 ≠ 0) || decide (rc.x2 ≠ 0) || decide (rc.x3 ≠ 0) || !cls.takesC fc ||
          decide (4 < ctlK w * ctlN w) || decide (rc.x1 ≠ ra.x1) || decide (32 * ctlK w < ra.x0 + 1) ||
          (decide (ga.lo < gc.lo + gc.len) && decide (gc.lo < ga.lo + ga.len)) ||
          (own && !planesFit ((ctlPlanes w).map fun k => (c.plane k).tag) cls (rc.x0 + 1) (ctlN w))
        if bad then .error (.illegal .fn) else .ok ⟨ra, rc, fa, ga, { gc with write := true }, cls⟩

/-- The member index of a task in a gang of level L, and the key of the gang (R277). -/
def gangIndex (widths : List Nat) (level : Nat) (wid : Word) : Nat := widField widths (level + 1) wid

/-- The extra checks of `mgang` (R273). -/
def State.gangRule (s : State) (c : Core) (w : Word) (join : Bool) : Bool :=
  let widths := (s.imageOf s.cur).widths
  let i := gangIndex widths (ctlLevel w) c.kwid
  (match s.taskOf s.cur with | some t => t.gang | none => false) && decide (ctlMask w ≠ 0) && decide (ctlLevel w ≤ 4) &&
  decide (0 < widWidth widths (ctlLevel w + 1)) && (!join || (decide (i ≤ 3) && (ctlMask w).testBit i))

/-- What the issue of a job does once its checks have passed. -/
def matIssue (s1 : State) (c : Core) (t : BitVec 4) (w : Word) (m : MatCard) : Eff :=
  match c.cardWaits [m.ra, m.rc] with
  | some e => e
  | none => .ok (s1.updCore s1.cur fun x => x.enterJob s1.clk 2 (.mat t w m.a m.c none) [m.ra, m.rc])

/-- R268: `mjob[.T] hD, hA, sB`. -/
def execMjob (d a b : BitVec 7) (p : BitVec 3) (t : BitVec 4) (s : State) : Host.Outcome State Fault Refusal :=
  runOp (.mjob d a b p t) s fun c =>
    let w := c.rs b.toNat
    if w &&& 0xFFFF000000FF0000 ≠ 0 then .trap (.illegal .reserved)
    else
      match readRecords s s.cur c [c.rh d.toNat, c.rh a.toNat] with
      | .error e => e
      | .ok ([rc, ra], s1) =>
        (match checkMat c t w true rc ra with
         | .error e => .trap e
         | .ok m => if w &&& 0x0000FFFFFF000000 ≠ 0 then .trap (.illegal .fn) else matIssue s1 c t w m)
      | .ok _ => .ok s

/-- Sends a gang job's member to the task engine (R278): index in `vb`, and in `vd` whether a share entered with it. -/
def Core.sendGang (c : Core) (clk : Nat) (op : Sys2Proof.Instr) (w : Word) (i job : Nat) (share : Bool) : Core :=
  { c with
    xops := c.xops ++ [⟨clk + 5, op, w, BitVec.ofNat 64 i, if share then 1 else 0, job, false, c.ords, c.kwid, [], none, []⟩],
    ords := c.ords + 1, inGang := c.inGang + 1 }

/-- `mgang` and `mgang.join` (R268, R273, R277, R278). -/
def gangIssue (i : Sys2Proof.Instr) (d a b : BitVec 7) (t : BitVec 4) (join : Bool) (s : State) :
    Host.Outcome State Fault Refusal :=
  runOp i s fun c =>
    let w := c.rs b.toNat
    if w &&& 0xFFFF000000FF0000 ≠ 0 then .trap (.illegal .reserved)
    else
      match readRecords s s.cur c [c.rh d.toNat, c.rh a.toNat] with
      | .error e => e
      | .ok ([rc, ra], s1) =>
        (match checkMat c t w (!join) rc ra with
         | .error e => .trap e
         | .ok m =>
           if w &&& 0xF800 ≠ 0 ∨ !s.gangRule c w join then .trap (.illegal .fn)
           else
             let k := gangIndex (s.imageOf s.cur).widths (ctlLevel w) c.kwid
             let share := decide (k ≤ 3) && (ctlMask w).testBit k
             let regions := if share then [m.ra, m.rc] else []
             match c.cardWaits regions with
             | some e => e
             | none => .ok (s1.updCore s.cur fun x =>
                 let job := x.ords
                 let x := if share then x.enterJob s.clk 2 (.mat t w m.a m.c (some k)) regions else x
                 x.sendGang s.clk i w k job share))
      | .ok _ => .ok s

/-- R268, R277: `mgang[.T] hD, hA, sB`. -/
def execMgang (d a b : BitVec 7) (p : BitVec 3) (t : BitVec 4) (s : State) : Host.Outcome State Fault Refusal :=
  gangIssue (.mgang d a b p t) d a b t false s

/-- R268, R277: `mgang[.T].join hD, hA, sB`. -/
def execMgangJoin (d a b : BitVec 7) (p : BitVec 3) (t : BitVec 4) (s : State) : Host.Outcome State Fault Refusal :=
  gangIssue (.mgangJoin d a b p t) d a b t true s

/-- The gang job that a share belongs to, once accepted. -/
def Grove.gangOf (gr : Grove) (core job : Nat) : Option (GangJob × GangMember) :=
  gr.gangs.findSome? fun g => (g.members.find? fun m => decide (m.core = core) && decide (m.job = some job)).map fun m => (g, m)

/-- Have the loads of a job's planes that entered before it been performed (R264, R270)? -/
def Core.planesLoaded (c : Core) (planes : List Nat) (ord : Nat) : Bool :=
  c.loads.all fun l => !decide (l.ord < ord) || !l.planes.any planes.contains

/-- May a matrix job start (R270, R279)? -/
def State.matMayStart (s : State) (core : Nat) (j : Job) : Bool :=
  let c := s.core core
  decide (j.entered < s.clk) && decide (c.matBusy ≤ s.clk) && !c.jobWaits j.id &&
  c.mats.all (fun m => !decide (m.ord < j.ord) || m.past s.clk) &&
  (match j.kind with
   | .mat _ _ _ _ none => c.planesLoaded j.planes j.ord
   | .mat _ _ _ _ (some _) =>
     (match (s.grove (groveOf core)).gangOf core j.id with
      | none => false
      | some (g, m) =>
        g.members.any (·.leader) &&
        (if m.leader then c.planesLoaded j.planes j.ord
         else match m.transferred with | some t => decide (t ≤ s.clk) | none => false))
   | _ => false)

/-- The next matrix job. -/
def Core.nextMat (c : Core) : Option Job := c.mats.find? fun j => j.start.isNone
/-- The job whose digit clocks are running. -/
def Core.activeMat (c : Core) : Option Job := c.mats.find? fun j => j.start.isSome && j.accept.isNone
/-- The job whose digit clocks are over and whose write entry is still held. -/
def Core.endingMat (c : Core) : Option Job := c.mats.find? fun j => j.accept.isSome

/-- R270: the next matrix job or share starts; its digit clocks run from this clock as the governor admits (R275). -/
def execMatrixJobStart (core : Nat) (s : State) : Host.Outcome State Fault Refusal :=
  match (s.core core).nextMat with
  | none => .next s
  | some j =>
    if s.matMayStart core j then
      .next (s.updCore core fun c => c.updJob j.id fun j => { j with start := some s.clk })
    else .next s

/-- R275: a new 64-clk window renews the grove's digit-steps. -/
def execGovernorWindow (g : Nat) (s : State) : Host.Outcome State Fault Refusal :=
  if (s.grove g).govWindow = s.clk / 64 then .next s
  else .next (s.updGrove g fun x => { x with govWindow := s.clk / 64, govUsed := 0 })

/-! ### One row of a product (R268, R272) -/

/-- The cell (k, n) of a plane (R263); cells that no load filled hold +0 (R267). -/
def Plane.cell (p : Plane) (k n : Nat) : Option Num := Tbl.getD p.elems (k * 128 + n) (some (.zero false))

/-- A job's operands as a row's computation uses them. -/
structure MatRow where
  fa : Fmt
  fc : Fmt
  cls : MatClass
  ctl : Word
  nm : Nat
  planes : List Plane
  a : List (Option Num)

/-- The operands of chunk c for column n: pairs of A and B values, and the k of the first marked B element (R272). -/
def MatRow.chunk (m : MatRow) (c n : Nat) : List (Num × Num) × Option Nat :=
  let pl := (m.planes[c * ctlN m.ctl + n / m.nm]?).getD .empty
  let ks := List.range 32
  let b (k : Nat) : Option Num := pl.cell k (n % m.nm)
  let a (k : Nat) : Num := match m.a[32 * c + k]? with
    | some (some x) => truncA m.fa (ctlDig m.ctl) x
    | _ => .zero false
  (ks.map fun k => (a k, (b k).getD (.zero false)), (ks.find? fun k => (b k).isNone).map (· + 32 * c))

/-- The accumulator of column n after all chunks, as bits, from its starting bits (R118, R120, R268). -/
def MatRow.sum (m : MatRow) (n start : Nat) : Res Nat × Option Nat :=
  (List.range (ctlK m.ctl)).foldl (fun acc c =>
    let x := m.chunk c n
    let r : Res Nat :=
      if m.cls = .int then
        chunkStepInt (ctlSat m.ctl) acc.1.1 (x.1.map fun p => (p.1.toInt?.getD 0, p.2.toInt?.getD 0))
      else chunkStepFloat m.cls.acc (ctlSat m.ctl) acc.1.1 x.1
    ((r.1, acc.1.2 ||| r.2), acc.2.or x.2)) ((start, 0), none)

/-- An element of C as bits of the accumulator format, exactly (R268). -/
def MatRow.widen (m : MatRow) (bits : Nat) : Res Nat :=
  if m.cls = .int then (bits, 0)
  else if (m.cls = .f64) = (m.fc = .f64) ∧ (m.fc = .f64 ∨ m.fc = .f32) then (bits, 0)
  else m.cls.acc.encode .rne false (m.fc.decode bits 0 0)

/-- The accumulator as C stores it, before the flush of its bank (R268). -/
def MatRow.narrow (m : MatRow) (acc : Nat) : Res Nat :=
  if m.cls = .int ∨ m.fc = .f64 ∨ m.fc = .f32 then (acc, 0)
  else
    let x := m.cls.acc.decode acc
    m.fc.encode .rne (ctlSat m.ctl && !x.isInf) false x

/-- What a row leaves: its results, and if it consumed poison the operand (0 A, 1 B, 2 C) and k of the first. -/
structure RowEnd where
  work : Work
  poison : Option (Nat × Nat)

/-- Computes one element of a row of C and writes it (R268, R272); whether C is poison there is asked of the row as it was read, `read`. -/
def MatRow.element (m : MatRow) (kbank : Word) (read : Work) (rowC last : Nat) (badA : Option Nat) (e : RowEnd) (n : Nat) : RowEnd :=
  let off := m.fc.bitOffset n
  let ftz := ftzAt kbank rowC off
  let bits := e.work.bits rowC off m.fc.width
  let badC := ctlAcc m.ctl && read.badIn (rowC + off / 8) (m.fc.width / 8)
  let start : Res Nat := if ctlAcc m.ctl && !badC then m.widen (if ftz then m.fc.flush bits else bits) else (0, 0)
  let r := m.sum n start.1
  let out := m.narrow r.1.1
  let w := e.work.raise (start.2 ||| r.1.2)
  let mine : Option (Nat × Nat) :=
    match badA, r.2, badC with
    | some k, _, _ => some (0, k)
    | none, some k, _ => some (1, k)
    | none, none, true => some (2, 0)
    | _, _, _ => none
  ⟨w.putAt kbank m.fc rowC n last (fun _ => out) (.zero false) false mine.isSome, e.poison.or mine⟩

/-- A row's payload from a working copy: bytes of poison words marked. -/
def Work.rowBytes (w : Work) (row len : Nat) : Payload :=
  (List.range len).map fun i => if w.badIn (row + i) 1 then none else some (Memory.read w.mem (spKey w.core (row + i)))

/-- Computes row `m` of a job in its first digit clock (R270): its A elements, and with ACC its C elements, are read; the
results wait in `buf`, and a row that consumed poison is noted. -/
def State.matRow (s : State) (core : Nat) (j : Job) (row : Nat) : State :=
  match j.kind with
  | .mat t ctl ra rc _ =>
    let c := s.core core
    let ga := jobRegion j.kbank t ra
    let gc := jobRegion j.kbank t rc
    match classA ga.f with
    | none => s
    | some cls =>
      let x := s.readElems core j.kbank ga row
      let planes := (ctlPlanes ctl).map c.plane
      let nm := (planes.head?.bind fun p => planeCols (Fmt.ofBank p.fmt)).getD 128
      let m : MatRow := ⟨ga.f, gc.f, cls, ctl, nm, planes, x.1⟩
      let rowA := ga.r.rowAt (0, row, 0, 0)
      let rowC := gc.r.rowAt (0, row, 0, 0)
      let lenA := ga.f.rowBytes (ra.x0 + 1)
      let lenC := gc.f.rowBytes (rc.x0 + 1)
      let spanC : Region := ⟨false, rowC, lenC⟩
      let w := Work.start x.2.mem core [⟨false, rowA, lenA⟩, spanC]
      let badA := x.1.findIdx? Option.isNone
      let word (lo len : Nat) : Option Nat := ((List.range len).find? fun i => w.badIn (lo + i) 1).map fun i => (lo + i) / 8 * 8
      let tval := (word rowA lenA).or (if ctlAcc ctl then word rowC lenC else none)
      let e := (List.range (rc.x0 + 1)).foldl (m.element j.kbank w rowC rc.x0 badA) ⟨w, none⟩
      let s := if ctlAcc ctl then x.2.scrubSpans core [spanC] else x.2
      s.updCore core fun c => c.updJob j.id fun j =>
        { j with
          buf := j.buf ++ [(rowC, e.work.rowBytes rowC lenC)], flags := j.flags ||| e.work.flags,
          failed := match e.poison with | some (o, k) => j.failed ++ [(row, o, k, true)] | none => j.failed,
          poison := j.poison.or tval }
  | _ => s

/-- The digit clocks of a row (R117, R274). -/
def Job.rowClocks (j : Job) : Nat :=
  match j.kind with
  | .mat t ctl ra _ _ => digitsUsed (jobRegion j.kbank t ra).f (ctlDig ctl)
  | _ => 0
/-- The rows of a matrix job. -/
def Job.matRows (j : Job) : Nat := match j.kind with | .mat _ _ ra _ _ => ra.x1 + 1 | _ => 0

/-- One digit clock of a job (R270): the first of a row computes it, the last sets the clock of its write, the last of the job
ends its reads. -/
def State.digitClock (s : State) (core : Nat) (j : Job) : State :=
  let d := j.rowClocks
  let s := if j.steps % d = 0 then s.matRow core j (j.steps / d) else s
  let n := j.steps + 1
  s.updCore core fun c =>
    let c := c.updJob j.id fun j =>
      { j with steps := n, doneSet := if n % d = 0 then j.doneSet ++ [s.clk + 4] else j.doneSet,
               accept := if n = j.matRows * d then some s.clk else none }
    if n = j.matRows * d then { c with matBusy := s.clk + 1 } else c

/-- BUDGET of a grove (R275, R436); the trunk cores have no governor. -/
def State.govBudget (s : State) (g : Nat) : Nat :=
  if 2592 ≤ g then 1024 else ((s.trunk.gov[s.trunk.partOf (quarterOf g)]?.getD 0x400).extractLsb' 0 11).toNat

/-- Requests a digit clock for the running job of a core, and takes it when the governor grants it (R275). -/
def State.requestDigit (s : State) (core : Nat) : State :=
  match (s.core core).activeMat with
  | none => s
  | some j =>
    let g := groveOf core
    let gr := s.grove g
    let n := j.planes.length
    if s.govBudget g < 1024 ∧ gr.govUsed ≠ 0 ∧ s.govBudget g < gr.govUsed + n then s
    else (s.updGrove g fun x => { x with govUsed := x.govUsed + n }).digitClock core j

/-- Inserts a core into a list ordered by the start of its job, then by core (R275). -/
def insertReq (e : Nat × Nat) : List (Nat × Nat) → List (Nat × Nat)
  | [] => [e]
  | f :: r => if e.1 < f.1 ∨ (e.1 = f.1 ∧ e.2 < f.2) then e :: f :: r else f :: insertReq e r

/-- The cores with a job in its digit clocks, in the order of their requests (R275). -/
def State.digitRequests (s : State) : List (Nat × Nat) :=
  s.cores.foldl (fun l e => match e.2.activeMat with
    | some j => insertReq (j.start.getD 0, e.1) l
    | none => l) []

/-- Writes the rows of C whose time has come (R270). -/
def State.writeDue (s : State) (core : Nat) : State :=
  match (s.core core).mats.find? (fun j => match j.doneSet with | t :: _ => decide (t ≤ s.clk) | [] => false) with
  | none => s
  | some j =>
    (s.writeRows core (j.buf.take 1)).updCore core fun c =>
      c.updJob j.id fun j => { j with buf := j.buf.drop 1, doneSet := j.doneSet.drop 1 }

/-- What the matrix engines do in one clock: rows of loads are read and digit clocks taken; at the clock's end rows of C are
written (R270). -/
def State.matrixClock (s : State) : State :=
  let s := s.cores.foldl (fun s e => s.loadRow e.1) s
  let s := s.digitRequests.foldl (fun s e => s.requestDigit e.2) s
  s.cores.foldl (fun s e => s.writeDue e.1) s

/-! ### Completion (R271, R272, R285) -/

/-- The DETAIL field of the matrix engine's fault tiles (R285). -/
def matDetail (gang : Bool) (index mask opnd row kidx nrow : Nat) : List Byte :=
  natBytes 1 (if gang then 2 else 1) ++ natBytes 1 index ++ natBytes 1 mask ++ natBytes 1 opnd ++ natBytes 4 row ++
  natBytes 4 kidx ++ natBytes 4 nrow

/-- Changes the member of a gang job that a share belongs to; the clock is the job's latest. -/
def Grove.updMember (gr : Grove) (core job clk : Nat) (f : GangMember → GangMember) : Grove :=
  let mine (m : GangMember) : Bool := decide (m.core = core) && decide (m.job = some job)
  { gr with gangs := gr.gangs.map fun g =>
      if g.members.any mine then { g with members := (g.members.map fun m => if mine m then f m else m), last := clk } else g }

/-- Empties the planes that a share received, but for those that a later share has received meanwhile, and for what a later `mldb` has
issued (R279). -/
def Core.emptyShared (c : Core) (j : Job) (later : List Nat) : Core :=
  j.planes.foldl (fun c kp =>
    let p := c.plane kp
    if later.contains kp then c
    else if c.loads.any fun l => decide (j.ord < l.ord) && l.planes.contains kp then c.setPlane kp { p with elems := [], fmt := 0 }
    else c.setPlane kp .empty) c

/-- The planes of a core that have been transferred to it for shares after a job (R279). -/
def State.receivedAfter (s : State) (core ord : Nat) : List Nat :=
  ((s.core core).mats.filter fun k => decide (ord < k.ord) && (match (s.grove (groveOf core)).gangOf core k.id with
    | some (_, m) => m.transferred.isSome
    | none => false)).flatMap Job.planes

/-- R271, R272: the write entry of a matrix job is released: its writes are performed, its flags set, its completion event
emitted; without fault it arrives at its barrier, with poison it faults its task. -/
def execMatrixJobComplete (core : Nat) (s : State) : Host.Outcome State Fault Refusal :=
  match (s.core core).endingMat with
  | none => .next s
  | some j =>
    match j.kind, j.accept with
    | .mat _ ctl _ _ gang, some t =>
      if s.clk < t + 4 then .next s
      else
        let g := groveOf core
        let leader := match (s.grove g).gangOf core j.id with | some (_, m) => m.leader | none => true
        let later := s.receivedAfter core j.ord
        let s := s.writeRows core j.buf
        let s := s.updCore core fun c =>
          let c := if leader then c else c.emptyShared j later
          ((c.raise j.flags).release j.id false).dropJob j.id
        let ok := j.failed.isEmpty
        let s := s.updGrove g fun x => (x.matEvent j.owner).updMember core j.id s.clk fun m => { m with ok := some ok }
        let s := if ok ∧ gang.isNone ∧ ctlBen ctl then
            s.updGrove g fun x => x.arrive (s.core core).ctxNo (ctlBar ctl) (s.clk + 1) none none
          else s
        .next (match j.failed with
          | [] => s
          | (row, o, k, _) :: _ =>
            s.matFault core (.at_ .poison (BitVec.ofNat 64 (j.poison.getD 0))) gang.isSome
              (matDetail gang.isSome (gang.getD 0) (if gang.isSome then ctlMask ctl else 0) o row k j.failed.length))
    | _, _ => .next s

/-! ### Gang jobs (R277 to R281) -/

/-- Cancels a share: its entries are released with nothing written, which emits its completion event (R271, R278). -/
def State.cancelShare (s : State) (core job : Nat) : State :=
  match (s.core core).job? job with
  | none => s
  | some j =>
    let s := s.updCore core fun c => (c.release job false).dropJob job
    s.updGrove (groveOf core) fun x => x.matEvent j.owner

/-- Faults a member of a gang job: cause, done-mask and late-mask in its DETAIL (R278 to R281, R285). -/
def State.gangFault (s : State) (core : Nat) (late : Bool) (index mask cause dm lm : Nat) : State :=
  s.matFault core (.of (if late then .gangLate else .gang)) true (matDetail true index mask 0 cause (dm + lm * 256) 0)

/-- Bits [47:0] of a control word, which all members must share (R278). -/
def ctl48 (w : Word) : Nat := w.toNat % 2 ^ 48

/-- The first job open on a key. -/
def Grove.openGang (gr : Grove) (ctx level : Nat) (key : Word) : Option GangJob :=
  gr.gangs.find? fun g => decide (g.ctx = ctx) && decide (g.level = level) && decide (g.key = key) && g.completed.isNone

/-- Changes a gang job. -/
def Grove.updGang (gr : Grove) (id : Nat) (f : GangJob → GangJob) : Grove :=
  { gr with gangs := gr.gangs.map fun g => if g.id = id then f g else g }

/-- Acceptance of an `mgang` at the task engine (R278, R280), 6 clk after its issue: in the clock after this one. `w` is its
control word, `i` its member index. A member that is turned away and named no bit of the job leaves the gang job at once; any
other leaves it with the job's completion (R278). That GBAR[i] is named for every index up to 3, for a leader also where MASK does not
hold its bit, is the model's choice (log entry 70); so is 0 for the masks of a tile raised before a done-mask exists (log entry 71). -/
def State.gangAccept (s : State) (core : Nat) (join : Bool) (w : Word) (i job : Nat) (share : Bool) (wid : Word) : State :=
  let g := groveOf core
  let gr := s.grove g
  let c := s.core core
  let ctx := c.ctxNo
  let level := ctlLevel w
  let key := widPrefix (s.ctx ctx).image.widths level wid
  let isLate (e : Nat × Nat × Word × BitVec 4 × Bool) : Bool :=
    decide (e.1 = ctx) && decide (e.2.1 = level) && decide (e.2.2.1 = key)
  let named := gr.gangLate.find? fun e => isLate e &&
    ((decide (i ≤ 3) && e.2.2.2.1.getLsbD i) || (!join && e.2.2.2.2))
  match named with
  | some e =>
    let keep := gr.gangLate.map fun f => if isLate f then
        (f.1, f.2.1, f.2.2.1, f.2.2.2.1 &&& ~~~((1 : BitVec 4) <<< i), f.2.2.2.2 && join) else f
    let s := (s.cancelShare core job).setGrove g { (s.cancelShare core job).grove g with gangLate := keep }
    (s.gangFault core true i (ctlMask w) 5 0 e.2.2.2.1.toNat).updCore core fun c => { c with inGang := c.inGang - 1 }
  | none =>
    let phase := (gr.barrier ctx (ctlGbar w i)).phase
    let record (c : Core) : Core :=
      if i ≤ 3 then { c with arrivals := c.arrivals.setIfInBounds (ctlGbar w i) (some phase) } else c
    let uid := match s.taskOf core with | some t => t.uid | none => 0
    let ord := job
    let mem (job : Option Nat) (ok : Option Bool) : GangMember := ⟨i, core, uid, !join, job, none, ok, ord⟩
    let jobId := if share then some job else none
    match gr.openGang ctx level key with
    | none =>
      let gang : GangJob :=
        { id := gr.ids, ctx := ctx, level := level, key := key, ctl := w, opened := s.clk + 1, members := [mem jobId none],
          late := 0, closed := false, completed := none, last := s.clk + 1, kept := [] }
      (s.setGrove g { gr with gangs := gr.gangs ++ [gang], ids := gr.ids + 1,
                              gangLate := gr.gangLate.filter fun e => !isLate e }).updCore core record
    | some G =>
      let dup := G.members.any fun m => decide (m.index = i)
      let cause := if !join && G.members.any (·.leader) then 1 else if dup then 2
        else if ctl48 w ≠ ctl48 G.ctl then 3 else 0
      if cause = 0 then
        (s.updGrove g fun x => x.updGang G.id fun G =>
          { G with members := G.members ++ [mem jobId none], last := s.clk + 1 }).updCore core record
      else
        let s := s.cancelShare core job
        let s := if dup then s.updCore core fun c => { c with inGang := c.inGang - 1 } else
          s.updGrove g fun x => x.updGang G.id fun G =>
            { G with members := G.members ++ [{ mem none (some false) with leader := false }], last := s.clk + 1 }
        s.gangFault core false i (ctlMask w) cause 0 0

/-- Do all members of a gang job stand on cores: none of them waits for the restore of a snapshot's image (R375, R393)? -/
def GangJob.onCores (G : GangJob) : Bool := G.members.all fun m => decide (m.core < 20000)

/-- May the leader's planes go to a member now (R279)? -/
def State.mayTransfer (s : State) (G : GangJob) (m : GangMember) : Bool :=
  match G.members.find? (·.leader), m.job with
  | some l, some job =>
    G.onCores && !m.leader && m.transferred.isNone && m.ok.isNone &&
    (s.core l.core).planesLoaded (ctlPlanes G.ctl) l.ord &&
    (match (s.core m.core).job? job with
     | some j =>
       (s.core m.core).mats.all (fun k => !decide (k.ord < j.ord) || !k.shares j || k.past s.clk) &&
       (s.core m.core).planesLoaded j.planes j.ord
     | none => false)
  | _, _ => false

/-- The leader's plane for a gang job (R279). -/
def State.leaderPlane (s : State) (G : GangJob) (l : GangMember) (kp : Nat) : Plane :=
  match G.kept.find? fun e => decide (e.1 = kp) with
  | some e => e.2
  | none => (s.core l.core).plane kp

/-- R279: the leader's planes are checked against a member's share and transferred to it, 8 clk for each macro; a share that
does not match faults its task with cause 6. -/
def execPlaneTransfer (g job m : Nat) (s : State) : Host.Outcome State Fault Refusal :=
  match (s.grove g).gangs.find? fun G => decide (G.id = job) with
  | none => .next s
  | some G =>
    match G.members.find? (fun x => decide (x.index = m) && x.job.isSome), G.members.find? (·.leader) with
    | some x, some l =>
      if !s.mayTransfer G x then .next s
      else
        match x.job.bind (s.core x.core).job? with
        | some j =>
          (match j.kind with
           | .mat t ctl ra rc _ =>
             let planes := ctlPlanes ctl
             let tags := planes.map fun k => (s.leaderPlane G l k).fmt
             let fits := match classA (jobRegion j.kbank t ra).f with
               | some cls => planesFit tags cls (rc.x0 + 1) (ctlN ctl)
               | none => false
             if fits then
               let s := s.updCore x.core fun c => planes.foldl (fun c k =>
                 let p := s.leaderPlane G l k
                 c.setPlane k { c.plane k with elems := p.elems, fmt := p.fmt }) c
               .next (s.updGrove g fun gr => gr.updMember x.core j.id s.clk fun y =>
                 { y with transferred := some (s.clk + 8 * planes.length) })
             else
               let s := s.cancelShare x.core j.id
               let s := s.updGrove g fun gr => gr.updMember x.core j.id s.clk fun y =>
                 { y with ok := some false, job := none }
               .next (s.gangFault x.core false m (ctlMask ctl) 6 0 0)
           | _ => .next s)
        | none => .next s
    | _, _ => .next s

/-- R280: the window of a gang job ends 65,536 clk after its first acceptance: members not accepted are late, and without a
leader every share is cancelled. -/
def execGangWindowExpire (g job : Nat) (s : State) : Host.Outcome State Fault Refusal :=
  match (s.grove g).gangs.find? fun G => decide (G.id = job) with
  | none => .next s
  | some G =>
    if G.closed ∨ G.completed.isSome ∨ s.clk < G.opened + 65536 ∨ !G.onCores then .next s
    else
      let late := (List.range 4).foldl (fun (l : BitVec 4) i =>
        if (ctlMask G.ctl).testBit i && !G.members.any (fun m => decide (m.index = i)) then l ||| ((1 : BitVec 4) <<< i) else l) 0
      let noLeader := !G.members.any (·.leader)
      let s := if noLeader then G.members.foldl (fun s m => match m.job with
          | some j => s.cancelShare m.core j
          | none => s) s else s
      let s := s.updGrove g fun x => x.updGang job fun G =>
        { G with closed := true, late := late, last := s.clk,
                 members := if noLeader then G.members.map fun m => { m with job := none, ok := some false } else G.members }
      .next (if late ≠ 0 ∨ noLeader then
          s.updGrove g fun x => { x with gangLate := x.gangLate ++ [(G.ctx, G.level, G.key, late, noLeader)] }
        else s)

/-- The done-mask of a gang job (R281). -/
def GangJob.doneMask (G : GangJob) : Nat :=
  (List.range 4).foldl (fun n i => if (ctlMask G.ctl).testBit i && G.members.any (fun m => decide (m.index = i) && decide (m.ok = some true))
    then n + 2 ^ i else n) 0

/-- Has every share ended, and every member of MASK been accepted or become late, in an earlier clock (R281)? -/
def GangJob.over (G : GangJob) (clk : Nat) : Bool :=
  G.completed.isNone && decide (G.last < clk) && G.onCores && G.members.all (fun m => m.job.isNone || m.ok.isSome) &&
  (G.members.any (·.leader) || G.closed) &&
  (List.range 4).all fun i => !(ctlMask G.ctl).testBit i || G.members.any (fun m => decide (m.index = i)) || G.late.getLsbD i

/-- Does a core hold the task whose record has a number? -/
def State.holds (s : State) (core uid : Nat) : Bool :=
  decide ((s.core core).mode ≠ .idle) && (match s.taskOf core with
    | some t => decide (t.uid = uid) && t.oncore && decide (t.slot = core % 4)
    | none => false)

/-- R281, R282: a gang job completes: each member's core records the outcome, and with FATAL a failed job faults the leader's
task. -/
def execGangCompletion (g job : Nat) (s : State) : Host.Outcome State Fault Refusal :=
  match (s.grove g).gangs.find? fun G => decide (G.id = job) with
  | none => .next s
  | some G =>
    if !G.over s.clk then .next s
    else
      let dm := G.doneMask
      let mask := ctlMask G.ctl
      let flt := decide (dm ≠ mask)
      let k : Word := BitVec.ofNat 64 (1 + (if flt then 8 else 0) + mask * 16 + dm * 256 + G.late.toNat * 4096)
      let s := G.members.foldl (fun s m => s.updCore m.core fun c =>
        if s.holds m.core m.uid then { c with kmjob := k, inGang := c.inGang - 1 } else c) s
      let s := s.updGrove g fun x => x.updGang job fun G => { G with completed := some s.clk }
      .next (match G.members.find? (·.leader) with
        | some l =>
          if flt ∧ ctlFatal G.ctl ∧ s.holds l.core l.uid then
            s.gangFault l.core false l.index mask 4 dm G.late.toNat
          else s
        | none => s)

/-- R281: the arrivals of a completed gang job reach the barriers of its members 4 clk later, with the done-mask and the GANG
flag; each barrier counts them together with its other arrivals of the clock (R184). -/
def execGangArrivalCount (g job : Nat) (s : State) : Host.Outcome State Fault Refusal :=
  match (s.grove g).gangs.find? fun G => decide (G.id = job) with
  | none => .next s
  | some G =>
    match G.completed with
    | none => .next s
    | some t =>
      if s.clk < t + 4 then .next s
      else
        let dm := G.doneMask
        let x := (List.range 4).foldl (fun (x : Grove) i =>
          if (ctlMask G.ctl).testBit i then
            x.arrive G.ctx (ctlGbar G.ctl i) s.clk (some (decide (dm ≠ ctlMask G.ctl), dm)) none
          else x) (s.grove g)
        .next (s.setGrove g { x with gangs := x.gangs.filter fun H => !decide (H.id = job) })

end Sys2Proof.Machine
end

