-- ==== Sys2Proof/Machine/Loads.lean ====
section
/-!
DEFINITION. Scalar scratchpad access (R137, R138), decoupling queues (R139 to R144), atomics (R145, R146), fences (R147), the
sending and performing of queue requests (R54 to R60, R142), page walks (R41, R42) and the sender's side of remote requests
(R406, R407).
-/

namespace Sys2Proof.Machine

/-! ### Scalar access -/

/-- Range, alignment and waiting of a scalar access (R137, R142): none when it may go on. -/
def Core.scalarCheck (c : Core) (ea : Word) (size : Nat) (write : Bool) : Option Eff :=
  if 0x60000 ≤ ea.toNat then some (.trap (.xlate xcRange ea))
  else if ea.toNat % size ≠ 0 then some (.trap (.at_ .align ea))
  else if c.accessWaits ea.toNat size write then some .stall
  else none

/-- The effect of a scalar load (R137). -/
def State.loadAt (s : State) (c : Core) (d : Nat) (sz : BitVec 3) (ea : Word) : Eff :=
  let size := sizeOf sz
  match c.scalarCheck ea size false with
  | some e => e
  | none =>
    let b := s.readMem (spKey s.cur ea.toNat) size
    if b.1.poisoned then .trap (.poisonRead ea (spKey s.cur ea.toNat) size)
    else .ok (b.2.writeReg 4 ⟨.s, d⟩ (extendSize sz (payloadNat b.1)) 0)

/-- The effect of a scalar store (R137). -/
def State.storeAt (s : State) (c : Core) (x : Word) (sz : BitVec 3) (ea : Word) : Eff :=
  let size := sizeOf sz
  match c.scalarCheck ea size true with
  | some e => e
  | none =>
    if decide (size < 8) && isPoison s.mem (spKey s.cur ea.toNat) then .trap (.poisonRead ea (spKey s.cur ea.toNat) size)
    else .ok (s.writeSp s.cur ea.toNat (goodBytes (natBytes size x.toNat)) c.ctxNo true).1

/-- The address of the Mem form (R73, R137). -/
def memAddr (base : Word) (off : BitVec 17) (sz : BitVec 3) : Word :=
  base + off.signExtend 64 * BitVec.ofNat 64 (sizeOf sz)

/-- The address of the indexed form (R138). -/
def indexAddr (base index : Word) (sc : Bool) (sz : BitVec 3) : Word :=
  base + (if sc then index * BitVec.ofNat 64 (sizeOf sz) else index)

/-- R137. -/
def execLd (d : BitVec 5) (a : BitVec 4) (sz p : BitVec 3) (off : BitVec 17) (s : State) :
    Host.Outcome State Fault Refusal :=
  runOp (.ld d a sz p off) s fun c => s.loadAt c d.toNat sz (memAddr (c.ra a.toNat) off sz)
/-- R137. -/
def execSt (d : BitVec 5) (a : BitVec 4) (sz p : BitVec 3) (off : BitVec 17) (s : State) :
    Host.Outcome State Fault Refusal :=
  runOp (.st d a sz p off) s fun c => s.storeAt c (c.rs d.toNat) sz (memAddr (c.ra a.toNat) off sz)
/-- R138. -/
def execLdx (d a b : BitVec 7) (p : BitVec 3) (sc : Bool) (sz : BitVec 3) (s : State) :
    Host.Outcome State Fault Refusal :=
  runOp (.ldx d a b p sc sz) s fun c => s.loadAt c d.toNat sz (indexAddr (c.ra a.toNat) (c.rs b.toNat) sc sz)
/-- R138. -/
def execStx (d a b : BitVec 7) (p : BitVec 3) (sc : Bool) (sz : BitVec 3) (s : State) :
    Host.Outcome State Fault Refusal :=
  runOp (.stx d a b p sc sz) s fun c =>
    s.storeAt c (c.rs d.toNat) sz (indexAddr (c.ra a.toNat) (c.rs b.toNat) sc sz)

/-! ### Queue requests -/

/-- A queue by number. -/
def Core.queue (c : Core) (q : Nat) : List QEntry := c.queues[q]?.getD []
/-- Replaces a queue. -/
def Core.setQueue (c : Core) (q : Nat) (l : List QEntry) : Core := { c with queues := c.queues.setIfInBounds q l }

/-- A request as it enters its queue. -/
def QEntry.fresh (kind : QKind) (sz : BitVec 3) (rel acq : Bool) (scope : Nat) (addr data data2 : Word) (ord : Nat) : QEntry :=
  ⟨kind, sz, rel, acq, scope, addr, data, data2, ord, .held, 0, 0, 0, 0, 0, 0⟩

/-- Enters a request at the end of its queue, numbered in issue order (R56, R139). -/
def Core.enqueue (c : Core) (q : Nat) (f : Nat → QEntry) : Core :=
  { c.setQueue q (c.queue q ++ [f c.ords]) with ords := c.ords + 1 }

/-- A queue request: the bundle is held while its queue is full (R139). -/
def queueOp (i : Sys2Proof.Instr) (s : State) (d : BitVec 7) (f : Core → Nat → QEntry) :
    Host.Outcome State Fault Refusal :=
  runOp i s fun c => if 16 ≤ (c.queue d.toNat).length then .stall else .ok (s.updCore s.cur fun x => x.enqueue d.toNat (f c))

/-- R141. -/
def execQld (d a : BitVec 7) (p : BitVec 3) (ord scope : BitVec 2) (sz : BitVec 3) (s : State) :
    Host.Outcome State Fault Refusal :=
  queueOp (.qld d a p ord scope sz) s d fun c n =>
    .fresh .load sz false (decide (ord = 1)) scope.toNat (c.ra a.toNat) 0 0 n
/-- R141. -/
def execQst (d a b : BitVec 7) (p : BitVec 3) (ord scope : BitVec 2) (sz : BitVec 3) (s : State) :
    Host.Outcome State Fault Refusal :=
  queueOp (.qst d a b p ord scope sz) s d fun c n =>
    .fresh .store sz (decide (ord = 2)) false scope.toNat (c.ra a.toNat) (c.rs b.toNat) 0 n

/-- An atomic's request (R140, R145): the compare form takes its new value from s[B+1]. -/
def amoEntry (op : Nat) (a b : BitVec 7) (ord scope : BitVec 2) (sz : BitVec 3) (c : Core) (n : Nat) : QEntry :=
  .fresh (.amo op) sz (ord.getLsbD 1) (ord.getLsbD 0) scope.toNat (c.ra a.toNat) (c.rs b.toNat)
    (if op = 2 then c.rs (b.toNat + 1) else 0) n

/-- R145. -/
def execAmoAdd (d a b : BitVec 7) (p : BitVec 3) (ord scope : BitVec 2) (sz : BitVec 3) (s : State) :
    Host.Outcome State Fault Refusal :=
  queueOp (.amoAdd d a b p ord scope sz) s d (amoEntry 0 a b ord scope sz)
/-- R145. -/
def execAmoSwap (d a b : BitVec 7) (p : BitVec 3) (ord scope : BitVec 2) (sz : BitVec 3) (s : State) :
    Host.Outcome State Fault Refusal :=
  queueOp (.amoSwap d a b p ord scope sz) s d (amoEntry 1 a b ord scope sz)
/-- R145. -/
def execAmoCas (d a b : BitVec 7) (p : BitVec 3) (ord scope : BitVec 2) (sz : BitVec 3) (s : State) :
    Host.Outcome State Fault Refusal :=
  queueOp (.amoCas d a b p ord scope sz) s d (amoEntry 2 a b ord scope sz)
/-- R145. -/
def execAmoAnd (d a b : BitVec 7) (p : BitVec 3) (ord scope : BitVec 2) (sz : BitVec 3) (s : State) :
    Host.Outcome State Fault Refusal :=
  queueOp (.amoAnd d a b p ord scope sz) s d (amoEntry 3 a b ord scope sz)
/-- R145. -/
def execAmoOr (d a b : BitVec 7) (p : BitVec 3) (ord scope : BitVec 2) (sz : BitVec 3) (s : State) :
    Host.Outcome State Fault Refusal :=
  queueOp (.amoOr d a b p ord scope sz) s d (amoEntry 4 a b ord scope sz)
/-- R145. -/
def execAmoXor (d a b : BitVec 7) (p : BitVec 3) (ord scope : BitVec 2) (sz : BitVec 3) (s : State) :
    Host.Outcome State Fault Refusal :=
  queueOp (.amoXor d a b p ord scope sz) s d (amoEntry 5 a b ord scope sz)
/-- R145. -/
def execAmoMin (d a b : BitVec 7) (p : BitVec 3) (ord scope : BitVec 2) (sz : BitVec 3) (s : State) :
    Host.Outcome State Fault Refusal :=
  queueOp (.amoMin d a b p ord scope sz) s d (amoEntry 6 a b ord scope sz)
/-- R145. -/
def execAmoMax (d a b : BitVec 7) (p : BitVec 3) (ord scope : BitVec 2) (sz : BitVec 3) (s : State) :
    Host.Outcome State Fault Refusal :=
  queueOp (.amoMax d a b p ord scope sz) s d (amoEntry 7 a b ord scope sz)
/-- R145. -/
def execAmoMinu (d a b : BitVec 7) (p : BitVec 3) (ord scope : BitVec 2) (sz : BitVec 3) (s : State) :
    Host.Outcome State Fault Refusal :=
  queueOp (.amoMinu d a b p ord scope sz) s d (amoEntry 8 a b ord scope sz)
/-- R145. -/
def execAmoMaxu (d a b : BitVec 7) (p : BitVec 3) (ord scope : BitVec 2) (sz : BitVec 3) (s : State) :
    Host.Outcome State Fault Refusal :=
  queueOp (.amoMaxu d a b p ord scope sz) s d (amoEntry 9 a b ord scope sz)
/-- R146: 8 bytes, an acquire and a release of scope W. -/
def execAmoSeq (d a b : BitVec 7) (p : BitVec 3) (op : BitVec 4) (s : State) : Host.Outcome State Fault Refusal :=
  queueOp (.amoSeq d a b p op) s d fun c n =>
    .fresh (.seq op.toNat) 6 true true 1 (c.ra a.toNat) (c.rs b.toNat) (if op = 2 then c.rs (b.toNat + 1) else 0) n

/-- Is an entry complete (R139)? -/
def QEntry.complete (e : QEntry) : Bool := decide (e.state = .done ∨ e.state = .failed)

/-- The fault word of a failed entry (R143). -/
def QEntry.faultWord (e : QEntry) : Nat := e.fkind % 16 + e.fxc % 8 * 16

/-- The trap kind with a code that a queue entry can hold (R143). -/
def kindOfCode (k : Nat) : Kind := if k = 4 then .poison else if k = 6 then .align else .xlate

/-- Removes the head entry once it is complete (R143); an empty queue has trapped at issue, unless the guard or the
flags turn the operation off (log entry 7). -/
def popHead (s : State) (c : Core) (q : Nat) (f : QEntry → Eff) : Eff :=
  match c.queue q with
  | [] => .ok s
  | e :: r =>
    if !e.complete then .stall
    else
      match f e with
      | .ok s' => .ok (s'.updCore s.cur fun x => x.setQueue q r)
      | x => x

/-- R143. -/
def execQpop (d a : BitVec 7) (p : BitVec 3) (s : State) : Host.Outcome State Fault Refusal :=
  runOp (.qpop d a p) s fun c => popHead s c a.toNat fun e =>
    if e.state = .failed then
      .trap { Trap.of (kindOfCode e.fkind) with xc := e.fxc, reg := some ⟨.q, a.toNat⟩, tval := e.addr }
    else .ok (s.writeReg 1 (sReg d) e.result.toNat 0)
/-- R143: a failed entry gives its fault word and a clear predicate. -/
def execQpopT (d a b : BitVec 7) (p : BitVec 3) (s : State) : Host.Outcome State Fault Refusal :=
  runOp (.qpopT d a b p) s fun c => popHead s c a.toNat fun e =>
    let ok := decide (e.state = .done)
    .ok ((s.writeReg 1 (sReg d) (if ok then e.result.toNat else e.faultWord) 0).writeReg 1 (pReg b) (predAll32 ok) 0)
where
  predAll32 (b : Bool) : Nat := if b then 0xFFFFFFFF else 0

/-- Waits until entries are complete and says whether all succeeded (R144). -/
def waitEntries (s : State) (d : BitVec 7) (l : List QEntry) : Eff :=
  if l.all QEntry.complete then
    .ok (s.writeReg 1 (pReg d) (if l.all (fun e => decide (e.state = .done)) then 0xFFFFFFFF else 0) 0)
  else .stall

/-- R144: the head entry. -/
def execQwait (d a : BitVec 7) (p : BitVec 3) (s : State) : Host.Outcome State Fault Refusal :=
  runOp (.qwait d a p) s fun c => waitEntries s d ((c.queue a.toNat).take 1)
/-- R144: every entry present at issue. -/
def execQwaitAll (d a : BitVec 7) (p : BitVec 3) (s : State) : Host.Outcome State Fault Refusal :=
  runOp (.qwaitAll d a p) s fun c => waitEntries s d (c.queue a.toNat)

/-- R147: held until every earlier access that the scope covers is performed, the S1 job of its own bundle included (log entry 15). -/
def execFence (p : BitVec 3) (scope : BitVec 2) (s : State) : Host.Outcome State Fault Refusal :=
  runOp (.fence p scope) s fun c => if s.released s.cur scope.toNat c.ords then .ok s else .stall

/-! ### Performing a request at its home -/

/-- The new value of an atomic on n-bit values; none where `cas` writes nothing (R145). -/
def amoNew (op n : Nat) (old v w : Nat) : Option Nat :=
  let m := 2 ^ n
  let v := v % m
  match op with
  | 0 => some ((old + v) % m)
  | 1 => some v
  | 2 => if old = v then some (w % m) else none
  | 3 => some (old &&& v)
  | 4 => some (old ||| v)
  | 5 => some (old ^^^ v)
  | 6 => some (if intVal n true old ≤ intVal n true v then old else v)
  | 7 => some (if intVal n true v ≤ intVal n true old then old else v)
  | 8 => some (Min.min old v)
  | _ => some (Max.max old v)

/-- How an access at its home ends: the result word, or kind and cause of its failure. -/
abbrev AccessEnd := Except (Nat × Nat) Word

/-- The operation number of an atomic. -/
def QKind.op : QKind → Nat
  | .amo n => n
  | .seq n => n
  | _ => 0

/-- Performs an access at a place of the module in one event (R53, R54, R58, R60, R145): what an atomic writes, it writes into the word
it has read and corrected. -/
def State.performAt (s : State) (pl : Place) (kind : QKind) (sz : BitVec 3) (v w : Word) (ctx : Nat) : AccessEnd × State :=
  let size := sizeOf sz
  match kind with
  | .load =>
    let r := s.readPlace pl size ctx
    if r.1.poisoned then (.error (Kind.poison.code, 0), r.2) else (.ok (BitVec.ofNat 64 (extendSize sz (payloadNat r.1))), r.2)
  | .store =>
    if decide (size < 8) && isPoison s.mem pl.key then (.error (Kind.poison.code, 0), s.scrub pl.key size)
    else (.ok 0, (s.writePlace pl (goodBytes (natBytes size v.toNat)) ctx true).1)
  | k =>
    let r := s.readPlace pl size ctx
    if r.1.poisoned then (.error (Kind.poison.code, 0), r.2)
    else
      let old := payloadNat r.1
      let res := BitVec.ofNat 64 (extendSize sz old)
      match amoNew k.op (8 * size) old v.toNat w.toNat with
      | some x => (.ok res, ({ r.2 with mem := correctWord r.2.mem pl.key }.writePlace pl (goodBytes (natBytes size x)) ctx true).1)
      | none => (.ok res, r.2)

/-- Is the request a sequential atomic? -/
def QKind.isSeq : QKind → Bool
  | .seq _ => true
  | _ => false

/-- Does the request write, as far as translation is concerned (R41)? -/
def QKind.writes : QKind → Bool
  | .load => false
  | _ => true

/-- Where an access from a grove of a context leads, or how it fails before it reaches memory (R34 to R41, R60, R146, R420);
none when its translation has to be walked first. A sequential atomic whose address is misaligned, or a slice's outside the window,
reports ALIGN or WINDOW rather than NOTSYNC (log entry 67: R60, R35 and R146 each name one). -/
def State.accessPlace (s : State) (trunk : Bool) (g ctx : Nat) (user : Bool) (addr : Word) (kind : QKind) (sz : BitVec 3) :
    Option (Except (Nat × Nat) Place) :=
  let xl (x : Nat) : Except (Nat × Nat) Place := .error (Kind.xlate.code, x)
  match extAddr addr with
  | none => some (xl xcRange)
  | some (.grove a) =>
    if trunk then some (xl xcRange)
    else if a % sizeOf sz ≠ 0 then some (.error (Kind.align.code, 0))
    else if kind.isSeq then some (xl xcNotSync)
    else some (.ok (grovePlace g a))
  | some x =>
    if addr.toNat % sizeOf sz ≠ 0 then some (.error (Kind.align.code, 0))
    else
      match x, kind.isSeq with
      | .virt _, true => some (xl xcNotSync)
      | _, _ =>
        match s.locate g ctx addr kind.writes user with
        | none => none
        | some (.error y) => some (xl y)
        | some (.ok pl) =>
          match pl with
          | .slice i off => if kind.isSeq && !s.isSync ctx i off then some (xl xcNotSync) else some (.ok pl)
          | _ => some (.ok pl)

/-- Where a request of a core leads, or how it fails. -/
def State.requestPlace (s : State) (core : Nat) (e : QEntry) : Option (Except (Nat × Nat) Place) :=
  let c := s.core core
  s.accessPlace (isTrunkCore core) (groveOf core) c.ctxNo (!c.sup) e.addr e.kind e.sz

/-- Completes an entry of a queue. -/
def QEntry.finish (e : QEntry) (r : AccessEnd) : QEntry :=
  match r with
  | .ok v => { e with state := .done, result := v }
  | .error f => { e with state := .failed, fkind := f.1, fxc := f.2 }

/-- Replaces the entry with an order number in a queue. -/
def Core.putEntry (c : Core) (q : Nat) (e : QEntry) : Core :=
  c.setQueue q ((c.queue q).map fun x => if x.ord = e.ord then e else x)

/-- A byte's place as one number, for the bytes of other modules too. -/
def Place.number : Place → Nat
  | .remote m sl off => 2 ^ 50 + (m * 128 + sl) * 2 ^ 27 + off
  | pl => pl.key

/-- Do two runs of bytes meet? -/
def runsMeet (a n b m : Nat) : Bool := decide (a < b + m) && decide (b < a + n)

/-- Do two requests of a core touch a common byte (R56)? A request that fails touches none; while a translation is still to be
walked for, the offsets in their pages decide. -/
def State.touches (s : State) (core : Nat) (e f : QEntry) : Bool :=
  match s.requestPlace core e, s.requestPlace core f with
  | some (.error _), _ => false
  | _, some (.error _) => false
  | some (.ok p), some (.ok q) => runsMeet p.number (sizeOf e.sz) q.number (sizeOf f.sz)
  | _, _ => (e.addr.extractLsb' 62 2 == (0 : BitVec 2)) && (f.addr.extractLsb' 62 2 == (0 : BitVec 2)) &&
      runsMeet (e.addr.toNat % 65536) (sizeOf e.sz) (f.addr.toNat % 65536) (sizeOf f.sz)

/-- A grove-memory access that a record of a snapshot holds back: a job started before the record still holds an entry on
the chunk (R378). -/
def State.recordHolds (s : State) (ctx core chunk : Nat) : Bool :=
  match s.openSnap ctx with
  | none => false
  | some sn => sn.nodes.any fun n => n.started.any fun e =>
      decide (e.1 = core) && (s.core core).board.any fun b => decide (b.job = e.2) && overlap (b.lo, b.hi) (chunk, chunk)

/-- Has a node recorded in the running snapshot of a context? -/
def State.recorded (s : State) (ctx node : Nat) : Bool :=
  match s.openSnap ctx with
  | none => false
  | some sn => sn.nodes.any fun n => decide (n.node = node)

/-- The virtual channel of a packet (R370). -/
def Pkt.channel (p : Pkt) : Nat :=
  match p.kind with
  | .sub _ | .unsub _ | .commit _ | .discard _ _ _ | .nameq _ _ | .migrate _ _ _ _ _ => 0
  | .pubAns _ _ _ | .commitAns _ | .nameqAns _ _ _ | .ack _ _ _ | .unpin _ _ | .wbDone _ | .reply _ _ _ _ _ _ _ => 3
  | .request _ _ _ _ op _ _ _ _ _ => if op < 64 then 0 else 2
  | _ => if p.express then 1 else 2

/-- The number of the channels of module-link port 0 at the rim node; port p's follow 4p later. -/
def linkChan : Nat := 12000

/-- A record of a snapshot at a node. -/
def State.nodeRec (s : State) (ctx node : Nat) : Option SnapNode := (s.openSnap ctx).bind fun sn => sn.nodes.find? fun n => decide (n.node = node)

/-- Is a node's incoming channel still open: has its lantern not come (R372)? -/
def State.chanOpen (s : State) (ctx node chan : Nat) : Bool :=
  match s.nodeRec ctx node with
  | some n => !n.closed.contains chan
  | none => true

/-- The input port by which a channel's LOG key names it (R386): 0 to 3 the router's, 8 on the module links, else 4. -/
def chanPort (chan : Nat) : Nat := if linkChan ≤ chan then 8 + (chan - linkChan) / 4 else if chan < 256 then chan / 4 else 4

/-- What a log entry takes of a snapshot buffer (R373). -/
def Pkt.logSize (p : Pkt) : Nat := 64 + p.data.length

/-- A packet that comes to a node that has recorded, on a channel whose lantern has not come, is logged (R372, R373). -/
def State.logOn (s : State) (node chan : Nat) (q : Pkt) : State :=
  if (s.nodeRec q.ctx node).isSome && s.chanOpen q.ctx node chan then
    { s with snaps := s.snaps.map fun sn =>
        if sn.ctx = q.ctx ∧ sn.done.isNone then
          sn.mapNodes fun n =>
            if n.node = node then { n with logs := n.logs ++ [(chanPort chan, q.channel, q)], buf := n.buf + q.logSize } else n
        else sn }
  else s

/-- Is an access of a grove at a place held back: by a record in its scratchpad (R378), or because the rim node has recorded and
the grove has not, so that its answer would pass the lantern (R371, R372)? -/
def State.placeHeld (s : State) (g ctx : Nat) : Place → Bool
  | .sp core addr => s.recordHolds ctx core (addr / 512)
  | _ => s.recorded ctx 0xFFF && !s.recorded ctx g

/-- The class of a queue (R65): q0 to q3 bulk, q4 to q7 express. -/
def queueClass (q : Nat) : Bool := decide (4 ≤ q)

/-- The source word of a core's remote requests, or of grove g's trigger engine as 32,768 + g (R406). -/
def remoteSource (member core : Nat) : Nat := member * 2 ^ 16 + core

/-- The key of a source's numbering for a destination slice and class (R406). -/
def seqKey (member slice : Nat) (cls : Bool) : Nat := ((member * 128 + slice) * 2 + (if cls then 1 else 0)) * 2 ^ 17

/-- The next sequence number of a numbering, and whether it was last used within 40,000 ticks (R406). -/
def seqNext (t : Tbl Nat) (key tick : Nat) : Nat × Bool :=
  let n := Tbl.getD t key 0
  match Tbl.get? t (key + 1 + n) with
  | some last => (n, decide (tick < last + 40000))
  | none => (n, false)

/-- Uses a sequence number at a tick. -/
def seqUse (t : Tbl Nat) (key tick : Nat) : Tbl Nat :=
  let n := Tbl.getD t key 0
  Tbl.set (Tbl.set t key ((n + 1) % 65536)) (key + 1 + n) tick

/-- A sequence number is sent again at a tick (R406, R407). -/
def seqRenew (t : Tbl Nat) (key n tick : Nat) : Tbl Nat := Tbl.set t (key + 1 + n) tick

/-- A held request may be sent: no earlier acquire holds it back, and a release waits for what it covers (R57, R142). -/
def State.maySend (s : State) (core : Nat) (e : QEntry) : Bool :=
  !(s.core core).acquireHolds (s.scopeOf core e.addr) e.ord && (!e.rel || s.released core e.scope e.ord)

/-- The operation number of a request on the fabric: 0 store, 1 + op atomic, 16 + op sequential. -/
def QKind.code : QKind → Nat
  | .load => 32
  | .store => 0
  | .amo n => 1 + n
  | .seq n => 16 + n

/-- The route key of a packet (R418): of a request or its answer its source and slice, of any other its name. -/
def Pkt.routeKey (p : Pkt) : Word :=
  match p.kind with
  | .request sl src _ _ _ _ _ _ _ _ | .reply sl src _ _ _ _ _ => BitVec.ofNat 64 (src + sl * 2 ^ 23)
  | _ => BitVec.ofNat 64 p.name.handle ^^^ coordHash p.name 0

/-- The name of a packet that carries none. -/
def noName : Name := ⟨0, 0, 0, 0, 0⟩

/-- The grove of a source of remote requests (R406). -/
def sourceGrove (src : Nat) : Nat := if src % 2 ^ 16 < 32768 then groveOf (src % 2 ^ 16) else src % 2 ^ 16 - 32768

/-- A remote request leaves its grove for the port of its route (R370, R406, R418). -/
def State.remoteOut (s : State) (ctx m sl src seq : Nat) (cls : Bool) (op sz off : Nat) (v w : Word) (first : Nat) : State :=
  let p := mkPkt ctx noName (.request sl src seq cls op sz off v w first) (sourceGrove src) (farCode m (2592 + sl / 8)) cls s.tick [] 0 s.clk
  s.send { p with port := portOf (s.ctx ctx) m p.routeKey }

/-- What a failed access reports, as a number: 0 for none, else its kind and 16 times its cause. -/
def failCode : AccessEnd → Nat
  | .ok _ => 0
  | .error f => f.1 + 16 * f.2

/-- An access's end from its value and its number. -/
def accessEnd (v : Word) (fail : Nat) : AccessEnd := if fail = 0 then .ok v else .error (fail % 16, fail / 16)

/-- The answer to a remote request comes in over the port of its route: the rim node logs it where it has to (R370, R372). -/
def State.logAnswer (s : State) (ctx g m sl src seq asker ord : Nat) (r : AccessEnd) : State :=
  let v : Word := match r with | .ok v => v | .error _ => 0
  let p := mkPkt ctx noName (.reply sl src seq asker ord v (failCode r)) (farCode m (2592 + sl / 8)) g true s.tick [] 0 s.clk
  s.logOn 0xFFF (linkChan + 4 * portOf (s.ctx ctx) m p.routeKey + 3) p

/-- Sends a request: one to another module leaves it with the next sequence number, where it is a store or an atomic (R406).
None while that number may not be reused. -/
def State.sendEntry (s : State) (core q : Nat) (e : QEntry) : Option State :=
  let c := s.core core
  match s.requestPlace core e with
  | some (.ok (.remote m sl off)) =>
    if e.kind = .load then
      let s := s.remoteOut c.ctxNo m sl (remoteSource (s.ctx c.ctxNo).member core) 0 (queueClass q) e.kind.code e.sz.toNat off 0 0 s.tick
      some (s.updCore core fun x => x.putEntry q { e with state := .sent, first := s.tick, last := s.tick })
    else
      let key := seqKey m sl (queueClass q)
      let n := seqNext c.seqs key s.tick
      if n.2 then none
      else
        let s := s.remoteOut c.ctxNo m sl (remoteSource (s.ctx c.ctxNo).member core) n.1 (queueClass q) e.kind.code e.sz.toNat
          off e.data e.data2 s.tick
        some (s.updCore core fun x =>
          { x.putEntry q { e with state := .sent, seq := n.1, first := s.tick, last := s.tick } with
            seqs := seqUse x.seqs key s.tick })
  | _ => some (s.updCore core fun x => x.putEntry q { e with state := .sent, first := s.tick, last := s.tick })

/-- The numbering of a remote store or atomic of queue q: its member, slice and class (R65, R406). -/
def State.numbering (s : State) (core q : Nat) (e : QEntry) : Option Nat :=
  if e.kind = .load then none
  else
    match s.requestPlace core e with
    | some (.ok (.remote m sl _)) => some (seqKey m sl (queueClass q))
    | _ => none

/-- Is it a remote request's turn: the earlier ones of its numbering have been sent (R65), and no other earlier request to a
common byte is open (R56)? -/
def State.inTurn (s : State) (core q : Nat) (e : QEntry) : Bool :=
  match s.requestPlace core e with
  | some (.ok (.remote _ _ _)) =>
    (s.core core).queues.toList.zipIdx.all fun x => x.1.all fun f =>
      decide (e.ord ≤ f.ord) || f.complete ||
      (if (s.numbering core q e).isSome && decide (s.numbering core x.2 f = s.numbering core q e) then decide (f.state ≠ .held)
       else !s.touches core e f)
  | _ => true

/-- The oldest held request of a queue that may be sent. -/
def State.sendable (s : State) (core q : Nat) : Option QEntry :=
  ((s.core core).queue q).find? fun e => decide (e.state = .held) && s.maySend core e && s.inTurn core q e

/-- R142: a held request is sent once the acquire and release rules allow. -/
def execQueueRequestSend (core q : Nat) (s : State) : Host.Outcome State Fault Refusal :=
  match s.sendable core q with
  | none => .next s
  | some e => .next ((s.sendEntry core q e).getD s)

/-- R406: a request whose number was in use is sent once that time has passed (`k` is its queue). -/
def execSequenceNumberFree (core k : Nat) (s : State) : Host.Outcome State Fault Refusal :=
  match s.sendable core k with
  | none => .next s
  | some e => .next ((s.sendEntry core k e).getD s)

/-- The answer of another module to a request, which this model leaves open: success with any result, or a failure that the
far side may report (R38, R53, R146; log entry 8). -/
def State.remoteAnswer (s : State) : AccessEnd × State :=
  let a := s.freeWord
  let b := a.2.freeWord
  let r : AccessEnd := match a.1.toNat % 4 with
    | 0 => .error (Kind.poison.code, 0)
    | 1 => .error (Kind.xlate.code, xcWindow)
    | 2 => .error (Kind.xlate.code, xcNotSync)
    | _ => .ok b.1
  (r, b.2)

/-- May an entry of a core's queues be performed now: it has been sent, and no earlier request to a common byte is open (R56)? A
remote request was sent in its turn. -/
def State.mayPerform (s : State) (core : Nat) (e : QEntry) : Bool :=
  decide (e.state = .sent) &&
  (s.core core).queues.toList.flatten.all fun f =>
    decide (e.ord ≤ f.ord) || f.complete ||
      (match s.requestPlace core e with | some (.ok (.remote _ _ _)) => true | _ => !s.touches core e f)

/-- What finding the place of an access does beside it (R41, R42): a cached translation is renewed, a failed walk has read its
entries. -/
def State.lookedUp (s : State) (g ctx : Nat) (addr : Word) (r : Except (Nat × Nat) Place) : State :=
  match r with
  | .ok (.hbm _ _ _ _) => s.located g ctx addr
  | .error f => if f.1 = Kind.xlate.code ∧ f.2 ∈ [xcNotMapped, xcPerm, xcMalformed, xcPhys] then s.located g ctx addr else s
  | _ => s

/-- R54, R139: a sent request is performed at its home, or fails, and its entry completes. A sequential atomic waits for
the token (R59). -/
def execQueueAccessPerform (core q i : Nat) (s : State) : Host.Outcome State Fault Refusal :=
  let c := s.core core
  match (c.queue q)[i]? with
  | none => .next s
  | some e =>
    if !s.mayPerform core e then .next s
    else
      match s.requestPlace core e with
      | none => .next s
      | some (.error f) =>
        .next ((s.lookedUp (groveOf core) c.ctxNo e.addr (.error f)).updCore core fun x => x.putEntry q (e.finish (.error f)))
      | some (.ok (.remote m sl off)) =>
        if s.placeHeld (groveOf core) c.ctxNo (.remote m sl off) then .next s
        else
          let r := s.remoteAnswer
          let s := r.2.logAnswer c.ctxNo (groveOf core) m sl (remoteSource (s.ctx c.ctxNo).member core) e.seq core e.ord r.1
          .next (s.updCore core fun x => x.putEntry q (e.finish r.1))
      | some (.ok pl) =>
        if e.kind.isSeq || s.placeHeld (groveOf core) c.ctxNo pl then .next s
        else
          let r := (s.lookedUp (groveOf core) c.ctxNo e.addr (.ok pl)).performAt pl e.kind e.sz e.data e.data2 c.ctxNo
          .next (r.2.updCore core fun x => x.putEntry q (e.finish r.1))

/-! ### Page walks (R41, R42) -/

/-- R41: walks for a grove and context; a success is cached in the grove's and the field's caches and sets A; a failure caches
nothing. -/
def execPageWalk (g ctx va : Nat) (s : State) : Host.Outcome State Fault Refusal :=
  match s.walk g ctx va with
  | .error _ => .next (s.walked g ctx va false)
  | .ok l => .next ((s.walked g ctx va true).tlbFill g (l.toTlb ctx va))

end Sys2Proof.Machine
end

