-- ==== Sys2Proof/Machine/Fabric.lean ====
section
/-!
DEFINITION. The fabric at the level of packets (R303, R304, R311): positions and hops, sending, the name-match tables, gallery
space (R305, R306), and the subscriptions a grove holds (R299).
-/

namespace Sys2Proof.Machine

/-! ### Positions and packets (R303) -/

/-- The rim field of a module-link port (R9): two ports on rim fields 1, 4, 7 and 10, three on the others, counted in ring order. -/
def portRim (p : Nat) : Nat := p / 8 * 3 + (if p % 8 < 3 then 0 else if p % 8 < 5 then 1 else 2)

/-- One hop from a grove toward another (R303): the next grove and the direction of travel, 0 north, 1 east, 2 south, 3 west.
`colFirst` follows the grove column first. Rim fields are one hop from every grove (log entry 10). -/
def hop (a b : Nat) (colFirst : Bool) : Nat × Nat :=
  if 2592 ≤ a ∨ 2592 ≤ b then (b, 4)
  else
    let dy := groveY a ≠ groveY b
    let dx := groveX a ≠ groveX b
    let moveY := if groveY a < groveY b then (a + 48, 0) else (a - 48, 2)
    let moveX := if groveX a < groveX b then (a + 1, 1) else (a - 1, 3)
    if colFirst then (if dy then moveY else if dx then moveX else (b, 4))
    else if dx then moveX else if dy then moveY else (b, 4)

/-- Subscriptions and withdrawals travel the reverse of the delivery path (R303). -/
def PktKind.reversed : PktKind → Bool
  | .sub _ => true
  | .unsub _ => true
  | _ => false

/-- The grove next to another in a direction. -/
def neighbour (g d : Nat) : Nat :=
  match d with
  | 0 => g + 48
  | 1 => g + 1
  | 2 => g - 48
  | _ => g - 1

/-- May a delivery that travels in direction `d` leave by port `e` (R303: columns first, then rows)? A delivery at its root
has no direction. -/
def mayTurn (d e : Nat) : Bool :=
  decide (d = 4) || decide (e = d) || (decide (d = 0 ∨ d = 2) && decide (e = 1 ∨ e = 3))

/-- Sends a packet to a position of the gang, member · 2,592 + grove: to another member's by the rim field of the port that its route
key chooses (R47, R303, R418). -/
def State.emit (s : State) (pos : Nat) (p : Pkt) : State :=
  let m := pos / 2592
  if m = (s.ctx p.ctx).member then s.send { p with dst := pos % 2592 }
  else
    s.send { p with dst := farCode m (pos % 2592), port := portOf (s.ctx p.ctx) m p.routeKey }

/-- Sends a new packet to a position of the gang. -/
def State.sendTo (s : State) (ctx : Nat) (name : Name) (kind : PktKind) (src pos : Nat) (express : Bool) (inj : Nat)
    (data : Payload) (wid : Word) : State :=
  s.emit pos (mkPkt ctx name kind src 0 express inj data wid s.clk)

/-- Sends a packet to the source of another: a grove or rim field here, or a grove of another member. -/
def State.sendBack (s : State) (ctx : Nat) (name : Name) (kind : PktKind) (src code : Nat) (express : Bool) (inj : Nat)
    (data : Payload) (wid : Word) : State :=
  if isFar code then s.sendTo ctx name kind src (farPos code) express inj data wid
  else s.send (mkPkt ctx name kind src code express inj data wid s.clk)

/-- Packet k of the fabric. -/
def State.pkt (s : State) (k : Nat) : Option Pkt := s.net[k]?
/-- Removes packet k. -/
def State.dropPkt (s : State) (k : Nat) : State := { s with net := s.net.eraseIdx k }

/-- The order in which a router output and a root choose among packets (R311): express first, then the older injection
tick, the lower source, the lower chunk. -/
def Pkt.chunkNo (p : Pkt) : Nat :=
  match p.kind with
  | .pubChunk _ _ c _ _ _ _ _ => c
  | .deliver _ c _ _ => c
  | _ => 0

/-- Does packet `p` go before `q` (R311)? -/
def Pkt.before (p q : Pkt) : Bool :=
  if p.express ≠ q.express then p.express
  else if p.inj % 2 ^ 32 ≠ q.inj % 2 ^ 32 then olderTick p.inj q.inj
  else if p.src ≠ q.src then decide (p.src < q.src)
  else decide (p.chunkNo < q.chunkNo)

/-- The order in which a root processes packets: arrival order, ties by R311. -/
def Pkt.sooner (p q : Pkt) : Bool := decide (p.time < q.time) || (decide (p.time = q.time) && p.before q)

/-! ### Name-match tables (R304) -/

/-- The entry of a context, name and mask. -/
def Grove.matchEntry (gr : Grove) (ctx : Nat) (name : Name) (mask : Word) : Option MatchEntry :=
  gr.matchTab.find? fun e => decide (e.ctx = ctx) && decide (e.name = name) && decide (e.mask = mask)

/-- One bit of a port set. -/
def portBit (d : Nat) : BitVec 5 := (1 : BitVec 5) <<< d

/-- A subscription passes a router (R304): it joins or installs the entry with the port it came by, `from_` being where it was
last installed and `prev` the router it came from; in a full table it installs nothing. The flag says whether it is
installed. -/
def Grove.joinMatch (gr : Grove) (ctx : Nat) (name : Name) (mask : Word) (port from_ prev : Nat) : Grove × Bool :=
  let add (e : MatchEntry) : MatchEntry :=
    if from_ = prev then { e with ports := e.ports ||| portBit port }
    else if e.uni.contains from_ then e else { e with uni := e.uni ++ [from_] }
  match gr.matchEntry ctx name mask with
  | some e => ({ gr with matchTab := gr.matchTab.map fun f => if f = e then add e else f }, true)
  | none =>
    if gr.matchTab.length < 1024 then ({ gr with matchTab := gr.matchTab ++ [add ⟨ctx, name, mask, 0, []⟩] }, true)
    else (gr, false)

/-- A withdrawal removes its port; an entry left with none is freed (R304). The flag says whether it was freed or absent. -/
def Grove.leaveMatch (gr : Grove) (ctx : Nat) (name : Name) (mask : Word) (port from_ prev : Nat) : Grove × Bool :=
  match gr.matchEntry ctx name mask with
  | none => (gr, true)
  | some e =>
    let e' := if from_ = prev then { e with ports := e.ports &&& ~~~(portBit port) }
      else { e with uni := e.uni.filter fun x => !decide (x = from_) }
    if e'.ports = 0 ∧ e'.uni.isEmpty then ({ gr with matchTab := gr.matchTab.filter fun f => !decide (f = e) }, true)
    else ({ gr with matchTab := gr.matchTab.map fun f => if f = e then e' else f }, false)

/-- Where a router sends copies of a delivery of a name (R304): neighbours by port, and routers beyond a full table, at the root
(direction 4) its own among them. -/
def Grove.copies (gr : Grove) (g ctx : Nat) (name : Name) (dir : Nat) : List Nat :=
  let es := gr.matchTab.filter fun e => decide (e.ctx = ctx) && name.matches e.name e.mask
  let ports := es.foldl (fun (p : BitVec 5) e => p ||| e.ports) 0
  let hops := ((List.range 4).filter fun d => ports.getLsbD d && mayTurn dir d).map (neighbour g)
  let own := if dir = 4 then (gr.regs.filter fun r => decide (r.ctx = ctx) && name.matches r.name r.mask).filterMap (·.uni) else []
  let uni := (es.flatMap (·.uni) ++ own).foldl (fun l x => if l.contains x || x = g then l else l ++ [x]) []
  hops ++ uni

/-! ### Gallery space (R305, R306) -/

/-- 64-byte units of a number of bytes. -/
def units (n : Nat) : Nat := (n + 63) / 64
/-- The units a version, tentative publication or vote buffer holds. -/
def Version.units (v : Version) : Nat := Machine.units v.data.length
/-- The units of a grove's name records, 16 bytes each. -/
def Grove.recordUnits (gr : Grove) : Nat := units (16 * gr.names.length)
/-- The bytes of a segment's result (R355). -/
def CollRound.segBytes (r : CollRound) : Nat :=
  let e := r.desc
  let total := match clType e with
    | 2 => clMembers e * clCount e
    | 3 => clCount e
    | _ => clCount e * clWidth e
  min 4096 (total - 4096 * r.name.c3)
/-- The members below `i` whose contributions to a segment come before its own in order (R356, R358): a COLLECT takes what comes (R365),
and blocks of an ALLTOALL are forwarded as they come (R364). -/
def clBefore (e : List Byte) (seg i : Nat) : List Nat :=
  match clType e with
  | 0 => List.range i
  | 1 => List.range i
  | 2 => (List.range i).filter fun m => decide (m * clCount e < 4096 * (seg + 1)) && decide (4096 * seg < (m + 1) * clCount e)
  | _ => []
/-- Has every member that comes before `m` in a segment been added to it (R356, R358)? -/
def CollRound.turn (r : CollRound) (m : Nat) : Bool := (clBefore r.desc r.name.c3 m).all fun k => r.early.any fun x => decide (x.1 = k)
/-- Is a member registered with a round? -/
def CollRound.hasReg (r : CollRound) (m : Nat) : Bool := r.regs.any fun x => decide (x.1 = m)
/-- The units that a collective's round holds at a root (R355, R358): its result; before it, the place that the contribution in turn
takes, of a result's size, and the contributions before their turn; of a COLLECT or ALLTOALL what has not been forwarded yet (log entry
61). -/
def CollRound.units (r : CollRound) : Nat :=
  let sum (l : List Payload) : Nat := l.foldl (fun n b => n + Machine.units b.length) 0
  match r.result with
  | some p => Machine.units p.1.length
  | none =>
    match clType r.desc with
    | 4 => if r.hasReg (clRoot r.desc) then 0 else sum (r.rows.map (·.2))
    | 5 => if r.hasReg r.name.c3 then 0 else sum (r.early.map (·.2.2))
    | _ => if r.desc.isEmpty then 0 else Machine.units r.segBytes + sum ((r.early.filter fun x => !r.turn x.1).map (·.2.2))
/-- The units in use (R305). -/
def Grove.usedUnits (gr : Grove) : Nat :=
  gr.subs.foldl (fun n x => n + units x.place) 0 + gr.versions.foldl (fun n v => n + v.units) 0 + gr.recordUnits +
  gr.rounds.foldl (fun n r => n + r.units) 0
/-- The name record of a name. -/
def Grove.nameRec (gr : Grove) (ctx : Nat) (name : Name) : Option NameRec :=
  gr.names.find? fun r => decide (r.ctx = ctx) && decide (r.name = name)
/-- Changes or adds a name record. -/
def Grove.setNameRec (gr : Grove) (r : NameRec) : Grove :=
  if (gr.nameRec r.ctx r.name).isSome then
    { gr with names := gr.names.map fun q => if q.ctx = r.ctx ∧ q.name = r.name then r else q }
  else { gr with names := gr.names ++ [r] }
/-- Is a version the latest of its name? -/
def Grove.isLatest (gr : Grove) (v : Version) : Bool :=
  match gr.nameRec v.ctx v.name, v.ver with
  | some r, some n => decide (r.latest = some n)
  | _, _ => false
/-- The retention time of a context's class, in ticks (R309). -/
def Grove.retention (gr : Grove) (ctx : Nat) (express : Bool) : Nat :=
  let w := Tbl.getD gr.glRetain (ctx % 16) 0x0001000000010000
  (if express then w >>> 32 else w &&& 0xFFFFFFFF).toNat
/-- Is a version of a root a resident one, without a pin (R306, R382)? -/
def Grove.unpinned (gr : Grove) (v : Version) (tick : Nat) : Bool :=
  v.ver.isSome && v.vote.isEmpty && !v.held && v.owed.isEmpty && v.acks.isEmpty && v.pins.isEmpty &&
  decide (v.acceptT + gr.retention v.ctx v.express ≤ tick)
/-- Is an unpinned version dropped at once (R306)? -/
def Grove.dropsNow (gr : Grove) (v : Version) (tick : Nat) : Bool :=
  gr.unpinned v tick && (!gr.isLatest v || (v.keep && v.wbDone))
/-- Drops a version; dropping the latest sets DEL (R306). -/
def Grove.dropVersion (gr : Grove) (v : Version) : Grove :=
  let gr' := { gr with versions := gr.versions.filter fun w => !decide (w.order = v.order) }
  match gr.nameRec v.ctx v.name with
  | some r => if gr.isLatest v then gr'.setNameRec { r with del := true } else gr'
  | none => gr'
/-- Drops every version that is dropped at once (R306). -/
def Grove.sweep (gr : Grove) (tick : Nat) : Grove :=
  gr.versions.foldl (fun g v => if g.dropsNow v tick then g.dropVersion v else g) gr
/-- The least recently used version that may be dropped for space (R306). -/
def Grove.lru (gr : Grove) (tick : Nat) : Option Version :=
  gr.versions.foldl (fun b v => if gr.unpinned v tick then
    (match b with | some w => if v.used < w.used then some v else b | none => some v) else b) none
/-- Is a publication one of a triad's copy that its root has still to take whole (R316)? -/
def PubOp.votes (p : PubOp) : Bool := decide (p.copy < 3) && decide (p.sent ≠ 2)
/-- Makes room for a number of units, dropping unpinned versions as needed; none when it does not fit (R305 to R307). -/
def Grove.makeRoom (gr : Grove) (tick need : Nat) : Nat → Option Grove
  | 0 => none
  | fuel + 1 =>
    if gr.usedUnits + need ≤ 4096 then some gr
    else match gr.lru tick with
      | some v => (gr.dropVersion v).makeRoom tick need fuel
      | none => none

/-! ### Subscriptions of a grove (R292, R299, R301) -/

/-- A subscription of a grove by identity. -/
def Grove.sub? (gr : Grove) (id : Nat) : Option Sub := gr.subs.find? fun x => decide (x.id = id)
/-- Changes a subscription. -/
def Grove.updSub (gr : Grove) (id : Nat) (f : Sub → Sub) : Grove :=
  { gr with subs := gr.subs.map fun x => if x.id = id then f x else x }
/-- The task index a subscription belongs to. -/
def SubOwner.task : SubOwner → Nat
  | .record t _ => t
  | .kernel t => t
  | .halo t _ => t
/-- A subscription of a task's record receives one version (R300). -/
def Sub.one (x : Sub) : Bool := match x.owner with | .record _ _ => true | _ => false
/-- Adds a subscription that waits for landing space (R299). -/
def Grove.addSub (gr : Grove) (ctx : Nat) (owner : SubOwner) (ch : Nat) (name : Name) (mask : Word) (depth : Nat)
    (last : List (Name × Nat)) : Grove :=
  { gr with
    subs := gr.subs ++ [⟨gr.ids, ctx, owner, ch, name, mask, depth, 0, .waiting, last, []⟩], ids := gr.ids + 1 }

/-- The registration that a subscription carries to its root (R300, R301, R314). -/
def State.subReg (s : State) (g : Nat) (x : Sub) : SubReg :=
  let t := Tbl.get? (s.grove g).tasks x.owner.task
  let im := (s.ctx x.ctx).image
  let exact := match x.owner, t with
    | .record _ i, some r => if r.exact then r.subs[i]?.map (·.ver) else none
    | _, _ => none
  { ctx := x.ctx, name := x.name, mask := x.mask, grove := g, sub := x.id, one := x.one, backed := chBacked (im.chan x.ch),
    guarded := (match t with | some r => r.guarded | none => false),
    instT := (match x.owner, t with | .record _ _, some r => r.instT | _, _ => 0), exact := exact, last := x.last,
    wid := (match t with | some r => r.wid | none => 0), order := 0, served := false, uni := none }

/-- The roots of a subscription: the name's root, or with a mask every ready grove of the partition, and of its gang's other members
(R19, R292). -/
def State.rootsOf (s : State) (x : Sub) : List Nat :=
  let c := s.ctx x.ctx
  if x.mask = 0 then [c.rootOf x.name]
  else (s.partGroves (partOfCtx x.ctx)).map (fun g => c.member * 2592 + g) ++ c.rootList.filter fun p => decide (p / 2592 ≠ c.member)

/-- The direction opposite to a direction of travel; a packet that was made here came by the local port. -/
def comingFrom (d : Nat) : Nat := match d with | 0 => 2 | 1 => 3 | 2 => 0 | 3 => 1 | _ => 4

/-- A withdrawal comes to a router on its path (R304): it removes its port. The flag says whether it goes on: the entry was left
with no port, or there is none. -/
def State.withdrawAt (s : State) (h : Nat) (p : Pkt) (r : SubReg) : State × Pkt × Bool :=
  let prev := if p.inp = 4 then h else neighbour h (comingFrom p.inp)
  let from_ := if p.inp = 4 then h else p.via
  let had := ((s.grove h).matchEntry r.ctx r.name r.mask).isSome
  let a := (s.grove h).leaveMatch r.ctx r.name r.mask (comingFrom p.inp) from_ prev
  (s.setGrove h a.1, { p with via := if had then h else p.via }, a.2)

/-- A registration and what is owed to it are gone (R292, R299). -/
def Grove.unregister (gr : Grove) (r : SubReg) : Grove :=
  { gr with
    regs := gr.regs.filter fun q => !(decide (q.grove = r.grove) && decide (q.sub = r.sub)),
    versions := gr.versions.map fun v =>
      { v with owed := v.owed.filter (fun e => !decide (e = (r.grove, r.sub))),
               acks := v.acks.filter fun a => !(decide (a.1 = r.grove) && decide (a.2.1 = r.sub)) } }

/-- A withdrawal has ended at the root of a position, or at the router that keeps the entry for others: the root has nothing to send
by the way it came from (R304; log entry 10). -/
def State.endReg (s : State) (pos : Nat) (r : SubReg) : State :=
  if pos / 2592 = (s.ctx r.ctx).member then (s.updGrove (pos % 2592) fun gr => (gr.unregister r).sweep s.tick).traffic r.ctx else s

/-- Withdraws a subscription: its reservation and landed versions are released, and a withdrawal follows it to its roots
(R292, R299, R304). -/
def State.withdraw (s : State) (g id : Nat) : State :=
  match (s.grove g).sub? id with
  | none => s
  | some x =>
    let s1 := s.updGrove g fun gr => { gr with subs := gr.subs.filter fun y => !decide (y.id = id) }
    if x.state = .waiting then s1
    else
      let same := (s1.grove g).subs.any fun y => !decide (y.state = .waiting) && decide (y.ctx = x.ctx) && decide (y.name = x.name) &&
        decide (y.mask = x.mask)
      let a := if same then (s1.grove g, false) else (s1.grove g).leaveMatch x.ctx x.name x.mask 4 g g
      let r := s.subReg g x
      (s.rootsOf x).foldl (fun s pos =>
        if a.2 then s.sendTo x.ctx x.name (.unsub r) g pos true s.tick [] 0 else s.endReg pos r) (s1.setGrove g a.1)

/-- Withdraws every subscription of a task that a condition selects. -/
def State.withdrawOf (s : State) (g task : Nat) (sel : Sub → Bool) : State :=
  ((s.grove g).subs.filter fun x => decide (x.owner.task = task) && sel x).foldl (fun s x => s.withdraw g x.id) s

/-- Sends the unpin messages of a task's guarded landings (R306). -/
def State.unpinTask (s : State) (g i : Nat) : State :=
  match Tbl.get? (s.grove g).tasks i with
  | none => s
  | some t =>
    let s1 := t.pinned.foldl (fun s p =>
      s.sendTo t.ctx p.1 (.unpin p.2.1 p.2.2) g ((s.ctx t.ctx).rootOf p.1) true s.tick [] 0) s
    s1.updTask g i fun t => { t with pinned := [] }

end Sys2Proof.Machine
end

