-- ==== Sys2Proof/Machine/Copy.lean ====
section
/-!
DEFINITION. The copy engine (R236 to R260): descriptors and window maps, the checks of `copy`, the runs of a nest, converting
copies, completion trackers with `cwait` and `ctest`, and the events of a copy.
-/

namespace Sys2Proof.Machine

/-! ### Descriptors (R236 to R239) and window maps (R246) -/

/-- Reads the 128 bytes of a descriptor; only the levels in use are kept. -/
def parseCopy (b : List Byte) : CopyDesc :=
  let w (o : Nat) : Word := BitVec.ofNat 64 (fieldOfBytes b o 8)
  let n := min ((w 16).extractLsb' 16 3).toNat 6
  ⟨w 0, w 8, w 16, w 24, (List.range n).map fun l =>
    (fieldOfBytes b (32 + 16 * l) 2 + 1, intVal 48 true (fieldOfBytes b (34 + 16 * l) 6),
      intVal 48 true (fieldOfBytes b (40 + 16 * l) 6))⟩

/-- The number of levels NLEV as written. -/
def CopyDesc.nlev (d : CopyDesc) : Nat := (d.ctl.extractLsb' 16 3).toNat
/-- WIN: the source is walked through a window map. -/
def CopyDesc.win (d : CopyDesc) : Bool := d.ctl.getLsbD 14
/-- Is the destination kind 1 (extended)? -/
def CopyDesc.dk (d : CopyDesc) : Bool := d.ctl.getLsbD 13
/-- Is the source kind 1? -/
def CopyDesc.sk (d : CopyDesc) : Bool := d.ctl.getLsbD 12
/-- The run length LEN. -/
def CopyDesc.len (d : CopyDesc) : Nat := (d.ctl.extractLsb' 0 12).toNat + 1
/-- The window map's address. -/
def CopyDesc.wmap (d : CopyDesc) : Nat := (d.aux.extractLsb' 0 19).toNat
/-- The iteration counts of the six levels. -/
def CopyDesc.count (d : CopyDesc) (l : Nat) : Nat := match d.levels[l]? with | some e => e.1 | none => 1
/-- The source stride of a level. -/
def CopyDesc.sstr (d : CopyDesc) (l : Nat) : Int := match d.levels[l]? with | some e => e.2.1 | none => 0
/-- The destination stride of a level. -/
def CopyDesc.dstr (d : CopyDesc) (l : Nat) : Int := match d.levels[l]? with | some e => e.2.2 | none => 0
/-- The number of runs. -/
def CopyDesc.runs (d : CopyDesc) : Nat := (List.range 6).foldl (fun n l => n * d.count l) 1

/-- A reserved bit or byte is set, NLEV is 7, or a kind-0 base has high bits set (R241). -/
def copyReserved (d : CopyDesc) (b : List Byte) : Bool :=
  decide (d.ctl.extractLsb' 19 45 ≠ 0) || d.ctl.getLsbD 15 || decide (d.aux.extractLsb' 35 29 ≠ 0) || d.aux.getLsbD 29 ||
  d.aux.getLsbD 19 || decide (d.nlev = 7) ||
  (List.range (min d.nlev 6)).any (fun l => decide (fieldOfBytes b (46 + 16 * l) 2 ≠ 0)) ||
  (!d.sk && decide (d.src.extractLsb' 19 45 ≠ 0)) || (!d.dk && decide (d.dst.extractLsb' 19 45 ≠ 0))

/-- Reads the 64 bytes of a window map. -/
def parseMap (b : List Byte) : WinMap :=
  let n := min (fieldOfBytes b 0 1) 3
  ⟨fieldOfBytes b 1 1 % 4, BitVec.ofNat 64 (fieldOfBytes b 8 8), (List.range n).map fun d =>
    let o := 16 + 16 * d
    ⟨intVal 64 true (fieldOfBytes b o 8), fieldOfBytes b (o + 8) 2, fieldOfBytes b (o + 10) 2, fieldOfBytes b (o + 12) 1,
      fieldOfBytes b (o + 13) 1, fieldOfBytes b (o + 14) 1, fieldOfBytes b (o + 15) 1⟩⟩

/-- A list names no number twice. -/
def noRepeat (l : List Nat) : Bool :=
  match l with
  | [] => true
  | x :: r => !r.contains x && noRepeat r

/-- The error of a window map, as its ILLEGAL cause (R246). -/
def mapError (d : CopyDesc) (b : List Byte) : Option Ilc :=
  let m := parseMap b
  let n := fieldOfBytes b 0 1
  let used := m.dims.flatMap fun x => [x.lo, x.lt]
  if decide (4 ≤ fieldOfBytes b 1 1) || decide (fieldOfBytes b 2 6 ≠ 0) ||
      (b.drop (16 + 16 * min n 3)).any (fun x => decide (x ≠ 0)) then some .reserved
  else if decide (n = 0) || decide (3 < n) ||
      m.dims.any (fun x => decide (x.str = 0) || decide (x.dil = 0) || decide (x.istr < -(2 ^ 47)) || decide (2 ^ 47 ≤ x.istr)) ||
      used.any (fun l => decide (d.nlev ≤ l) || decide (d.sstr l ≠ 0)) || !noRepeat used ||
      decide (d.len % 2 ^ m.fsz ≠ 0) then some .fn
  else none

/-! ### Addresses of the runs (R242, R247) -/

/-- The address part of a base (R242). -/
def addrPart (base : Word) : Nat :=
  match (base.extractLsb' 62 2).toNat with
  | 0 => (base.extractLsb' 0 48).toNat
  | 1 => (base.extractLsb' 0 21).toNat
  | _ => (base.extractLsb' 0 27).toNat

/-- The width of a base's address part. -/
def partWidth (base : Word) : Nat :=
  match (base.extractLsb' 62 2).toNat with
  | 0 => 48
  | 1 => 21
  | _ => 27

/-- The extended address of an address part under the fields of a base. -/
def withPart (base : Word) (x : Int) : Word :=
  let w := partWidth base
  BitVec.ofNat 64 (base.toNat / 2 ^ w * 2 ^ w + (x % (2 ^ w : Nat)).toNat)

/-- Does a run of bytes stay in its form's range (R243)? -/
def partOk (base : Word) (x : Int) (len : Nat) : Bool :=
  let hi := x + len - 1
  match (base.extractLsb' 62 2).toNat with
  | 0 => decide (0 ≤ x) && decide (hi < 2 ^ 48)
  | 1 => decide (0x100000 ≤ x) && decide (hi ≤ 0x15FFFF)
  | 2 => decide (0 ≤ x) && decide (hi < 0x5000000)
  | _ => false

/-- A copy as its engine runs it: descriptor, map, displacements and the formats in force. -/
structure CopyPlan where
  d : CopyDesc
  map : Option WinMap
  sd : Int
  dd : Int
  kbank : Word
deriving DecidableEq, Repr

/-- The source's start, exactly: an address or an address part. -/
def CopyPlan.src0 (p : CopyPlan) : Int := (if p.d.sk then (addrPart p.d.src : Int) else p.d.src.toNat) + p.sd
/-- The destination's start. -/
def CopyPlan.dst0 (p : CopyPlan) : Int := (if p.d.dk then (addrPart p.d.dst : Int) else p.d.dst.toNat) + p.dd
/-- The index of level `l` in run `r`, i0 fastest. -/
def CopyPlan.idx (p : CopyPlan) (r l : Nat) : Nat :=
  (r / (List.range l).foldl (fun n k => n * p.d.count k) 1) % p.d.count l
/-- The destination of a run. -/
def CopyPlan.dstAt (p : CopyPlan) (r : Nat) : Int :=
  (List.range 6).foldl (fun a l => a + (p.idx r l : Int) * p.d.dstr l) p.dst0
/-- The position of a run along a mapped dimension (R247). -/
def CopyPlan.pos (p : CopyPlan) (r : Nat) (m : WinDim) : Int :=
  (p.idx r m.lo * m.str + p.idx r m.lt * m.dil : Nat) - (m.pad : Int)
/-- Is the run filled (R247)? -/
def CopyPlan.filled (p : CopyPlan) (r : Nat) : Bool :=
  match p.map with
  | none => false
  | some m => m.dims.any fun x => decide (p.pos r x < 0) || decide ((x.xm : Int) < p.pos r x)
/-- The source of a run that is not filled; a level that drives a mapped dimension has stride 0 (R239). -/
def CopyPlan.srcAt (p : CopyPlan) (r : Nat) : Int :=
  let lin := (List.range 6).foldl (fun a l => a + (p.idx r l : Int) * p.d.sstr l) p.src0
  match p.map with
  | none => lin
  | some m => m.dims.foldl (fun a x => a + p.pos r x * x.istr) lin

/-- The lowest and highest of a linear walk. -/
def linRange (d : CopyDesc) (base : Int) (str : Nat → Int) : Int × Int :=
  (List.range 6).foldl (fun (a : Int × Int) l =>
    let e : Int := ((d.count l : Int) - 1) * str l
    (a.1 + min 0 e, a.2 + max 0 e)) (base, base)

/-- The lowest and highest valid position of a mapped dimension over all runs; none where every run is filled. -/
def WinDim.range (m : WinDim) (d : CopyDesc) : Option (Int × Int) :=
  (List.range (d.count m.lt)).foldl (fun acc t =>
    let off : Int := (t * m.dil : Nat) - (m.pad : Int)
    let str : Int := (max m.str 1 : Nat)
    let lo := max 0 ((-off + str - 1) / str)
    let hi := min ((d.count m.lo : Int) - 1) (((m.xm : Int) - off) / str)
    if hi < lo then acc
    else
      let a := lo * str + off
      let b := hi * str + off
      match acc with
      | none => some (a, b)
      | some (x, y) => some (min x a, max y b)) none

/-- The lowest and highest run start of the source over the runs that are not filled; none where all are. -/
def CopyPlan.srcRange (p : CopyPlan) : Option (Int × Int) :=
  let lin := linRange p.d p.src0 p.d.sstr
  match p.map with
  | none => some lin
  | some m => m.dims.foldl (fun acc x =>
      match acc, x.range p.d with
      | some (a, b), some (u, v) => some (a + min (u * x.istr) (v * x.istr), b + max (u * x.istr) (v * x.istr))
      | _, _ => none) (some lin)

/-- The lowest and highest run start of the destination. -/
def CopyPlan.dstRange (p : CopyPlan) : Int × Int := linRange p.d p.dst0 p.d.dstr

/-- The bank codes of a span of core-local bytes. -/
def spanCodes (kbank : Word) (lo hi : Int) : List Nat :=
  let a := (max lo 0).toNat
  let b := (min hi 0x5FFFF).toNat
  (List.range 8).filterMap fun k => if a / 0xC000 ≤ k ∧ k ≤ b / 0xC000 then some (bankCode kbank k) else none

/-- Does the copy convert (R244)? The spans are those of runs of LEN bytes. -/
def CopyPlan.converting (p : CopyPlan) : Bool :=
  if p.d.sk || p.d.dk then false
  else
    match p.srcRange with
    | none => false
    | some (a, b) =>
      let len : Int := p.d.len
      let dr := p.dstRange
      (spanCodes p.kbank a (b + len - 1)).any fun x => (spanCodes p.kbank dr.1 (dr.2 + len - 1)).any fun y =>
        decide (x ≠ 0) && decide (y ≠ 0) && decide (x ≠ y)

/-- The format of the bank that holds a core-local address. -/
def CopyPlan.fmtAt (p : CopyPlan) (a : Int) : Fmt := Fmt.ofBank (bankCode p.kbank (a.toNat / 0xC000))

/-- Bytes of a run at the source. -/
def CopyPlan.srcLen (p : CopyPlan) : Nat :=
  if p.converting then (p.fmtAt (match p.srcRange with | some r => r.1 | none => 0)).rowBytes p.d.len else p.d.len
/-- Bytes of a run at the destination. -/
def CopyPlan.dstLen (p : CopyPlan) : Nat := if p.converting then (p.fmtAt p.dstRange.1).rowBytes p.d.len else p.d.len

/-- The chunk of the destination that holds an address, counted from the first one (R252). -/
def CopyPlan.chunkOf (p : CopyPlan) (a : Int) : Nat := (a / 512 - p.dstRange.1 / 512).toNat
/-- The number of destination chunks (R252). -/
def CopyPlan.nch (p : CopyPlan) : Nat := p.chunkOf (p.dstRange.2 + p.dstLen - 1) + 1
/-- The chunks a run writes. -/
def CopyPlan.runChunks (p : CopyPlan) (r : Nat) : List Nat :=
  let a := p.dstAt r
  let lo := p.chunkOf a
  (List.range (p.chunkOf (a + p.dstLen - 1) + 1 - lo)).map (lo + ·)
/-- The chunks that no run writes, set at issue (R252). -/
def CopyPlan.freeChunks (p : CopyPlan) : List Nat :=
  let w := (List.range p.d.runs).flatMap p.runChunks
  (List.range p.nch).filter fun c => !w.contains c

/-! ### Checks (R241) -/

/-- Is a wide format misaligned at a base or at a stride of a level that iterates? -/
def CopyPlan.misaligned (p : CopyPlan) (f : Fmt) (base : Int) (str : Nat → Int) : Bool :=
  let w : Nat := f.width / 8
  decide (16 ≤ f.width) && (decide (base % (w : Int) ≠ 0) ||
    (List.range 6).any fun l => decide (1 < p.d.count l) && decide (str l % (w : Int) ≠ 0))

/-- The checks of R241 from LEN on, in the order of its table. -/
def CopyPlan.check (p : CopyPlan) : Option Trap :=
  let conv := p.converting
  let src := p.srcRange
  let dst := p.dstRange
  let sl : Int := p.srcLen
  let dl : Int := p.dstLen
  let srcOut := if p.d.sk then none else match src with | some r => outside r.1 (r.2 + sl - 1) | none => none
  let dstOut := if p.d.dk then none else outside dst.1 (dst.2 + dl - 1)
  if (!p.d.win && !conv && decide (p.d.len < 32)) || (p.d.win && conv) then some (.illegal .fn)
  else if 1024 < p.nch then some (.illegal .fn)
  else match srcOut, dstOut with
    | some a, _ => some (.xlate xcRange a)
    | none, some a => some (.xlate xcRange a)
    | none, none =>
      if !conv then none
      else
        let codes (l : List Nat) : Bool := match l with | [] => false | x :: r => r.any (fun y => decide (y ≠ x))
        let s := match src with | some r => r | none => (0, 0)
        if codes (spanCodes p.kbank s.1 (s.2 + sl - 1)) || codes (spanCodes p.kbank dst.1 (dst.2 + dl - 1)) then
          some (.illegal .fn)
        else if p.misaligned (p.fmtAt s.1) p.src0 p.d.sstr then some (.at_ .align (BitVec.ofInt 64 p.src0))
        else if p.misaligned (p.fmtAt dst.1) p.dst0 p.d.dstr then some (.at_ .align (BitVec.ofInt 64 p.dst0))
        else none

/-- The scoreboard regions of a copy (R248). -/
def CopyPlan.regions (p : CopyPlan) : List Region :=
  (if p.d.sk then [] else match p.srcRange with
    | some r => [⟨false, r.1.toNat, (r.2 + p.srcLen - r.1).toNat⟩]
    | none => []) ++
  (if p.d.dk then [] else [⟨true, p.dstRange.1.toNat, (p.dstRange.2 + p.dstLen - p.dstRange.1).toNat⟩])

/-- The plan of a copy job of a core. -/
def Job.copyPlan (j : Job) : Option CopyPlan :=
  match j.kind with
  | .copy _ _ d m sd dd => some ⟨d, m, sd, dd, j.kbank⟩
  | _ => none

/-! ### Trackers (R252 to R256) -/

/-- A tracker. -/
def Core.tracker (c : Core) (t : Nat) : Tracker := c.trackers[t]?.getD .idle
/-- Replaces a tracker. -/
def Core.setTracker (c : Core) (t : Nat) (x : Tracker) : Core := { c with trackers := c.trackers.setIfInBounds t x }

/-- Sets chunk bits. -/
def setBits (b : BitVec 1024) (l : List Nat) : BitVec 1024 := l.foldl (fun b i => b ||| ((1 : BitVec 1024) <<< i)) b

/-- The tracker of a copy that has just issued (R252). -/
def CopyPlan.tracker (p : CopyPlan) : Tracker :=
  ⟨1, p.nch, setBits 0 p.freeChunks, false, false, false, 0, false, 0, 0⟩

/-- The completion record (R253). -/
def Tracker.record (t : Tracker) : Word :=
  let b (x : Bool) (i : Nat) : Nat := if x then 2 ^ i else 0
  BitVec.ofNat 64 (t.nch * 2 ^ 32 + b t.endDst 24 + b t.ack 23 + t.xc % 8 * 2 ^ 20 + b t.fault 19 + b t.drop 18 +
    t.state % 4 * 2 ^ 16 + min t.fruns 0xFFFF)

/-- Is a fault of the tracker not acknowledged (R256)? -/
def Tracker.unacked (t : Tracker) : Bool := t.fault && !t.ack

/-! ### Issuing (R240) -/

/-- The bytes of a descriptor that are read: the levels not in use are not, so poison there raises nothing (R237; log entry 68). -/
def copyBytes (s : State) (core : Nat) (a : Word) : Nat :=
  let ctl := (readBytes s.mem (spKey core (a.toNat + 16)) 8).map (·.getD 0)
  32 + 16 * min (fieldOfBytes ctl 2 1 % 8) 6

/-- The descriptor and window map of a `copy` (R240, R241): the first failing check in the order of R241, a wait, or what they
hold. -/
def State.readCopy (s : State) (c : Core) (a : Word) : Except Eff (CopyDesc × List Byte × List Byte × State) :=
  if a.toNat % 64 ≠ 0 then .error (.trap (.at_ .align a))
  else if 0x60000 < a.toNat + 128 then .error (.trap (.xlate xcRange a))
  else if c.accessWaits a.toNat 128 false then .error .stall
  else
    let len := copyBytes s s.cur a
    let b := s.readMem (spKey s.cur a.toNat) len
    let bytes := b.1.map (·.getD 0) ++ List.replicate (128 - len) 0
    let d := parseCopy bytes
    let w : Word := BitVec.ofNat 64 d.wmap
    if b.1.poisoned then .error (.trap (.poisonRead a (spKey s.cur a.toNat) len))
    else if d.wmap % 64 ≠ 0 then .error (.trap (.at_ .align w))
    else if !d.win then .ok (d, bytes, [], b.2)
    else if 0x60000 < d.wmap + 64 then .error (.trap (.xlate xcRange w))
    else if c.accessWaits d.wmap 64 false then .error .stall
    else
      let m := b.2.readMem (spKey s.cur d.wmap) 64
      if m.1.poisoned then .error (.trap (.poisonRead w (spKey s.cur d.wmap) 64)) else .ok (d, bytes, m.1.map (·.getD 0), m.2)

/-- What a copy's ends outside the scratchpad wait for (R142). -/
def State.copyAcquires (s : State) (c : Core) (d : CopyDesc) : Bool :=
  (d.sk && c.acquireHolds (s.scopeOf s.cur d.src) c.bord) || (d.dk && c.acquireHolds (s.scopeOf s.cur d.dst) c.bord)

/-- What issuing a `copy` reads: its descriptor and its window map. -/
def copyReads (core : Nat) (a : Word) (d : CopyDesc) : List (Nat × Nat) :=
  (spKey core a.toNat, 32 + 16 * min d.nlev 6) :: (if d.win then [(spKey core d.wmap, 64)] else [])

/-- R240, R241. -/
def execCopy (d a b : BitVec 7) (p : BitVec 3) (e : BitVec 5) (s : State) : Host.Outcome State Fault Refusal :=
  runOp (.copy d a b p e) s fun c =>
    let t := c.tracker d.toNat
    if c.waitHolds || decide (t.state = 1) then .stall
    else if t.unacked then .trap (.xlate t.xc t.addr)
    else
      match s.readCopy c (c.ra a.toNat) with
      | .error x => x
      | .ok (desc, bytes, map, s1) =>
        let trap (x : Trap) : Eff := .trap { x with reads := copyReads s.cur (c.ra a.toNat) desc }
        if copyReserved desc bytes || (desc.win != decide (desc.wmap ≠ 0)) then trap (.illegal .reserved)
        else
          match (if desc.win then mapError desc map else none) with
          | some ilc => trap (.illegal ilc)
          | none =>
            let m := if desc.win then some (parseMap map) else none
            let plan : CopyPlan := ⟨desc, m, (c.rs b.toNat).toInt, (c.rs e.toNat).toInt, c.kbank⟩
            match plan.check with
            | some x => trap x
            | none =>
              match c.cardWaits plan.regions with
              | some x => x
              | none =>
                if s.copyAcquires c desc then .stall
                else
                  let kind := JobKind.copy (some d.toNat) none desc m plan.sd plan.dd
                  .ok (s1.updCore s.cur fun x =>
                    (x.enterJob s.clk 2 kind plan.regions).setTracker d.toNat plan.tracker)

/-! ### `cwait` and `ctest` (R254, R255) -/

/-- Waits for a set of chunks: chunks at or above NCH are left out. -/
def chunkWait (s : State) (c : Core) (d a : BitVec 7) (set : List Nat) : Eff :=
  let set := set.filter fun k => decide (k < (c.tracker a.toNat).nch)
  .ok (s.updCore s.cur fun x =>
    { x with ords := x.ords + 1, pend := x.pend ++ [⟨pReg d, 0, 0, .chunks a.toNat set c.ords, s.clk⟩] })

/-- R254. -/
def execCwait (d a b : BitVec 7) (p : BitVec 3) (s : State) : Host.Outcome State Fault Refusal :=
  runOp (.cwait d a b p) s fun c =>
    let lo := ((c.rs b.toNat).extractLsb' 0 11).toNat
    let hi := ((c.rs b.toNat).extractLsb' 16 11).toNat
    chunkWait s c d a ((List.range (hi + 1 - lo)).map (lo + ·))
/-- R254. -/
def execCwaitW (d a b : BitVec 7) (p : BitVec 3) (k : BitVec 4) (s : State) : Host.Outcome State Fault Refusal :=
  runOp (.cwaitW d a b p k) s fun c =>
    chunkWait s c d a (((List.range 64).filter fun j => (c.rs b.toNat).getLsbD j).map (64 * k.toNat + ·))

/-- Is a wait for chunks over, and with which value (R254)? A wait lands no earlier than the clock after its issue. -/
def Core.chunkValue (c : Core) (t : Nat) (set : List Nat) : Option Nat :=
  let k := c.tracker t
  if set.all (fun i => k.bits.getLsbD i) || decide (k.state = 0) then some 0xFFFFFFFF
  else if k.state = 1 then none else some 0

/-- R255. -/
def execCtest (d a b : BitVec 7) (p : BitVec 3) (s : State) : Host.Outcome State Fault Refusal :=
  runOp (.ctest d a b p) s fun c =>
    let m := (c.rs b.toNat).toNat % 32
    .ok (s.writeReg 2 (pReg d) (((c.tracker a.toNat).bits.extractLsb' (32 * m) 32).toNat) 0)
/-- R255. -/
def execCtestW (d a b : BitVec 7) (p : BitVec 3) (s : State) : Host.Outcome State Fault Refusal :=
  runOp (.ctestW d a b p) s fun c =>
    let m := (c.rs b.toNat).toNat % 16
    .ok (s.writeReg 2 (sReg d) (((c.tracker a.toNat).bits.extractLsb' (64 * m) 64).toNat) 0)
/-- Sets ACK where the tracker holds a fault (R255). -/
def Core.ackTracker (c : Core) (t : Nat) : Core :=
  let k := c.tracker t
  if k.fault then c.setTracker t { k with ack := true } else c
/-- R255. -/
def execCtestRec (d a : BitVec 7) (p : BitVec 3) (s : State) : Host.Outcome State Fault Refusal :=
  runOp (.ctestRec d a p) s fun c =>
    .ok ((s.writeReg 2 (sReg d) (c.tracker a.toNat).record.toNat 0).updCore s.cur fun x => x.ackTracker a.toNat)
/-- R255. -/
def execCtestAddr (d a : BitVec 7) (p : BitVec 3) (s : State) : Host.Outcome State Fault Refusal :=
  runOp (.ctestAddr d a p) s fun c =>
    let k := c.tracker a.toNat
    .ok ((s.writeReg 2 (sReg d) (if k.fault then k.addr.toNat else 0) 0).updCore s.cur fun x => x.ackTracker a.toNat)

/-! ### Performing runs (R242 to R251) -/

/-- The context for which a job of a core works: the slot's for a triggered one. -/
def State.jobCtx (s : State) (core : Nat) (slot : Option Nat) : Nat :=
  match slot with
  | some k => (Tbl.getD (s.grove (groveOf core)).slots k .reset).ctx
  | none => (s.core core).ctxNo

/-- Pieces of a run of an address part that no page, window unit or bank pair boundary cuts: (offset, length). -/
def runPieces (x : Int) (len : Nat) : List (Nat × Nat) :=
  let a := x.toNat % 16384
  if a + len ≤ 16384 then [(0, len)] else [(0, 16384 - a), (16384 - a, len - (16384 - a))]

/-- Where the extended end of a run leads: places of its pieces, its failing cause, or none while a translation has to be
walked first (R243). -/
def State.runPlaces (s : State) (g ctx : Nat) (base : Word) (x : Int) (len : Nat) (write user : Bool) :
    Option (Except Nat (List (Place × Nat × Nat))) :=
  if (extAddr (withPart base x)).isNone || !partOk base x len then some (.error xcRange)
  else
    let l := (runPieces x len).map fun e => (s.locate g ctx (withPart base (x + e.1)) write user, e)
    match l.findSome? (fun e => match e.1 with | some (.error c) => some c | _ => none) with
    | some c => some (.error c)
    | none =>
      if l.any (fun e => e.1.isNone) then none
      else some (.ok (l.filterMap fun e => match e.1 with | some (.ok p) => some (p, e.2.1, e.2.2) | _ => none))

/-- The first address of a run that needs a page walk, with a run's places absent. -/
def State.runWalk (s : State) (g ctx : Nat) (base : Word) (x : Int) (len : Nat) (write user : Bool) : Option Nat :=
  (runPieces x len).findSome? fun e =>
    let a := withPart base (x + e.1)
    if (s.locate g ctx a write user).isNone then some (a.toNat % 2 ^ 48) else none

/-- Reads the places of a run; bytes of another module are open (log entry 9). -/
def State.readRun (s : State) (ctx : Nat) (l : List (Place × Nat × Nat)) : Payload × State :=
  l.foldl (fun acc e =>
    match e.1 with
    | .remote _ _ _ =>
      let r := (List.range ((e.2.2 + 7) / 8)).foldl (fun (a : List Byte × State) _ =>
        let f := a.2.freeWord
        (a.1 ++ natBytes 8 f.1.toNat, f.2)) ([], acc.2)
      (acc.1 ++ goodBytes (r.1.take e.2.2), r.2)
    | pl => let r := acc.2.readPlace pl e.2.2 ctx; (acc.1 ++ r.1, r.2)) ([], s)

/-- The pieces of a run of bytes from an address on that no aligned 16-byte granule boundary cuts: (offset, length) (R60). -/
def granules (a len : Nat) : List (Nat × Nat) :=
  (List.range ((a % 16 + len + 15) / 16)).map fun i =>
    let lo := 16 * i - a % 16
    (lo, min (16 * (i + 1) - a % 16) len - lo)

/-- Sends a granule of a run to another module: the bytes of its lower and of its upper 8-byte word, 64 plus 1 and 2 where these carry
poison (R52, R60). -/
def State.sendGranule (s : State) (ctx m sl src off : Nat) (b : Payload) : State :=
  let n := 8 - off % 8
  let lower : Payload := if off % 16 < 8 then b.take n else []
  let upper : Payload := b.drop lower.length
  s.remoteOut ctx m sl src 0 false (64 + (if lower.poisoned then 1 else 0) + if upper.poisoned then 2 else 0) b.length off
    (BitVec.ofNat 64 (payloadNat lower)) (BitVec.ofNat 64 (payloadNat upper)) s.tick

/-- Writes the places of a run; bytes for another module leave it (log entry 9). -/
def State.writeRunAt (s : State) (ctx src : Nat) (l : List (Place × Nat × Nat)) (data : Payload) : State :=
  l.foldl (fun s e =>
    let b := (data.drop e.2.1).take e.2.2
    match e.1 with
    | .remote m sl off =>
      (granules off b.length).foldl (fun s g => s.sendGranule ctx m sl src (off + g.1) ((b.drop g.1).take g.2)) s
    | pl => (s.writePlace pl b ctx true).1) s

/-- The bytes of a filled run (R247). -/
def WinMap.fillBytes (m : WinMap) (len : Nat) : Payload :=
  (List.range len).map fun j => some (BitVec.ofNat 8 (m.fill.toNat >>> (8 * (j % 2 ^ m.fsz))))

/-- The destination bytes of a converting run and its flags, from the bytes read of its source (R245). -/
def State.convertRun (s : State) (core : Nat) (p : CopyPlan) (sa da : Nat) (src : Payload) : Payload × Flags :=
  let fs := p.fmtAt sa
  let fd := p.fmtAt da
  let n := p.d.len
  let w := Work.start (writeRun s.mem (spKey core sa) src).1 core [⟨false, sa, fs.rowBytes n⟩, ⟨true, da, fd.rowBytes n⟩]
  let elems := (List.range n).map (w.getAt p.kbank fs sa)
  let w := elems.zipIdx.foldl (fun w e =>
    w.putAt p.kbank fd da e.2 (n - 1) (fun f => f.encode .rne true fs.isInt e.1.1) e.1.1 false e.1.2) w
  ((List.range (fd.rowBytes n)).map fun i =>
    if w.badIn (da + i) 1 then none else some (Memory.read w.mem (spKey core (da + i))), w.flags)

/-- The elements of a row that its first bytes hold whole (R105, R107). -/
def Fmt.elemsIn (f : Fmt) (bytes : Nat) : Nat :=
  match f with
  | .db8 => 32 * (bytes / 34)
  | .db4 => 32 * (bytes / 18)
  | f => 8 * bytes / f.width

/-- The bytes of a row that its first elements fill (R105, R107). -/
def Fmt.bytesOf (f : Fmt) (elems : Nat) : Nat :=
  match f with
  | .db8 => 34 * (elems / 32)
  | .db4 => 18 * (elems / 32)
  | f => elems * f.width / 8

/-- The destination bytes that the first bytes read of a run's source decide. -/
def CopyPlan.ripe (p : CopyPlan) (r got : Nat) : Nat :=
  if !p.converting then got
  else if p.srcLen ≤ got then p.dstLen
  else (p.fmtAt (p.dstAt r)).bytesOf ((p.fmtAt (p.srcAt r)).elemsIn got)

/-- The words that a converting run reads: those that hold an element of the row, not the rest of a partial unit (R245). -/
def CopyPlan.readWords (p : CopyPlan) (core sa : Nat) : List (Nat × Nat) :=
  let f := p.fmtAt sa
  let word (a : Nat) : Nat := spKey core (a / 8 * 8)
  let of (i : Nat) : List Nat :=
    let o := f.bitOffset i
    [word (sa + o / 8), word (sa + (o + f.width - 1) / 8)] ++
      (if f.isDb then [word (sa + f.expOffset i), word (sa + f.expOffset i + 1)] else [])
  ((List.range p.d.len).foldl (fun (l : List Nat) i => (of i).foldl (fun l k => if l.take 8 |>.contains k then l else k :: l) l) []).map
    fun k => (k, 8)

/-- Where both ends of a run lead, the source resolved before the destination, or the failure: cause, address and end (R242,
R243). None while a translation has to be walked first. -/
def State.resolveRun (s : State) (core ctx : Nat) (user : Bool) (p : CopyPlan) (r : Nat) :
    Option (Except (Nat × Word × Bool) (List (Place × Nat × Nat) × List (Place × Nat × Nat))) :=
  let g := groveOf core
  let sa := p.srcAt r
  let da := p.dstAt r
  let src : Option (Except Nat (List (Place × Nat × Nat))) :=
    if p.filled r then some (.ok [])
    else if p.d.sk then s.runPlaces g ctx p.d.src sa p.d.len false user
    else some (.ok [(.sp core sa.toNat, 0, p.d.len)])
  let dst : Option (Except Nat (List (Place × Nat × Nat))) :=
    if p.d.dk then s.runPlaces g ctx p.d.dst da p.d.len true user
    else some (.ok [(.sp core da.toNat, 0, p.d.len)])
  match src with
  | none => none
  | some (.error c) => some (.error (c, withPart p.d.src sa, false))
  | some (.ok sl) =>
    match dst with
    | none => none
    | some (.error c) => some (.error (c, withPart p.d.dst da, true))
    | some (.ok dl) => some (.ok (sl, dl))

/-- What looking up the translations of an extended end does (R41, R42). -/
def State.runLooked (s : State) (g ctx : Nat) (base : Word) (x : Int) (len : Nat) (write user : Bool) : State :=
  if (extAddr (withPart base x)).isNone || !partOk base x len then s
  else (runPieces x len).foldl (fun s e =>
    let a := withPart base (x + e.1)
    match s.locate g ctx a write user with
    | some (.ok pl) => s.lookedUp g ctx a (.ok pl)
    | some (.error c) => s.lookedUp g ctx a (.error (Kind.xlate.code, c))
    | none => s) s

/-- The look-ups of both ends of a run. -/
def State.endsLooked (s : State) (core ctx : Nat) (user : Bool) (p : CopyPlan) (r : Nat) : State :=
  let g := groveOf core
  let s := if p.d.sk && !p.filled r then s.runLooked g ctx p.d.src (p.srcAt r) p.d.len false user else s
  if p.d.dk then s.runLooked g ctx p.d.dst (p.dstAt r) p.d.len true user else s

/-- Has all of a run's source been read? A run that is filled reads nothing, and one from outside the scratchpad is read when it
begins. -/
def CopyPlan.readUp (p : CopyPlan) (e : Moving) : Bool := p.filled e.run || p.d.sk || decide (p.srcLen ≤ e.got)

/-- The scratchpad as a run of a copy finds it: with the bytes that its earlier runs have still to write (R251). -/
def State.ahead (s : State) (core : Nat) (j : Job) (p : CopyPlan) (r : Nat) : State :=
  if p.d.dk then s
  else { s with mem := (j.moving.filter fun e => decide (e.run ≠ r)).foldl (fun m e =>
    (writeRun m (spKey core ((p.dstAt e.run).toNat + e.wrote)) e.data).1) s.mem }

/-- How many bytes of a run from an address on go through the scratchpad port in one clock: at most 128, and no aligned 16-byte granule
in two (R60, R249). -/
def portBytes (a left : Nat) : Nat := if left ≤ 128 then left else (a + 128) / 16 * 16 - a

/-- A clock's read of a run from the scratchpad: the run after it, its flags once all is read, and the state (R245, R249, R251). -/
def State.readPiece (s : State) (core : Nat) (j : Job) (p : CopyPlan) (e : Moving) : Moving × Flags × State :=
  let sa := (p.srcAt e.run).toNat
  let a := sa + e.got
  let n := portBytes a (p.srcLen - e.got)
  let b := readBytes (s.ahead core j p e.run).mem (spKey core a) n
  let got := e.got + n
  let e' := { e with got := got, seen := e.data.length, at_ := s.clk }
  if p.converting then
    let src := e.src ++ b
    let out := (s.ahead core j p e.run).convertRun core p sa (p.dstAt e.run).toNat src
    let read := (p.readWords core sa).filter fun k => decide (spKey core a / 8 * 8 ≤ k.1) && decide (k.1 < spKey core (a + n))
    ({ e' with src := src, data := (out.1.take (p.ripe e.run got)).drop e.wrote }, if p.srcLen ≤ got then out.2 else 0, s.scrubs read)
  else ({ e' with data := e.data ++ b }, 0, s.scrub (spKey core a) n)

/-- Has a run of a job been performed or failed? -/
def Job.ran (j : Job) (r : Nat) : Bool := decide (r < j.steps) || j.doneSet.contains r

/-- Records a run as over. -/
def Job.markRun (j : Job) (r : Nat) : Job :=
  let rec settle : Nat → Nat → List Nat → Nat × List Nat
    | 0, n, l => (n, l)
    | f + 1, n, l => if l.contains n then settle f (n + 1) (l.erase n) else (n, l)
  let x := settle (j.doneSet.length + 1) j.steps (j.doneSet ++ [r])
  { j with steps := x.1, doneSet := x.2 }

/-- The requests of releases before an order number that are not yet complete hold a copy's accesses as long as what they
cover is not performed (R61). -/
def State.releasesMet (s : State) (core bound : Nat) : Bool :=
  let c := s.core core
  (c.queues.toList.flatten.all fun e =>
    !e.rel || decide (bound ≤ e.ord) || e.complete || s.released core e.scope e.ord) &&
  c.xops.all fun o => !o.rel || decide (bound ≤ o.ord) || s.released core 1 o.ord

/-- The entry of a run that has begun and is not over. -/
def Job.moved (j : Job) (r : Nat) : Option Moving := j.moving.find? fun e => decide (e.run = r)

/-- The runs of a copy from a scratchpad source that have begun: they begin in nest order. -/
def Job.begunRuns (j : Job) : Nat := j.steps + j.doneSet.length + j.moving.length

/-- Has a copy read the last of its scratchpad source (R248)? Runs that are filled read nothing. -/
def Job.readsOver (j : Job) (p : CopyPlan) : Bool :=
  j.moving.all p.readUp &&
  (decide (p.d.runs ≤ j.begunRuns) || (p.map.isSome && ((List.range p.d.runs).drop j.begunRuns).all p.filled))

/-- Is the read direction of the scratchpad port free of earlier copies (R249)? -/
def Core.readPort (c : Core) (j : Job) (clk : Nat) : Bool :=
  c.jobs.all fun k => decide (j.ord ≤ k.ord) ||
    (match k.copyPlan with
     | some q => q.d.sk || (k.readsOver q && decide (k.accept ≠ some clk))
     | none => true)

/-- Do the read entries, or the write entries, of a job wait for earlier ones (R21)? -/
def Core.sideWaits (c : Core) (id : Nat) (write : Bool) : Bool := (c.entriesOf id).any fun e => (e.write == write) && c.entryWaits e

/-- Is a job a triggered copy that acts on no scratchpad? -/
def Job.loose (j : Job) : Bool :=
  match j.kind with
  | .copy none (some _) d _ _ _ => d.sk && d.dk
  | _ => false

/-- May a run of a copy go on now: begin, read on, or once all its data are present be written outside the scratchpad (R61, R249,
R251)? A copy from the scratchpad, and one with a window map, begins one run in a clock. A copy that a trigger fires without a core's
scratchpad waits for no core's releases (R335). -/
def State.runMay (s : State) (core : Nat) (j : Job) (p : CopyPlan) (r : Nat) : Bool :=
  let c := s.core core
  match j.moved r with
  | some e => if p.readUp e then p.d.dk && (decide (e.at_ < s.clk) || decide (e.data.length ≤ e.seen)) else decide (e.at_ < s.clk)
  | none =>
    decide (r < p.d.runs) && !j.ran r && decide (j.entered < s.clk) &&
    ((!p.d.sk && !p.d.dk) || j.loose || s.releasesMet core j.ord) &&
    ((p.d.sk && p.map.isNone) || (match j.start with | some t => decide (t ≤ s.clk) | none => true)) &&
    (p.d.sk ||
      (decide (r = j.begunRuns) && j.moving.all p.readUp && (p.filled r || (!c.sideWaits j.id false && c.readPort j s.clk))))

/-- Is an end of a run held back by a snapshot record (R371, R378)? -/
def State.runHeld (s : State) (core ctx : Nat) (user : Bool) (j : Job) (p : CopyPlan) (r : Nat) : Bool :=
  let held (x : Option (Except Nat (List (Place × Nat × Nat)))) : Bool :=
    match x with
    | some (.ok l) => l.any fun e => s.placeHeld (groveOf core) ctx e.1
    | _ => false
  match j.moved r with
  | some e => e.dst.any fun x => s.placeHeld (groveOf core) ctx x.1
  | none =>
    (p.d.sk && !p.filled r && held (s.runPlaces (groveOf core) ctx p.d.src (p.srcAt r) p.d.len false user)) ||
    (p.d.dk && held (s.runPlaces (groveOf core) ctx p.d.dst (p.dstAt r) p.d.len true user))

/-- The runs of a copy among which the next to go on is found: those that have begun, and then any where the source is outside the
scratchpad, else the next in nest order. -/
def Job.candidates (j : Job) (p : CopyPlan) : List Nat :=
  j.moving.map (·.run) ++ (if p.d.sk then (List.range p.d.runs).drop j.steps else [j.begunRuns])

/-- The next run of a copy that waits for a page walk: the address to walk (R243). -/
def State.copyWalk (s : State) (core : Nat) (j : Job) : Option (Nat × Nat × Nat) :=
  match j.kind, j.copyPlan with
  | .copy _ slot _ _ _ _, some p =>
    let ctx := s.jobCtx core slot
    let user := slot.isSome || !(s.core core).sup
    (j.candidates p).findSome? fun r =>
      if !s.runMay core j p r || (j.moved r).isSome then none
      else
        let g := groveOf core
        match (if p.d.sk && !p.filled r then s.runWalk g ctx p.d.src (p.srcAt r) p.d.len false user else none) with
        | some va => some (g, ctx, va)
        | none => (if p.d.dk then s.runWalk g ctx p.d.dst (p.dstAt r) p.d.len true user else none).map fun va => (g, ctx, va)
  | _, _ => none

/-- Has a run written all it writes of a chunk: it has been performed, or the bytes that it has still to write lie elsewhere? -/
def CopyPlan.wrote (p : CopyPlan) (j : Job) (q c : Nat) : Bool :=
  if j.ran q then !j.failed.any (fun f => decide (f.1 = q))
  else
    match j.moved q with
    | none => false
    | some e =>
      let a := p.dstAt q + e.wrote
      decide (c < p.chunkOf a) || decide (p.chunkOf (p.dstAt q + p.dstLen - 1) < c)

/-- The chunks that become complete with a write of bytes by a run: every run that writes them has written all of them, and none of
those failed (R252). `j` is the job after the write. -/
def CopyPlan.newChunks (p : CopyPlan) (j : Job) (a : Int) (len : Nat) : List Nat :=
  let lo := p.chunkOf a
  ((List.range (p.chunkOf (a + len - 1) + 1 - lo)).map (lo + ·)).filter fun c =>
    (List.range p.d.runs).all fun q => !(p.runChunks q).contains c || p.wrote j q c

/-- Counts written chunks on the copy's counter (R258); the flag says that events were dropped. -/
def State.chunkEvents (s : State) (g ctx : Nat) (d : CopyDesc) (n : Nat) : State × Bool :=
  if n = 0 || !d.aux.getLsbD 27 || d.aux.getLsbD 28 then (s, false)
  else
    let k := (d.aux.extractLsb' 20 7).toNat
    if (s.grove g).takesCopy ctx k then (s.updGrove g fun x => x.raiseCounter k n, false) else (s, true)

/-- Bytes of a run have been written: the job goes on as `j`, and the chunks that they complete are marked and counted (R252, R258). -/
def State.wrotePiece (s : State) (core ctx : Nat) (tr : Option Nat) (d : CopyDesc) (j : Job) (p : CopyPlan) (a : Int) (len : Nat) : State :=
  let l := p.newChunks j a len
  let ev := s.chunkEvents (groveOf core) ctx d l.length
  ev.1.updCore core fun c =>
    let c := c.updJob j.id fun _ => j
    match tr with
    | some t =>
      let k := c.tracker t
      c.setTracker t { k with bits := setBits k.bits l, drop := k.drop || ev.2 }
    | none => c

/-- A run is over: it is taken from those that have begun. -/
def Job.endRun (j : Job) (r : Nat) : Job := ({ j with moving := j.moving.filter fun e => !decide (e.run = r) }).markRun r

/-- A run fails: it reads and writes nothing (R243). -/
def Job.failRun (j : Job) (r : Nat) (f : Nat × Word × Bool) : Job :=
  { j.endRun r with failed := j.failed ++ [(r, f.1, f.2.1.toNat, f.2.2)] }

/-- Replaces the entry of a run that has begun, or enters it. -/
def Job.putRun (j : Job) (e : Moving) : Job :=
  { j with moving := if (j.moved e.run).isSome then j.moving.map fun x => if x.run = e.run then e else x else j.moving ++ [e] }

/-- A run from the scratchpad is read for a clock; the port is in use (R249). -/
def State.readRunOn (s : State) (core : Nat) (j : Job) (p : CopyPlan) (e : Moving) : State :=
  let r := s.readPiece core j p e
  let j' := { j.putRun r.1 with flags := j.flags ||| r.2.1, start := some (s.clk + 1), accept := some s.clk }
  r.2.2.updCore core fun c => c.updJob j.id fun _ => j'

/-- A run of a copy begins: both its ends are resolved; it fails, or it is filled or read, from the scratchpad as far as the port carries
in the clock, and written at once where neither end uses the port. -/
def State.beginRun (s : State) (core : Nat) (j : Job) (p : CopyPlan) (run : Nat) : State :=
  match j.kind with
  | .copy tr slot d _ _ _ =>
    let ctx := s.jobCtx core slot
    let user := slot.isSome || !(s.core core).sup
    match s.resolveRun core ctx user p run with
    | none => s
    | some (.error f) => (s.endsLooked core ctx user p run).updCore core fun c => c.updJob j.id fun _ => j.failRun run f
    | some (.ok (sl, dl)) =>
      let s := s.endsLooked core ctx user p run
      let e : Moving := ⟨run, if p.d.dk then dl else [], 0, [], [], 0, s.clk, 0⟩
      if !p.d.sk && !p.filled run then s.readRunOn core j p e
      else
        let b := if p.filled run then (match p.map with | some m => m.fillBytes p.d.len | none => [], s) else s.readRun ctx sl
        let j := { j with start := some (s.clk + 1) }
        if p.d.sk && p.d.dk then
          (b.2.writeRunAt ctx (remoteSource (s.ctx ctx).member core) dl b.1).wrotePiece core ctx tr d (j.endRun run) p (p.dstAt run) p.dstLen
        else b.2.updCore core fun c => c.updJob j.id fun _ => j.putRun { e with data := b.1, seen := b.1.length }
  | _ => s

/-- A run whose bytes are present is written outside the scratchpad, where its destination led when it began. -/
def State.sendRun (s : State) (core : Nat) (j : Job) (p : CopyPlan) (e : Moving) : State :=
  match j.kind with
  | .copy tr slot d _ _ _ =>
    let ctx := s.jobCtx core slot
    (s.writeRunAt ctx (remoteSource (s.ctx ctx).member core) e.dst e.data).wrotePiece core ctx tr d (j.endRun e.run) p (p.dstAt e.run) p.dstLen
  | _ => s

/-- A run goes on: it begins, is read on, or is written outside the scratchpad. -/
def State.oneRun (s : State) (core : Nat) (j : Job) (p : CopyPlan) (run : Nat) : State :=
  match j.moved run with
  | some e => if !p.readUp e then s.readRunOn core j p e else if p.d.dk then s.sendRun core j p e else s
  | none => s.beginRun core j p run

/-- R242 to R252: a run whose time has come goes on. -/
def execCopyRunPerform (core job run : Nat) (s : State) : Host.Outcome State Fault Refusal :=
  match (s.core core).job? job with
  | none => .next s
  | some j =>
    match j.kind, j.copyPlan with
    | .copy _ slot _ _ _ _, some p =>
      if !s.runMay core j p run || s.runHeld core (s.jobCtx core slot) (slot.isSome || !(s.core core).sup) j p run then .next s
      else .next (s.oneRun core j p run)
    | _, _ => .next s

/-- The job whose writes have the write direction of a core's scratchpad port: the first copy into the scratchpad that is not over
(R249). -/
def Core.writePort (c : Core) : Option (Job × CopyPlan) :=
  c.jobs.findSome? fun j =>
    match j.copyPlan with
    | some p => if p.d.dk || decide (p.d.runs ≤ j.steps) then none else some (j, p)
    | none => none

/-- The bytes of a run that are present in a clock (R249). -/
def Moving.present (e : Moving) (clk : Nat) : Nat := if e.at_ < clk then e.data.length else e.seen

/-- How many bytes of a run a clock writes into the scratchpad: at most 128 of those present, and no aligned 16-byte granule in two (R60,
R249); none that would replace a byte of the run's own source before it is read (R251). -/
def CopyPlan.writeNow (p : CopyPlan) (e : Moving) (clk : Nat) : Nat :=
  let a := (p.dstAt e.run).toNat + e.wrote
  let left := p.dstLen - e.wrote
  let have_ := min (e.present clk) 128
  let n := if left ≤ have_ then left else (a + have_) / 16 * 16 - a
  let unread := (p.srcAt e.run).toNat + e.got
  if !p.readUp e && decide (a < unread + (p.srcLen - e.got)) && decide (unread < a + n) then 0 else n

/-- A clock's write of a run into the scratchpad: the run after it. -/
def Moving.wroteOn (e : Moving) (n : Nat) : Moving := { e with data := e.data.drop n, seen := e.seen - n, wrote := e.wrote + n }

/-- The copies' writes into a core's scratchpad in a clock: of the first run that has begun, what is present, once nothing that the write
entry conflicts with is left (R249). -/
def State.copyWrite (s : State) (core : Nat) : State :=
  match (s.core core).writePort with
  | none => s
  | some (j, p) =>
    match j.kind, j.moving with
    | .copy tr slot d _ _ _, e :: _ =>
      let n := p.writeNow e s.clk
      if n = 0 || (s.core core).sideWaits j.id true then s
      else
        let ctx := s.jobCtx core slot
        let a := p.dstAt e.run + e.wrote
        let j' := if p.dstLen ≤ e.wrote + n then j.endRun e.run else j.putRun (e.wroteOn n)
        ((s.writeSp core a.toNat (e.data.take n) ctx true).1).wrotePiece core ctx tr d j' p a n
    | _, _ => s

/-- The writes of every core's copies in a clock. -/
def State.copyClock (s : State) : State := (s.cores.map (·.1)).foldl (fun s k => s.copyWrite k) s

/-- The failed run that comes first in nest order (R253). -/
def Job.firstFailure (j : Job) : Option (Nat × Nat × Nat × Bool) :=
  j.failed.foldl (fun (b : Option (Nat × Nat × Nat × Bool)) f =>
    match b with
    | none => some f
    | some x => if f.1 < x.1 then some f else some x) none

/-- Has every run of a copy been performed or failed (R252)? -/
def Job.copyOver (j : Job) : Bool := match j.copyPlan with | some p => decide (p.d.runs ≤ j.steps) | none => false

/-- The events of a copy that finishes without fault (R258): the flag says that the counter event was dropped. -/
def State.finishEvents (s : State) (g ctx : Nat) (d : CopyDesc) : State × Bool :=
  let k := (d.aux.extractLsb' 20 7).toNat
  let unit := d.aux.getLsbD 27 && d.aux.getLsbD 28
  let drop := unit && !(s.grove g).takesCopy ctx k
  let s := if unit && !drop then s.updGrove g fun x => x.raiseCounter k 1 else s
  (if d.aux.getLsbD 34 then s.updGrove g fun x => x.arrive ctx (d.aux.extractLsb' 30 4).toNat (s.clk + 1) none none else s, drop)

/-- Ends a copy at its core: entries released, flags set where its task still occupies the core (R112, R259). -/
def Core.endCopy (c : Core) (j : Job) : Core :=
  let c := (c.release j.id false).dropJob j.id
  if c.task = j.owner then c.raise j.flags else c

/-- R252, R256, R258: a copy finishes: its record, its events or its fault, and for a triggered copy the slot's outcome. -/
def execCopyFinish (core job : Nat) (s : State) : Host.Outcome State Fault Refusal :=
  match (s.core core).job? job with
  | none => .next s
  | some j =>
    match j.kind with
    | .copy tr slot d _ _ _ =>
      if !j.copyOver then .next s
      else
        let g := groveOf core
        let ctx := s.jobCtx core slot
        let s1 := s.updCore core fun c => c.endCopy j
        match j.firstFailure with
        | none =>
          let ev := s1.finishEvents g ctx d
          let s2 := match tr with
            | some t => ev.1.updCore core fun c =>
                c.setTracker t { c.tracker t with state := 2, drop := (c.tracker t).drop || ev.2 }
            | none => ev.1
          .next (match slot with
            | some k => s2.updGrove g fun x => x.endSlot k 0 0 0
            | none => s2)
        | some (_, xc, addr, dst) =>
          let a : Word := BitVec.ofNat 64 addr
          let s2 := match tr with
            | some t => s1.updCore core fun c =>
                c.setTracker t { c.tracker t with state := 3, fault := true, xc := xc, endDst := dst, fruns := j.failed.length, addr := a }
            | none => s1
          .next (match slot with
            | some k => s2.updGrove g fun x => x.endSlot k 5 xc a
            | none =>
              if d.aux.getLsbD 27 || d.aux.getLsbD 34 then s2.jobFault core (.xlate xc a) 2 2 none [] else s2)
    | _ => .next s

end Sys2Proof.Machine
end

