-- ==== Sys2Proof/Machine/Pipeline.lean ====
section
/-!
DEFINITION. The events of a core's issue: landing of exposed results (R83), the retry of a held bundle (R84), the release of
scoreboard entries (R20) and when an imprecise fault may be taken (R160).
-/

namespace Sys2Proof.Machine

/-- The value with which a variable-latency wait of a core ends now, if it does (R85): chunks of a copy (R254), the phase of
a barrier (R186), the collectives of a channel (R352). -/
def State.waitValue (s : State) (core : Nat) (p : Pend) : Option Nat :=
  let c := s.core core
  if s.clk ≤ p.issued then none
  else
    match p.wait with
    | .chunks t set _ => c.chunkValue t set
    | .phase bar target _ =>
      let b := (s.grove (groveOf core)).barrier c.ctxNo bar
      if target ≤ 65535 ∧ b.phase.toNat ≠ target then some (if b.cgang then 0 else 0xFFFFFFFF) else none
    | .colls ch ord =>
      if c.jobs.any (fun j => decide (j.ord < ord) && (match j.kind with | .coll h _ _ _ _ => decide (h = ch) | _ => false)) then none
      else some (Tbl.getD c.collRec ch 0).toNat
    | _ => none

/-- Lands the waits of a core that have ended; a `bwait` also clears its arrival record (R186). -/
def State.landWaits (s : State) (core : Nat) : State :=
  (s.core core).pend.foldl (fun s' p =>
    match s.waitValue core p with
    | none => s'
    | some v => s'.updCore core fun c =>
        let c := { c with pend := c.pend.erase p }.wr p.reg v
        match p.wait with
        | .phase bar _ _ => { c with arrivals := c.arrivals.setIfInBounds bar none }
        | _ => c) s

/-- Is some write of a core due? -/
def State.landDueNow (s : State) (core : Nat) : Bool :=
  (s.core core).pend.any fun p => p.due s.clk || (s.waitValue core p).isSome

/-- R83, R85, R112: every write of the core that is due at this clock lands, and its flags enter KFPX; so do the results whose
wait has ended. -/
def execExposedResultLand (core : Nat) (s : State) : Host.Outcome State Fault Refusal :=
  if s.landDueNow core then .next ((s.landWaits core).updCore core fun c => c.landDue s.clk) else .next s

/-- Does a running core stand where nothing may stop it: between a branch and its delay bundle, unless that bundle traps (R163), or
within a bundle whose job cards have entered (log entry 15)? -/
def Core.midway (c : Core) : Bool := decide (c.mode = .running) && (c.delay || !c.split.isEmpty) && !c.atTrap

/-- Do jobs of HELD slots still wait to enter ahead of the job cards of a core's next bundle (R337)? -/
def State.heldFirst (s : State) (core : Nat) : Bool :=
  match s.taskOf core with
  | some t => (s.grove (groveOf core)).slots.any fun e => decide (e.2.state = .held) && decide (e.2.owner = t.uid)
  | none => false

/-- Has a lantern reached a grove that has still to record a context (R374)? -/
def State.wanted (s : State) (ctx g : Nat) : Bool :=
  match s.openSnap ctx with
  | some sn => sn.wants.contains g
  | none => false

/-- Does a core issue bundles: it runs, its next bundle's clock has come, and its context is not held, which
stops it at a boundary that R163 allows (R49, R393), nor its grove about to record (R374)? Jobs of HELD slots enter first (R337). -/
def State.mayIssue (s : State) (core : Nat) : Bool :=
  let c := s.core core
  decide (c.mode = .running) && decide (c.next ≤ s.clk) &&
    (c.midway || isTrunkCore core || (!s.heldCtx c.ctxNo && !s.wanted c.ctxNo (groveOf core))) && !s.heldFirst core

/-- A core whose bundle is held and may be tried again. -/
def State.heldNow (s : State) (core : Nat) : Bool := s.mayIssue core && decide ((s.core core).latch = .held)

/-- R84: a held bundle is tried again; it issues when nothing holds it any more. -/
def execStalledBundleIssue (core : Nat) (s : State) : Host.Outcome State Fault Refusal :=
  if s.heldNow core then .next { s.updCore core fun c => { c with latch := .none } with turn := some core } else .next s

/-- Entries that are released before their job ends: the read entries of a shape job whose passes have ended (R222), of a copy
whose last read has been performed (R248), of a matrix job whose digit clocks have passed (R270), and of publications and collectives whose
source has been read (R291, R350). -/
def State.entryDone (s : State) (core : Nat) (e : SbEntry) : Bool :=
  let c := s.core core
  match c.job? e.job with
  | none => true
  | some j =>
    match j.kind with
    | .copy _ _ _ _ _ _ =>
      !e.write && (match j.copyPlan with
        | some p => j.readsOver p
        | none => j.copyOver)
    | .recv _ _ _ _ _ => false
    | .haloRecv _ _ => false
    | _ => !e.write && (match j.accept with | some t => decide (t ≤ s.clk) | none => false)

/-- A publication's job ends with its last entry (R291). -/
def Core.endPub (c : Core) (id : Nat) : Core :=
  match c.job? id with
  | some j =>
    (match j.kind with
     | .pub _ _ _ _ _ => if (c.entriesOf id).isEmpty then c.dropJob id else c
     | _ => c)
  | none => c

/-- R20: an entry whose job has completed its access to the region is released. -/
def execScoreboardEntryRelease (core id : Nat) (s : State) : Host.Outcome State Fault Refusal :=
  match (s.core core).board.find? fun e => decide (e.id = id) with
  | none => .next s
  | some e => if s.entryDone core e then .next (s.updCore core fun c => (c.releaseEntry id).endPub e.job) else .next s

/-- May an imprecise fault be taken: at a bundle boundary that does not fall between a branch and its delay bundle (R160), and
while an exiting or pre-empted task drains (R163, R182)? -/
def State.impreciseNow (s : State) (core : Nat) : Bool :=
  let c := s.core core
  !c.imprecise.isEmpty && !c.midway &&
  (decide (c.mode = .running) || decide (c.mode = .exiting) || decide (c.mode = .preempting))

/-- A pre-empted task that faults gives its save frame back (R163). -/
def State.giveFrame (s : State) (g i : Nat) : State :=
  match Tbl.get? (s.grove g).tasks i with
  | none => s
  | some t =>
    (s.dropFrame g t.frame).updTask g i fun t => { t with frame := none }

end Sys2Proof.Machine
end

