-- ==== Sys2Proof/Machine/XOps.lean ====
section
/-!
DEFINITION. What the X-slot operations share: sending an operation to its grove engine, which it reaches 6 clk after issue
(R83, R289), the answers it gives, and the regions and names of exchange operations (R288, R289, R291).
-/

namespace Sys2Proof.Machine

/-! ### Sending an operation (R289) -/

/-- An operation on its way: three operand values. -/
def XOp.of (clk ord : Nat) (op : Sys2Proof.Instr) (va vb vd wid : Word) : XOp :=
  ⟨clk + 5, op, va, vb, vd, 0, false, ord, wid, [], none, []⟩

/-- Sends an operation of the issuing core, which takes the next order number (R56). -/
def Core.sendX (c : Core) (x : XOp) : Core := { c with xops := c.xops ++ [x], ords := c.ords + 1 }

/-- A register that an operation answers 6 clk after issue (R83): the value comes with its acceptance. -/
def Core.expect (c : Core) (clk id : Nat) (r : Reg) : Core :=
  { c with pend := c.pend ++ [⟨r, 0, 0, .posted (clk + 5) id, clk⟩] }

/-- The answers of an accepted operation: its posted results get their values, in order. -/
def Core.answer (c : Core) (id : Nat) (vals : List Nat) : Core :=
  let mine (p : Pend) : Bool := match p.wait with | .posted _ i => decide (i = id) | _ => false
  let posted := (c.pend.filter mine).zipIdx.map fun e =>
    { e.1 with val := vals.getD e.2 0, wait := match e.1.wait with | .posted t _ => .timed t | w => w }
  { c with pend := c.pend.filter (fun p => !mine p) ++ posted }

/-- Issues an X-slot operation without a scoreboard entry: `f` builds the operation from the core, and `regs` are the
registers it answers after 6 clk. -/
def xIssue (i : Sys2Proof.Instr) (s : State) (regs : List Reg) (f : Core → Except Trap XOp) : Host.Outcome State Fault Refusal :=
  runOp i s fun c =>
    match f c with
    | .error t => .trap t
    | .ok x =>
      if c.waitHolds then .stall
      else .ok (s.updCore s.cur fun k => regs.foldl (fun k r => k.expect s.clk x.ord r) (k.sendX x))

/-! ### Exchange names and regions (R288, R289) -/

/-- The image that names an exchange or collective channel for the core. -/
def State.chanOf (s : State) (core ch : Nat) : List Byte := (s.imageOf core).chan ch

/-- The name of a channel for a core's task and a coordinate word. -/
def State.chanName (s : State) (core ch : Nat) (coord : Word) : Name :=
  (s.imageOf core).nameOf ch (s.core core).kwid coord

/-- The region of a channel's tile at a base address, checked as R289 states: span, then alignment. -/
def chanRegion (e : List Byte) (base : Nat) (write : Bool) : Except Trap (ShapeRec × Region) :=
  let r : ShapeRec := { chShape e with base := base }
  let f := chFmt e
  let p := r.span f
  let w := f.width / 8
  let bad (k : Nat) (st : Int) : Bool := decide (0 < r.x k) && decide (st % (w : Int) ≠ 0)
  match outside p.1 p.2 with
  | some a => .error (.xlate xcRange a)
  | none =>
    if 16 ≤ f.width ∧ (base % w ≠ 0 ∨ bad 1 r.s1 ∨ bad 2 r.s2 ∨ bad 3 r.s3) then .error (.at_ .align (BitVec.ofNat 64 base))
    else .ok (r, r.region f write)

/-- The DETAIL field of the exchange engine's fault tiles (R317). -/
def xeDetail (inj land bound ver cross copy chunk : Nat) : List Byte :=
  natBytes 4 inj ++ natBytes 4 land ++ natBytes 4 bound ++ natBytes 2 ver ++ natBytes 1 cross ++ natBytes 1 copy ++ natBytes 2 chunk

/-- NOSUB, SUBFULL and NAMERANGE (R317). -/
def kindNoSub : Nat := 17
/-- SUBFULL. -/
def kindSubFull : Nat := 18
/-- NAMERANGE. -/
def kindNameRange : Nat := 19
/-- EVICTED. -/
def kindEvicted : Nat := 20
/-- TRIAD_DISSENT. -/
def kindDissent : Nat := 21

/-- An imprecise fault of the exchange engine (R317): SLOT 3, SRC 5. -/
def State.xeFault (s : State) (core kind : Nat) (name : Name) : State :=
  s.jobFaultKind core kind 3 5 0 (some name) (xeDetail 0 s.tick 0 0 0 0 0)

/-! ### Publications (R291) -/

/-- A task's publication counts as tentative when the task is guarded or its channel is (R291). -/
def tentative (t : Option TaskRec) (e : List Byte) : Bool :=
  chGuarded e || (match t with | some r => r.guarded | none => false)

/-- A publication of a core that its grove accepts (R291): `seq` numbers a triad member's publications of the name (R316). -/
def mkPub (id ctx core job : Nat) (e : List Byte) (ch : Nat) (name : Name) (valid : List Nat) (r : ShapeRec) (task : Nat)
    (t : Option TaskRec) (wid : Word) (seq order : Nat) (slot : Option Nat) : PubOp :=
  { id := id, ctx := ctx, core := some core, job := job, name := name, ch := ch, data := [], valid := valid,
    express := chExpress e, keep := chKeep e, tent := tentative t e, task := some task, uid := (match t with | some r => r.uid | none => 0), wid := wid,
    copy := (match t with | some r => if r.triad then r.copy else 3 | none => 3), seq := seq, order := order, slot := slot,
    r := some r, admitted := none, retryAt := none, sent := 0, dropped := false }

/-- How many publications of a name a triad member has made (R316). -/
def TaskRec.seqOf (t : TaskRec) (n : Name) : Nat := ((t.pubSeq.find? fun e => decide (e.1 = n)).map (·.2)).getD 0
/-- Counts one more. -/
def TaskRec.bumpSeq (t : TaskRec) (n : Name) : TaskRec :=
  { t with pubSeq := (t.pubSeq.filter fun e => !decide (e.1 = n)) ++ [(n, t.seqOf n + 1)] }

/-- The acceptance of a publication at its grove (R291): an out-of-range name faults, else it waits for admission. The flag is
false when the name was out of range. -/
def State.acceptPub (s : State) (core job ch : Nat) (name : Name) (r : ShapeRec) (valid : List Nat) (halo : Bool)
    (task order : Nat) (slot : Option Nat) : State × Bool :=
  let g := groveOf core
  let t := Tbl.get? (s.grove g).tasks task
  let ctx := match t with | some x => x.ctx | none => (s.core core).ctxNo
  let im := (s.ctx ctx).image
  if outOfRange (im.tensor? name.handle) name 0 halo then (s, false)
  else
    let wid := match t with | some x => x.wid | none => 0
    let seq := match t with | some x => x.seqOf name | none => 0
    let s := s.updGrove g fun gr =>
      { gr with pubs := gr.pubs ++ [mkPub gr.ids ctx core job (im.chan ch) ch name valid r task t wid seq order slot], ids := gr.ids + 1 }
    (s.updTask g task fun t => t.bumpSeq name, true)

end Sys2Proof.Machine
end

