-- ==== Sys2Proof/Machine/Trigger.lean ====
section
/-!
DEFINITION. The trigger engine (R320 to R345): counters and their sources, operation slots, their arming, firing, start and
completion.
-/

namespace Sys2Proof.Machine

/-! ### Counters, slots and images (R320, R326) -/

/-- A counter of a grove. -/
def Grove.counter (gr : Grove) (k : Nat) : Counter := Tbl.getD gr.counters k .reset
/-- Replaces a counter. -/
def Grove.setCounter (gr : Grove) (k : Nat) (c : Counter) : Grove := { gr with counters := Tbl.set gr.counters k c }
/-- A slot of a grove. -/
def Grove.slot (gr : Grove) (k : Nat) : Slot := Tbl.getD gr.slots k .reset

/-- KIND of a slot image: 1 PUB, 2 COPY, 3 ADD, 4 BAR, 5 AMO (R326). -/
def slKind (b : List Byte) : Nat := fieldOfBytes b 0 1
/-- REARM. -/
def slRearm (b : List Byte) : Bool := (fieldOfBytes b 1 1).testBit 0
/-- DEN. -/
def slDen (b : List Byte) : Bool := (fieldOfBytes b 1 1).testBit 1
/-- CTR. -/
def slCtr (b : List Byte) : Nat := fieldOfBytes b 2 1
/-- DCTR. -/
def slDctr (b : List Byte) : Nat := fieldOfBytes b 3 1
/-- THR as armed. -/
def slThr (b : List Byte) : Nat := fieldOfBytes b 8 8
/-- INC. -/
def slInc (b : List Byte) : Nat := fieldOfBytes b 0x10 8
/-- A triggered AMO is sequential. -/
def slSeq (b : List Byte) : Bool := (fieldOfBytes b 0x20 1).testBit 4
/-- CLASS of a triggered AMO. -/
def slClass (b : List Byte) : Bool := (fieldOfBytes b 0x20 1).testBit 5

/-- CH of a PUB. -/
def slChan (b : List Byte) : Nat := fieldOfBytes b 0x20 1

/-- Are all bytes of a range zero? -/
def zeroBytes (b : List Byte) (lo hi : Nat) : Bool := decide (fieldOfBytes b lo (hi - lo) = 0)

/-- A reserved byte or bit of an image is set, or an INC stands without REARM (R326, R327, R331). -/
def imageReserved (b : List Byte) : Bool :=
  let base := decide (4 ≤ fieldOfBytes b 1 1) || (!slDen b && decide (slDctr b ≠ 0)) || !zeroBytes b 4 8 || decide (2 ^ 48 ≤ slThr b) || decide (2 ^ 48 ≤ slInc b) ||
    (!slRearm b && decide (slInc b ≠ 0)) || !zeroBytes b 0x18 0x20
  let body := match slKind b with
    | 1 => !zeroBytes b 0x21 0x28 || decide (2 ^ 19 ≤ fieldOfBytes b 0x28 8) ||
        !zeroBytes b 0x38 0x100
    | 2 => !zeroBytes b 0xE0 0x100 || (!(fieldOfBytes b 0x31 1).testBit 6 && !zeroBytes b 0xA0 0xE0) ||
        decide (fieldOfBytes b 0x38 8 % 2 ^ 19 ≠ 0)
    | 3 => !zeroBytes b 0x21 0x28 || decide (2 ^ 48 ≤ fieldOfBytes b 0x28 8) ||
        !zeroBytes b 0x30 0x100
    | 4 => !zeroBytes b 0x21 0x100
    | 5 => decide (64 ≤ fieldOfBytes b 0x20 1) || !zeroBytes b 0x22 0x28 || !zeroBytes b 0x40 0x100 ||
        (decide (fieldOfBytes b 0x20 1 % 16 ≠ 2) && !zeroBytes b 0x38 0x40)
    | _ => false
  base || body

/-- An invalid KIND, REARM with INC 0, BAR above 15, an AMO OP or SZ outside R327 (R331). -/
def imageInvalid (b : List Byte) : Bool :=
  decide (slKind b = 0) || decide (5 < slKind b) || (slRearm b && decide (slInc b = 0)) ||
  (match slKind b with
   | 4 => decide (15 < fieldOfBytes b 0x20 1)
   | 5 => decide (9 < fieldOfBytes b 0x20 1 % 16) || !([4, 5, 6].contains (fieldOfBytes b 0x21 1)) ||
       (slSeq b && decide (fieldOfBytes b 0x21 1 ≠ 6))
   | _ => false)

/-- The counters an image names. -/
def imageCounters (b : List Byte) : List Nat :=
  [slCtr b] ++ (if slDen b then [slDctr b] else []) ++ (if slKind b = 3 then [fieldOfBytes b 0x20 1] else [])

/-- The checks of an image in the order of R331. -/
def Grove.imageTrap (gr : Grove) (ctx slot : Nat) (b : List Byte) : Option Trap :=
  if slKind b ≠ 0 ∧ slKind b ≤ 5 ∧ imageReserved b then some (.illegal .reserved)
  else if imageInvalid b then some (.illegal .fn)
  else if imageReserved b then some (.illegal .reserved)
  else if !gr.ownsSlot ctx slot || (imageCounters b).any (fun k => !gr.ownsCounter ctx k) then some (.illegal .file)
  else none

/-! ### Fault tiles (R342) -/

/-- Kind CTROVF. -/
def kindCtrOvf : Nat := 22
/-- Kind TRIGFAIL. -/
def kindTrigFail : Nat := 23

/-- DETAIL of the trigger engine's tiles. -/
def trigDetail (slot ctr cause okind fkind fxc : Nat) (addr : Word) (value : Nat) : List Byte :=
  natBytes 2 slot ++ natBytes 1 ctr ++ natBytes 1 cause ++ natBytes 1 okind ++ natBytes 1 fkind ++ natBytes 1 fxc ++ natBytes 1 0 ++
  natBytes 8 addr.toNat ++ natBytes 8 value

/-- The record with a number, with its table index. -/
def Grove.recordOf (gr : Grove) (uid : Nat) : Option (Nat × TaskRec) := gr.tasks.find? fun e => decide (e.2.uid = uid)

/-- Publishes a TRIGFAIL tile of a slot with a cause (R339, R341, R342): `owner` is the number of the owner's record, `wid` its WID,
`value` the counter's value at the start. -/
def State.trigTile (s : State) (g ctx slot owner : Nat) (wid : Word) (cause : Nat) (b : List Byte) (fkind fxc : Nat) (addr : Word)
    (name : Option Name) (value : Nat) : State :=
  let d := trigDetail slot (slCtr b) cause (slKind b) fkind fxc addr value
  s.faultTile g ctx ⟨kindTrigFail, 6, 0, 0, 0, false, false, name.map fun n => (n, 0), d⟩ ((s.grove g).recordOf owner) wid

/-! ### Instructions (R328 to R333) -/

/-- R329: `tsrc gD, sA, sB`. -/
def execTsrc (d a b : BitVec 7) (p : BitVec 3) (s : State) : Host.Outcome State Fault Refusal :=
  xIssue (.tsrc d a b p) s [] fun c =>
    match sourceTrap (c.rs a.toNat) (c.rs b.toNat) with
    | some t => .error t
    | none => .ok (XOp.of s.clk c.ords (.tsrc d a b p) (c.rs a.toNat) (c.rs b.toNat) 0 c.kwid)

/-- R330: `tadd gD, sA`, a release of scope W. -/
def execTadd (d a : BitVec 7) (p : BitVec 3) (s : State) : Host.Outcome State Fault Refusal :=
  xIssue (.tadd d a p) s [] fun c =>
    .ok { XOp.of s.clk c.ords (.tadd d a p) (c.rs a.toNat) 0 0 c.kwid with rel := true }

/-- R330: `tset gD, sA`, a release of scope W. -/
def execTset (d a : BitVec 7) (p : BitVec 3) (s : State) : Host.Outcome State Fault Refusal :=
  xIssue (.tset d a p) s [] fun c =>
    .ok { XOp.of s.clk c.ords (.tset d a p) (c.rs a.toNat) 0 0 c.kwid with rel := true }

/-- R332: `tdis sA`. -/
def execTdis (a : BitVec 7) (p : BitVec 3) (s : State) : Host.Outcome State Fault Refusal :=
  xIssue (.tdis a p) s [] fun c =>
    .ok (XOp.of s.clk c.ords (.tdis a p) (c.rs a.toNat) 0 0 c.kwid)

/-- R333: `tget sD, gA`. -/
def execTget (d a : BitVec 7) (p : BitVec 3) (s : State) : Host.Outcome State Fault Refusal :=
  xIssue (.tget d a p) s [sReg d] fun c =>
    .ok (XOp.of s.clk c.ords (.tget d a p) 0 0 0 c.kwid)

/-- R333: `tget.slot sD, sB`. -/
def execTgetSlot (d b : BitVec 7) (p : BitVec 3) (s : State) : Host.Outcome State Fault Refusal :=
  xIssue (.tgetSlot d b p) s [sReg d] fun c =>
    .ok (XOp.of s.clk c.ords (.tgetSlot d b p) (c.rs b.toNat) 0 0 c.kwid)

/-- R333: `tget.res sD, sB`. -/
def execTgetRes (d b : BitVec 7) (p : BitVec 3) (s : State) : Host.Outcome State Fault Refusal :=
  xIssue (.tgetRes d b p) s [sReg d] fun c =>
    .ok (XOp.of s.clk c.ords (.tgetRes d b p) (c.rs b.toNat) 0 0 c.kwid)

/-- R331: `tarm aA, sB`: the image is read as a scalar load would read it, checked and copied. -/
def execTarm (a b : BitVec 7) (p : BitVec 3) (s : State) : Host.Outcome State Fault Refusal :=
  runOp (.tarm a b p) s fun c =>
    let ad := (c.ra a.toNat).toNat
    if ad % 64 ≠ 0 then .trap (.at_ .align (c.ra a.toNat))
    else if 0x60000 < ad + 256 then .trap (.xlate xcRange (c.ra a.toNat))
    else if c.accessWaits ad 256 false then .stall
    else
      let r := s.readMem (spKey s.cur ad) 256
      if r.1.poisoned then .trap (.poisonRead (c.ra a.toNat) (spKey s.cur ad) 256)
      else
        let img := r.1.map (·.getD 0)
        match (s.grove (groveOf s.cur)).imageTrap c.ctxNo (slotNo (c.rs b.toNat)) img with
        | some t => .trap t
        | none =>
          .ok (r.2.updCore s.cur fun k =>
            k.sendX { XOp.of s.clk c.ords (.tarm a b p) (c.rs b.toNat) 0 0 c.kwid with image := img })

/-! ### Acceptance at the engine (R329 to R333) -/

/-- The counter word (R321). -/
def Counter.word (c : Counter) : Word :=
  BitVec.ofNat 64 ((if c.ovf then 2 ^ 63 else 0) + c.kind * 2 ^ 48 + c.value % 2 ^ 48)

/-- The status word of a slot (R333). -/
def Slot.status (t : Slot) : Word :=
  let st := match t.state with | .empty => 0 | .armed => 1 | .held => 2 | .active => 3 | .done => 4 | .failed => 5
  BitVec.ofNat 64 (min t.fires 0xFFFF * 2 ^ 48 + t.fkind % 256 * 2 ^ 32 + t.fxc % 8 * 2 ^ 29 + slCtr t.image % 128 * 2 ^ 16 +
    (if slRearm t.image then 128 else 0) + slKind t.image % 8 * 16 + st)

/-- `tsrc` takes effect: OVF clears, the value stays, and events of the old source that are not yet counted are those of this
clock (R329). -/
def Grove.wire (gr : Grove) (ctx k task : Nat) (w r : Word) : Grove :=
  let c := gr.counter k
  let kind := (w.extractLsb' 0 4).toNat
  let tied := decide (kind = 1) || decide (4 ≤ kind)
  gr.setCounter k { c with ovf := false, src := w, range := (if kind = 1 then r else 0), task := (if tied then some task else none),
                           residue := 0, ctx := ctx }

/-- `tset` takes effect in this clock (R322, R330). -/
def Grove.tsetAt (gr : Grove) (k : Nat) (v : Word) : Grove :=
  gr.setCounter k { gr.counter k with set := some (v.extractLsb' 0 48).toNat }

/-- A slot takes an image (R331): it becomes ARMED for its owner with the next arm sequence number; the result of its last AMO
stays (R333). -/
def Grove.armSlot (gr : Grove) (ctx k owner : Nat) (wid : Word) (img : List Byte) : Grove :=
  { gr.updSlot k (fun t => { Slot.reset with
      state := .armed, image := img, thr := slThr img, owner := owner, wid := wid, ctx := ctx, arm := gr.armSeq, res := t.res }) with
    armSeq := gr.armSeq + 1 }

/-- A slot becomes EMPTY; the result of its last AMO stays (R333). -/
def Slot.emptied (t : Slot) : Slot := { Slot.reset with res := t.res }

/-- A slot takes an image only when EMPTY, DONE or FAILED. -/
def Slot.takes (t : Slot) : Bool := decide (t.state = .empty) || decide (t.state = .done) || decide (t.state = .failed)

/-- `tarm` at its acceptance (R331, R342). -/
def State.acceptTarm (s : State) (core k : Nat) (img : List Byte) : State :=
  let g := groveOf core
  let gr := s.grove g
  let c := s.core core
  let uid := match s.taskOf core with | some t => t.uid | none => 0
  if (gr.slot k).takes then s.updGrove g fun x => x.armSlot c.ctxNo k uid c.kwid img
  else s.jobFaultKind core kindTrigFail 3 6 0 none
    (trigDetail k (slCtr img) 1 (slKind img) 0 0 0 (gr.counter (slCtr img)).value)

/-- `tdis` at its acceptance (R332). -/
def Grove.disarm (gr : Grove) (k : Nat) : Grove :=
  match (gr.slot k).state with
  | .empty => gr
  | .active => gr
  | _ => gr.updSlot k Slot.emptied

/-! ### Counters (R320, R322) -/

/-- Slots armed on a counter that have reached their threshold and are not yet eligible (R334). -/
def Grove.ripe (gr : Grove) (k : Nat) : Bool :=
  gr.slots.any fun e => decide (e.2.state = .armed) && e.2.eligible.isNone && decide (slCtr e.2.image = k) &&
    decide (e.2.thr ≤ (gr.counter k).value)

/-- Does a counter have something to do in this clock? -/
def Grove.counterDue (gr : Grove) (k : Nat) : Bool :=
  let c := gr.counter k
  decide (c.adds ≠ 0) || c.set.isSome || gr.ripe k

/-- Marks the slots that the counter has made eligible (R334). -/
def Grove.judge (gr : Grove) (k clk : Nat) : Grove :=
  let v := (gr.counter k).value
  { gr with slots := gr.slots.map fun e =>
      if e.2.state = .armed ∧ e.2.eligible.isNone ∧ slCtr e.2.image = k ∧ e.2.thr ≤ v then (e.1, { e.2 with eligible := some clk })
      else e }

/-- The context of the grove's partition to which a counter is granted (R320, R343). -/
def State.counterCtx (s : State) (g n : Nat) : Nat :=
  16 * s.trunk.partOf (quarterOf g) + ((List.range 16).find? fun k => (s.grove g).ownsCounter k n).getD 0

/-- R322, R320, R334: a counter takes the clock's `tset`, then its events, saturating with OVF and a CTROVF tile; then its
slots are judged. -/
def execCounterEvent (g n : Nat) (s : State) : Host.Outcome State Fault Refusal :=
  let gr := s.grove g
  if !gr.counterDue n then .next s
  else
    let c := gr.counter n
    let base := c.set.getD c.value
    let sum := base + c.adds
    let past := decide (2 ^ 48 - 1 < sum)
    let was := c.ovf && c.set.isNone
    let c' := { c with value := if past then 2 ^ 48 - 1 else sum, ovf := was || past, adds := 0, set := none }
    let s := s.setGrove g ((gr.setCounter n c').judge n s.clk)
    .next (if past && !was then
      s.faultTile g (s.counterCtx g n) ⟨kindCtrOvf, 6, 0, 0, 0, false, false, none, trigDetail 0xFFFF n 0 0 0 0 0 (2 ^ 48 - 1)⟩ none 0
    else s)

/-! ### Starting operations (R334 to R337) -/

/-- The core on which the owner of a slot is RUNNING and may take jobs; `uid` is the number of its record. -/
def State.ownerCore (s : State) (g uid : Nat) : Option Nat :=
  match (s.grove g).recordOf uid with
  | some (_, t) =>
    if t.state = .running ∧ t.oncore then
      let k := 4 * g + t.slot
      (match (s.core k).mode with
       | .running => some k
       | .exiting => some k
       | .stopped => some k
       | _ => none)
    else none
  | none => none

/-- Has the owner of a slot ended? -/
def State.ownerEnded (s : State) (g uid : Nat) : Bool :=
  match (s.grove g).recordOf uid with
  | some (_, t) => decide (t.state = .done) || decide (t.state = .faulted)
  | none => true

/-- Is a slot's operation bound to its owner's scratchpad (R337)? -/
def slBound (b : List Byte) : Bool :=
  match slKind b with
  | 1 => true
  | 2 => let d := parseCopy ((b.drop 0x20).take 128)
         !d.sk || !d.dk
  | _ => false

/-- The copy of a slot image: its plan under a KBANK, or the trap of R241. -/
def slotCopy (b : List Byte) (kbank : Word) : Except Trap CopyPlan :=
  let db := (b.drop 0x20).take 128
  let mb := (b.drop 0xA0).take 64
  let d := parseCopy db
  if copyReserved d db then .error (.illegal .reserved)
  else
    match (if d.win then mapError d mb else none) with
    | some e => .error (.illegal e)
    | none =>
      let p : CopyPlan := ⟨d, if d.win then some (parseMap mb) else none, 0, 0, kbank⟩
      match p.check with
      | some t => .error t
      | none => .ok p

/-- Enters a slot's COPY on a core, or records why it fails (R241, R259). -/
def State.enterSlotCopy (s : State) (core g k : Nat) (t : Slot) : State :=
  match slotCopy t.image (s.core core).kbank with
  | .error e => s.updGrove g fun x => x.endSlot k e.kind.code e.xc e.tval
  | .ok p =>
    let regions := if p.d.sk && p.d.dk then [] else p.regions
    s.updCore core fun c =>
      let id := c.ords
      let c := c.enterJob s.clk 2 (.copy none (some k) p.d p.map 0 0) regions
      c.updJob id fun j => { j with owner := match (s.grove g).recordOf t.owner with | some e => e.1 | none => 256 }

/-- Enters a slot's PUB on its owner's core, checked as `pub` (R337). -/
def State.enterSlotPub (s : State) (core g k : Nat) (t : Slot) : State :=
  let ch := slChan t.image
  let im := (s.ctx t.ctx).image
  let e := im.chan ch
  let owner := (s.grove g).recordOf t.owner
  let rec? := owner.map (·.2)
  let wid := t.wid
  let fail (x : Trap) : State := s.updGrove g fun gr => gr.endSlot k x.kind.code x.xc x.tval
  if chKind e ≠ 1 ∨ chHw e ≠ 0 then fail (.illegal .fn)
  else
    match chanRegion e (fieldOfBytes t.image 0x28 8) false with
    | .error x => fail x
    | .ok (r, region) =>
      let name := im.nameOf ch wid (BitVec.ofNat 64 (fieldOfBytes t.image 0x30 8))
      let id := (s.core core).ords
      let s1 := s.updCore core fun c => c.enterJob s.clk 3 (.pub ch name r (some k) (tentative rec? e)) [region]
      let a := s1.acceptPub core id ch name r (validExtents (im.tensor? name.handle) r name) false ((owner.map (·.1)).getD 256) id (some k)
      if a.2 then a.1
      else (s1.updCore core fun c => (c.release id false).dropJob id).updGrove g fun gr => gr.endSlot k kindNameRange 0 0

/-- The scoreboard entries that a slot's bound operation takes (R20). -/
def slEntries (b : List Byte) (kbank : Word) : Nat :=
  if slKind b = 1 then 1 else match slotCopy b kbank with | .ok p => p.regions.length | .error _ => 0

/-- Has a core the free entries that a slot's operation takes: it waits for them as job cards do (R20, R22, R23; log entry 60)? -/
def State.slotFits (s : State) (core : Nat) (b : List Byte) : Bool :=
  decide (slEntries b (s.core core).kbank ≤ (s.core core).freeEntries)

/-- Starts a slot's operation (R335, R337): bound operations enter the owner's core, or are HELD, or fail when the owner has
ended. -/
def State.startSlot (s : State) (g k : Nat) : State :=
  let t := (s.grove g).slot k
  let value := ((s.grove g).counter (slCtr t.image)).value
  let act (s : State) : State := s.updGrove g fun x => x.updSlot k fun t =>
    { t with state := .active, last := s.tick, fires := min (t.fires + 1) 0xFFFF, value := value }
  let b := t.image
  if slBound b then
    if s.ownerEnded g t.owner then (act s).updGrove g fun x => x.endSlot k Kind.xlate.code xcRange 0
    else
      match s.ownerCore g t.owner with
      | some core => if slKind b = 1 then (act s).enterSlotPub core g k t else (act s).enterSlotCopy core g k t
      | none => s.updGrove g fun x => x.updSlot k fun t => 
          { t with state := .held, fires := min (t.fires + 1) 0xFFFF, value := value }
  else
    match slKind b with
    | 2 => (act s).enterSlotCopy (4 * g) g k t
    | 3 => (act s).updGrove g fun x =>
        (x.raiseCounter (fieldOfBytes b 0x20 1) (fieldOfBytes b 0x28 8)).endSlot k 0 0 0
    | 4 => (act s).updGrove g fun x => x.arrive t.ctx (fieldOfBytes b 0x20 1 % 16) (s.clk + 1) none (some k)
    | _ => act s

/-- The first eligible slot of a grove in the order of R334, of a context that neither a forced flush (R49) nor a record
about to be taken (R374) holds. -/
def State.firstEligible (s : State) (g : Nat) : Option Nat :=
  ((s.grove g).slots.foldl (fun (b : Option (Nat × Nat × Nat)) e =>
    match e.2.state, e.2.eligible with
    | .armed, some c =>
      if s.heldCtx e.2.ctx ∨ s.wanted e.2.ctx g then b
      else
        (match b with
         | some x => if c < x.1 ∨ (c = x.1 ∧ e.2.arm < x.2.1) then some (c, e.2.arm, e.1) else b
         | none => some (c, e.2.arm, e.1))
    | _, _ => b) none).map fun x => x.2.2

/-- The HELD slots of an owner in start order. -/
def Grove.heldOf (gr : Grove) (owner : Nat) : List Nat :=
  let held := gr.slots.filterMap fun e =>
    if e.2.state = .held ∧ e.2.owner = owner then some (e.2.eligible.getD 0, e.2.arm, e.1) else none
  let before (a b : Nat × Nat × Nat) : Bool := decide (a.1 < b.1) || (decide (a.1 = b.1) && decide (a.2.1 < b.2.1))
  let insert (x : Nat × Nat × Nat) (l : List (Nat × Nat × Nat)) : List (Nat × Nat × Nat) :=
    l.takeWhile (fun y => before y x) ++ [x] ++ l.dropWhile (fun y => before y x)
  (held.foldl (fun l x => insert x l) []).map fun x => x.2.2

/-- A HELD slot's operation enters its owner's core. -/
def State.enterOne (s : State) (core g k : Nat) : State :=
  let t := (s.grove g).slot k
  let s := s.updGrove g fun x => x.updSlot k fun t => { t with state := .active }
  if slKind t.image = 1 then s.enterSlotPub core g k t else s.enterSlotCopy core g k t

/-- Held triggered jobs enter at their owner's first bundle, in order, as far as the scoreboard has entries (R20, R259, R337). -/
def State.enterHeld (s : State) (core uid : Nat) : State :=
  let g := groveOf core
  (((s.grove g).heldOf uid).foldl (fun (a : State × Bool) k =>
    if a.2 && a.1.slotFits core ((a.1.grove g).slot k).image then (a.1.enterOne core g k, true) else (a.1, false)) (s, true)).1

/-- The first HELD slot of a task that runs on a core of the grove, which waits for free entries there (R20). -/
def State.heldWaiting (s : State) (g : Nat) : Option (Nat × Nat) :=
  (s.grove g).slots.findSome? fun e =>
    if e.2.state ≠ .held ∨ s.wanted e.2.ctx g then none
    else (s.ownerCore g e.2.owner).bind fun core => ((s.grove g).heldOf e.2.owner).head?.map fun k => (core, k)

/-- What the trigger engine of a grove starts now: a HELD operation that has its entries, else the first eligible operation, which
waits for its entries too. -/
def State.trigStart (s : State) (g : Nat) : Option (Option Nat × Nat) :=
  match (s.heldWaiting g).filter fun e => s.slotFits e.1 ((s.grove g).slot e.2).image with
  | some e => some (some e.1, e.2)
  | none =>
    (s.firstEligible g).bind fun k =>
      let t := (s.grove g).slot k
      match (if slBound t.image then s.ownerCore g t.owner else none) with
      | some core => if ((s.grove g).heldOf t.owner).isEmpty && s.slotFits core t.image then some (none, k) else none
      | none => some (none, k)

/-- R335: the first eligible operation of a grove starts, or a HELD one enters its owner's core. -/
def execTriggerOpStart (g : Nat) (s : State) : Host.Outcome State Fault Refusal :=
  match s.trigStart g with
  | none => .next s
  | some (some core, k) => .next (s.enterOne core g k)
  | some (none, k) => .next (s.startSlot g k)

/-! ### Completion (R336, R338, R339) -/

/-- An active AMO as a request. -/
def Slot.amo (t : Slot) : QKind × BitVec 3 × Word × Word × Word :=
  let b := t.image
  let op := fieldOfBytes b 0x20 1 % 16
  (if slSeq b then .seq op else .amo op, BitVec.ofNat 3 (fieldOfBytes b 0x21 1), BitVec.ofNat 64 (fieldOfBytes b 0x28 8),
    BitVec.ofNat 64 (fieldOfBytes b 0x30 8), BitVec.ofNat 64 (fieldOfBytes b 0x38 8))

/-- Where an active AMO leads; none when its translation must be walked first. -/
def State.amoPlace (s : State) (g : Nat) (t : Slot) : Option (Except (Nat × Nat) Place) :=
  let a := t.amo
  s.accessPlace false g t.ctx true a.2.2.1 a.1 a.2.1

/-- A slot's AMO has ended: with its result, or failed at its address (R338, R339). -/
def Grove.endAmo (x : Grove) (k : Nat) (r : AccessEnd) : Grove :=
  match r with
  | .ok v => (x.updSlot k fun t => { t with res := v }).endSlot k 0 0 0
  | .error f => x.endSlot k f.1 f.2 (x.slot k).amo.2.2.1

/-- How an active AMO ends, when it can end now: performed at its home, failed, or answered by another module. A sequential
one is performed by the token (R59). -/
def State.performAmo (s : State) (g k : Nat) (t : Slot) : Option State :=
  let a := t.amo
  let fin (s : State) (r : AccessEnd) : State := s.updGrove g fun x => x.endAmo k r
  match s.amoPlace g t with
  | none => none
  | some (.error f) => some (fin (s.lookedUp g t.ctx a.2.2.1 (.error f)) (.error f))
  | some (.ok (.remote m sl off)) =>
    if t.first = 0 then
      let cls := slClass t.image
      let key := seqKey m sl cls
      let n := seqNext (s.grove g).trigSeqs key s.tick
      if n.2 then none
      else
        let src := remoteSource (s.ctx t.ctx).member (32768 + g)
        let s := s.remoteOut t.ctx m sl src n.1 cls a.1.code a.2.1.toNat off a.2.2.2.1 a.2.2.2.2 s.tick
        some (s.updGrove g fun x =>
          { x.updSlot k (fun t => { t with seq := n.1, first := s.tick + 1, last := s.tick + 1 }) with
            trigSeqs := seqUse x.trigSeqs key s.tick })
    else if s.placeHeld g t.ctx (.remote m sl off) then none
    else
      let r := s.remoteAnswer
      some (fin (r.2.logAnswer t.ctx g m sl (remoteSource (s.ctx t.ctx).member (32768 + g)) t.seq (32768 + g) k r.1) r.1)
  | some (.ok pl) =>
    if a.1.isSeq || s.placeHeld g t.ctx pl then none
    else
      let r := (s.lookedUp g t.ctx a.2.2.1 (.ok pl)).performAt pl a.1 a.2.1 a.2.2.2.1 a.2.2.2.2 t.ctx
      some (fin r.2 r.1)

/-- Can an active slot go on: has it ended, or can its AMO be performed? -/
def State.slotGoes (s : State) (g k : Nat) : Bool :=
  let t := (s.grove g).slot k
  decide (t.state = .active) && (t.fin.isSome || (decide (slKind t.image = 5) && (s.performAmo g k t).isSome))

/-- R338, R339: an active operation completes: DONE, or ARMED again with the next threshold, and the done counter rises; or it
fails: FAILED, with a TRIGFAIL tile. -/
def State.endActive (s : State) (g k : Nat) (t : Slot) (kind xc : Nat) (addr : Word) : State :=
  let b := t.image
  let thr := if slRearm b then min (t.thr + slInc b) (2 ^ 48 - 1) else t.thr
  if kind = 0 then
    s.updGrove g fun x =>
      let x := x.updSlot k fun t =>
        { t with state := if slRearm b then .armed else .done, thr := thr, eligible := none, fin := none, first := 0 }
      if slDen b then x.raiseCounter (slDctr b) 1 else x
  else
    let name := if kind = kindNameRange then
        some ((s.ctx t.ctx).image.nameOf (slChan b) t.wid (BitVec.ofNat 64 (fieldOfBytes b 0x30 8)))
      else none
    let s := s.updGrove g fun x => x.updSlot k fun t =>
      { t with state := .failed, thr := thr, eligible := none, fin := none, fkind := kind, fxc := xc }
    s.trigTile g t.ctx k t.owner t.wid 3 b kind xc addr name t.value

/-- R338: an active operation goes on: an AMO is performed, or an operation that has ended completes. -/
def execTriggerOpComplete (g slot : Nat) (s : State) : Host.Outcome State Fault Refusal :=
  let t := (s.grove g).slot slot
  if t.state ≠ .active then .next s
  else
    match t.fin with
    | some (kind, xc, addr) => .next (s.endActive g slot t kind xc addr)
    | none => if slKind t.image = 5 then .next ((s.performAmo g slot t).getD s) else .next s

/-! ### Ownership (R324, R340, R341) -/

/-- The owner's record is freed or contained: its ARMED and HELD slots become EMPTY (R340). `uid` is its number. -/
def Grove.dropSlots (gr : Grove) (uid : Nat) : Grove :=
  { gr with slots := gr.slots.map fun e =>
      if e.2.owner = uid ∧ (e.2.state = .armed ∨ e.2.state = .held) then (e.1, e.2.emptied) else e }

/-- A freed record's bound counters become TADD counters (R324). -/
def Grove.unbind (gr : Grove) (task : Nat) : Grove :=
  { gr with counters := gr.counters.map fun e =>
      if e.2.task = some task then (e.1, { e.2 with src := 0, range := 0, task := none, residue := 0 }) else e }

/-- Does the record with a number own an ARMED, HELD or ACTIVE slot (R340)? -/
def Grove.ownsActive (gr : Grove) (uid : Nat) : Bool :=
  gr.slots.any fun e => decide (e.2.owner = uid) &&
    (decide (e.2.state = .armed) || decide (e.2.state = .held) || decide (e.2.state = .active))

/-- The images of a template are installed for an instance (R341); one whose slot is in use is not, with a SLOTBUSY tile; nor is one
that `tarm` would not take, with an OPFAIL tile of kind ILLEGAL (log entry 59). -/
def State.installTrigs (s : State) (g i : Nat) : State :=
  match Tbl.get? (s.grove g).tasks i with
  | none => s
  | some t =>
    ((s.ctx t.ctx).image.trigs.filter fun e => decide (e.tmpl = t.tmpl)).foldl (fun s e =>
      let value := ((s.grove g).counter (slCtr e.image)).value
      if ((s.grove g).imageTrap t.ctx e.slot e.image).isSome then
        s.trigTile g t.ctx e.slot t.uid t.wid 3 e.image Kind.illegal.code 0 0 none value
      else if ((s.grove g).slot e.slot).takes then s.updGrove g fun x => x.armSlot t.ctx e.slot t.uid t.wid e.image
      else s.trigTile g t.ctx e.slot t.uid t.wid 2 e.image 0 0 0 none value) s

end Sys2Proof.Machine
end

