-- ==== Sys2Proof/Machine/Records.lean ====
section
/-!
DEFINITION. Task records (R165 to R173): their words, installation from templates, arming, tag pools and leases (R178, R179),
triad places (R171), and the freeing of a record.
-/

namespace Sys2Proof.Machine

/-! ### Records (R165, R166) -/

/-- A record of a grove. -/
def Grove.task? (gr : Grove) (i : Nat) : Option TaskRec := Tbl.get? gr.tasks i
/-- Replaces a record. -/
def Grove.setTask (gr : Grove) (i : Nat) (t : TaskRec) : Grove := { gr with tasks := Tbl.set gr.tasks i t }
/-- Is a table entry free, and not reserved for a record in transit (R190)? -/
def Grove.entryFree (gr : Grove) (i : Nat) : Bool := (gr.task? i).isNone && !gr.reservedIn.any fun e => decide (e.1 = i)
/-- The lowest free entry. -/
def Grove.freeIndex (gr : Grove) : Option Nat := (List.range 256).find? gr.entryFree

/-- The code of a state (R166). -/
def TState.code : TState → Nat
  | .idle => 0 | .armed => 1 | .ready => 2 | .running => 3 | .suspended => 4 | .done => 5 | .faulted => 6

/-- The state a record shows: SUSPENDED while its fault is being contained (R191). -/
def State.shownState (s : State) (g : Nat) (t : TaskRec) : TState :=
  if t.oncore && decide ((s.core (4 * g + t.slot)).mode = .faulted) then .suspended else t.state

/-- Word k of a record (R166). -/
def TaskRec.word (t : TaskRec) (shown : TState) (k : Nat) : Nat :=
  let b (x : Bool) (i : Nat) : Nat := if x then 2 ^ i else 0
  let landed := t.subs.zipIdx.foldl (fun n e => n + b e.1.landed e.2) 0
  let vers (l : List TSub) : Nat := l.foldr (fun x n => n * 65536 + x.ver % 65536) 0
  match k with
  | 0 => t.wid.toNat
  | 1 => t.replay % 4 * 2 ^ 60 + b t.hold 59 + t.splvl % 8 * 2 ^ 56 + landed * 2 ^ 48 + t.subs.length % 16 * 2 ^ 40 +
      t.tmpl % 256 * 2 ^ 32 + t.entry % 4096 * 2 ^ 20 + t.foot.toNat * 2 ^ 12 + t.copy % 4 * 2 ^ 10 + b t.gang 9 +
      b t.triad 8 + b t.guarded 7 + t.base % 4 * 32 + t.cls % 4 * 8 + shown.code
  | 2 => t.readyT.getD 0
  | 3 => t.instT
  | 12 => vers (t.subs.take 4)
  | 13 => vers ((t.subs.drop 4).take 4)
  | 14 => b t.spv 63 + t.spl % 8 * 2 ^ 60 + t.spt % 2 ^ 60
  | 15 => b t.saved 8 + t.frame.getD 0 % 32 * 8 + b t.oncore 2 + t.slot % 4
  | k => match t.subs[k - 4]? with
    | some x => 2 ^ 63 + b x.landed 62 + x.ch % 64 * 2 ^ 56 + x.delta.toNat % 2 ^ 56
    | none => 0

/-- Word k of entry i of a grove's table; a free entry has STATE 7, SPLVL 7 and COPY 3 (R166). -/
def State.recordWord (s : State) (g i k : Nat) : Nat :=
  match (s.grove g).task? i with
  | some t => t.word (s.shownState g t) k
  | none => if k = 1 then 7 * 2 ^ 56 + 3 * 2 ^ 10 + 7 else 0

/-- The subscriptions of a template (R166, R170). -/
def Template.recSubs (t : Template) : List TSub :=
  (t.subs.filter fun w => w.getLsbD 63).map fun w => ⟨(w.extractLsb' 56 6).toNat, w &&& 0x00FFFFFFFFFFFFFF, false, 0⟩

/-- A record of a template (R166). -/
def newRecord (im : Image) (ctx tmpl : Nat) (t : Template) (wid : Word) (copy instT splvl : Nat) (hold : Bool)
    (parent tag : Option Nat) : TaskRec :=
  { uid := 0, inst := 0, lost := false, ctx := ctx, wid := wid, replay := 0, hold := hold, splvl := splvl, tmpl := tmpl,
    entry := (match im.kernels[t.kidx]? with | some k => k.entry | none => 0), foot := t.foot, copy := copy, gang := t.gang,
    triad := t.triad, guarded := t.guarded, base := t.prio, cls := t.prio, state := .idle, readyT := none, instT := instT,
    subs := t.recSubs, spv := false, spl := 0, spt := 0, saved := false, frame := none, oncore := false, slot := 0,
    parent := parent, tag := tag, started := 0, exact := false, imageSnap := none, pubSeq := [],
    pinned := [], pend := [], rounds := [], collRec := [], able := none, waited := 0, longest := 0 }

/-! ### Arming (R15, R167, R173) -/

/-- The name of subscription i of a record (R173). -/
def State.recSubName (s : State) (t : TaskRec) (x : TSub) : Name := (s.ctx t.ctx).image.nameOf x.ch t.wid x.delta

/-- Sends the subscriptions of a record that have not landed and that its grove does not hold yet (R167, R302). -/
def State.sendRecSubs (s : State) (g i : Nat) : State :=
  match (s.grove g).task? i with
  | none => s
  | some t =>
    t.subs.zipIdx.foldl (fun s e =>
      if e.1.landed || (s.grove g).subs.any (fun x => decide (x.owner = .record i e.2)) then s
      else s.updGrove g fun gr => gr.addSub t.ctx (.record i e.2) e.1.ch (s.recSubName t e.1) 0 1 []) s

/-- An ARMED record becomes READY when its last subscription has landed (R15, R167). -/
def State.settleReady (s : State) (g i : Nat) : State :=
  s.updTask g i fun t =>
    if t.state = .armed ∧ t.subs.all (·.landed) then
      { t with state := .ready, readyT := some (t.readyT.getD s.tick), started := s.tick }
    else t

/-- A record becomes ARMED: its subscriptions are sent (R167). -/
def State.armTask (s : State) (g i : Nat) : State :=
  let s := s.updTask g i fun t => { t with state := .armed, hold := false }
  (s.sendRecSubs g i).settleReady g i

/-- Enters a record in the lowest free entry under the next number, with its trigger images (R341), and arms it unless it is to
wait. -/
def State.enterRecord (s : State) (g : Nat) (r : TaskRec) (arm : Bool) : State :=
  match (s.grove g).freeIndex with
  | none => s
  | some i =>
    let s := { s with uids := s.uids + 1 }.updGrove g fun gr => gr.setTask i { r with uid := s.uids }
    let s := s.installTrigs g i
    if arm then s.armTask g i else s

/-! ### Places (R171, R190, R193) -/

/-- The nearest grove of a list to a place, ties to the lower index. -/
def nearestOf (from_ : Nat) (l : List Nat) : Option Nat :=
  l.foldl (fun (b : Option Nat) g =>
    match b with
    | none => some g
    | some h =>
      let d := groveDist from_ g
      let e := groveDist from_ h
      if d < e ∨ (d = e ∧ g < h) then some g else some h) none

/-- The nearest ready grove of a context's partition with a free entry that a condition allows. -/
def State.nearestFree (s : State) (ctx from_ : Nat) (ok : Nat → Bool) : Option Nat :=
  nearestOf from_ ((s.partGroves (partOfCtx ctx)).filter fun g => ok g && (s.grove g).freeIndex.isSome)

/-- The places of copies 1 and 2 of a triad around copy 0, each in a field that holds no other copy (R171); groves of a failed
run are avoided (R193). -/
def State.triadPlaces (s : State) (ctx g : Nat) (avoid : List Nat) : Option (Nat × Nat) :=
  match s.nearestFree ctx g (fun h => !avoid.contains h && decide (fieldOf h ≠ fieldOf g)) with
  | none => none
  | some a =>
    (s.nearestFree ctx g fun h => !avoid.contains h && decide (fieldOf h ≠ fieldOf g) && decide (fieldOf h ≠ fieldOf a)).map
      fun b => (a, b)

/-- Enters the three records of a triad at their groves, as an instance of its own (R193). -/
def State.enterTriad (s : State) (r : TaskRec) (g a b : Nat) (arm : Bool) : State :=
  let r := { r with inst := s.uids }
  let s : State := { s with uids := s.uids + 1, triads := s.triads ++ [⟨s.uids, { r with copy := 0 }, [g, a, b], 0⟩] }
  ((s.enterRecord g { r with copy := 0 } arm).enterRecord a { r with copy := 1 } arm).enterRecord b { r with copy := 2 } arm

/-- Installs an instance of a template at a grove, three records for a triad; none when an entry or a place is missing (R180,
R181): what becomes of a triad that has no place for a copy is not stated (log entry 56). -/
def State.installInstance (s : State) (g ctx tmpl : Nat) (t : Template) (wid : Word) (splvl : Nat) (hold : Bool)
    (parent tag : Option Nat) : Option State :=
  let im := (s.ctx ctx).image
  let rec_ (c : Nat) : TaskRec := newRecord im ctx tmpl t wid c s.tick splvl hold parent tag
  match (s.grove g).freeIndex with
  | none => none
  | some _ =>
    if t.triad then
      match s.triadPlaces ctx g [] with
      | none => none
      | some (a, b) => some (s.enterTriad (rec_ 0) g a b !hold)
    else some (s.enterRecord g (rec_ 3) !hold)

/-! ### Tag pools and leases (R178, R179) -/

/-- The number of tags of a level-L pool. -/
def poolSize (widths : List Nat) (level : Nat) : Nat := min (2 ^ min (widWidth widths (level + 1)) 12) 4096

/-- The home grove of a pool, a position of the gang, under the seed and list at which the context's pools stand (R178). -/
def State.poolHome (s : State) (ctx level : Nat) (group : Word) : Nat :=
  (pick (poolKey (s.ctx ctx).poolSeed level group) (s.ctx ctx).poolList).getD 0

/-- Does a pool's home lie in this module? -/
def State.poolHere (s : State) (ctx level : Nat) (group : Word) : Bool :=
  decide (s.poolHome ctx level group / 2592 = (s.ctx ctx).member)

/-- The lease of a pool at a grove. -/
def Grove.lease (gr : Grove) (ctx level : Nat) (group : Word) : Lease :=
  (gr.leases.find? fun l => decide (l.ctx = ctx) && decide (l.level = level) && decide (l.group = group)).getD
    ⟨ctx, level, group, [], 0, none⟩

/-- Stores a lease. -/
def Grove.setLease (gr : Grove) (l : Lease) : Grove :=
  let same (x : Lease) : Bool := decide (x.ctx = l.ctx) && decide (x.level = l.level) && decide (x.group = l.group)
  if gr.leases.any same then { gr with leases := gr.leases.map fun x => if same x then l else x }
  else { gr with leases := gr.leases ++ [l] }

/-- A pool at its home; one that has not been used holds all its tags. -/
def Grove.pool (gr : Grove) (ctx level : Nat) (group : Word) (size : Nat) : Pool :=
  (gr.pools.find? fun p => decide (p.ctx = ctx) && decide (p.level = level) && decide (p.group = group)).getD
    ⟨ctx, level, group, List.range (size - 1), true, none, []⟩

/-- Stores a pool. -/
def Grove.setPool (gr : Grove) (l : Pool) : Grove :=
  let same (x : Pool) : Bool := decide (x.ctx = l.ctx) && decide (x.level = l.level) && decide (x.group = l.group)
  if gr.pools.any same then { gr with pools := gr.pools.map fun x => if same x then l else x }
  else { gr with pools := gr.pools ++ [l] }

/-- Changes a pool at its home. -/
def State.updPool (s : State) (ctx level : Nat) (group : Word) (f : Pool → Pool) : State :=
  if s.poolHere ctx level group then
    let size := poolSize (s.ctx ctx).image.widths level
    s.updGrove (s.poolHome ctx level group % 2592) fun gr => gr.setPool (f (gr.pool ctx level group size))
  else s

/-- Inserts a tag in rising order. -/
def insertTag (x : Nat) (l : List Nat) : List Nat := l.takeWhile (fun y => decide (y < x)) ++ [x] ++ l.dropWhile (fun y => decide (y < x))

/-- The lowest tag of a lease. -/
def Lease.lowest (l : Lease) : Option Nat :=
  l.tags.foldl (fun (b : Option Nat) e => match b with | some x => some (min x e.1) | none => some e.1) none

/-- A waiting spawner leaves the lists of its pools; a reserved tag granted to it goes to the next head (R179). -/
def State.leaveSpawn (s : State) (ctx : Nat) (wid : Word) (sel : Nat → Bool) : State :=
  let pool (p : Pool) : Pool :=
    if p.ctx = ctx ∧ sel p.level then
      { p with waiters := p.waiters.filter fun w => !decide (w.2.1 = wid),
               granted := if p.granted = some wid then none else p.granted,
               resFree := p.resFree || decide (p.granted = some wid) }
    else p
  let lease (l : Lease) : Lease := if l.ctx = ctx ∧ sel l.level ∧ l.granted = some wid then { l with granted := none } else l
  { s with groves := s.groves.map fun e =>
      (e.1, { e.2 with pools := e.2.pools.map pool, leases := e.2.leases.map lease }) }

/-- Every record with its grove and index. -/
def State.allRecords (s : State) : List (Nat × Nat × TaskRec) :=
  s.groves.flatMap fun e => e.2.tasks.map fun t => (e.1, t.1, t.2)

/-- The records in transit (R190). -/
def State.transit (s : State) : List TaskRec :=
  s.net.filterMap fun p => match p.kind with | .migrate r _ _ _ _ => some r | _ => none

/-- Changes the records in transit that a condition selects. -/
def State.updTransit (s : State) (sel : TaskRec → Bool) (f : TaskRec → TaskRec) : State :=
  { s with net := s.net.map fun p => match p.kind with
      | .migrate r i l h n => if sel r then { p with kind := .migrate (f r) i l h n } else p
      | _ => p }

/-- Has a context a record whose tag came from a pool? -/
def State.hasSpawned (s : State) (ctx : Nat) : Bool :=
  let spawned (t : TaskRec) : Bool := decide (t.ctx = ctx) && t.tag.isSome
  s.allRecords.any (fun e => spawned e.2.2) || s.transit.any spawned

/-- A context without a spawned record has its pools where its seed and root list place them, every tag free; its waiting spawners
go along (R178). -/
def State.settlePools (s : State) (ctx : Nat) : State :=
  let x := s.ctx ctx
  if (x.poolSeed = x.seed ∧ x.poolList = x.rootList) ∨ s.hasSpawned ctx then s
  else
    let old := s.groves.flatMap fun e => e.2.pools.filter fun p => decide (p.ctx = ctx)
    let s : State := { s with groves := s.groves.map fun e => (e.1, { e.2 with
      pools := e.2.pools.filter (fun p => !decide (p.ctx = ctx)), leases := e.2.leases.filter fun l => !decide (l.ctx = ctx) }) }
    let s := s.updCtx ctx fun x => { x with poolSeed := x.seed, poolList := x.rootList }
    old.foldl (fun s p => if p.waiters.isEmpty then s else s.updPool ctx p.level p.group fun q => { q with waiters := p.waiters }) s

/-- A freed record's tag comes free (R178): at the grove's lease when it has room, else at the home; the tag of a triad with its
last copy (R180). -/
def State.returnTag (s : State) (g i : Nat) (r : TaskRec) : State :=
  match r.tag with
  | none => s
  | some x =>
    let same (t : TaskRec) : Bool := decide (t.ctx = r.ctx) && decide (t.wid = r.wid) && decide (t.tag = some x) && decide (t.splvl = r.splvl)
    if s.allRecords.any (fun e => !(decide (e.1 = g) && decide (e.2.1 = i)) && same e.2.2) || s.transit.any same then s
    else
      let widths := (s.ctx r.ctx).image.widths
      let group := widPrefix widths r.splvl r.wid
      (if x + 1 = poolSize widths r.splvl then s.updPool r.ctx r.splvl group fun p => { p with resFree := true }
      else
        let has := (s.grove g).leases.any fun l => decide (l.ctx = r.ctx) && decide (l.level = r.splvl) && decide (l.group = group)
        let l := (s.grove g).lease r.ctx r.splvl group
        if has ∧ l.tags.length < 8 then s.updGrove g fun gr => gr.setLease { l with tags := l.tags ++ [(x, s.tick)] }
        else s.updPool r.ctx r.splvl group fun p => { p with free := insertTag x p.free }).settlePools r.ctx

/-! ### Freeing (R167, R182, R299, R324, R340) -/

/-- Kernel subscriptions and halo sets of a task end (R292, R297). -/
def State.endKernel (s : State) (g i : Nat) : State :=
  let s := s.withdrawOf g i fun x => match x.owner with | .record _ _ => false | _ => true
  s.updGrove g fun gr => { gr with halos := gr.halos.filter fun h => !decide (h.task = i) }

/-- Frees a record: its subscriptions, pins, slots, bound counters, save frame and tag go with it. -/
def State.freeRecord (s : State) (g i : Nat) : State :=
  match (s.grove g).task? i with
  | none => s
  | some t =>
    let s := ((s.unpinTask g i).endKernel g i).withdrawOf g i fun _ => true
    let s := s.updGrove g fun gr =>
      let gr := (gr.dropSlots t.uid).unbind i
      { gr with tasks := Tbl.del gr.tasks i,
                preempt := (match gr.preempt with | some p => if p.2 = i then none else some p | none => none) }
    ((s.dropFrame g t.frame).leaveSpawn t.ctx t.wid fun _ => true).returnTag g i t

/-- A HOLD child of the record with a number. -/
def TaskRec.heldBy (t : TaskRec) (uid : Nat) : Bool := t.hold && decide (t.parent = some uid)

/-- A record in transit is freed: its reserved entry comes free and its tag returns. -/
def State.freeTransit (s : State) (sel : TaskRec → Bool) : State :=
  s.net.foldl (fun s p => match p.kind with
    | .migrate r i _ _ _ =>
      if sel r then
        (({ s with net := s.net.erase p }).updGrove p.dst fun gr =>
          { gr with reservedIn := gr.reservedIn.filter fun e => !decide (e.2 = 256 * p.src + i) }).returnTag 4096 0 r
      else s
    | _ => s) s

/-- Frees the HOLD children of a contained parent, in transit too (R167, R191). -/
def State.freeHeld (s : State) (uid : Nat) : State :=
  ((s.allRecords.filter fun e => e.2.2.heldBy uid).foldl (fun s e => s.freeRecord e.1 e.2.1) s).freeTransit fun r => r.heldBy uid

/-- Arms the HOLD children of a committed parent; one in transit sends its subscriptions where it arrives (R167, R182). -/
def State.armHeld (s : State) (uid : Nat) : State :=
  ((s.allRecords.filter fun e => e.2.2.heldBy uid).foldl (fun s e => s.armTask e.1 e.2.1) s).updTransit (fun r => r.heldBy uid)
    fun r => { r with state := .armed, hold := false }

/-- Drops the triad instances of which nothing is left: no record, and no publication that its voter has still to judge (R193,
R316). -/
def State.sweepTriads (s : State) : State :=
  { s with triads := s.triads.filter fun t =>
      s.allRecords.any (fun e => decide (e.2.2.inst = t.inst) && e.2.2.triad) || s.transit.any (fun r => decide (r.inst = t.inst) && r.triad) ||
      s.groves.any (fun e =>
        e.2.pubs.any (fun p => decide (p.ctx = t.task.ctx) && decide (p.wid = t.task.wid) && p.votes) ||
        e.2.versions.any fun v => decide (v.ctx = t.task.ctx) && decide (v.pubWid = t.task.wid) && !v.vote.isEmpty) ||
      s.net.any fun p => match p.kind with
        | .pubChunk _ c _ _ _ _ _ _ => decide (p.ctx = t.task.ctx) && decide (p.wid = t.task.wid) && decide (c < 3)
        | _ => false }

/-- A task leaves its core: what stays is banks and their tags, the numbering of its requests, jobs of slots that act on no
scratchpad. -/
def Core.leave (c : Core) : Core :=
  { c with mode := .idle, pend := [], queues := Vector.replicate 8 [], xops := [], imprecise := [], latch := .none, inGang := 0, split := [],
           branch := none, delay := false, jobs := c.jobs.filter Job.loose,
           board := c.board.filter fun e => (c.jobs.filter Job.loose).any fun j => decide (j.id = e.job) }

/-- Stops a task without a save and frees its record (R167, R193, R419). -/
def State.evict (s : State) (g i : Nat) : State :=
  match (s.grove g).task? i with
  | none => s
  | some t =>
    let s := if t.oncore then s.updCore (4 * g + t.slot) Core.leave else s
    let s := s.updGrove g fun gr =>
      { gr with pubs := gr.pubs.filter fun p => !(decide (p.uid = t.uid) && decide (p.sent = 0)),
                collSets := if t.oncore then gr.collSets.filter fun e => !decide (e.1 / 2 = t.slot) else gr.collSets,
                gangs := gr.gangs.filter fun G => !G.members.any fun m => decide (m.uid = t.uid) }
    s.freeRecord g i

end Sys2Proof.Machine
end

