-- ==== Sys2Proof/Machine/Task.lean ====
section
/-!
DEFINITION. The task engine (R165 to R189): the task and barrier instructions and their acceptance, selection and start of tasks,
aging, `exit`, tag leases, barriers and the start tick.
-/

namespace Sys2Proof.Machine

/-! ### Instructions (R180 to R189) -/

/-- R180: `spawn sD, pB, sA, L`. -/
def execSpawn (d a b : BitVec 7) (p : BitVec 3) (l : BitVec 3) (s : State) : Host.Outcome State Fault Refusal :=
  xIssue (.spawn d a b p l) s [sReg d, pReg b] fun c =>
    .ok (XOp.of s.clk c.ords (.spawn d a b p l) (c.rs a.toNat) 0 0 c.kwid)

/-- R181: `tinst sA, sB, L`. -/
def execTinst (a b : BitVec 7) (p : BitVec 3) (l : BitVec 3) (s : State) : Host.Outcome State Fault Refusal :=
  xIssue (.tinst a b p l) s [] fun c => .ok (XOp.of s.clk c.ords (.tinst a b p l) (c.rs a.toNat) (c.rs b.toNat) 0 c.kwid)

/-- R182: `exit`: the slots before it take effect, a branch in its bundle is ignored, and no later bundle issues. -/
def execExit (p : BitVec 3) (s : State) : Host.Outcome State Fault Refusal :=
  runOp (.exit p) s fun _ =>
    .ok (s.updCore s.cur fun c => { c with mode := .exiting, branch := none, delay := false, latch := .jumped })

/-- R185: `barr bA`, a release of scope W. -/
def execBarr (a : BitVec 7) (p : BitVec 3) (s : State) : Host.Outcome State Fault Refusal :=
  xIssue (.barr a p) s [] fun c => .ok { XOp.of s.clk c.ords (.barr a p) 0 0 0 c.kwid with rel := true }

/-- R186: `bwait pD, bA`: the phase it waits for is chosen at its acceptance; until then its target is 65,536. -/
def execBwait (d a : BitVec 7) (p : BitVec 3) (s : State) : Host.Outcome State Fault Refusal :=
  runOp (.bwait d a p) s fun c =>
    if c.waitHolds then .stall
    else .ok ((s.updCore s.cur fun k => k.sendX (XOp.of s.clk c.ords (.bwait d a p) 0 0 0 c.kwid)).writeLater (pReg d) 0
      (.phase a.toNat 65536 c.ords))

/-- R187: `btest pD, bA`. -/
def execBtest (d a : BitVec 7) (p : BitVec 3) (s : State) : Host.Outcome State Fault Refusal :=
  xIssue (.btest d a p) s [pReg d] fun c => .ok (XOp.of s.clk c.ords (.btest d a p) 0 0 0 c.kwid)

/-- R188: `bset bA, sB`. -/
def execBset (a b : BitVec 7) (p : BitVec 3) (s : State) : Host.Outcome State Fault Refusal :=
  xIssue (.bset a b p) s [] fun c => .ok (XOp.of s.clk c.ords (.bset a b p) (c.rs b.toNat) 0 0 c.kwid)

/-- R189: `migrate sA, sB`. -/
def execMigrate (a b : BitVec 7) (p : BitVec 3) (s : State) : Host.Outcome State Fault Refusal :=
  xIssue (.migrate a b p) s [] fun c => .ok (XOp.of s.clk c.ords (.migrate a b p) (c.rs a.toNat) (c.rs b.toNat) 0 c.kwid)

/-! ### Acceptance of spawn and tinst (R180, R181) -/

/-- Kind INSTALL (R196). -/
def kindInstall : Nat := 16

/-- The tag a spawn takes: the lowest of the lease, or the reserved one when it is granted to this WID and no other is held. -/
def Lease.take (l : Lease) (wid : Word) (size : Nat) : Option (Nat × Bool) :=
  match l.lowest with
  | some x => some (x, false)
  | none => if l.granted = some wid then some (size - 1, true) else none

/-- The tick at which a task became a waiting spawner of a pool: the one at which the pool's home has listed it; for a home in another
module the one its record shows (R179). -/
def State.waitsSince (s : State) (level : Nat) (t : TaskRec) (group : Word) : Option Nat :=
  if s.poolHere t.ctx level group then
    let p := (s.grove (s.poolHome t.ctx level group % 2592)).pool t.ctx level group 0
    (p.waiters.find? fun w => decide (w.2.1 = t.wid)).map (·.1)
  else if t.spv ∧ t.spl = level then some t.spt else none

/-- A spawn that finds no tag enters its task as a waiting spawner (R179), once: it keeps its place in the home's list. -/
def State.waitSpawn (s : State) (g i level : Nat) (t : TaskRec) : State :=
  let group := widPrefix (s.ctx t.ctx).image.widths level t.wid
  let spt := (s.waitsSince level t group).getD s.tick
  let s := s.updTask g i fun t => { t with spv := true, spl := level, spt := spt }
  let s := s.updGrove g fun gr => gr.setLease { gr.lease t.ctx level group with used := s.tick }
  s.updPool t.ctx level group fun p =>
    if p.waiters.any fun w => decide (w.2.1 = t.wid) && decide (w.2.2 = g) then p
    else
      let before (w : Nat × Word × Nat) : Bool := decide (w.1 < spt) || (decide (w.1 = spt) && decide (w.2.1.toNat ≤ t.wid.toNat))
      { p with waiters := p.waiters.takeWhile before ++ [(spt, t.wid, g)] ++ p.waiters.dropWhile before }

/-- `spawn` at the task engine (R180): the values of s[D] and p[B]. A triad template that finds no grove for copy 1 or 2 fails with
code 2 (log entry 56: R180 does not say). -/
def State.acceptSpawn (s : State) (core level : Nat) (x : XOp) : State × List Nat :=
  let g := groveOf core
  let c := s.core core
  let gr := s.grove g
  match gr.task? c.task with
  | none => (s, [3, 0])
  | some t =>
    let s := s.settlePools t.ctx
    let gr := s.grove g
    let im := (s.ctx t.ctx).image
    match im.templates[x.va.toNat]? with
    | none => (s, [3, 0])
    | some tp =>
      if gr.freeIndex.isNone || (tp.triad && (s.triadPlaces t.ctx g []).isNone) then (s, [2, 0])
      else
        let size := poolSize im.widths level
        let group := widPrefix im.widths level t.wid
        let l := gr.lease t.ctx level group
        match l.take t.wid size with
        | none => (s.waitSpawn g c.task level t, [1, 0])
        | some (tag, reserved) =>
          let child := widSet im.widths (level + 1) group tag
          let s := s.updGrove g fun gr => gr.setLease
            { l with tags := l.tags.filter (fun e => !decide (e.1 = tag)), used := s.tick,
                     granted := if reserved then none else l.granted }
          let s := if reserved then s.updPool t.ctx level group fun p => { p with granted := none } else s
          let s := s.leaveSpawn t.ctx t.wid fun k => decide (k = level)
          let s := s.updTask g c.task fun t => { t with spv := false, spl := 0, spt := 0 }
          match s.installInstance g t.ctx x.va.toNat tp child level t.guarded (some t.uid) (some tag) with
          | some s => (s, [child.toNat, 0xFFFFFFFF])
          | none => (s, [2, 0])

/-- The cause for which a `tinst` is dropped, or 0 (R181). -/
def State.tinstCause (s : State) (g level : Nat) (t : TaskRec) (wid : Word) (tmpl : Nat) : Nat :=
  let im := (s.ctx t.ctx).image
  if widPrefix im.widths level wid ≠ widPrefix im.widths level t.wid then 1
  else if widPrefix im.widths 5 wid ≠ wid then 2
  else if im.templates.length ≤ tmpl then 3
  else if (s.grove g).freeIndex.isNone then 4
  else if (s.grove g).tasks.any (fun e => decide (e.2.ctx = t.ctx) && decide (e.2.wid = wid) && decide (e.2.tmpl = tmpl)) then 5
  else 0

/-- `tinst` at the task engine (R181): installed, or dropped with an INSTALL tile; a triad template that finds no grove for copy 1 or
2 is dropped with cause 4 (log entry 56: R181 does not say). -/
def State.acceptTinst (s : State) (core level : Nat) (x : XOp) : State :=
  let g := groveOf core
  let c := s.core core
  match (s.grove g).task? c.task with
  | none => s
  | some t =>
    let drop (k : Nat) : State :=
      s.faultTile g t.ctx ⟨kindInstall, 4, 0, 0, 0, false, false, none, natBytes 1 k⟩ (some (c.task, t)) t.wid
    let k := s.tinstCause g level t x.va x.vb.toNat
    if k ≠ 0 then drop k
    else
      match (s.ctx t.ctx).image.templates[x.vb.toNat]? with
      | none => drop 3
      | some tp =>
        match s.installInstance g t.ctx x.vb.toNat tp x.va 7 t.guarded (some t.uid) none with
        | some s => s
        | none => drop 4

/-! ### Acceptance of the barrier instructions (R184 to R188) -/

/-- `barr` reaches the task engine (R184, R185): in level mode it counts only for the group of the key. -/
def State.acceptBarr (s : State) (core b : Nat) (wid : Word) : State :=
  let g := groveOf core
  let c := s.core core
  let bar := (s.grove g).barrier c.ctxNo b
  if bar.lvl ∧ widPrefix (s.ctx c.ctxNo).image.widths bar.level wid ≠ bar.key then s
  else (s.updCore core fun c => { c with arrivals := c.arrivals.setIfInBounds b (some bar.phase) }).updGrove g fun gr =>
    gr.arrive c.ctxNo b s.clk none none

/-- `bwait` is accepted (R186): it waits for the recorded phase, or for the current one. -/
def State.acceptBwait (s : State) (core b ord : Nat) : State :=
  let bar := (s.grove (groveOf core)).barrier (s.core core).ctxNo b
  s.updCore core fun c =>
    let target := match c.arrivals[b]? with | some (some ph) => ph.toNat | _ => bar.phase.toNat
    { c with pend := c.pend.map fun p => match p.wait with
        | .phase x 65536 o => if x = b ∧ o = ord then { p with wait := .phase b target o } else p
        | _ => p }

/-- The value of `btest` (R187). -/
def State.btestValue (s : State) (core b : Nat) : Nat :=
  let c := s.core core
  match c.arrivals[b]? with
  | some (some ph) => if ((s.grove (groveOf core)).barrier c.ctxNo b).phase ≠ ph then 0xFFFFFFFF else 0
  | _ => 0

/-- `bset` configures a barrier at once, or for the next phase (R188). -/
def State.acceptBset (s : State) (core b : Nat) (v wid : Word) : State :=
  let g := groveOf core
  let c := s.core core
  let bar := (s.grove g).barrier c.ctxNo b
  let count := max (v.extractLsb' 0 12).toNat 1
  let level := min (v.extractLsb' 13 3).toNat 5
  let key := widPrefix (s.ctx c.ctxNo).image.widths level wid
  let bar' := if bar.arrived = 0 ∧ !bar.npend then { bar with count := count, lvl := v.getLsbD 12, level := level, key := key }
    else { bar with npend := true, ncount := count, nlvl := v.getLsbD 12, nlevel := level, nkey := key }
  s.updGrove g fun gr => gr.setBarrier c.ctxNo b bar'

/-- Arrivals of a barrier that are to be counted by a clock. -/
def Grove.arrivalsDue (gr : Grove) (bar clk : Nat) : List Arrival :=
  gr.arrivals.filter fun a => decide (a.ctx * 16 + a.bar = bar) && decide (a.at_ ≤ clk)

/-- Has a barrier, numbered context times 16 plus b, something to do in this clock? -/
def Grove.barrierActs (gr : Grove) (bar clk : Nat) : Bool :=
  let b := gr.barrier (bar / 16) (bar % 16)
  !(gr.arrivalsDue bar clk).isEmpty || (decide (b.count ≤ b.arrived) && decide (b.free ≤ clk))

/-- R184: the arrivals of the clock are counted together, then at most one phase completes. -/
def execBarrierArrival (g bar : Nat) (s : State) : Host.Outcome State Fault Refusal :=
  let gr := s.grove g
  if !gr.barrierActs bar s.clk then .next s
  else
    let due := gr.arrivalsDue bar s.clk
    let b := due.foldl (fun (b : Barrier) a => b.take 1 (match a.gang with | some (true, m) => some m | _ => none))
      (gr.barrier (bar / 16) (bar % 16))
    let gr := { gr with arrivals := gr.arrivals.filter fun a => !due.contains a }
    let gr := due.foldl (fun gr a => match a.slot with | some k => gr.endSlot k 0 0 0 | none => gr) gr
    .next (s.setGrove g (gr.setBarrier (bar / 16) (bar % 16) (b.settle s.clk)))

/-! ### Selection and start (R15, R29, R165, R175, R176) -/

/-- May tasks of a context start and issue (R49, R174, R193, R393)? -/
def State.ctxRuns (s : State) (ctx : Nat) : Bool :=
  let x := s.ctx ctx
  decide (x.state = .running) && !s.heldCtx ctx && !x.flushing

/-- Does one READY record go before another (R15)? -/
def readyBefore (a b : Nat × TaskRec) : Bool :=
  if a.2.cls ≠ b.2.cls then decide (b.2.cls < a.2.cls)
  else if a.2.readyT.getD 0 ≠ b.2.readyT.getD 0 then decide (a.2.readyT.getD 0 < b.2.readyT.getD 0)
  else decide (a.1 < b.1)

/-- The READY records of a grove in the order of R15. -/
def State.readyOrder (s : State) (g : Nat) : List (Nat × TaskRec) :=
  ((s.grove g).tasks.filter fun e => decide (e.2.state = .ready) && s.ctxRuns e.2.ctx).foldl
    (fun l x => l.takeWhile (fun y => readyBefore y x) ++ [x] ++ l.dropWhile (fun y => readyBefore y x)) []

/-- Does a core hold no task, with no bank of a footprint claimed (R165)? -/
def Core.takes (c : Core) (foot : BitVec 8) : Bool :=
  decide (c.mode = .idle) &&
  !c.board.any fun e => (List.range 8).any fun k => foot.getLsbD k && overlap (e.lo, e.hi) (96 * k, 96 * k + 95)

/-- Can record i start on a core slot: the core takes it, and is not reserved for another (R165, R175)? -/
def State.coreFits (s : State) (g slot i : Nat) (foot : BitVec 8) : Bool :=
  (s.core (4 * g + slot)).takes foot &&
  (match (s.grove g).preempt with | some p => decide (p.1 ≠ slot) || decide (p.2 = i) | none => true)

/-- The lowest-numbered core on which a record can start. -/
def State.coreFor (s : State) (g i : Nat) (foot : BitVec 8) : Option Nat := (List.range 4).find? fun k => s.coreFits g k i foot

/-- The first READY record that can start, with its core slot. -/
def State.nextStart (s : State) (g : Nat) : Option (Nat × TaskRec × Nat) :=
  if s.groveReady g then (s.readyOrder g).findSome? fun e => (s.coreFor g e.1 e.2.foot).map fun k => (e.1, e.2, k) else none

/-- A READY record in a clock that takes `dt` ticks: the wait of R174 begins when some core of its grove takes it, and counts but for the
ticks in which its context is held and those in which the core reserved for it waits for a gang job. -/
def State.waitOn (s : State) (g dt : Nat) (e : Nat × TaskRec) : TaskRec :=
  let t := e.2
  let gr := s.grove g
  if t.state ≠ .ready then (if t.able.isNone then t else { t with able := none })
  else
    match t.able with
    | none => if (List.range 4).any fun k => (s.core (4 * g + k)).takes t.foot then { t with able := some s.tick, waited := 0, longest := 0 } else t
    | some t0 =>
      let deferred := match gr.preempt with | some p => decide (p.2 = e.1) && decide ((s.core (4 * g + p.1)).inGang ≠ 0) | none => false
      let stay := gr.tasks.foldl (fun m x => if x.2.oncore then max m (s.tick - max t0 x.2.started) else m) 0
      { t with waited := if deferred || !s.ctxRuns t.ctx then t.waited else t.waited + dt, longest := max t.longest stay }

/-- Has a record waited past the bound of R174? -/
def TaskRec.late (t : TaskRec) : Bool := t.able.isSome && decide (2 ^ 22 + t.longest < t.waited)

/-- The waits of READY records go on for a clock that takes `dt` ticks; a breach of the bound is kept for SUMMARY (R174). -/
def State.watchStarts (s : State) (dt : Nat) : State :=
  let groves : Tbl Grove := s.groves.map fun e =>
    if e.2.tasks.any fun x => decide (x.2.state = .ready) || x.2.able.isSome
    then (e.1, { e.2 with tasks := e.2.tasks.map fun x => (x.1, s.waitOn e.1 dt x) }) else e
  let late := groves.any fun e => e.2.tasks.any fun x => x.2.late
  let s := { s with groves := groves }
  if late then s.updTrunk fun t => { t with progress := true } else s

/-- Clears a bank for a context (R29). -/
def State.clearBank (s : State) (core ctx k : Nat) : State :=
  let s := if (s.core core).armed = 0 then s
    else (List.range 96).foldl (fun s j => s.captureChunk core (96 * k + j)) s
  let base := spKey core (0xC000 * k)
  let s := { s with mem := Memory.clear (Memory.clear s.mem base 0xC000) (synKey base) (0xC000 / 8) }
  s.updCore core fun c => { c with tags := c.tags.setIfInBounds k (some ctx) }

/-- The chunks of a footprint. -/
def footChunks (foot : BitVec 8) : BitVec 768 :=
  (List.range 768).foldl (fun m i => if foot.getLsbD (i / 96) then m ||| ((1 : BitVec 768) <<< i) else m) 0

/-- The core at a task's first bundle (R39, R81, R148, R151 to R154, R172, R252): what the core keeps is banks, tags, chunk bits, the
numbering of its requests and its loose jobs. -/
def Core.begin (c : Core) (im : Image) (i : Nat) (t : TaskRec) (first : Nat) (ptroot : Word) : Core :=
  let win := Tbl.get? im.params t.tmpl
  { Core.reset with
    mode := .running, task := i, next := first, pc := BitVec.ofNat 12 t.entry,
    kstat := if im.dbg then 2 else 0, kptroot := ptroot, kctx := BitVec.ofNat 64 t.ctx, kwid := t.wid,
    kbank := (match im.templates[t.tmpl]? with
      | some tp => (match im.kernels[tp.kidx]? with | some k => k.kbank | none => 0)
      | none => 0),
    kpwin := (match win with | some w => BitVec.ofNat 64 (0x10000 + (w.length + 7) / 8 * 8) | none => 0),
    window := win.getD [], jobs := c.jobs, board := c.board, ords := c.ords, bord := c.ords, tags := c.tags,
    dirty := c.dirty ||| footChunks t.foot, armed := c.armed, seqs := c.seqs }

/-- Sets the lane slices of a core to zero, as at a fresh task's first bundle (R27). -/
def State.clearLanes (s : State) (core : Nat) : State :=
  let base := laneKey core 0 0
  { s with mem := Memory.clear (Memory.clear s.mem base 0x8000) (synKey base) (0x8000 / 8) }

/-- The bytes of a save frame: core state, vector registers, lane slices and footprint banks (R176). -/
def TaskRec.frameBytes (t : TaskRec) : Nat := 0x2000 + 0x8000 + popCount 8 t.foot.toNat * 0xC000

/-- A record starts on a core (R15, R29, R167): foreign banks are cleared, 192 clk each; a fresh task issues after that, with
the held triggered jobs of its slots entered; a saved one, or one of a rolled back context, waits for its restore. -/
def State.startTask (s : State) (g i slot : Nat) (t : TaskRec) : State :=
  let core := 4 * g + slot
  let foreign := (List.range 8).filter fun k => decide (((s.core core).tags[k]?.getD none) ≠ some t.ctx)
  let s := foreign.foldl (fun s k => s.clearBank core t.ctx k) s
  let first := s.clk + 192 * foreign.length
  let im := (s.ctx t.ctx).image
  let resume := t.saved || t.imageSnap.isSome
  let s := s.updCore core fun c =>
    let c := c.begin im i t first (s.ctx t.ctx).ptroot
    let c := { c with collRec := t.collRec, rounds := t.rounds }
    if resume then { c with mode := .starting (first + (t.frameBytes + 511) / 512) true } else c
  let s := s.updGrove g fun gr =>
    { gr with preempt := match gr.preempt with | some p => if p.2 = i then none else some p | none => none }
  let s := s.updTask g i fun t => { t with state := .running, oncore := true, slot := slot, started := s.tick, able := none }
  if resume then s
  else { ({ s.clearLanes core with clk := first }).enterHeld core t.uid with clk := s.clk }

/-- R15: the first READY record that fits starts. -/
def execTaskStart (g : Nat) (s : State) : Host.Outcome State Fault Refusal :=
  match s.nextStart g with
  | none => .next s
  | some (i, t, slot) => .next (s.startTask g i slot t)

/-- Is a READY record due to rise one class (R15)? -/
def TaskRec.ages (t : TaskRec) (tick : Nat) : Bool := decide (t.state = .ready) && decide (t.cls < 3) && decide (t.started + 2 ^ 20 ≤ tick)

/-- R15: a record that has been READY for 2^20 ticks rises one class. -/
def execTaskAging (g i : Nat) (s : State) : Host.Outcome State Fault Refusal :=
  match (s.grove g).task? i with
  | none => .next s
  | some t => if t.ages s.tick then .next (s.updTask g i fun t => { t with cls := t.cls + 1, started := t.started + 2 ^ 20 }) else .next s

/-- R19: at the start tick the IDLE records of a launched context become ARMED; one in transit sends its subscriptions where it
arrives (R190). -/
def execLaunchStartTick (ctx : Nat) (s : State) : Host.Outcome State Fault Refusal :=
  let x := s.ctx ctx
  if x.state ≠ .launched ∨ s.tick < x.start then .next s
  else
    let s1 := s.setCtx ctx { x with state := .running }
    let waits (t : TaskRec) : Bool := decide (t.ctx = ctx) && decide (t.state = .idle) && !t.hold
    .next (((s.allRecords.filter fun e => waits e.2.2).foldl (fun s e => s.armTask e.1 e.2.1) s1).updTransit waits
      fun t => { t with state := .armed })

/-! ### The end of a task (R161, R182, R257, R283) -/

/-- Have a core's entries, jobs, queue requests and X-slot operations all ended (R161, R164, R257, R318, R367)? -/
def State.drained (s : State) (core : Nat) : Bool :=
  let c := s.core core
  c.jobs.all Job.loose && c.board.all (fun e => c.jobs.any fun j => j.loose && decide (j.id = e.job)) &&
  c.queues.toList.flatten.all QEntry.complete && c.xops.isEmpty

/-- Does a core lead a gang matrix job that has not completed (R283)? -/
def State.leads (s : State) (core : Nat) : Bool :=
  (s.grove (groveOf core)).gangs.any fun G => G.completed.isNone && G.members.any fun m => m.leader && decide (m.core = core)

/-- An unacknowledged fault of a tracker becomes a fault of the task (R257). -/
def State.trackerFault (s : State) (core : Nat) : Option State :=
  ((s.core core).trackers.toList.find? Tracker.unacked).map fun t => s.jobFault core (.xlate t.xc t.addr) 2 2 none []

/-- The tentative publications of a task, with the groves that made them; a triad's copy has its own until it ends (R191, R193). -/
def State.tentativeOf (s : State) (uid : Nat) : List (Nat × PubOp) :=
  s.groves.flatMap fun e => (e.2.pubs.filter fun p => p.tent && decide (p.uid = uid) && !p.dropped).map fun p => (e.1, p)

/-- The tentative publications that wait for a commit: not those of a triad's copy (R316). -/
def State.uncommitted (s : State) (uid : Nat) : List (Nat × PubOp) := (s.tentativeOf uid).filter fun e => decide (e.2.copy = 3)

/-- Nothing that a triad's copy has published, and its roots have taken, can be discarded any more: the copy has ended without a
fault. -/
def State.keepVotes (s : State) (uid : Nat) : State :=
  { s with groves := s.groves.map fun e =>
      (e.1, { e.2 with pubs := e.2.pubs.filter fun p => !(decide (p.uid = uid) && decide (p.copy < 3) && decide (p.sent = 2)) }) }

/-- The discard of a publication: a triad's names the copy and its place among the copy's publications of the name (R191, R316). -/
def PubOp.discardKind (p : PubOp) : PktKind := .discard p.id p.copy p.seq

/-- Sends the commit or discard of a publication that its root holds as tentative. -/
def State.sendResolve (s : State) (g : Nat) (p : PubOp) (kind : PktKind) : State :=
  s.sendTo p.ctx p.name kind g ((s.ctx p.ctx).rootOf p.name) p.express s.tick [] p.wid

/-- The command response a trunk sends (R414). -/
def respBytes (cmd status tag : Nat) (detail : Word) (result : List Byte) : List Byte :=
  natBytes 2 cmd ++ natBytes 2 status ++ natBytes 4 tag ++ natBytes 8 detail.toNat ++ padTo 48 result

/-- Sends a response on a queue pair. -/
def State.respond (s : State) (qp cmd tag status : Nat) (detail : Word) (result : List Byte) : State :=
  { s with out := s.out ++ [.response qp (respBytes cmd status tag detail result)] }

/-- The supervisor image on a trunk core has ended: the trunk answers its LAUNCH (R420). -/
def State.endSupervisor (s : State) (core : Nat) : State :=
  let c := s.core core
  match s.trunk.supRun with
  | none => s
  | some (qp, tag) =>
    let stopped := decide (c.mode = .halted)
    let s := s.respond qp 2 tag (if stopped then 1 else 0) (if stopped then c.ktrap else c.kscr[1]) []
    let flt (k : Trunk) : Option (Word × Word) := if stopped then some (c.ktrap, c.kepc) else k.trunkFlt
    (s.updTrunk fun k => { k with supRun := none, trunkFlt := flt k }).updCore core fun c => { c with mode := .halted }

/-- R160, R161: the oldest reported fault is taken; KEPC names the first bundle not issued, and the task issues nothing
further. On a trunk core it enters the handler (R162); while a supervisor's exit drains, the trap registers are written and the core
goes on exiting (log entry 55: R162 and R182 do not say which comes first). -/
def execImpreciseFault (core : Nat) (s : State) : Host.Outcome State Fault Refusal :=
  if !s.impreciseNow core then .next s
  else
    let c := s.core core
    match c.imprecise with
    | [] => .next s
    | f :: r =>
      let c' := c.takeTrap f.ktrap f.ktval
      let keep := if c'.mode = .faulted then { f with kepc := c'.kepc } :: r else r
      let s' := s.setCore core { c' with imprecise := keep, latch := .none }
      let s' := if c.mode = .preempting then s'.giveFrame (groveOf core) c.task else s'
      .next (if c'.mode = .halted ∧ isTrunkCore core then s'.endSupervisor core else s')

/-- The core of record i of a grove that is exiting. -/
def State.exitingCore (s : State) (g i : Nat) : Option (Nat × TaskRec) :=
  match (s.grove g).task? i with
  | some t =>
    let core := 4 * g + t.slot
    if t.oncore ∧ (s.core core).task = i ∧ (s.core core).mode = .exiting then some (core, t) else none
  | none => none

/-- May the drain of an exiting core end? -/
def State.exitOver (s : State) (core : Nat) : Bool := s.drained core && !s.leads core && (s.core core).imprecise.isEmpty

/-- R182: the drain of an `exit` ends: the record is DONE and off its core; commits leave for its tentative publications and its
HOLD children are armed. On a trunk core (grove 2,592) the supervisor image ends. -/
def execExitDrainEnd (g i : Nat) (s : State) : Host.Outcome State Fault Refusal :=
  if g = 2592 then
    let core := trunkCore0 + i
    .next (if (s.core core).mode = .exiting ∧ s.exitOver core ∧ isTrunkCore core then s.endSupervisor core else s)
  else
    match s.exitingCore g i with
    | none => .next s
    | some (core, t) =>
      if !s.exitOver core then .next s
      else
        match s.trackerFault core with
        | some s' => .next s'
        | none =>
          let s := (s.updCore core Core.leave).updTask g i fun t => { t with state := .done, oncore := false, spv := false }
          let s := (s.endKernel g i).leaveSpawn t.ctx t.wid fun _ => true
          let s := (s.uncommitted t.uid).foldl (fun s p => if p.2.sent = 2 then s.sendResolve p.1 p.2 (.commit p.2.id) else s) s
          let s := if t.triad then s.keepVotes t.uid else s
          .next (if t.guarded then s.armHeld t.uid else s)

/-- Have all commits of a DONE record been accepted (R182)? -/
def State.committed (s : State) (uid : Nat) : Bool := (s.uncommitted uid).isEmpty

/-- R167, R182: a DONE record whose commits have all been accepted is freed. -/
def execRecordFree (g i : Nat) (s : State) : Host.Outcome State Fault Refusal :=
  match (s.grove g).task? i with
  | none => .next s
  | some t => if t.state = .done ∧ s.committed t.uid then .next (s.freeRecord g i).sweepTriads else .next s

/-! ### Tag leases (R178, R179) -/

/-- Does a running snapshot's cut lie between a grove and the home of a pool: has one of the two recorded and the other not? Tags do not
pass between them then (R396). -/
def State.cutHome (s : State) (g ctx level : Nat) (group : Word) : Bool :=
  s.poolHere ctx level group && s.recorded ctx g != s.recorded ctx (s.poolHome ctx level group % 2592)

/-- May lease k of a grove be refilled now? -/
def State.refills (s : State) (g k : Nat) : Option (Lease × Pool) :=
  match (s.grove g).leases[k]? with
  | none => none
  | some l =>
    if !s.poolHere l.ctx l.level l.group || s.cutHome g l.ctx l.level l.group then none
    else
      let p := (s.grove (s.poolHome l.ctx l.level l.group % 2592)).pool l.ctx l.level l.group
        (poolSize (s.ctx l.ctx).image.widths l.level)
      if l.tags.length < 4 ∧ !p.free.isEmpty ∧ s.tick < l.used + 65536 then some (l, p) else none

/-- A lease of a grove below 4 tags whose pool lies at another member of the gang (R178). -/
def State.farRefills (s : State) (g k : Nat) : Option Lease :=
  ((s.grove g).leases[k]?).filter fun l =>
    !s.poolHere l.ctx l.level l.group && decide (l.tags.length < 4) && decide (s.tick < l.used + 65536)

/-- The unreserved tags of a lease's pool that neither a lease nor a record of this module holds. -/
def State.farTags (s : State) (l : Lease) : List Nat :=
  let widths := (s.ctx l.ctx).image.widths
  let leased := s.groves.flatMap fun e =>
    (e.2.leases.filter fun m => decide (m.ctx = l.ctx) && decide (m.level = l.level) && decide (m.group = l.group)).flatMap
      fun m => m.tags.map (·.1)
  let held := (s.allRecords.map (·.2.2) ++ s.transit).filterMap fun r =>
    if r.ctx = l.ctx ∧ r.splvl = l.level ∧ widPrefix widths l.level r.wid = l.group then r.tag else none
  (List.range (poolSize widths l.level - 1)).filter fun x => !leased.contains x && !held.contains x

/-- Open choices of up to n entries of a list: which tags a home in another module gives is not stated (log entry 23). -/
def State.chooseTags (s : State) : Nat → List Nat → List Nat × State
  | 0, _ => ([], s)
  | n + 1, l =>
    let rest := s.chooseTags n l
    let left := l.filter fun x => !rest.1.contains x
    let f := rest.2.freeWord
    match left[f.1.toNat % left.length]? with
    | some x => (x :: rest.1, f.2)
    | none => rest

/-- R178: a lease below 4 tags is filled from the home's lowest free tags; a home in another module gives what it has free. -/
def execTagLeaseRefill (g k : Nat) (s : State) : Host.Outcome State Fault Refusal :=
  match s.refills g k with
  | none =>
    match s.farRefills g k with
    | none => .next s
    | some l =>
      let f := s.freeWord
      let x := f.2.chooseTags (f.1.toNat % (8 - l.tags.length) + 1) (s.farTags l)
      .next (x.2.updGrove g fun gr => gr.setLease { l with tags := l.tags ++ x.1.map fun t => (t, s.tick) })
  | some (l, p) =>
    let n := 8 - l.tags.length
    let s1 := s.updPool l.ctx l.level l.group fun p => { p with free := p.free.drop n }
    .next (s1.updGrove g fun gr => gr.setLease { l with tags := l.tags ++ (p.free.take n).map fun x => (x, s.tick) })

/-- The tags of a lease that have stayed unused for 2^16 ticks. -/
def Lease.stale (l : Lease) (tick : Nat) : List Nat := (l.tags.filter fun e => decide (e.2 + 65536 ≤ tick)).map (·.1)

/-- The tags that a lease of a grove returns now. -/
def State.returns (s : State) (g : Nat) (l : Lease) : List Nat := if s.cutHome g l.ctx l.level l.group then [] else l.stale s.tick

/-- R178: tags of lease k that stayed unused for 2^16 ticks return to the home. -/
def execTagLeaseReturn (g k : Nat) (s : State) : Host.Outcome State Fault Refusal :=
  match (s.grove g).leases[k]? with
  | none => .next s
  | some l =>
    let old := s.returns g l
    if old.isEmpty then .next s
    else
      let s1 := s.updPool l.ctx l.level l.group fun p => { p with free := old.foldl (fun f x => insertTag x f) p.free }
      .next (s1.updGrove g fun gr => gr.setLease { l with tags := l.tags.filter fun e => !old.contains e.1 })

/-- To which waiting spawner, at which grove, does a pool of home g grant its reserved tag now? -/
def State.grants (s : State) (g : Nat) (p : Pool) : Option (Word × Nat) :=
  if p.resFree ∧ p.granted.isNone then
    (p.waiters.head?.map fun w => (w.2.1, w.2.2)).filter fun w => s.recorded p.ctx g == s.recorded p.ctx w.2
  else none

/-- The waiting spawner of lease k of a grove whose pool lies at another member of the gang: this module's oldest (R179). The reserved
tag must not be held or granted here. -/
def State.farWaiter (s : State) (g k : Nat) : Option (Lease × Word) :=
  match (s.grove g).leases[k]? with
  | none => none
  | some l =>
    let widths := (s.ctx l.ctx).image.widths
    let top := poolSize widths l.level - 1
    let inPool (r : TaskRec) : Bool := decide (r.ctx = l.ctx) && decide (widPrefix widths l.level r.wid = l.group)
    let waits := s.allRecords.filter fun e => inPool e.2.2 && e.2.2.spv && decide (e.2.2.spl = l.level)
    let first := waits.foldl (fun (b : Option (Nat × Nat × TaskRec)) e => match b with
      | some x => if e.2.2.spt < x.2.2.spt ∨ (e.2.2.spt = x.2.2.spt ∧ e.2.2.wid.toNat < x.2.2.wid.toNat) then some e else b
      | none => some e) none
    let held := (s.allRecords.map (·.2.2) ++ s.transit).any fun r => inPool r && decide (r.splvl = l.level) && decide (r.tag = some top)
    let granted := s.groves.any fun e => e.2.leases.any fun m =>
      decide (m.ctx = l.ctx) && decide (m.level = l.level) && decide (m.group = l.group) && m.granted.isSome
    if s.poolHere l.ctx l.level l.group || held || granted then none
    else first.bind fun e => if e.1 = g then some (l, e.2.2.wid) else none

/-- R179: the home grants the reserved tag to the oldest waiting spawner; past this grove's pools, a home in another module grants it
to the waiter of a lease. -/
def execReservedTagGrant (g k : Nat) (s : State) : Host.Outcome State Fault Refusal :=
  match (s.grove g).pools[k]? with
  | none =>
    (match s.farWaiter g (k - (s.grove g).pools.length) with
     | none => .next s
     | some (l, wid) => .next (s.updGrove g fun gr => gr.setLease { l with granted := some wid }))
  | some p =>
    match s.grants g p with
    | none => .next s
    | some (wid, h) =>
      let s1 := s.updGrove g fun gr => gr.setPool { p with resFree := false, granted := some wid }
      .next (s1.updGrove h fun gr => gr.setLease { gr.lease p.ctx p.level p.group with granted := some wid })

end Sys2Proof.Machine
end

