-- ==== Sys2Proof/Machine/Frames.lean ====
section
/-!
DEFINITION. Save frames (R164, R176, R177, R284): their layout, the spill of a pre-empted task, and the choice of a victim (R175).
-/

namespace Sys2Proof.Machine

/-! ### Migration (R18, R189, R190) -/

/-- A TE_MIGSTAT word (R189). -/
def migWord (tick dest idx code : Nat) : Word :=
  BitVec.ofNat 64 (tick % 2 ^ 32 * 2 ^ 32 + dest % 4096 * 2 ^ 20 + idx % 256 * 2 ^ 12 + code % 16)

/-- Records an outcome of a migration. -/
def State.setMig (s : State) (g dest idx code : Nat) : State :=
  s.updGrove g fun gr => { gr with teMigstat := migWord s.tick dest idx code }

/-- The waiting spawner of a WID stands at another grove from now on: its pools' lists and its grant follow it (R179, R190). -/
def State.moveSpawner (s : State) (g d ctx : Nat) (wid : Word) : State :=
  let pool (p : Pool) : Pool :=
    if p.ctx = ctx then { p with waiters := p.waiters.map fun w => if w.2.1 = wid ∧ w.2.2 = g then (w.1, w.2.1, d) else w } else p
  let s : State := { s with groves := s.groves.map fun e => (e.1, { e.2 with pools := e.2.pools.map pool }) }
  ((s.grove g).leases.filter fun l => decide (l.ctx = ctx) && decide (l.granted = some wid)).foldl (fun s l =>
    (s.updGrove g fun gr => gr.setLease { l with granted := none }).updGrove d fun gr =>
      gr.setLease { gr.lease ctx l.level l.group with granted := some wid }) s

/-- A subscription as it travels with its record (R302): one that is still owed something goes back to waiting, to be registered again
as newer than LAST; its versions that have landed whole stay with it. -/
def Sub.travels (x : Sub) (landed : Bool) : Sub :=
  if landed then x
  else { x with state := .waiting, place := 0, landings := x.landings.filter fun l => decide (l.bits.length = l.nchunk) }

/-- A record leaves its grove for a reserved entry of another (R190, R302): unsatisfied subscriptions are withdrawn along their root
paths; they, landed versions, halo sets, spawn-wait state and the reference to a save frame go along. -/
def State.sendRecord (s : State) (g i d idx : Nat) (t : TaskRec) (inst : Bool) : State :=
  let landed (x : Sub) : Bool := match x.owner with
    | .record _ j => (match t.subs[j]? with | some y => y.landed | none => false)
    | _ => false
  let go := ((s.grove g).subs.filter fun x => decide (x.owner.task = i)).map fun x => x.travels (landed x)
  let halos := (s.grove g).halos.filter fun h => decide (h.task = i)
  let s := (s.withdrawOf g i fun x => !landed x).moveSpawner g d t.ctx t.wid
  let s := s.updGrove g fun gr =>
    { (gr.dropSlots t.uid).unbind i with
      tasks := Tbl.del gr.tasks i, subs := gr.subs.filter fun x => !decide (x.owner.task = i),
      halos := gr.halos.filter fun h => !decide (h.task = i),
      preempt := gr.preempt.filter fun p => !decide (p.2 = i) }
  let s := s.updGrove d fun gr => { gr with reservedIn := gr.reservedIn ++ [(idx, 256 * g + i)] }
  let t := { t with frame := t.frame.map fun f => if f < 32 then f + 32 * (g + 1) else f }
  s.sendTo t.ctx ⟨0, 0, 0, 0, 0⟩ (.migrate t i go halos inst) g ((s.ctx t.ctx).member * 2592 + d) true s.tick [] t.wid

/-- May a record move (R189, R190, R340)? Zero, or the code of the refusal. -/
def State.mayMove (s : State) (g i : Nat) (withdrawal : Bool) : Nat :=
  match (s.grove g).task? i with
  | none => 2
  | some t =>
    if !(decide (t.state = .armed) || decide (t.state = .ready) || (withdrawal && decide (t.state = .idle))) || (t.saved && !withdrawal) then 2
    else if (s.grove g).ownsActive t.uid ∧ !withdrawal then 6
    else 0

/-- The migration of record i to grove `dest`, or with 0xFFF to the nearest grove that a condition allows; with none eligible it ends
with code 3, no free entry (R189, R190; log entry 57). `inst`: its trigger images are to be installed where it arrives (R341). -/
def State.moveRecord (s : State) (g i dest : Nat) (withdrawal inst : Bool) (ok : Nat → Bool) : State :=
  let code := s.mayMove g i withdrawal
  match (s.grove g).task? i with
  | none => s.setMig g dest i 2
  | some t =>
    if code ≠ 0 then s.setMig g dest i code
    else if dest = 0xFFF then
      match s.nearestFree t.ctx g fun h => ok h && decide (h ≠ g) with
      | none => s.setMig g dest i 3
      | some d =>
        (match (s.grove d).freeIndex with
         | none => s.setMig g dest i 3
         | some idx => (s.setMig g d i 5).sendRecord g i d idx t inst)
    else if !(s.partGroves (partOfCtx t.ctx)).contains dest then s.setMig g dest i 4
    else
      match (s.grove dest).freeIndex with
      | none => s.setMig g dest i 3
      | some idx => (s.setMig g dest i 5).sendRecord g i dest idx t inst

/-- `migrate` of record i (R189); 0xFFF with no eligible grove gives code 3 (log entry 57: R190 names no code for it). -/
def State.migrateRecord (s : State) (g i dest : Nat) (withdrawal : Bool) (ok : Nat → Bool) : State :=
  s.moveRecord g i dest withdrawal false ok

/-- A record that has come to rest on a grove that is not ready leaves it (R426). -/
def State.leaveWithdrawn (s : State) (g i : Nat) : State :=
  if s.groveReady g then s else s.migrateRecord g i 0xFFF true fun _ => true

/-! ### The layout of a frame (R177) -/

/-- The lowest free frame of a grove. -/
def Grove.freeFrame (gr : Grove) : Option Nat :=
  (List.range (gr.teSave.extractLsb' 44 5).toNat).find? fun f => !gr.framesUsed.getLsbD f

/-- A loop level as 8 bytes. -/
def LoopLvl.bytes (l : LoopLvl) : List Byte :=
  natBytes 8 ((if l.running then 1 else 0) + l.start.toNat * 2 + l.stop.toNat * 2 ^ 13 + l.count.toNat * 2 ^ 32)

/-- Reads a loop level. -/
def LoopLvl.ofWord (w : Nat) : LoopLvl :=
  ⟨w.testBit 0, BitVec.ofNat 12 (w / 2), BitVec.ofNat 12 (w / 2 ^ 13), BitVec.ofNat 32 (w / 2 ^ 32)⟩

/-- A queue entry as 16 bytes: its result or fault address, then its status: the fault word of R143 in bits [15:0], bit 16 when
it failed. -/
def QEntry.bytes (e : QEntry) : List Byte :=
  if e.state = .failed then natBytes 8 e.addr.toNat ++ natBytes 8 (e.faultWord + 2 ^ 16) else natBytes 8 e.result.toNat ++ natBytes 8 0

/-- Reads a complete queue entry. -/
def QEntry.ofBytes (b : List Byte) : QEntry :=
  let w := BitVec.ofNat 64 (fieldOfBytes b 0 8)
  let st := fieldOfBytes b 8 8
  let e := QEntry.fresh .load 6 false false 0 0 0 0 0
  if st.testBit 16 then { e with state := .failed, addr := w, fkind := st % 16, fxc := st / 16 % 8 } else { e with state := .done, result := w }

/-- Zero bytes. -/
def zeros (n : Nat) : List Byte := List.replicate n 0

/-- The bytes of a word list. -/
def wordBytes {n : Nat} (l : List (BitVec n)) : List Byte := l.flatMap fun w => natBytes (n / 8) w.toNat

/-- The first 0x1000 bytes of a frame. -/
def Core.frameHead (c : Core) : List Byte :=
  wordBytes c.s.toList ++ wordBytes c.a.toList ++ wordBytes c.p.toList ++ wordBytes c.h.toList ++
  wordBytes c.n.toList ++ zeros 8 ++ c.loops.toList.flatMap LoopLvl.bytes ++
  wordBytes [c.returnPoint, c.kstat, c.kfpx, c.kbank, c.kpwin, c.ktrap, c.ktval, c.kwid] ++
  c.arrivals.toList.flatMap (fun a => natBytes 4 (match a with | some p => 0x10000 + p.toNat | none => 0)) ++ zeros 0x10 ++
  wordBytes c.strides.toList ++
  c.queues.toList.flatMap (fun q => padTo 0x100 ((q.take 16).flatMap QEntry.bytes)) ++
  c.queues.toList.flatMap (fun q => natBytes 4 0 ++ natBytes 4 q.length) ++ zeros 0x1C0

/-- The v registers of a frame. -/
def Core.frameVectors (c : Core) : List Byte := wordBytes c.v.toList

/-- The complete entries of queue q of a frame, numbered in issue order from `base` on, so that the requests of the resumed task come
after them (R56, R164). -/
def frameQueue (b : List Byte) (base q : Nat) : List QEntry :=
  (List.range (fieldOfBytes b (0xE04 + 8 * q) 4)).map fun j =>
    { QEntry.ofBytes ((b.drop (0x600 + 0x100 * q + 16 * j)).take 16) with ord := base + 16 * q + j }

/-- Loads a core from the first 0x2000 bytes of a frame; KPWIN is bound again from the template (R176). -/
def Core.fromFrame (c : Core) (b : List Byte) : Core :=
  let w (o : Nat) : Word := BitVec.ofNat 64 (fieldOfBytes b o 8)
  let pc := w 0x270
  let dly := pc.getLsbD 28
  { c with
    s := Vector.ofFn fun i : Fin 32 => w (8 * i.val),
    a := Vector.ofFn fun i : Fin 16 => w (0x100 + 8 * i.val),
    p := Vector.ofFn fun i : Fin 8 => BitVec.ofNat 32 (fieldOfBytes b (0x180 + 4 * i.val) 4),
    h := Vector.ofFn fun i : Fin 16 => w (0x1A0 + 8 * i.val),
    n := Vector.ofFn fun i : Fin 6 => BitVec.ofNat 32 (fieldOfBytes b (0x220 + 4 * i.val) 4),
    loops := Vector.ofFn fun i : Fin 6 => LoopLvl.ofWord (fieldOfBytes b (0x240 + 8 * i.val) 8),
    pc := pc.extractLsb' 0 12, branch := if dly then some (pc.extractLsb' 16 12) else none, delay := dly,
    kstat := w 0x278, kfpx := w 0x280, kbank := w 0x288, ktrap := w 0x298, ktval := w 0x2A0, kwid := w 0x2A8,
    arrivals := Vector.ofFn fun i : Fin 16 =>
      (let x := fieldOfBytes b (0x2B0 + 4 * i.val) 4; if x.testBit 16 then some (BitVec.ofNat 16 x) else none),
    strides := Vector.ofFn fun i : Fin 96 => w (0x300 + 8 * i.val),
    queues := Vector.ofFn fun q : Fin 8 => frameQueue b c.ords q.val, ords := c.ords + 128, bord := c.ords + 128,
    v := Vector.ofFn fun i : Fin 32 => BitVec.ofNat 1024 (fieldOfBytes b (0x1000 + 128 * i.val) 128) }

/-- Copies whole words with their check bytes: poison stays poison (R52). -/
def copyWords (m : List Host.Cell) (src dst len : Nat) : List Host.Cell :=
  (List.range (len / 8)).foldl (fun m i => match readWord? m (src + 8 * i) with
    | some w => storeWord m (dst + 8 * i) w
    | none => poisonWord m (dst + 8 * i)) m

/-- Copies whole words between memories: the source is read as R51 states. -/
def State.copyWords (s : State) (src dst len : Nat) : State :=
  let s := s.scrubLong src len
  { s with mem := Machine.copyWords s.mem src dst len }

/-- The banks of a footprint. -/
def footBanks (foot : BitVec 8) : List Nat := (List.range 8).filter fun k => foot.getLsbD k

/-- The window units of a frame pass to DIRTY before it is written (R381). -/
def State.frameUnits (s : State) (ctx key : Nat) : State :=
  let off := (key - 2 ^ 44) % 2 ^ 27
  (List.range 8).foldl (fun s i =>
    if (off / 65536 + i) * 65536 < off + 0x6C000 then s.snapWriteUnit ctx ((key - 2 ^ 44) / 2 ^ 27) (off + 65536 * i) else s) s

/-- Writes the save frame of a core's task (R176, R177, R284). -/
def State.writeFrame (s : State) (core key : Nat) (foot : BitVec 8) : State :=
  let c := s.core core
  let s := s.frameUnits c.ctxNo key
  let s : State := { s with mem := (writeRun s.mem key (goodBytes (c.frameHead ++ c.frameVectors))).1 }
  let s := s.copyWords (laneKey core 0 0) (key + 0x2000) 0x8000
  let s := (footBanks foot).foldl (fun s k => s.copyWords (spKey core (0xC000 * k)) (key + 0xA000 + 0xC000 * k) 0xC000) s
  { s with mem := (writeRun s.mem (key + 0x6A000) (goodBytes c.planeRecords)).1 }

/-- Reads good bytes; a poison byte counts as zero. -/
def State.goodRun (s : State) (key len : Nat) : List Byte := (readBytes s.mem key len).map (·.getD 0)

/-- Restores a core from a save frame, with its banks under a context's tag (R29, R176, R284): the plane reloads enter. -/
def State.readFrame (s : State) (core key ctx : Nat) (foot : BitVec 8) : State :=
  let head := s.goodRun key 0x2000
  let recs := s.goodRun (key + 0x6A000) 320
  let s := (s.scrubLong key 0x2000).scrubLong (key + 0x6A000) 320
  let s := (footBanks foot).foldl (fun s k =>
    let s := s.touchSp core (0xC000 * k) 0xC000 ctx false
    s.copyWords (key + 0xA000 + 0xC000 * k) (spKey core (0xC000 * k)) 0xC000) s
  let s := s.copyWords (key + 0x2000) (laneKey core 0 0) 0x8000
  s.updCore core fun c => (c.fromFrame head).reloadPlanes s.clk foot recs

/-! ### Pre-emption (R163, R164, R175, R176) -/

/-- Is a task a candidate to be pre-empted for class c (R175)? -/
def State.victimOk (s : State) (g k cls : Nat) : Bool :=
  let c := s.core (4 * g + k)
  match (s.grove g).task? c.task with
  | some t => decide (c.mode = .running) && decide (t.state = .running) && t.oncore && decide (t.slot = k) && decide (t.cls < cls) && !t.triad && decide (c.inGang = 0)
  | none => false

/-- The better victim: lowest class, then latest start, then highest slot. -/
def State.betterVictim (s : State) (g a b : Nat) : Bool :=
  match s.taskOf (4 * g + a), s.taskOf (4 * g + b) with
  | some x, some y =>
    if x.cls ≠ y.cls then decide (x.cls < y.cls)
    else if x.started ≠ y.started then decide (y.started < x.started)
    else decide (b < a)
  | _, _ => false

/-- Is a pre-emption of the grove in progress? -/
def State.preempting (s : State) (g : Nat) : Bool :=
  (s.grove g).preempt.isSome || (List.range 4).any fun k =>
    match (s.core (4 * g + k)).mode with
    | .preempting => true
    | .spilling _ => true
    | _ => false

/-- The first READY record that cannot start, with the core slot of the victim it takes (R175). -/
def State.victim (s : State) (g : Nat) : Option (Nat × Nat) :=
  if s.preempting g ∨ !s.groveReady g ∨ (s.grove g).freeFrame.isNone then none
  else
    match (s.readyOrder g).find? fun e => (s.coreFor g e.1 e.2.foot).isNone with
    | none => none
    | some (i, t) =>
      (((List.range 4).filter fun k => s.victimOk g k t.cls).foldl (fun (b : Option Nat) k => match b with
        | none => some k
        | some j => if s.betterVictim g k j then some k else some j) none).map fun k => (i, k)

/-- May a core be stopped for a pre-emption at this boundary (R163), its task being in no gang job (R283)? -/
def Core.mayStop (c : Core) : Bool := decide (c.mode = .running) && !c.midway && c.imprecise.isEmpty && decide (c.inGang = 0)

/-- The victim stops: pending writes land, the record is SUSPENDED and a frame is taken. -/
def State.stopVictim (s : State) (g k : Nat) : State :=
  let core := 4 * g + k
  let c := s.core core
  match (s.grove g).freeFrame with
  | none => s
  | some f =>
    if !c.mayStop then s
    else
      let s := s.updCore core fun c => { c.landAll with mode := .preempting, latch := .none }
      let s := s.updGrove g fun gr => { gr with framesUsed := gr.framesUsed ||| ((1 : BitVec 31) <<< f) }
      s.updTask g c.task fun t => { t with state := .suspended, frame := some f }

/-- Is a reserved core's victim still to be stopped? -/
def State.toStop (s : State) (g : Nat) : Option Nat :=
  match (s.grove g).preempt with
  | some (k, i) =>
    let c := s.core (4 * g + k)
    if c.mayStop ∧ c.task ≠ i ∧ !(List.range 4).any (fun j => match (s.core (4 * g + j)).mode with
        | .preempting => true | .spilling _ => true | _ => false) then some k else none
  | none => none

/-- R163, R175, R176: a victim is chosen and its core reserved; it stops at the first boundary that allows it. -/
def execPreemptStart (g : Nat) (s : State) : Host.Outcome State Fault Refusal :=
  match s.toStop g with
  | some k => .next (s.stopVictim g k)
  | none =>
    match s.victim g with
    | none => .next s
    | some (i, k) => .next ((s.updGrove g fun gr => { gr with preempt := some (k, i) }).stopVictim g k)

/-- The core of a pre-empted record. -/
def State.spillCore (s : State) (g i : Nat) : Option (Nat × TaskRec) :=
  match (s.grove g).task? i with
  | some t =>
    let core := 4 * g + t.slot
    (match (s.core core).mode with
     | .preempting => if t.oncore ∧ (s.core core).task = i then some (core, t) else none
     | .spilling _ => if t.oncore ∧ (s.core core).task = i then some (core, t) else none
     | _ => none)
  | none => none

/-- Can the spill of a record go on? -/
def State.spillGoes (s : State) (g i : Nat) : Bool :=
  match s.spillCore g i with
  | none => false
  | some (core, _) =>
    match (s.core core).mode with
    | .preempting => s.drained core && (s.core core).imprecise.isEmpty
    | .spilling t => decide (t ≤ s.clk)
    | _ => false

/-- The pre-empted task's fault, reported after its spill started, discards the frame; the task is not replayed (R163). -/
def State.dropSpill (s : State) (g i core : Nat) (f : FaultInfo) : State :=
  let s := s.updCore core fun c =>
    let c' := c.takeTrap f.ktrap f.ktval
    { c' with imprecise := match c.imprecise with | h :: r => { h with kepc := c'.kepc } :: r | [] => [] }
  (s.giveFrame g i).updTask g i fun t => { t with lost := true }

/-- R164, R176: once everything has drained the frame is written, at 512 bytes per clock; when it is complete the record is READY
with SAVED, and its banks are released. -/
def execSpillComplete (g i : Nat) (s : State) : Host.Outcome State Fault Refusal :=
  match s.spillCore g i with
  | none => .next s
  | some (core, t) =>
    if !s.spillGoes g i then .next s
    else
      match (s.core core).mode with
      | .preempting =>
        (match s.trackerFault core with
         | some s' => .next s'
         | none => .next (s.updCore core fun c => { c with mode := .spilling (s.clk + (t.frameBytes + 511) / 512) }))
      | _ =>
        match (s.core core).imprecise with
        | f :: _ => .next (s.dropSpill g i core f)
        | [] =>
          let c := s.core core
          let s1 := (s.writeFrame core ((s.grove g).frameKey (t.frame.getD 0)) t.foot).updCore core Core.leave
          .next ((s1.updTask g i fun t =>
            { t with state := .ready, saved := true, oncore := false, started := s.tick, pend := c.pend, rounds := c.rounds,
                     collRec := c.collRec }).leaveWithdrawn g i)

end Sys2Proof.Machine
end

