-- ==== Sys2Proof/Machine/Contain.lean ====
section
/-!
DEFINITION. Containment and replay (R191 to R194), triads that fail (R193), fault tiles of tasks (R195, R196), and migration
(R18, R189, R190).
-/

namespace Sys2Proof.Machine

/-! ### What faulted (R160, R161, R195) -/

/-- The fault that ended a core's task: the imprecise fault it took, or its precise trap. -/
def Core.faultInfo (c : Core) : FaultInfo :=
  let precise : FaultInfo := ⟨(c.ktrap.extractLsb' 0 4).toNat, 0, c.ktrap, c.kepc, c.ktval, false, c.trapTick, none, []⟩
  match c.imprecise with
  | f :: _ => if c.ktrap.getLsbD 6 ∧ f.ktrap = c.ktrap then { f with kepc := c.kepc } else precise
  | [] => precise

/-- The tile of a task's fault. -/
def FaultInfo.tile (f : FaultInfo) (final : Bool) : TileInfo :=
  ⟨f.kind, f.src, f.ktrap, f.kepc, f.ktval, final, f.gang, f.name.map fun n => (n, 0), f.detail⟩

/-- The same trigger slots as in the supervisor's tables, but a record that faults without a core: EVICTED and the like. -/
def State.failRecord (s : State) (g i : Nat) (t : TileInfo) : State :=
  match (s.grove g).task? i with
  | none => s
  | some r =>
    let s := s.faultTile g r.ctx { t with final := true } (some (i, r)) r.wid
    let s := (s.withdrawOf g i fun _ => true).updGrove g fun gr => gr.dropSlots r.uid
    s.updTask g i fun t => { t with state := .faulted, spv := false }

/-! ### Triads (R193, R316) -/

/-- The records of a triad instance. -/
def State.triadRecords (s : State) (inst : Nat) : List (Nat × Nat × TaskRec) :=
  s.allRecords.filter fun e => e.2.2.triad && decide (e.2.2.inst = inst)
/-- The latest triad instance of a context with a WID, whose outcome is open. -/
def State.triadOf (s : State) (ctx : Nat) (wid : Word) : Option Triad :=
  s.triads.reverse.find? fun t => decide (t.task.ctx = ctx) && decide (t.task.wid = wid)

/-- Discards what the copies of an instance have published and not yet had forwarded (R193): their waiting publications, and the
vote buffers of their roots. -/
def State.dropVotes (s : State) (ctx : Nat) (wid : Word) : State :=
  { s with
    groves := s.groves.map fun e => (e.1, { e.2 with
      pubs := e.2.pubs.filter fun p => !(decide (p.ctx = ctx) && decide (p.wid = wid) && decide (p.copy < 3)),
      versions := e.2.versions.filterMap fun v =>
        if v.ctx = ctx ∧ v.pubWid = wid ∧ !v.vote.isEmpty then
          (if v.forwarded.isEmpty then none else some { v with vote := [] })
        else some v }),
    net := s.net.filter fun p => match p.kind with
      | .pubChunk _ c _ _ _ _ _ _ => !(decide (p.ctx = ctx) && decide (p.wid = wid) && decide (c < 3))
      | _ => true }

/-- A record as a replay starts it again: nothing landed, the exact versions asked for (R191). -/
def TaskRec.again (t : TaskRec) : TaskRec :=
  { t with state := .idle, replay := t.replay + 1, exact := t.subs.all (·.landed) && !t.subs.isEmpty || t.exact,
           subs := t.subs.map (fun x => { x with landed := false }), saved := false, frame := none, oncore := false, slot := 0,
           spv := false, pubSeq := [], pend := [], rounds := [], collRec := [], imageSnap := none, lost := false, able := none }

/-- A triad instance fails (R193): what it published is discarded; it starts again on three fresh groves, none of them one of the
failed run, or, replayed before, stops the context, and so does one that finds no three fresh groves (log entry 56: the spec does not
say). Copy 0 goes to the fresh grove nearest to its first one, and the copies start from the record as first installed, so that their
subscriptions take any version that R173 accepts: the model's choices (log entry 69: R193 names neither). What the evicted copies have
installed with HOLD is freed (R167). -/
def State.triadFail (s : State) (x : Triad) : State :=
  let t := x.task
  let recs := s.triadRecords x.inst
  let s := s.dropVotes t.ctx t.wid
  if 0 < t.replay then s.stopCtx t.ctx
  else
    match s.nearestFree t.ctx (x.groves.headD 0) (fun h => !x.groves.contains h) with
    | none => s.stopCtx t.ctx
    | some a =>
      match s.triadPlaces t.ctx a (a :: x.groves) with
      | none => s.stopCtx t.ctx
      | some (b, c) =>
        let r := { t.again with inst := x.inst }
        let enter (s : State) (g k : Nat) : State := s.enterRecord g { r with copy := k } true
        let s := enter (enter (enter s a 0) b 1) c 2
        let s : State := { s with triads := s.triads.map fun y => if y.inst = x.inst then ⟨x.inst, { r with copy := 0 }, [a, b, c], 0⟩ else y }
        recs.foldl (fun s e => (s.freeHeld e.2.2.uid).evict e.1 e.2.1) s

/-- A copy of a triad has faulted (R193): with the second of them the instance fails. -/
def State.triadFault (s : State) (inst : Nat) : State :=
  match s.triads.find? fun x => decide (x.inst = inst) with
  | none => s
  | some x =>
    let y := { x with faults := x.faults + 1 }
    let s : State := { s with triads := s.triads.map fun z => if z.inst = inst then y else z }
    if y.faults = 2 then s.triadFail y else s

/-! ### Migration (R189, R190) -/

/-- The outcome of the migration of record i is known: the MIGRATE commands that wait for it are answered (R416). -/
def State.answerMigrate (s : State) (g i : Nat) : State :=
  let w := (s.grove g).teMigstat
  let mine (e : Nat × Nat × Nat) : Bool := decide (e.2.2 = 256 * g + i)
  let s := (s.trunk.migrations.filter mine).foldl (fun s e => s.respond e.1 3 e.2.1 0 0 (natBytes 8 w.toNat)) s
  s.updTrunk fun k => { k with migrations := k.migrations.filter fun e => !mine e }

/-- The migrations of a context under way end with code 2: their records are taken away. -/
def State.endMigrations (s : State) (ctx : Nat) : State :=
  (s.net.filter fun p => decide (p.ctx = ctx)).foldl (fun s p =>
    match p.kind with
    | .migrate _ i _ _ _ => (s.setMig p.src p.dst i 2).answerMigrate p.src i
    | _ => s) s

/-- A record takes its reserved entry with its subscriptions, which get numbers of this grove, and its halo sets (R190, R302). -/
def Grove.settleRecord (gr : Grove) (idx : Nat) (t : TaskRec) (subs : List Sub) (halos : List HaloSet) : Grove :=
  let own (o : SubOwner) : SubOwner := match o with
    | .record _ j => .record idx j
    | .kernel _ => .kernel idx
    | .halo _ ch => .halo idx ch
  let base := gr.ids
  let number (id : Nat) : Nat := match subs.findIdx? fun x => decide (x.id = id) with | some k => base + k | none => id
  { (gr.setTask idx t) with
    subs := gr.subs ++ subs.map fun x => { x with id := number x.id, owner := own x.owner },
    halos := gr.halos ++ halos.map fun h => { h with task := idx, subs := h.subs.map fun e => (e.1, number e.2) },
    ids := base + subs.length }

/-- A copy of a triad instance has come to another grove, which a reinstalled copy avoids as well (R193). -/
def State.triadMoved (s : State) (inst g : Nat) : State :=
  { s with triads := s.triads.map fun x => if x.inst = inst ∧ !x.groves.contains g then { x with groves := x.groves ++ [g] } else x }

/-- R190: a record arrives at its reserved entry; its unsatisfied subscriptions are sent again unless it is IDLE, after its trigger
images where it has been replayed (R341). On a grove that has been withdrawn meanwhile it moves on (R426). -/
def execMigrationArrive (k : Nat) (s : State) : Host.Outcome State Fault Refusal :=
  match s.pkt k with
  | none => .next s
  | some p =>
    match p.kind with
    | .migrate t i subs halos inst =>
      if p.at_ ≠ p.dst then .next s
      else
        let key := 256 * p.src + i
        (match (s.grove p.dst).reservedIn.find? fun e => decide (e.2 = key) with
         | none => .next (s.dropPkt k)
         | some (idx, _) =>
           let s := (s.dropPkt k).updGrove p.dst fun gr =>
             { gr with reservedIn := gr.reservedIn.filter fun e => !decide (e.2 = key) }.settleRecord idx { t with able := none } subs halos
           let s := if inst then s.installTrigs p.dst idx else s
           let s := if t.triad then s.triadMoved t.inst p.dst else s
           let s := if t.state = .idle then s else (s.sendRecSubs p.dst idx).settleReady p.dst idx
           .next (((s.setMig p.src p.dst i 1).answerMigrate p.src i).leaveWithdrawn p.dst idx))
    | _ => .next s

/-! ### Containment (R161, R191, R193, R194) -/

/-- The core of a record whose fault is to be contained. -/
def State.faultedCore (s : State) (g i : Nat) : Option (Nat × TaskRec) :=
  match (s.grove g).task? i with
  | some t =>
    let core := 4 * g + t.slot
    if t.oncore ∧ (s.core core).task = i ∧ (s.core core).mode = .faulted ∧ s.drained core ∧ !s.leads core then some (core, t) else none
  | none => none

/-- Discards a task's tentative publications (R191): at the root where it has accepted them, else as soon as it does. -/
def State.discardTentative (s : State) (uid : Nat) : State :=
  (s.tentativeOf uid).foldl (fun s e =>
    let g := e.1
    let p := e.2
    let s := if p.sent = 2 then s.sendResolve g p p.discardKind else s
    s.updGrove g fun gr => { gr with
      pubs := if p.sent = 2 then gr.pubs.filter fun q => !decide (q.id = p.id)
        else gr.pubs.map fun q => if q.id = p.id then { q with dropped := true } else q }) s

/-- The record is armed again for its replay with its trigger images (R167, R191, R341), elsewhere when its grove has been withdrawn
(R426). -/
def State.replay (s : State) (g i : Nat) : State :=
  let s := s.updTask g i TaskRec.again
  if s.groveReady g then (s.installTrigs g i).armTask g i
  else (s.updTask g i fun t => { t with state := .armed }).moveRecord g i 0xFFF true true fun _ => true

/-- R191 to R194: a faulted task's fault is contained. -/
def execContainmentComplete (g i : Nat) (s : State) : Host.Outcome State Fault Refusal :=
  match s.faultedCore g i with
  | none => .next s
  | some (core, t) =>
    let f := (s.core core).faultInfo
    let again := t.guarded && !t.triad && decide (t.replay < 2) && !t.lost
    let s := (s.discardTentative t.uid).freeHeld t.uid
    let s := s.faultTileAt f.tick g t.ctx (f.tile !again) (some (i, t)) t.wid
    let s := (s.updCore core Core.leave).updGrove g fun gr => gr.dropSlots t.uid
    let s := ((s.endKernel g i).withdrawOf g i fun _ => true).leaveSpawn t.ctx t.wid fun _ => true
    let s := s.updTask g i fun t => { t with oncore := false, spv := false }
    .next (if again then s.replay g i
      else
        let s := s.updTask g i fun t => { t with state := .faulted }
        let s := if t.triad then s.triadFault t.inst else s
        if s.groveReady g then s else s.freeRecord g i)

end Sys2Proof.Machine
end

