-- ==== Sys2Proof/Machine/Gallery.lean ====
section
/-!
DEFINITION. Publications, roots and deliveries (R290 to R316): admission, acceptance at the root, versions and their forwarding,
name queries, commits, triad votes, write-backs, and the movement of packets.
-/

namespace Sys2Proof.Machine

/-- Kinds TRIAD_SPLIT and DELIVERY_LATE (R317). -/
def kindSplit : Nat := 13
/-- DELIVERY_LATE. -/
def kindLate : Nat := 14

/-- Chunk i of a payload (R288). -/
def chunkOf (p : Payload) (i : Nat) : Payload := (p.drop (512 * i)).take 512

/-- Stores a chunk in a payload; the last chunk fixes the length. -/
def putChunk (p : Payload) (i n : Nat) (c : Payload) : Payload :=
  let all := p.take (512 * i) ++ c ++ p.drop (512 * i + 512)
  if i + 1 = n then all.take (512 * i + c.length) else all

/-- The rim field whose agent holds a handle (R401), from the context's list of rim fields. -/
def State.holder (s : State) (ctx handle : Nat) : Option Nat :=
  pick (mix64 (BitVec.ofNat 64 handle ^^^ (s.ctx ctx).seed)) (s.ctx ctx).rimList

/-- Sends a packet from a grove of this module to a rim field of it. -/
def State.sendRim (s : State) (ctx : Nat) (name : Name) (kind : PktKind) (src rim : Nat) (express : Bool) (data : Payload)
    (wid : Word) : State :=
  s.send (mkPkt ctx name kind src (2592 + rim) express s.tick data wid s.clk)

/-- Does a name's root lie in this module? -/
def State.rootHere (s : State) (ctx : Nat) (name : Name) : Bool :=
  decide ((s.ctx ctx).rootOf name / 2592 = (s.ctx ctx).member)

/-! ### Publications at the publisher's grove (R291, R307, R312) -/

/-- Changes a publication of a grove. -/
def Grove.updPub (gr : Grove) (id : Nat) (f : PubOp → PubOp) : Grove :=
  { gr with pubs := gr.pubs.map fun p => if p.id = id then f p else p }
/-- Removes a publication. -/
def Grove.dropPub (gr : Grove) (id : Nat) : Grove := { gr with pubs := gr.pubs.filter fun p => !decide (p.id = id) }

/-- The chunk packets of a publication leave for its root (R291). -/
def State.sendPub (s : State) (g : Nat) (p : PubOp) (inj : Nat) : State :=
  let n := chunksIn p.data.length
  (List.range n).foldl (fun s i =>
    s.sendTo p.ctx p.name (.pubChunk p.id p.copy i n p.tent p.keep p.seq p.valid) g ((s.ctx p.ctx).rootOf p.name)
      p.express inj (chunkOf p.data i) p.wid) s

/-- The record a publication belongs to, while it stands. -/
def State.pubTask (s : State) (g : Nat) (p : PubOp) : Option TaskRec :=
  match p.task with
  | none => none
  | some i => ((s.grove g).task? i).filter fun t => decide (t.ctx = p.ctx) && decide (t.wid = p.wid)

/-- The root has accepted a fault tile: SUMMARY names the newest (R423). -/
def State.noteTile (s : State) (p : PubOp) (ver : Nat) : State :=
  let field (o n : Nat) : Nat := payloadNat ((p.data.drop o).take n)
  s.updCtx p.ctx fun c =>
    if field 0x28 8 < c.ftick then c
    else { c with ftick := field 0x28 8, fkind := field 0 2, fver := ver, fc1 := p.name.c1 }

/-- The root has accepted a publication, or refused it (R291, R307): a tentative one goes on waiting for its commit (R182), or is
discarded when its task has been contained meanwhile (R191). -/
def State.pubAnswered (s : State) (g id : Nat) (ok : Bool) (ver : Nat) : State :=
  match (s.grove g).pubs.find? fun p => decide (p.id = id) with
  | none => s
  | some p =>
    let s := if ok && decide (p.ch = 64) then s.noteTile p ver else s
    if !ok then s.updGrove g fun gr => gr.updPub id fun p => { p with retryAt := some (s.tick + 1024) }
    else
      let s := match p.slot with
        | some k => s.updGrove g fun gr => gr.endSlot k 0 0 0
        | none => s
      if !p.tent || p.task.isNone then s.updGrove g fun gr => gr.dropPub id
      else
        match s.pubTask g p with
        | none => (s.sendResolve g p p.discardKind).updGrove g fun gr => gr.dropPub id
        | some t =>
          if p.dropped then (s.sendResolve g p p.discardKind).updGrove g fun gr => gr.dropPub id
          else if p.copy < 3 ∧ t.state = .done then s.updGrove g fun gr => gr.dropPub id
          else
            let s := s.updGrove g fun gr => gr.updPub id fun p => { p with sent := 2, core := none }
            if t.state = .done then s.sendResolve g p (.commit id) else s

/-- The key of a context's budget of a class. -/
def admitKey (ctx : Nat) (express : Bool) : Nat := ctx * 2 + (if express then 1 else 0)

/-- Bytes that a context may have admitted in a window (R312). -/
def Grove.budget (gr : Grove) (ctx : Nat) (express : Bool) : Nat :=
  let w := Tbl.getD gr.xeAdmit (ctx % 16) 0x0010000001000000
  (if express then w >>> 32 else w &&& 0xFFFFFFFF).toNat

/-- The payload bytes of a publication. -/
def PubOp.size (p : PubOp) : Nat :=
  match p.r with
  | some r => r.payload (Fmt.ofBank r.fmt)
  | none => p.data.length

/-- Is `q` an earlier publication of the channel and name of `p` by the same core (R290)? -/
def PubOp.follows (p q : PubOp) : Bool :=
  q.core.isSome && decide (q.core = p.core) && decide (q.ctx = p.ctx) && decide (q.ch = p.ch) && decide (q.name = p.name) &&
  decide (q.order < p.order)

/-- May a waiting publication be considered for admission, for the first time or again (R290, R307, R20)? Earlier ones of its name from
its core have been admitted and do not wait for a retry. -/
def State.pubReady (s : State) (g : Nat) (p : PubOp) : Bool :=
  let gr := s.grove g
  !s.heldCtx p.ctx && !(gr.pubs.any fun q => p.follows q && (decide (q.sent = 0) || q.retryAt.isSome)) &&
  (match p.retryAt with
   | some t => decide (t ≤ s.tick)
   | none => decide (p.sent = 0) &&
     (match p.core with
      | none => true
      | some c => ((s.core c).job? p.job).isSome && !(s.core c).jobWaits p.job))

/-- Do bytes of a context and class fit the window: it is this window's, and they fit, or are the first in it (R312)? -/
def State.fitsWindow (s : State) (g ctx : Nat) (express : Bool) (len : Nat) : Bool :=
  let gr := s.grove g
  decide (gr.window = s.tick / 4096) &&
  (match Tbl.get? gr.admitted (admitKey ctx express) with
   | none => true
   | some n => decide (n + len ≤ gr.budget ctx express))

/-- Counts bytes as admitted in the window (R312). -/
def Grove.charge (gr : Grove) (ctx : Nat) (express : Bool) (len : Nat) : Grove :=
  { gr with admitted := Tbl.set gr.admitted (admitKey ctx express) (Tbl.getD gr.admitted (admitKey ctx express) 0 + len) }

/-- Is publication k the one to be admitted next: the first of its context and class that may be, and it fits? -/
def State.admitNow (s : State) (g k : Nat) : Option PubOp :=
  let gr := s.grove g
  match gr.pubs[k]? with
  | none => none
  | some p =>
    let first := gr.pubs.find? fun q => decide (q.ctx = p.ctx) && (q.express == p.express) && s.pubReady g q
    if first.map (·.id) = some p.id ∧ s.fitsWindow g p.ctx p.express p.size then some p else none

/-- Is leg k, a result of a collective, the one of its context and class to be admitted next (R312, R362)? -/
def State.legNow (s : State) (g k : Nat) : Option Pkt :=
  let gr := s.grove g
  match gr.legs[k]? with
  | none => none
  | some p =>
    let first := gr.legs.findIdx? fun q => decide (q.ctx = p.ctx) && (q.express == p.express)
    if first = some k ∧ !s.heldCtx p.ctx ∧ s.fitsWindow g p.ctx p.express p.data.length then some p else none

/-- The payload of a publication at its admission, read from scratchpad where it lies there (R291). -/
def State.pubPayload (s : State) (p : PubOp) : Payload × State :=
  match p.core, p.r with
  | some c, some r => s.readRegion c r (Fmt.ofBank r.fmt)
  | _, _ => (p.data, s)

/-- The reads of a publication's job end after its payload has passed at 128 bytes per clock (R291); a halo's when its last face
has (R297). -/
def State.pubReadEnd (s : State) (g : Nat) (p : PubOp) (len : Nat) : State :=
  match p.core with
  | none => s
  | some c =>
    let open_ := (s.grove g).pubs.any fun q => decide (q.core = some c) && decide (q.job = p.job) && decide (q.sent = 0)
    s.updCore c fun k => k.updJob p.job fun j =>
      let t := max (s.clk + (len + 127) / 128) j.steps
      { j with steps := t, accept := if open_ then none else some t }

/-- A leg of a collective leaves its root, stamped (R362). -/
def State.admitLeg (s : State) (g k : Nat) (p : Pkt) : State :=
  let s := s.updGrove g fun gr => { gr with legs := gr.legs.eraseIdx k }.charge p.ctx p.express p.data.length
  s.sendBack p.ctx p.name p.kind g p.dst p.express s.tick p.data p.wid

/-- R312, R291, R362: the next waiting publication is admitted: it is stamped, read, and sent; past the publications, k counts the legs
of collectives that wait. -/
def execPubAdmit (g k : Nat) (s : State) : Host.Outcome State Fault Refusal :=
  if (s.grove g).pubs.length ≤ k then
    match s.legNow g (k - (s.grove g).pubs.length) with
    | none => .next s
    | some p => .next (s.admitLeg g (k - (s.grove g).pubs.length) p)
  else
    match s.admitNow g k with
    | none => .next s
    | some p =>
      if p.sent ≠ 0 then .next s
      else
        let r := s.pubPayload p
        let p' := { p with data := r.1, r := none, admitted := some s.tick, sent := 1 }
        let s := r.2.updGrove g fun gr => (gr.updPub p.id fun _ => p').charge p.ctx p.express p.size
        .next ((s.pubReadEnd g p r.1.length).sendPub g p' s.tick)

/-- R312: a new window begins: no byte has been admitted in it. -/
def execAdmitWindowRoll (g : Nat) (s : State) : Host.Outcome State Fault Refusal :=
  if (s.grove g).window = s.tick / 4096 then .next s
  else .next (s.updGrove g fun gr => { gr with window := s.tick / 4096, admitted := [] })

/-- R307, R312: a refused publication is admitted again within its window's budget, with a new injection tick. -/
def execPubRetry (g k : Nat) (s : State) : Host.Outcome State Fault Refusal :=
  match s.admitNow g k with
  | none => .next s
  | some p =>
    if p.retryAt.isNone then .next s
    else .next ((s.updGrove g fun gr =>
      (gr.updPub p.id fun p => { p with retryAt := none, admitted := some s.tick }).charge p.ctx p.express p.size).sendPub g p s.tick)

/-! ### Serving subscribers (R299, R300, R313) -/

/-- LAST of a subscription for a name (R301). -/
def Sub.lastOf (x : Sub) (n : Name) : Option Nat := (x.last.find? fun e => decide (e.1 = n)).map (·.2)
/-- Sets LAST. -/
def Sub.setLast (x : Sub) (n : Name) (v : Nat) : Sub :=
  { x with last := (x.last.filter fun e => !decide (e.1 = n)) ++ [(n, v)] }
/-- Would a subscription still land a version (R301)? -/
def Sub.wants (x : Sub) (n : Name) (ver : Nat) : Bool :=
  !decide (x.state = .satisfied) && (match x.lastOf n with | none => true | some l => newerVer ver l)

/-- The subscription of an entry (grove, identity) of a root's lists, when it stands in this module. -/
def State.subscriber (s : State) (e : Nat × Nat) : Option Sub := (s.grove e.1).sub? e.2

/-- Versions on their way to a subscription of which nothing has landed. -/
def State.inFlight (s : State) (e : Nat × Nat) (x : Sub) : Nat :=
  s.groves.foldl (fun n h => h.2.versions.foldl (fun n v =>
    match v.ver with
    | some k => if v.acks.any (fun a => decide (a.1 = e.1) && decide (a.2.1 = e.2)) && x.wants v.name k &&
        !x.landings.any (fun l => decide (l.name = v.name) && decide (l.ver = k)) then n + 1 else n
    | none => n) n) 0

/-- Has a subscription landing space for another version (R299)? -/
def State.hasSpace (s : State) (e : Nat × Nat) (x : Sub) : Bool := decide (x.landings.length + s.inFlight e x < x.depth)

/-- The bound of R313, over a path of `cross` module links. -/
def boundOf (express : Bool) (len cross : Nat) : Nat := (if express then 1200 else 2000 + len / 1000) + 1500 * cross

/-- The tick against which a context's bounds are held: the ticks of a hold and of a rollback are not counted (R49, R313, R394). -/
def State.countedTick (s : State) (ctx : Nat) : Nat :=
  let t := match (s.ctx ctx).hold with
    | .none => s.tick
    | .holding => (s.ctx ctx).holdFrom
  match s.rollingFrom ctx with
  | some r => min t r
  | none => t

/-- The module links on the way to a subscriber of an entry (R313, R418). -/
def Context.linksTo (x : Context) (code : Nat) : Nat :=
  if isFar code then ((x.links.find? fun e => decide (e.1 = code / 4096 - 1)).map (·.2)).getD 1 else 0

/-- The registration of an entry of a root's lists. -/
def Grove.regOf (gr : Grove) (e : Nat × Nat) : Option SubReg := gr.regs.find? fun r => decide (r.grove = e.1) && decide (r.sub = e.2)

/-- The promise to a subscription as a version is sent to it: 0 outside it, else 1 and the ticks since acceptance for which there was no
space (R313, R314). -/
def Grove.promise (gr : Grove) (v : Version) (e : Nat × Nat) (tick : Nat) : Nat :=
  match gr.regOf e with
  | some r => if r.order < v.accOrd ∧ !v.rim then 1 + (tick - max v.acceptT v.base) else 0
  | none => 0

/-- The tick after which an unacknowledged delivery is late, 2,000 past its bound (R314). -/
def Version.deadline (v : Version) (a : Nat × Nat × Nat) (links : Nat) : Nat :=
  v.base + boundOf v.express v.data.length (v.cross + links) + (a.2.2 - 1) + 2000

/-- The tick from which the bound of a chunk counts: a triad's chunk has its own (R313). -/
def Version.baseOf (v : Version) (chunk : Nat) : Nat := ((v.bases.find? fun e => decide (e.1 = chunk)).map (·.2)).getD v.base

/-- Changes a version of a root. -/
def Grove.updVer (gr : Grove) (order : Nat) (f : Version → Version) : Grove :=
  { gr with versions := gr.versions.map fun v => if v.order = order then f v else v }

/-- Changes a version by name and number. -/
def Grove.mapVer (gr : Grove) (ctx : Nat) (name : Name) (ver : Nat) (f : Version → Version) : Grove :=
  { gr with versions := gr.versions.map fun v => if v.ctx = ctx ∧ v.name = name ∧ v.ver = some ver then f v else v }

/-- The chunks of a version that its root may send: of a vote those that it has forwarded, also when the vote has ended without the
others (R316). -/
def Version.chunks (v : Version) : List Nat :=
  if v.vote.isEmpty && v.forwarded.isEmpty then List.range (chunksIn v.data.length) else v.forwarded

/-- A chunk of a version enters the root's own router, which copies it along the tree (R304), and leaves for the subscribers `far` of
other members (log entry 9); where the promise does not hold for these, it carries no tick from which a bound counts (R314). -/
def State.sendChunk (s : State) (g : Nat) (v : Version) (i : Nat) (far : List Nat) : State :=
  let p := { mkPkt v.ctx v.name (.deliver (v.ver.getD 0) i (chunksIn v.data.length) v.valid) g g v.express v.inj
    (chunkOf v.data i) v.pubWid s.clk with cross := v.cross, base := v.baseOf i }
  let promised (c : Nat) : Bool := v.acks.any fun a => decide (a.1 = c) && decide (a.2.2 ≠ 0)
  far.foldl (fun s c => s.emit (farPos c) (if promised c then p else { p with base := 0 })) (s.send p)

/-- The subscribers of other members among entries of a root's lists. -/
def farOf (l : List (Nat × Nat × Nat)) : List Nat := (l.filterMap fun a => if isFar a.1 then some a.1 else none).eraseDups

/-- What becomes of an owed delivery: 0 it is over, 1 it waits, 2 it goes. Versions of a name go in version order (R300); of a
subscriber in another member the model takes it that there is space (log entry 9). -/
def State.owedGoes (s : State) (g : Nat) (v : Version) (e : Nat × Nat) : Nat :=
  match v.ver with
  | none => 0
  | some n =>
    let behind := (s.grove g).versions.any fun w => decide (w.name = v.name) && decide (w.ctx = v.ctx) &&
      (match w.ver with | some m => newerVer n m | none => false) && w.owed.contains e
    if isFar e.1 then (if behind then 1 else 2)
    else
      match s.subscriber e with
      | none => 0
      | some x => if !x.wants v.name n then 0 else if behind || !s.hasSpace e x then 1 else 2

/-- One owed delivery of a version. -/
def State.serveOne (s : State) (g order : Nat) (e : Nat × Nat) : State :=
  match (s.grove g).versions.find? fun v => decide (v.order = order) with
  | none => s
  | some v =>
    match s.owedGoes g v e with
    | 0 => s.updGrove g fun gr => gr.updVer order fun v => { v with owed := v.owed.erase e }
    | 1 => s
    | _ => s.updGrove g fun gr =>
        gr.updVer order fun v => { v with
          owed := v.owed.erase e, acks := v.acks ++ [(e.1, e.2, gr.promise v e s.tick)], used := s.tick }

/-- A root forwards a version to the subscribers it is owed to that have space. -/
def State.serveVersion (s : State) (g order : Nat) : State :=
  match (s.grove g).versions.find? fun v => decide (v.order = order) with
  | none => s
  | some v =>
    let s' := v.owed.foldl (fun s e => s.serveOne g order e) s
    match (s'.grove g).versions.find? fun w => decide (w.order = order) with
    | none => s'
    | some w =>
      let new := w.acks.drop v.acks.length
      if new.isEmpty then s' else w.chunks.foldl (fun s i => s.sendChunk g w i (farOf new)) s'

/-- A root serves everything it owes. -/
def State.serveRoot (s : State) (g : Nat) : State :=
  (s.grove g).versions.foldl (fun s v => if v.owed.isEmpty then s else s.serveVersion g v.order) s

/-- Every root serves what it owes: landing space has come free. -/
def State.serveAll (s : State) : State := s.groves.foldl (fun s e => s.serveRoot e.1) s

/-! ### Acceptance at the root (R300, R305 to R308, R310, R315) -/

/-- Is a version acceptable to a subscription of a record (R173)? -/
def accepts (instT inj : Nat) : Bool := decide (instT = 0) || !olderTick inj instT

/-- Does a registration take a version that its root has just accepted (R300)? -/
def SubReg.takes (r : SubReg) (ctx : Nat) (name : Name) (ver inj : Nat) : Bool :=
  decide (r.ctx = ctx) && name.matches r.name r.mask &&
  (if r.one then !r.served && (match r.exact with | some e => decide (e = ver) | none => accepts r.instT inj) else true)

/-- A version enters its root: the name record names it, and every registration that takes it is owed it (R300, R308). -/
def Grove.enterVersion (gr : Grove) (v : Version) (ver tick : Nat) : Grove :=
  let taken := gr.regs.filter fun r => r.takes v.ctx v.name ver v.inj
  let v' := { v with ver := some ver, acceptT := tick, used := tick, order := gr.ids, owed := taken.map fun r => (r.grove, r.sub),
                     wbDone := v.rim }
  let gr : Grove := { gr with
    ids := gr.ids + 1, versions := (gr.versions.filter fun w => !decide (w.order = v.order)) ++ [v'],
    regs := gr.regs.map fun r => if r.one && r.takes v.ctx v.name ver v.inj then { r with served := true } else r }
  gr.setNameRec ⟨v.ctx, v.name, some ver, v.rim, v.rim, false, false⟩

/-- The next version number of a name (R300). -/
def Grove.nextVer (gr : Grove) (ctx : Nat) (name : Name) : Nat :=
  match gr.nameRec ctx name with
  | some r => (match r.latest with | some l => (l + 1) % 65536 | none => 0)
  | none => 0

/-- Sends the write-back of a version of a KEEP channel, once all of it is there (R308). -/
def State.sendWriteback (s : State) (g : Nat) (v : Version) (ver : Nat) : State :=
  if v.keep && !v.rim && (v.vote.isEmpty || decide (v.forwarded.length = chunksIn v.data.length)) then
    match s.holder v.ctx v.name.handle with
    | some k => (s.sendRim v.ctx v.name (.writeback ver g v.valid) g k v.express v.data v.pubWid).traffic v.ctx
    | none => s
  else s

/-- A root gives a publication its version, sends its write-back, drops what need not stay, and forwards it. -/
def State.giveVersion (s : State) (g : Nat) (v : Version) (ver : Nat) : State :=
  ((s.updGrove g fun gr => (gr.enterVersion v ver s.tick).sweep s.tick).sendWriteback g v ver).serveRoot g

/-- Is `q` a chunk of the same publication attempt as `p`? -/
def Pkt.sameMsg (p q : Pkt) : Bool :=
  match p.kind, q.kind with
  | .pubChunk i _ _ _ _ _ _ _, .pubChunk j _ _ _ _ _ _ _ =>
    decide (i = j) && decide (p.src = q.src) && decide (p.inj = q.inj) && decide (p.ctx = q.ctx) && decide (p.name = q.name)
  | _, _ => false

/-- The earlier publications of its name by its core that a publication at its root follows (R290): 2 one has been refused, 1 one is
still on its way, 0 neither. -/
def State.earlierPub (s : State) (p : Pkt) (id : Nat) : Nat :=
  match (s.grove p.src).pubs.find? fun q => decide (q.id = id) with
  | none => 0
  | some q =>
    let l := (s.grove p.src).pubs.filter q.follows
    let at_ (e : PubOp) (f : PktKind → Bool) (n : Pkt → Nat) : Bool := s.net.any fun x => f x.kind && decide (n x = p.src) && decide (x.ctx = e.ctx)
    if l.any fun e => e.retryAt.isSome ||
        at_ e (fun k => match k with | .pubAns i false _ => decide (i = e.id) | _ => false) Pkt.dst then 2
    else if l.any fun e => at_ e (fun k => match k with | .pubChunk i _ _ _ _ _ _ _ => decide (i = e.id) | _ => false) Pkt.src then 1
    else 0

/-- Does a chunk packet complete its publication at the root, which no earlier one of its name and core is still to reach (R290), or
bring a chunk to the voter? -/
def State.completes (s : State) (g : Nat) (p : Pkt) : Bool :=
  match p.kind with
  | .pubChunk id copy _ n _ _ _ _ =>
    decide (p.at_ = g) && decide (p.dst = g) && decide (p.time < s.clk) &&
    (decide (copy < 3) ||
      (decide (s.earlierPub p id ≠ 1) &&
       let sib := s.net.filter fun q => p.sameMsg q && decide (q.at_ = g)
       decide (n ≤ sib.length) && sib.all fun q => !p.sooner q))
  | _ => false

/-- The packet a root processes next (R311). -/
def State.rootNext (s : State) (g : Nat) : Option Nat :=
  (s.net.zipIdx.foldl (fun (b : Option (Pkt × Nat)) e =>
    if s.completes g e.1 then (match b with | some x => if e.1.sooner x.1 then some e else b | none => some e) else b) none).map (·.2)

/-- The root's answer to a publication, with the version it gave. -/
def State.answerPub (s : State) (g : Nat) (p : Pkt) (id : Nat) (ok : Bool) (ver : Nat) : State :=
  let s := if ok then s else s.updGrove g fun gr => { gr with glRefused := min (gr.glRefused + 1) 65535 }
  s.sendBack p.ctx p.name (.pubAns id ok ver) g p.src p.express s.tick [] p.wid

/-- Units that a publication and, for a new name, its record take (R305). -/
def Grove.pubUnits (gr : Grove) (ctx : Nat) (name : Name) (len : Nat) : Nat :=
  units len + (if (gr.nameRec ctx name).isSome then 0 else units (16 * (gr.names.length + 1)) - gr.recordUnits)

/-- A version, tentative publication or vote buffer as it enters a root. -/
def newVersion (p : Pkt) (data : Payload) (valid : List Nat) (keep rim : Bool) (pubId : Option Nat) (seq tick order : Nat) : Version :=
  { ctx := p.ctx, name := p.name, ver := none, data := data, valid := valid, inj := p.inj, acceptT := tick, express := p.express,
    keep := keep, rim := rim, pubGrove := p.src, pubId := pubId, pubWid := p.wid, seq := seq, pins := [], owed := [], acks := [],
    wbDone := false, used := tick, vote := [], forwarded := [], bases := [], order := order, accOrd := order, base := p.base, cross := p.cross,
    late := [], held := false }

/-- Does the image keep versions of a handle (R308)? -/
def Image.keeps (im : Image) (handle : Nat) : Bool :=
  im.chans.any fun e => decide (chKind e = 1) && decide (chHandle e = handle) && chKeep e

/-- A whole publication at its root: it is accepted, accepted as tentative (R315), taken as a fall-through version (R310), or
refused (R307). -/
def State.acceptAtRoot (s : State) (g : Nat) (p : Pkt) (id : Nat) (tent keep : Bool) (seq n : Nat) (valid : List Nat) : State :=
  let sib := s.net.filter fun q => p.sameMsg q && decide (q.at_ = g)
  let data := (List.range n).flatMap fun i => match sib.find? fun q => decide (q.chunkNo = i) with | some q => q.data | none => []
  let s := { s with net := s.net.filter fun q => !(p.sameMsg q && decide (q.at_ = g)) }
  let gr := s.grove g
  let rim := decide (2592 ≤ p.src)
  let old : Bool := match gr.nameRec p.ctx p.name with
    | some r => !(r.fetching && (match r.latest with | none => true | some l => decide (l = seq)))
    | none => true
  if rim ∧ old then s.answerPub g p id true 0
  else if s.earlierPub p id = 2 then s.answerPub g p id false 0
  else
    match gr.makeRoom s.tick (gr.pubUnits p.ctx p.name data.length) (gr.versions.length + 1) with
    | none => s.answerPub g p id false 0
    | some gr' =>
      let s := (s.setGrove g gr').traffic p.ctx
      let k := if rim then (s.ctx p.ctx).image.keeps p.name.handle else keep
      let v := newVersion { p with base := sib.foldl (fun b q => max b q.base) p.base } data valid k rim (if tent then some id else none) seq s.tick gr'.ids
      if tent then
        (s.updGrove g fun x => { x with versions := x.versions ++ [v], ids := x.ids + 1 }).answerPub g p id true 0
      else
        let ver := if rim then seq else gr'.nextVer p.ctx p.name
        ((s.updGrove g fun x => { x with ids := x.ids + 1 }).giveVersion g v ver).answerPub g p id true ver

/-! ### Triad votes (R316) -/

/-- A chunk of a triad copy comes to its vote buffer; the buffer is made for the first, or the publication is refused. -/
def State.voteChunk (s : State) (g k : Nat) (p : Pkt) (id copy chunk n : Nat) (keep : Bool) (seq : Nat) (valid : List Nat) : State :=
  let gr := s.grove g
  let mine (v : Version) : Bool := decide (v.ctx = p.ctx) && decide (v.name = p.name) && decide (v.pubWid = p.wid) &&
    decide (v.seq = seq) && !v.vote.isEmpty
  let put (s : State) (order : Nat) : State :=
    let s := s.updGrove g fun x => x.updVer order fun v =>
      let has := v.vote.any fun e => decide (e.1 = chunk)
      { v with vote := if has then v.vote.map (fun e => if e.1 = chunk then (e.1, e.2 ++ [(copy, p.data)]) else e)
          else v.vote ++ [(chunk, [(copy, p.data)])],
               data := if chunk + 1 = n then v.data.take (512 * chunk + p.data.length) else v.data }
    let rest := s.net.any fun q => p.sameMsg q
    if rest then s else s.answerPub g p id true 0
  match gr.versions.find? mine with
  | some v => put (s.dropPkt k) v.order
  | none =>
    match gr.makeRoom s.tick (gr.pubUnits p.ctx p.name (if n = 1 then p.data.length else n * 512)) (gr.versions.length + 1) with
    | none => { s with net := s.net.filter fun q => !p.sameMsg q }.answerPub g p id false 0
    | some gr' =>
      let s := s.traffic p.ctx
      let v := { newVersion p (List.replicate (n * 512) none) valid keep false none seq s.tick gr'.ids with vote := [(chunk, [])] }
      put ((s.dropPkt k).setGrove g { gr' with versions := gr'.versions ++ [v], ids := gr'.ids + 1 }) v.order

/-- R300, R305, R307: the root takes the publication, or the triad chunk, that is next in its processing order. -/
def execRootAccept (g k : Nat) (s : State) : Host.Outcome State Fault Refusal :=
  if s.rootNext g ≠ some k then .next s
  else
    match s.pkt k with
    | none => .next s
    | some p =>
      match p.kind with
      | .pubChunk id copy chunk n tent keep seq valid =>
        if copy < 3 then .next (s.voteChunk g k p id copy chunk n keep seq valid)
        else .next (s.acceptAtRoot g p id tent keep seq n valid)
      | _ => .next s

/-- Two copies of a chunk agree: bit for bit, and neither holds poison. -/
def agree (a b : Payload) : Bool := !a.poisoned && decide (a = b)

/-- The payload two copies of a chunk agree on. -/
def majority (l : List (Nat × Payload)) : Option Payload :=
  (l.find? fun a => l.any fun b => decide (a.1 ≠ b.1) && agree a.2 b.2).map (·.2)

/-- A fault tile of a root's voter or lateness watch (R314, R316, R317). -/
def State.rootTile (s : State) (g ctx kind : Nat) (name : Name) (ver : Nat) (wid : Word) (task : Option (Nat × TaskRec)) (detail : List Byte) :
    State :=
  s.faultTile g ctx ⟨kind, 5, 0, 0, 0, false, false, some (name, ver), detail⟩ task wid

/-- A chunk of a vote that can be decided: two copies agree or three have come, and it has not been sent; or it has, and the third
copy has come. -/
def Version.decidable (v : Version) : Option (Nat × List (Nat × Payload)) :=
  v.vote.find? fun e =>
    if v.forwarded.contains e.1 then decide (e.2.length = 3) else (majority e.2).isSome || decide (e.2.length = 3)

/-- Forwards a chunk of a vote, whose bound counts from now (R313); the first gives the publication its version. -/
def State.forwardChunk (s : State) (g : Nat) (v : Version) (chunk : Nat) (data : Payload) : State :=
  let n := chunksIn v.data.length
  let v' := { v with data := putChunk v.data chunk n data, forwarded := v.forwarded ++ [chunk], bases := v.bases ++ [(chunk, s.tick)] }
  if v.ver.isNone then
    s.giveVersion g { v' with acceptT := s.tick, base := s.tick, accOrd := (s.grove g).ids } ((s.grove g).nextVer v.ctx v.name)
  else
    let v' := { v' with base := s.tick }
    let s := s.updGrove g fun gr => gr.updVer v.order fun _ => v'
    (s.sendWriteback g v' (v.ver.getD 0)).sendChunk g v' chunk (farOf v'.acks)

/-- The vote of a publication is over: no copy of its triad is left, in a table or in transit, that could still publish, and nothing that
one has published is on its way. -/
def State.voteOver (s : State) (v : Version) : Bool :=
  let mine (t : TaskRec) : Bool := t.triad && decide (t.ctx = v.ctx) && decide (t.wid = v.pubWid)
  !isFar v.pubGrove &&
  !(s.allRecords.any fun e => mine e.2.2 && !decide (e.2.2.state = .done) && !decide (e.2.2.state = .faulted)) && !s.transit.any mine &&
  !(s.groves.any fun e => e.2.pubs.any fun p => p.votes && decide (p.ctx = v.ctx) && decide (p.wid = v.pubWid)) &&
  !(s.net.any fun p => match p.kind with
    | .pubChunk _ c _ _ _ _ _ _ => decide (c < 3) && decide (p.ctx = v.ctx) && decide (p.wid = v.pubWid)
    | _ => false)

/-- Have all chunks of a vote been resolved? -/
def Version.resolved (v : Version) : Bool :=
  decide (v.forwarded.length = chunksIn v.data.length) && decide (v.vote.length = v.forwarded.length) && v.vote.all fun e => e.2.isEmpty

/-- The number that a publication has got at its root. -/
def State.verOf (s : State) (g order : Nat) : Nat :=
  match (s.grove g).versions.find? fun v => decide (v.order = order) with
  | some v => v.ver.getD 0
  | none => 0

/-- R316: the voter decides a chunk of version k of a root, or ends a vote that is over; what it has forwarded stays. -/
def execTriadVote (g k : Nat) (s : State) : Host.Outcome State Fault Refusal :=
  match (s.grove g).versions[k]? with
  | none => .next s
  | some v =>
    let n := chunksIn v.data.length
    let detail (ver copy chunk : Nat) : List Byte := xeDetail (v.inj % 2 ^ 32) (s.tick % 2 ^ 32) 0 ver v.cross copy chunk
    let clear (s : State) (order chunk : Nat) : State := s.updGrove g fun gr => gr.updVer order fun w =>
      { w with vote := w.vote.map fun e => if e.1 = chunk then (e.1, []) else e }
    match v.decidable with
    | some (c, l) =>
      if v.forwarded.contains c then
        let sent := chunkOf v.data c
        let s := l.foldl (fun s e => if agree e.2 sent then s
          else s.rootTile g v.ctx kindDissent v.name (v.ver.getD 0) v.pubWid none (detail (v.ver.getD 0) e.1 c)) s
        .next (clear s v.order c)
      else
        (match majority l with
         | some data => .next (s.forwardChunk g v c data)
         | none =>
           let size := if c + 1 = n then v.data.length - 512 * c else 512
           let s := clear s v.order c
           let v := { v with vote := v.vote.map fun e => if e.1 = c then (e.1, []) else e }
           let ver := match v.ver with | some n => n | none => (s.grove g).nextVer v.ctx v.name
           let s := (s.forwardChunk g v c (List.replicate size none)).rootTile g v.ctx kindSplit v.name ver v.pubWid none (detail ver 0 c)
           match s.triadOf v.ctx v.pubWid with
           | some x => .next (s.triadFail x).sweepTriads
           | none => .next s)
    | none =>
      if v.vote.isEmpty then .next s
      else if v.resolved then .next (s.updGrove g fun gr => gr.updVer v.order fun w => { w with vote := [] })
      else if s.voteOver v then
        .next (s.updGrove g fun gr =>
          if !v.forwarded.isEmpty then gr.updVer v.order fun w => { w with vote := [] }
          else { gr with versions := gr.versions.filter fun w => !decide (w.order = v.order) })
      else .next s

/-! ### Commits and discards (R182, R191, R315) -/

/-- R315: a commit gives a tentative publication the next version. -/
def execCommit (g k : Nat) (s : State) : Host.Outcome State Fault Refusal :=
  match s.pkt k with
  | none => .next s
  | some p =>
    match p.kind with
    | .commit id =>
      if p.at_ ≠ g ∨ p.dst ≠ g then .next s
      else
        let s := s.dropPkt k
        let s := match (s.grove g).versions.find? fun v => v.ver.isNone && decide (v.pubGrove = p.src) && decide (v.pubId = some id) with
          | some v => s.giveVersion g { v with acceptT := s.tick, base := s.tick } ((s.grove g).nextVer v.ctx v.name)
          | none => s
        .next (s.sendBack p.ctx p.name (.commitAns id) g p.src p.express s.tick [] p.wid)
    | _ => .next s

/-- What a discard leaves of a version: nothing of the tentative publication that it names; of a vote, nothing of what the copy has brought
for chunks that have not been sent (R315, R316). -/
def Version.discarded (v : Version) (p : Pkt) (id copy seq : Nat) : Option Version :=
  if copy < 3 then
    some (if v.ctx = p.ctx ∧ v.name = p.name ∧ v.pubWid = p.wid ∧ v.seq = seq then
      { v with vote := v.vote.map fun e => if v.forwarded.contains e.1 then e else (e.1, e.2.filter fun x => !decide (x.1 = copy)) } else v)
  else if v.ver.isNone ∧ v.pubGrove = p.src ∧ v.pubId = some id then none
  else some v

/-- R315: a discard drops a tentative publication; no version number is used. -/
def execDiscard (g k : Nat) (s : State) : Host.Outcome State Fault Refusal :=
  match s.pkt k with
  | none => .next s
  | some p =>
    match p.kind with
    | .discard id copy seq =>
      if p.at_ ≠ g ∨ p.dst ≠ g then .next s
      else .next ((s.dropPkt k).updGrove g fun gr => { gr with versions := gr.versions.filterMap fun v => v.discarded p id copy seq })
    | _ => .next s

/-! ### Registration and withdrawal (R299, R300, R304, R310) -/

/-- Marks a registration as owed a version it is served from the gallery. -/
def State.oweVersion (s : State) (g : Nat) (r : SubReg) (order : Nat) : State :=
  (s.updGrove g fun gr =>
    { (gr.updVer order fun v => { v with owed := v.owed ++ [(r.grove, r.sub)] }) with
      regs := gr.regs.map fun q => if q.order = r.order then { q with served := true } else q }).serveVersion g order

/-- Asks the holder of a tensor for a fetch (R310); the name's record is made when it has none. -/
def State.askFetch (s : State) (g ctx : Nat) (name : Name) (ver : Nat) : State :=
  let gr := s.grove g
  match gr.nameRec ctx name with
  | some r =>
    if r.fetching then s
    else
      (match s.holder ctx name.handle with
       | some k => (s.updGrove g fun gr => gr.setNameRec { r with fetching := true }).sendRim ctx name (.fetch ver g) g k false [] 0
       | none => s)
  | none =>
    match s.holder ctx name.handle, gr.makeRoom s.tick (gr.pubUnits ctx name 0) (gr.versions.length + 1) with
    | some k, some gr' =>
      ((s.setGrove g (gr'.setNameRec ⟨ctx, name, none, false, false, false, true⟩)).traffic ctx).sendRim ctx name (.fetch ver g) g k false [] 0
    | _, _ => s

/-- EVICTED: the record of a replayed task cannot be served the exact version it asks for (R310). -/
def State.evicted (s : State) (r : SubReg) (name : Name) : State :=
  match (s.grove r.grove).sub? r.sub with
  | none => s
  | some x => s.failRecord r.grove x.owner.task
      ⟨kindEvicted, 5, 0, 0, 0, true, false, some (name, r.exact.getD 0), xeDetail 0 (s.tick % 2 ^ 32) 0 (r.exact.getD 0) 0 0 0⟩

/-- A registration is served for one name (R300, R310). -/
def State.serveName (s : State) (g : Nat) (r : SubReg) (name : Name) : State :=
  let gr := s.grove g
  let latest := match gr.nameRec r.ctx name with | some n => n.latest | none => none
  let resident (n : Nat) : Option Version :=
    gr.versions.find? fun v => decide (v.ctx = r.ctx) && decide (v.name = name) && decide (v.ver = some n)
  let tents := (gr.versions.filter fun v => decide (v.ctx = r.ctx) && decide (v.name = name) && v.ver.isNone && v.pubId.isSome).length
  let wb := match gr.nameRec r.ctx name with | some n => n.wb | none => false
  match r.exact with
  | some e =>
    (match resident e, latest with
     | some v, _ => s.oweVersion g r v.order
     | none, some l =>
       if newerVer e l ∧ (e + 65536 - l) % 65536 ≤ tents then s
       else if e = l ∧ wb ∧ r.backed then s.askFetch g r.ctx name l
       else s.evicted r name
     | none, none => if e < tents then s else s.evicted r name)
  | none =>
    match latest with
    | some l =>
      (match resident l with
       | some v => if r.one ∧ !accepts r.instT v.inj then s else s.oweVersion g r v.order
       | none => if tents = 0 ∧ wb ∧ r.backed then s.askFetch g r.ctx name l else s)
    | none => if tents = 0 ∧ r.backed ∧ r.mask = 0 then s.askFetch g r.ctx name 0 else s

/-- Can a subscription be taken at its root: a fetch that it asks for has room for the name's record (R305, R310)? -/
def State.subFits (s : State) (g : Nat) (r : SubReg) : Bool :=
  let gr := s.grove g
  (gr.nameRec r.ctx r.name).isSome || decide (r.mask ≠ 0) || !r.backed || r.exact.isSome ||
  gr.versions.any (fun v => decide (v.ctx = r.ctx) && decide (v.name = r.name) && (v.ver.isSome || v.pubId.isSome)) ||
  (gr.makeRoom s.tick (gr.pubUnits r.ctx r.name 0) (gr.versions.length + 1)).isSome

/-- R300, R304, R310: a subscription arrives at its root, is registered, and is served. Where the root's own table has no entry for it,
the root sends to the next router toward the subscriber that has. -/
def execSubRegister (g k : Nat) (s : State) : Host.Outcome State Fault Refusal :=
  match s.pkt k with
  | none => .next s
  | some p =>
    match p.kind with
    | .sub r =>
      if p.at_ ≠ g ∨ p.dst ≠ g ∨ !s.subFits g r then .next s
      else
        let order := (s.grove g).ids
        let r := { r with order := order, uni := if p.via = g ∨ isFar r.grove then none else some p.via }
        let s := ((s.dropPkt k).traffic p.ctx).updGrove g fun gr => { gr with regs := gr.regs ++ [r], ids := gr.ids + 1 }
        let s := if isFar r.grove then s
          else s.updGrove r.grove fun gr => gr.updSub r.sub fun x => if x.state = .sent then { x with state := .registered } else x
        let names := if r.mask = 0 then [r.name]
          else ((s.grove g).names.filter fun n => decide (n.ctx = r.ctx) && n.name.matches r.name r.mask).map (·.name)
        .next (names.foldl (fun s n => s.serveName g r n) s)
    | _ => .next s

/-- R299: the oldest subscription that waits for landing space gets it, and leaves for its roots. -/
def execLandingReserve (g : Nat) (s : State) : Host.Outcome State Fault Refusal :=
  let gr := s.grove g
  match gr.subs.find? fun x => decide (x.state = .waiting) && !s.heldCtx x.ctx with
  | none => .next s
  | some x =>
    let e := (s.ctx x.ctx).image.chan x.ch
    let size := match x.owner with
      | .halo _ _ =>
        let sh := chShape e
        let w := chHw e
        let ext (k : Nat) : Nat := if x.name.c3 / 3 ^ k % 3 = 1 then sh.x k + 1 else w
        (chFmt e).rowBytes (ext 0) * ext 1 * ext 2
      | _ => chPayload e
    match gr.makeRoom s.tick (units (x.depth * size - x.place)) (gr.versions.length + 1) with
    | none => .next s
    | some gr' =>
      let s := s.setGrove g (gr'.updSub x.id fun y => { y with place := x.depth * size, state := .sent })
      let j := (s.grove g).joinMatch x.ctx x.name x.mask 4 g g
      let s := s.setGrove g j.1
      let r := s.subReg g x
      .next ((s.rootsOf x).foldl (fun s pos => s.sendTo x.ctx x.name (.sub r) g pos true s.tick [] r.wid) s)

/-! ### Deliveries (R301, R306, R313, R314) -/

/-- The root's watch of a delivery: the promise to a subscription of a version, when it is on its way (R314). -/
def State.ackOf (s : State) (root : Nat) (ctx : Nat) (name : Name) (ver g sub : Nat) : Option Nat :=
  match (s.grove root).versions.find? fun v => decide (v.ctx = ctx) && decide (v.name = name) && decide (v.ver = some ver) with
  | none => none
  | some v => (v.acks.find? fun a => decide (a.1 = g) && decide (a.2.1 = sub)).map (·.2.2)

/-- DELIVERY_LATE of a version for a subscription of a task with a WID (R314). -/
def State.lateTile (s : State) (at_ ctx : Nat) (name : Name) (ver inj : Nat) (wid : Word) (task : Option (Nat × TaskRec))
    (bound cross : Nat) : State :=
  s.rootTile at_ ctx kindLate name ver wid task (xeDetail (inj % 2 ^ 32) (s.tick % 2 ^ 32) bound ver cross 0 0)

/-- A landing of a subscription. -/
def Sub.landing? (x : Sub) (n : Name) (ver : Nat) : Option Landing :=
  x.landings.find? fun l => decide (l.name = n) && decide (l.ver = ver)

/-- Is a landing complete? -/
def Landing.whole (l : Landing) : Bool := decide (l.nchunk ≤ l.bits.length)

/-- A version has landed whole for a subscription: it is LAST, and what older versions of the name have brought is dropped, since their
other chunks no longer land (R301). -/
def Sub.landWhole (x : Sub) (n : Name) (ver : Nat) : Sub :=
  ({ x with landings := x.landings.filter fun l => l.whole || !decide (l.name = n) || newerVer l.ver ver }).setLast n ver

/-- A chunk lands for a subscription, `took` ticks after its bound began (R301, R313). -/
def Sub.land (x : Sub) (n : Name) (ver chunk total : Nat) (data : Payload) (valid : List Nat) (inj order cross took : Nat) : Sub :=
  let l := match x.landing? n ver with
    | some l => l
    | none => ⟨n, ver, [], total, List.replicate (512 * total) none, valid, inj, order, cross, 0⟩
  let l' := { l with bits := l.bits ++ [chunk], data := putChunk l.data chunk total data, took := max l.took took }
  let x := { x with landings := if (x.landing? n ver).isSome
    then x.landings.map (fun y => if y.name = n ∧ y.ver = ver then l' else y) else x.landings ++ [l'] }
  if l'.whole then x.landWhole n ver else x

/-- What follows when a subscription's version has landed whole: the acknowledgement, the check against the promise that held for it,
if any (R314), and for a record its firing (R15, R306). -/
def State.landed (s : State) (g root : Nat) (x : Sub) (l : Landing) (express : Bool) (promise : Nat) : State :=
  let t := (s.grove g).task? x.owner.task
  let guarded := match t with | some r => r.guarded | none => false
  let name := l.name
  let ver := l.ver
  let s := s.sendBack x.ctx name (.ack ver x.id guarded) g root true s.tick [] 0
  let bound := boundOf express l.data.length l.cross
  let s := if promise ≠ 0 ∧ bound + (promise - 1) < l.took then
      s.lateTile g x.ctx name ver l.inj (match t with | some r => r.wid | none => 0) (t.map fun r => (x.owner.task, r)) bound l.cross
    else s
  let s := s.updGrove g fun gr => gr.landEvent x.ctx x.ch false 1
  let s := if guarded then s.updTask g x.owner.task fun t => { t with pinned := t.pinned ++ [(name, ver, g * 2 ^ 32 + x.id)] } else s
  match x.owner with
  | .record i j =>
    let s := s.updGrove g fun gr => gr.updSub x.id fun x => { x with state := .satisfied }
    let s := s.updTask g i fun t =>
      { t with subs := t.subs.zipIdx.map fun e => if e.2 = j then { e.1 with landed := true, ver := ver } else e.1 }
    s.settleReady g i
  | _ => s

/-- R301, R304: a chunk packet at a router lands for the subscriptions of the grove that it is sent to, and is copied on along the
tree. -/
def execChunkLand (g k : Nat) (s : State) : Host.Outcome State Fault Refusal :=
  match s.pkt k with
  | none => .next s
  | some p =>
    match p.kind with
    | .deliver ver chunk total valid =>
      if p.at_ ≠ g ∨ p.dst ≠ g then .next s
      else
        let s := s.dropPkt k
        let s := ((s.grove g).subs.filter fun x => decide (x.ctx = p.ctx) && p.name.matches x.name x.mask).foldl (fun s x =>
          let watch := if isFar p.src then some (if p.base = 0 then 0 else 1) else s.ackOf p.src p.ctx p.name ver g x.id
          let under := x.wants p.name ver && (match x.landing? p.name ver with | some l => !l.bits.contains chunk | none => true)
          if !under || watch.isNone then s
          else
            let x' := x.land p.name ver chunk total p.data valid p.inj (s.grove g).ids p.cross (s.countedTick p.ctx - p.base)
            let s := s.updGrove g fun gr =>
              { (gr.updSub x.id fun _ => x') with ids := gr.ids + 1 }.landEvent x.ctx x.ch true 1
            match x'.landing? p.name ver with
            | some l => if l.whole then s.landed g p.src x' l p.express (watch.getD 0) else s
            | none => s) s
        .next (if isFar p.src then s
          else ((s.grove g).copies g p.ctx p.name p.inp).foldl (fun s h => s.send { p with at_ := g, dst := h, time := s.clk }) s)
    | _ => .next s

/-- R306: an acknowledgement reaches the root; one with a guard mark pins the version. -/
def execLandingAcknowledgement (g k : Nat) (s : State) : Host.Outcome State Fault Refusal :=
  match s.pkt k with
  | none => .next s
  | some p =>
    match p.kind with
    | .ack ver sub guarded =>
      if p.at_ ≠ g ∨ p.dst ≠ g then .next s
      else .next ((s.dropPkt k).updGrove g fun gr =>
        (gr.mapVer p.ctx p.name ver fun v =>
          { v with acks := v.acks.filter (fun a => !(decide (a.1 = p.src) && decide (a.2.1 = sub))),
                   pins := if guarded then v.pins ++ [(p.src, sub)] else v.pins }).sweep s.tick)
    | _ => .next s

/-- The first subscriber of a version that has not acknowledged it in time, and for which its root has raised nothing yet (R314). -/
def State.overdue (s : State) (v : Version) : Option (Nat × Nat × Nat) :=
  v.acks.find? fun a => decide (a.2.2 ≠ 0) && decide (v.deadline a ((s.ctx v.ctx).linksTo a.1) < s.countedTick v.ctx) &&
    !v.late.contains (a.1, a.2.1)

/-- R314: a subscriber of version k has not acknowledged it in time; the tile names the task that its registration carries. -/
def execDeliveryAckTimeout (g k : Nat) (s : State) : Host.Outcome State Fault Refusal :=
  match (s.grove g).versions[k]? with
  | none => .next s
  | some v =>
    match s.overdue v with
    | none => .next s
    | some a =>
      let s' := s.updGrove g fun gr => gr.updVer v.order fun w => { w with late := w.late ++ [(a.1, a.2.1)] }
      let task := (s.subscriber (a.1, a.2.1)).bind fun x => ((s.grove a.1).task? x.owner.task).map fun t => (x.owner.task, t)
      let wid := match (s.grove g).regOf (a.1, a.2.1) with | some r => r.wid | none => 0
      let cross := v.cross + (s.ctx v.ctx).linksTo a.1
      .next (s'.lateTile g v.ctx v.name (v.ver.getD 0) v.inj (if isFar a.1 ∨ task.isSome then wid else 0) task
        (boundOf v.express v.data.length cross) cross)

/-- R306: an unpin message releases a guarded landing's pin. -/
def execVersionUnpin (g k : Nat) (s : State) : Host.Outcome State Fault Refusal :=
  match s.pkt k with
  | none => .next s
  | some p =>
    match p.kind with
    | .unpin ver key =>
      if p.at_ ≠ g ∨ p.dst ≠ g then .next s
      else .next ((s.dropPkt k).updGrove g fun gr =>
        (gr.mapVer p.ctx p.name ver fun v =>
          { v with pins := v.pins.erase (p.src / 4096 * 4096 + key / 2 ^ 32, key % 2 ^ 32) }).sweep s.tick)
    | _ => .next s

/-! ### Name queries and write-backs (R296, R308) -/

/-- The answer of a root about a name (R296). -/
def Grove.nameWord (gr : Grove) (ctx : Nat) (name : Name) : Word :=
  let b (x : Bool) (i : Nat) : Nat := if x then 2 ^ i else 0
  let tent := gr.versions.any fun v => decide (v.ctx = ctx) && decide (v.name = name) && v.ver.isNone && v.pubId.isSome
  match (gr.nameRec ctx name) with
  | some ⟨_, _, some l, wb, _, _, _⟩ =>
    let res := gr.versions.any fun v => decide (v.ctx = ctx) && decide (v.name = name) && decide (v.ver = some l)
    BitVec.ofNat 64 (2 ^ 63 + b res 62 + b wb 61 + b tent 60 + l)
  | _ => BitVec.ofNat 64 (b tent 60)

/-- R296: a root answers a name query. -/
def execNameqQuery (g k : Nat) (s : State) : Host.Outcome State Fault Refusal :=
  match s.pkt k with
  | none => .next s
  | some p =>
    match p.kind with
    | .nameq core id =>
      if p.at_ ≠ g ∨ p.dst ≠ g then .next s
      else .next ((s.dropPkt k).sendBack p.ctx p.name (.nameqAns core id ((s.grove g).nameWord p.ctx p.name)) g p.src true s.tick [] p.wid)
    | _ => .next s

/-- R308: the write-back of a version has completed; WB rises when it is the latest. -/
def execWritebackComplete (g k : Nat) (s : State) : Host.Outcome State Fault Refusal :=
  match s.pkt k with
  | none => .next s
  | some p =>
    match p.kind with
    | .wbDone ver =>
      if p.at_ ≠ g ∨ p.dst ≠ g then .next s
      else .next ((s.dropPkt k).updGrove g fun gr =>
        let gr := gr.mapVer p.ctx p.name ver fun v => { v with wbDone := true }
        let gr := match gr.nameRec p.ctx p.name with
          | some r => if r.latest = some ver then gr.setNameRec { r with wb := true } else gr
          | none => gr
        gr.sweep s.tick)
    | _ => .next s

/-- An answer to a name query reaches the register that waits for it, on its core or with its pre-empted task (R85). -/
def State.nameqAnswered (s : State) (g id : Nat) (ans : Word) : State :=
  let fix (l : List Pend) : List Pend := l.map fun p =>
    if p.wait = .reply id then { p with val := ans.toNat, wait := .answered s.clk } else p
  let s := (List.range 4).foldl (fun s k => s.updCore (4 * g + k) fun c => { c with pend := fix c.pend }) s
  s.updGrove g fun gr => { gr with tasks := gr.tasks.map fun e => (e.1, { e.2 with pend := fix e.2.pend }) }

/-! ### Packet movement (R303, R311) -/

/-- The next router of a packet and its direction. -/
def Pkt.nextHop (p : Pkt) : Nat × Nat :=
  if isFar p.dst then (2592 + portRim p.port, 4) else hop p.at_ p.dst (!p.kind.reversed)

/-- May a packet move in this clock? -/
def Pkt.movable (p : Pkt) (clk : Nat) : Bool :=
  decide (p.at_ ≠ p.dst) && decide (p.time < clk)

/-- The node of a position: a grove, or the rim node (R370). -/
def nodeOf (pos : Nat) : Nat := if 2592 ≤ pos then 0xFFF else pos

/-- The number under which a node keeps an incoming channel: four for each input port, north, east, south, west and the rim; the
rim node has four for each grove, and from `linkChan` on four for each module link. -/
def chanNo (node from_ inp vc : Nat) : Nat :=
  if node = 0xFFF then 256 + 4 * from_ + vc else if from_ = 0xFFF then 16 + vc else comingFrom inp % 4 * 4 + vc

/-- Does a packet stand behind a lantern that has not reached the next node (R371)? -/
def State.behindLantern (s : State) (p : Pkt) : Bool :=
  match s.nodeRec p.ctx (nodeOf p.at_) with
  | none => false
  | some n =>
    let h := p.nextHop
    decide (n.clk < p.time) && decide (nodeOf h.1 ≠ nodeOf p.at_) &&
      s.chanOpen p.ctx (nodeOf h.1) (chanNo (nodeOf h.1) (nodeOf p.at_) h.2 p.channel)

/-- Does a packet's next hop cross a seam that does not let it through (R432)? -/
def State.seamHolds (s : State) (p : Pkt) : Bool :=
  let h := p.nextHop
  if 2592 ≤ p.at_ ∨ 2592 ≤ h.1 ∨ quarterOf p.at_ = quarterOf h.1 then false
  else
    let k := min (quarterOf p.at_) (quarterOf h.1)
    decide ((s.trunk.seamstat[k]?.getD 2).extractLsb' 0 2 ≠ 2) || (s.trunk.seamBusy[k]?.getD none).isSome

/-- The logging of a hop. -/
def State.logPkt (s : State) (p q : Pkt) : State :=
  if nodeOf q.at_ = nodeOf p.at_ then s else s.logOn (nodeOf q.at_) (chanNo (nodeOf q.at_) (nodeOf p.at_) q.inp p.channel) q

/-- Would a packet's next node have to log it, with no room left for it in its snapshot buffer (R373, R391)? -/
def State.noLogRoom (s : State) (p : Pkt) : Bool :=
  let h := p.nextHop
  let node := nodeOf h.1
  match s.nodeRec p.ctx node with
  | some n => decide (node ≠ 0xFFF) && decide (node ≠ nodeOf p.at_) && s.chanOpen p.ctx node (chanNo node (nodeOf p.at_) h.2 p.channel) &&
      decide (((s.grove node).snBuf.extractLsb' 40 9).toNat * 65536 < n.buf + p.logSize)
  | none => false

/-- Is a packet's channel held: it, or one that goes before it on its channel, finds no room in a log (R373)? -/
def State.bufferHolds (s : State) (p : Pkt) : Bool :=
  s.noLogRoom p || s.net.any fun q => decide (q.at_ = p.at_) && q.movable s.clk && decide (q.nextHop = p.nextHop) &&
    decide (q.channel = p.channel) && q.before p && s.noLogRoom q

/-- Is a packet the one its router output sends next (R311)? -/
def State.outputs (s : State) (p : Pkt) : Bool :=
  let may (q : Pkt) : Bool := q.movable s.clk && !s.behindLantern q && !s.seamHolds q && !s.bufferHolds q
  may p && !s.net.any fun q => decide (q.at_ = p.at_) && may q && decide (q.nextHop = p.nextHop) && q.before p

/-- A packet as it leaves the module by its port (R303, R418); its results name the member's own core. -/
def Pkt.outward (p : Pkt) : Out :=
  let m := p.dst / 4096 - 1
  match p.kind with
  | .request sl src seq cls op sz off v w first => .request m p.port sl src seq cls op sz off v w first
  | .reply sl src seq _ _ v fail => .reply m p.port src seq sl v fail
  | .collRes c j g o f x r => .packet m p.port { p with kind := .collRes (c % 16384) j g o f x r, dst := p.dst % 4096 }
  | _ => .packet m p.port { p with dst := p.dst % 4096 }

/-- A packet leaves the module. -/
def State.leaveModule (s : State) (k : Nat) (p : Pkt) : State := { s.dropPkt k with out := s.out ++ [p.outward] }

/-- The packets of a context that stand at the rim node for a module link, those that it only forwards among them, leave by it (R371). -/
def State.flushLinks (s : State) (ctx : Nat) : State :=
  let goes (p : Pkt) : Bool := decide (p.ctx = ctx) && isFar p.dst && decide (2592 ≤ p.at_)
  { s with net := s.net.filter (fun p => !goes p), out := s.out ++ (s.net.filter goes).map Pkt.outward }

/-- The code of a grove that a message from member m names, in member `own`. -/
def recode (m own x : Nat) : Nat := if isFar x then (if x / 4096 - 1 = own then x % 4096 else x) else farCode m x

/-- The code of a core that a message from member m names, in member `own`. -/
def recodeCore (m own c : Nat) : Nat := 4 * recode m own (c / 4) + c % 4

/-- A version that comes in from member m. -/
def Version.fromFar (v : Version) (m own : Nat) : Version :=
  { v with pubGrove := recode m own v.pubGrove, pins := v.pins.map fun e => (recode m own e.1, e.2) }

/-- A round's record that comes in from member m. -/
def CollRound.fromFar (r : CollRound) (m own : Nat) : CollRound :=
  { r with regs := r.regs.map fun x => (x.1, recodeCore m own x.2.1, x.2.2) }

/-- A message kind as it comes in from member m: what it names there gets the codes of `farCode`. -/
def PktKind.fromFar (m own : Nat) : PktKind → PktKind
  | .sub r => .sub { r with grove := farCode m r.grove }
  | .unsub r => .unsub { r with grove := farCode m r.grove }
  | .collPart c j h i r g o d n => .collPart (4 * farCode m 0 + c) j h i r g o d n
  | .moved l v r => .moved l (v.map fun x => x.fromFar m own) (r.map fun x => x.fromFar m own)
  | x => x

/-- A packet that has come in from member m for this member: a request stays at the rim field, where its slice takes it. -/
def Pkt.inward (p : Pkt) (m own port : Nat) : Pkt :=
  match p.kind with
  | .request _ _ _ _ _ _ _ _ _ _ => { p with src := farCode m p.src, dst := p.at_, port := port }
  | _ => { p with src := farCode m p.src, dst := p.dst % 2592, kind := p.kind.fromFar m own }

/-- A packet comes in over a module link from member m, for member `dest` (R303, R370): into the rim field of its port, or on to its
next link; the rim node logs it where it has to. While this member rolls the context back, what m sent before it did so too is
discarded (R393). The answers to this member's own requests are free values, and come by no packet (log entry 9). -/
def State.packetIn (s : State) (m dest port : Nat) (p : Pkt) : State :=
  let x := s.ctx p.ctx
  let p := { p with at_ := 2592 + portRim port, inp := 4, time := s.clk, cross := p.cross + 1 }
  let own := match p.kind with | .reply _ _ _ _ _ _ _ => decide (dest = x.member) | _ => false
  if own || ((s.rollingFrom p.ctx).isSome && !x.marks.contains m) then s
  else
    let q := if dest = x.member then p.inward m x.member port else { p with dst := farCode dest p.dst, port := portOf x dest p.routeKey }
    (s.logOn 0xFFF (linkChan + 4 * port + q.channel) q).send q

/-- A packet moves one hop, or leaves the module; a subscription joins the router it comes to (R304). -/
def State.moveOne (s : State) (k : Nat) (p : Pkt) : State :=
  let h := p.nextHop
  let p' := { p with at_ := h.1, inp := h.2, time := s.clk }
  if p.at_ = h.1 then s.leaveModule k p
  else
  let s := s.logPkt p p'
  match p.kind with
  | .sub r =>
    if 2592 ≤ h.1 ∨ isFar r.grove then { s with net := s.net.set k p' }
    else
    let j := (s.grove h.1).joinMatch r.ctx r.name r.mask (comingFrom h.2) p.via p.at_
    { s.setGrove h.1 j.1 with net := s.net.set k { p' with via := if j.2 then h.1 else p.via } }
  | _ => { s with net := s.net.set k p' }

/-- R304: a withdrawal moves to the next router, which processes it, and goes on while entries are freed; where it ends, its
registration ends. -/
def execSubWithdraw (g k : Nat) (s : State) : Host.Outcome State Fault Refusal :=
  match s.pkt k with
  | none => .next s
  | some p =>
    match p.kind with
    | .unsub r =>
      if p.at_ ≠ g then .next s
      else if p.dst = g then .next (((s.dropPkt k).traffic p.ctx).updGrove g fun gr => (gr.unregister r).sweep s.tick)
      else if s.outputs p then
        let h := p.nextHop
        let p' := { p with at_ := h.1, inp := h.2, time := s.clk }
        if p.at_ = h.1 then .next (s.leaveModule k p)
        else if 2592 ≤ h.1 ∨ isFar r.grove then .next { s.logPkt p p' with net := s.net.set k p' }
        else
          let a := (s.logPkt p p').withdrawAt h.1 p' r
          .next (if a.2.2 ∨ h.1 = p.dst then { a.1 with net := a.1.net.set k a.2.1 }
            else (a.1.dropPkt k).endReg ((s.ctx p.ctx).member * 2592 + p.dst) r)
      else .next s
    | _ => .next s

/-- The root's answer to a rim publication (R307): the fetch is over, or its agent tries again. -/
def Rim.answered (r : Rim) (ctx : Nat) (name : Name) (agent : Nat) (ok : Bool) (retry : Nat) : Rim :=
  let mine (o : RimOp) : Bool := o.fetch && decide (o.ctx = ctx) && decide (o.name = name) && decide (o.agent = agent) && !o.data.isEmpty
  if ok then { r with ops := r.ops.filter fun o => !mine o }
  else { r with ops := r.ops.map fun o => if mine o then { o with retryAt := some retry } else o }

/-- A root takes what the root of an old list held of a name, with new order numbers (R49). -/
def Grove.takeMoved (gr : Grove) (names : List NameRec) (vers : List Version) (rounds : List CollRound) : Grove :=
  let gr := names.foldl Grove.setNameRec gr
  let gr := vers.foldl (fun (gr : Grove) v =>
    { gr with versions := gr.versions ++ [{ v with order := gr.ids, owed := [] }], ids := gr.ids + 1 }) gr
  { gr with rounds := gr.rounds ++ rounds }

/-- A packet that its destination merely takes: an answer, a request to a rim agent, or what an old root held. -/
def State.takeSimple (s : State) (k : Nat) (p : Pkt) : State :=
  let s' := s.dropPkt k
  match p.kind with
  | .pubAns id ok ver =>
    if p.dst < 2592 then s'.pubAnswered p.dst id ok ver
    else s'.updRim (p.dst - 2592) fun r => r.answered p.ctx p.name id ok (s.tick + 1024)
  | .commitAns id => s'.updGrove p.dst fun gr => gr.dropPub id
  | .nameqAns _ id ans => s'.nameqAnswered p.dst id ans
  | .moved names vers rounds => s'.updGrove p.dst fun gr => gr.takeMoved names vers rounds
  | .fetch ver root => s'.updRim (p.dst - 2592) fun r => { r with ops := r.ops ++ [⟨true, p.ctx, p.name, ver, root, p.name.handle % 4, [], [], none⟩] }
  | .writeback ver root valid =>
    s'.updRim (p.dst - 2592) fun r => { r with ops := r.ops ++ [⟨false, p.ctx, p.name, ver, root, p.name.handle % 4, p.data, valid, none⟩] }
  | _ => s

/-- R303, R311: packet k moves one hop, or its destination takes it. -/
def execPacketForward (g k : Nat) (s : State) : Host.Outcome State Fault Refusal :=
  match s.pkt k with
  | none => .next s
  | some p =>
    if p.at_ ≠ g then .next s
    else
      match p.kind with
      | .unsub _ => .next s
      | _ =>
        if p.at_ = p.dst then .next (s.takeSimple k p)
        else if s.outputs p then .next (s.moveOne k p)
        else .next s

end Sys2Proof.Machine
end

