-- ==== Sys2Proof/Machine/Exchange.lean ====
section
/-!
DEFINITION. The exchange operations of a core (R289 to R298): publications, kernel subscriptions, receives, name queries and halos,
from their issue over their acceptance to their end.
-/

namespace Sys2Proof.Machine

/-! ### Issue (R289) -/

/-- Issues an exchange operation with a scoreboard entry: its job card, and the operation that goes to the router. One that
publishes waits for the acquires of scope W and K (R142). -/
def cardX (i : Sys2Proof.Instr) (s : State) (ch : BitVec 6) (a b : BitVec 7) (publishes : Bool)
    (region : List Byte → Nat → Except Trap (ShapeRec × Region)) (kind : Core → Name → ShapeRec → JobKind) :
    Host.Outcome State Fault Refusal :=
  runOp i s fun c =>
    match region (s.chanOf s.cur ch.toNat) (c.ra a.toNat).toNat with
    | .error t => .trap t
    | .ok (r, reg) =>
      let name := s.chanName s.cur ch.toNat (c.rs b.toNat)
      match c.cardWaits [reg] with
      | some x => x
      | none =>
        if publishes && c.acquireHolds 1 c.bord then .stall
        else
          let x := XOp.of s.clk c.ords i (c.rs b.toNat) 0 0 c.kwid
          .ok (s.updCore s.cur fun k =>
            (k.enterJob s.clk 3 (kind c name r) [reg]).sendX { x with job := c.ords, name := some name, recs := [r] })

/-- R291: `pub chC, aA, sB`. -/
def execPub (a b : BitVec 7) (p : BitVec 3) (ch : BitVec 6) (s : State) : Host.Outcome State Fault Refusal :=
  cardX (.pub a b p ch) s ch a b true (fun e base => chanRegion e base false)
    fun c n r => .pub ch.toNat n r none (tentative (s.taskOf s.cur) ((s.ctx c.ctxNo).image.chan ch.toNat))

/-- R293: `recv chC, aA, sB`. -/
def execRecv (a b : BitVec 7) (p : BitVec 3) (ch : BitVec 6) (s : State) : Host.Outcome State Fault Refusal :=
  cardX (.recv a b p ch) s ch a b false (fun e base => chanRegion e base true) fun _ n r => .recv ch.toNat n r false false

/-- R294: `recva[.sat] chC, aA, sB`. -/
def execRecva (a b : BitVec 7) (p : BitVec 3) (sat : Bool) (ch : BitVec 6) (s : State) : Host.Outcome State Fault Refusal :=
  cardX (.recva a b p sat ch) s ch a b false (fun e base => chanRegion e base true) fun _ n r => .recv ch.toNat n r true sat

/-- R297: `halo chC, aA, sB`. -/
def execHalo (a b : BitVec 7) (p : BitVec 3) (ch : BitVec 6) (s : State) : Host.Outcome State Fault Refusal :=
  cardX (.halo a b p ch) s ch a b true (fun e base => chanRegion e base false)
    fun c n r => .pub ch.toNat n r none (tentative (s.taskOf s.cur) ((s.ctx c.ctxNo).image.chan ch.toNat))

/-- HAXES, HSET and HPER of an entry (R286). -/
def haloAxis (e : List Byte) (k : Nat) : Bool := (chHalo e).testBit k
/-- HSET. -/
def haloSet (e : List Byte) : Nat := chHalo e / 8 % 4
/-- HPER. -/
def haloPer (e : List Byte) : Bool := (chHalo e).testBit 5

/-- Component k of the direction with face index f (R297). -/
def faceComp (f k : Nat) : Int := (f / 3 ^ k % 3 : Nat) - 1

/-- The directions of a halo channel, by face index (R297). -/
def haloDirs (e : List Byte) : List Nat :=
  (List.range 27).filter fun f =>
    decide (f ≠ 13) && (List.range 3).all (fun k => haloAxis e k || decide (faceComp f k = 0)) &&
    decide (((List.range 3).filter fun k => decide (faceComp f k ≠ 0)).length ≤ haloSet e + 1)

/-- The byte stride of an axis. -/
def axisStride (r : ShapeRec) (f : Fmt) (k : Nat) : Int :=
  match k with | 0 => ((f.width / 8 : Nat) : Int) | 1 => r.s1 | _ => r.s2

/-- The padded span of a block (R298): from index −W to Xk + W − 1 along each halo axis. -/
def paddedSpan (e : List Byte) (base : Nat) : Int × Int :=
  let r := chShape e
  let f := chFmt e
  (List.range 3).foldl (fun (p : Int × Int) k =>
    let w : Int := if haloAxis e k then chHw e else 0
    let st := axisStride r f k
    let a := -w * st
    let b := ((r.x k : Int) + w) * st
    (p.1 + min a b, p.2 + max a b)) ((base : Int), (base : Int) + (f.width / 8 : Nat) - 1)

/-- The region that `halo.r` writes, checked as R289 states. -/
def haloRegion (e : List Byte) (base : Nat) : Except Trap (ShapeRec × Region) :=
  let p := paddedSpan e base
  let f := chFmt e
  let r := chShape e
  let w := f.width / 8
  let bad (k : Nat) (st : Int) : Bool := (decide (0 < r.x k) || haloAxis e k) && decide (st % (w : Int) ≠ 0)
  match outside p.1 p.2 with
  | some a => .error (.xlate xcRange a)
  | none =>
    if 16 ≤ f.width ∧ (base % w ≠ 0 ∨ bad 1 r.s1 ∨ bad 2 r.s2) then .error (.at_ .align (BitVec.ofNat 64 base))
    else .ok ({ r with base := base }, ⟨true, p.1.toNat, (p.2 + 1 - p.1).toNat⟩)

/-- R298: `halo.r chC, aA, sB`. -/
def execHaloR (a b : BitVec 7) (p : BitVec 3) (ch : BitVec 6) (s : State) : Host.Outcome State Fault Refusal :=
  cardX (.haloR a b p ch) s ch a b false haloRegion fun _ _ r => .haloRecv ch.toNat r.base

/-- Issues an exchange operation without a region: name in `b`, mask or nothing in `vb`. -/
def nameX (i : Sys2Proof.Instr) (s : State) (ch : BitVec 6) (b : BitVec 7) (mask : Core → Word) (regs : List Reg) :
    Host.Outcome State Fault Refusal :=
  xIssue i s regs fun c =>
    .ok { XOp.of s.clk c.ords i (c.rs b.toNat) (mask c) 0 c.kwid with name := some (s.chanName s.cur ch.toNat (c.rs b.toNat)) }

/-- The coordinate mask of a register: bits [55:0] in the layout of s[B] (R292). -/
def maskOf (w : Word) : Word := w &&& 0x00FFFFFFFFFFFFFF

/-- R292: `sub chC, sB[, sM]`. -/
def execSub (d b : BitVec 7) (p : BitVec 3) (ch : BitVec 6) (s : State) : Host.Outcome State Fault Refusal :=
  nameX (.sub d b p ch) s ch b (fun c => maskOf (c.rs d.toNat)) []

/-- R292: `unsub chC, sB[, sM]`. -/
def execUnsub (d b : BitVec 7) (p : BitVec 3) (ch : BitVec 6) (s : State) : Host.Outcome State Fault Refusal :=
  nameX (.unsub d b p ch) s ch b (fun c => maskOf (c.rs d.toNat)) []

/-- R295: `peek pD, chC, sB`. -/
def execPeek (d b : BitVec 7) (p : BitVec 3) (ch : BitVec 6) (s : State) : Host.Outcome State Fault Refusal :=
  nameX (.peek d b p ch) s ch b (fun _ => 0) [pReg d]

/-- The identity of a name query: its core and order number. -/
def queryId (core ord : Nat) : Nat := core * 2 ^ 32 + ord

/-- R296: `nameq sD, chC, sB`; s[D] is interlocked and lands when the answer returns. -/
def execNameq (d b : BitVec 7) (p : BitVec 3) (ch : BitVec 6) (s : State) : Host.Outcome State Fault Refusal :=
  runOp (.nameq d b p ch) s fun c =>
    if c.waitHolds then .stall
      else
        let x := XOp.of s.clk c.ords (.nameq d b p ch) (c.rs b.toNat) 0 0 c.kwid
        let s' := s.writeLater (sReg d) 0 (.reply (queryId s.cur c.ords))
        .ok (s'.updCore s.cur fun k => k.sendX { x with name := some (s.chanName s.cur ch.toNat (c.rs b.toNat)) })

/-- R296: `nameq.n sD, chC, sB` writes the instantiated name to two registers after 6 clk. -/
def execNameqN (d b : BitVec 7) (p : BitVec 3) (ch : BitVec 6) (s : State) : Host.Outcome State Fault Refusal :=
  runOp (.nameqN d b p ch) s fun c =>
    if c.waitHolds then .stall
      else
        let n := (s.chanName s.cur ch.toNat (c.rs b.toNat)).bits
        .ok ((s.writeReg 6 (sReg d) (n / 2 ^ 32) 0).writeReg 6 ⟨.s, d.toNat + 1⟩ (n % 2 ^ 32) 0)

/-! ### Acceptance (R290 to R298) -/

/-- The job of an operation ends with nothing done: its entry is released (R291, R293). -/
def Core.endCard (c : Core) (job : Nat) : Core := (c.release job false).dropJob job

/-- A fault of an exchange operation; its entry is released. -/
def State.failCard (s : State) (core job kind : Nat) (name : Name) : State := (s.updCore core fun c => c.endCard job).xeFault core kind name

/-- `pub` at its acceptance (R291). -/
def State.acceptPubOp (s : State) (core ch : Nat) (x : XOp) : State :=
  match x.name, x.recs with
  | some n, r :: _ =>
    let c := s.core core
    let v := validExtents ((s.ctx c.ctxNo).image.tensor? n.handle) r n
    let a := s.acceptPub core x.job ch n r v false c.task x.job none
    if a.2 then a.1 else s.failCard core x.job kindNameRange n
  | _, _ => s

/-- A task's kernel subscriptions. -/
def Grove.kernelSubs (gr : Grove) (task : Nat) : List Sub :=
  gr.subs.filter fun x => match x.owner with | .kernel t => decide (t = task) | _ => false

/-- `sub` at its acceptance (R292). -/
def State.acceptSub (s : State) (core ch : Nat) (n : Name) (mask : Word) : State :=
  let c := s.core core
  let g := groveOf core
  let im := (s.ctx c.ctxNo).image
  let held := (s.grove g).kernelSubs c.task
  if outOfRange (im.tensor? n.handle) n mask false then s.xeFault core kindNameRange n
  else if held.any (fun x => decide (x.name = n) && decide (x.mask = mask)) then s
  else if 16 ≤ held.length then s.xeFault core kindSubFull n
  else s.updGrove g fun gr => gr.addSub c.ctxNo (.kernel c.task) ch n mask (chDepth (im.chan ch)) []

/-- `unsub` at its acceptance (R292). -/
def State.acceptUnsub (s : State) (core : Nat) (n : Name) (mask : Word) : State :=
  let c := s.core core
  let g := groveOf core
  match ((s.grove g).kernelSubs c.task).find? fun x => decide (x.name = n) && decide (x.mask = mask) with
  | some x => s.withdraw g x.id
  | none => s

/-- The first subscription of a task that matches a channel and name (R293): of its record, in index order, then of the kernel,
under its mask. -/
def Grove.matchSub (gr : Grove) (task ch : Nat) (n : Name) : Option Sub :=
  let rec_ (i : Nat) : Option Sub := gr.subs.find? fun x => decide (x.owner = .record task i) && decide (x.ch = ch) && decide (x.name = n)
  match (List.range 8).findSome? rec_ with
  | some x => some x
  | none => (gr.kernelSubs task).find? fun x => n.matches x.name x.mask

/-- The subscription that an operation of a core matches. -/
def State.matchFor (s : State) (core ch : Nat) (n : Name) : Option Sub := (s.grove (groveOf core)).matchSub (s.core core).task ch n

/-- `recv` and `recva` at their acceptance: without a subscription they fault (R293). -/
def State.acceptRecv (s : State) (core ch : Nat) (x : XOp) : State :=
  match x.name with
  | none => s
  | some n => if (s.matchFor core ch n).isSome then s else s.failCard core x.job kindNoSub n

/-- `peek` at its acceptance (R295). -/
def State.peekValue (s : State) (core ch : Nat) (n : Name) : Nat :=
  match s.matchFor core ch n with
  | some x => if x.landings.any Landing.whole then 0xFFFFFFFF else 0
  | none => 0

/-- `nameq` at its acceptance: the query leaves for the root (R296). -/
def State.acceptNameq (s : State) (core : Nat) (x : XOp) : State :=
  match x.name with
  | none => s
  | some n =>
    let g := groveOf core
    let ctx := (s.core core).ctxNo
    s.sendTo ctx n (.nameq core (queryId core x.ord)) g ((s.ctx ctx).rootOf n) true s.tick [] x.wid

/-! ### Halos (R297, R298) -/

/-- The first index and the extent of a face along an axis: `ghost` asks for the ghost region. -/
def faceRange (r : ShapeRec) (w : Nat) (f k : Nat) (ghost : Bool) : Int × Nat :=
  let x := r.x k + 1
  if faceComp f k = 0 then (0, x)
  else if faceComp f k < 0 then (if ghost then -(w : Int) else 0, w)
  else (if ghost then (x : Int) else (x : Int) - w, w)

/-- The record of a face or ghost region of a block; its base may lie below the block's. -/
def faceRec (e : List Byte) (base : Nat) (f : Nat) (ghost : Bool) : ShapeRec :=
  let r := chShape e
  let fm := chFmt e
  let g (k : Nat) : Int × Nat := faceRange r (chHw e) f k ghost
  let at_ := (List.range 3).foldl (fun (a : Int) k => a + (g k).1 * axisStride r fm k) (base : Int)
  { r with base := at_.toNat, x0 := (g 0).2 - 1, x1 := (g 1).2 - 1, x2 := (g 2).2 - 1 }

/-- A name with one coordinate changed. -/
def Name.setCoord (n : Name) (j v : Nat) : Name :=
  match j with
  | 0 => { n with c0 := v } | 1 => { n with c1 := v } | 2 => { n with c2 := v } | _ => { n with c3 := v }

/-- The neighbour of a block in a direction, named by its face toward the block; none when it is absent (R297). -/
def haloNeighbour (t : Option Tensor) (e : List Byte) (n : Name) (f : Nat) : Option Name :=
  match t with
  | none => none
  | some t =>
    let moved := (List.range 3).foldl (fun (b : Option Name) k =>
      match b with
      | none => none
      | some m =>
        if faceComp f k = 0 then some m
        else
          let j := t.ndim - 1 - k
          let v : Int := (m.coord j : Int) + faceComp f k
          let cnt := t.count k
          if 0 ≤ v ∧ v < cnt then some (m.setCoord j v.toNat)
          else if haloPer e then some (m.setCoord j (v % cnt).toNat)
          else none) (some n)
    moved.map fun m => { m with c3 := 26 - f }

/-- The halo set of a task for a channel. -/
def Grove.haloOf (gr : Grove) (task ch : Nat) : Option HaloSet := gr.halos.find? fun h => decide (h.task = task) && decide (h.ch = ch)

/-- Registers the halo set of a block: a subscription to each present neighbour's face (R297). -/
def State.registerHalo (s : State) (core ch : Nat) (n : Name) : State :=
  let c := s.core core
  let g := groveOf core
  let im := (s.ctx c.ctxNo).image
  let e := im.chan ch
  let r := (haloDirs e).foldl (fun (a : State × List (Nat × Nat)) f =>
    match haloNeighbour (im.tensor? n.handle) e n f with
    | none => a
    | some m =>
      let id := (a.1.grove g).ids
      (a.1.updGrove g fun gr => gr.addSub c.ctxNo (.halo c.task ch) ch m 0 (chDepth e) [], a.2 ++ [(f, id)])) (s, [])
  r.1.updGrove g fun gr => { gr with
    halos := (gr.halos.filter fun h => !(decide (h.task = c.task) && decide (h.ch = ch))) ++ [⟨c.task, ch, n.coordWord, r.2⟩] }

/-- Publishes the faces of a block (R297). -/
def State.publishFaces (s : State) (core ch : Nat) (x : XOp) (n : Name) (base : Nat) : State :=
  let c := s.core core
  let e := (s.ctx c.ctxNo).image.chan ch
  (haloDirs e).foldl (fun s f =>
    let r := faceRec e base f false
    (s.acceptPub core x.job ch { n with c3 := f } r [r.x0 + 1, r.x1 + 1, r.x2 + 1, r.x3 + 1] true c.task x.job none).1) s

/-- `halo` at its acceptance (R297). -/
def State.acceptHalo (s : State) (core ch : Nat) (x : XOp) : State :=
  match x.name, x.recs with
  | some n, r :: _ =>
    let c := s.core core
    let g := groveOf core
    let im := (s.ctx c.ctxNo).image
    if outOfRange (im.tensor? n.handle) n 0 true then s.failCard core x.job kindNameRange n
    else
      match (s.grove g).haloOf c.task ch with
      | some h =>
        if h.coord = n.coordWord then s.publishFaces core ch x n r.base
        else
          let s := s.withdrawOf g c.task fun y => match y.owner with | .halo _ k => decide (k = ch) | _ => false
          (s.registerHalo core ch n).publishFaces core ch x n r.base
      | none =>
        if 4 ≤ ((s.grove g).halos.filter fun h => decide (h.task = c.task)).length then s.failCard core x.job kindSubFull n
        else (s.registerHalo core ch n).publishFaces core ch x n r.base
  | _, _ => s

/-- `halo.r` at its acceptance: without a set it faults (R298). -/
def State.acceptHaloR (s : State) (core ch : Nat) (x : XOp) : State :=
  match x.name with
  | none => s
  | some n => if ((s.grove (groveOf core)).haloOf (s.core core).task ch).isSome then s else s.failCard core x.job kindNoSub n

/-! ### Receives (R293, R294, R298) -/

/-- FILL in a format (R293). -/
def fillBits (fill : BitVec 32) (f : Fmt) : Nat :=
  match f with
  | .raw => fill.toNat % 256
  | f =>
    let x := if f.isInt then Num.ofInt (intVal 32 true fill.toNat) else ffF32.decode fill.toNat
    (f.encode .rne true f.isInt x).1

/-- A row of `e0` elements of which the first `v0` come from payload bytes and the rest are FILL. -/
def mergeRow (f : Fmt) (e0 v0 : Nat) (row : Payload) (fill : Nat) : Payload :=
  if f.isDb ∨ e0 ≤ v0 then row
  else
    let w := f.width
    let bits := (List.range e0).foldl (fun n i =>
      n + (if i < v0 then (payloadNat row >>> (w * i)) % 2 ^ w else fill % 2 ^ w) * 2 ^ (w * i)) 0
    (List.range (f.rowBytes e0)).map fun j =>
      if 8 * j < w * v0 ∧ row.getD j (some 0) = none then none else some (BitVec.ofNat 8 (bits >>> (8 * j)))

/-- A row with no element of the payload; a DB row is quantised block by block (R113, R115). -/
def fillRow (f : Fmt) (e0 : Nat) (fill : BitVec 32) : Payload :=
  if f.isDb then
    (List.range ((e0 + 31) / 32)).flatMap fun k =>
      let n := min 32 (e0 - 32 * k)
      let xs := List.replicate n (ffF32.decode fill.toNat) ++ List.replicate (32 - n) (.zero false)
      (DbBlock.bytes f (quantise f false xs)).map fun b => some (BitVec.ofNat 8 b)
  else mergeRow f e0 0 (List.replicate (f.rowBytes e0) (some 0)) (fillBits fill f)

/-- The rows of a region in iteration order: index along dimensions 1 to 3, and address. -/
def ShapeRec.rowsOf (r : ShapeRec) : List (Nat × Nat × Nat × Nat) :=
  (List.range ((r.x1 + 1) * (r.x2 + 1) * (r.x3 + 1))).map fun k =>
    let i1 := k % (r.x1 + 1)
    let i2 := k / (r.x1 + 1) % (r.x2 + 1)
    let i3 := k / ((r.x1 + 1) * (r.x2 + 1))
    (i1, i2, i3, (r.row i1 i2 i3).toNat)

/-- What `recv` writes (R293). -/
def recvRows (r : ShapeRec) (valid : List Nat) (data : Payload) : List (Nat × Payload) :=
  let f := Fmt.ofBank r.fmt
  let len := f.rowBytes (r.x0 + 1)
  let v (k : Nat) : Nat := valid.getD k 1
  r.rowsOf.zipIdx.map fun e =>
    let i := e.1
    let row := (data.drop (e.2 * len)).take len
    let inside := decide (i.1 < v 1) && decide (i.2.1 < v 2) && decide (i.2.2.1 < v 3)
    (i.2.2.2, if inside then mergeRow f (r.x0 + 1) (v 0) row (fillBits r.fill f) else fillRow f (r.x0 + 1) r.fill)

/-- One element of `recva`: the sum of the destination and payload elements in the format (R294). -/
def addElem (f : Fmt) (sat ftz : Bool) (dst src : Nat) : Res Nat :=
  match f.int? with
  | some (n, sg) => intResult n sg sat (intVal n sg dst + intVal n sg src)
  | none =>
    let d := f.decode (if ftz then f.flush dst else dst) 0 0
    let r := Num.add d (f.decode src 0 0)
    let e := f.storeFlush ftz (f.encode .rne (sat && !r.1.isInf) false r.1)
    (e.1, r.2 ||| e.2)

/-- What `recva` writes, its flags, and whether it met poison (R294). -/
def State.recvaRows (s : State) (core : Nat) (r : ShapeRec) (kbank : Word) (sat : Bool) (valid : List Nat) (data : Payload) :
    List (Nat × Payload) × Flags × Bool × State :=
  let f := Fmt.ofBank r.fmt
  let w := f.width / 8
  let len := f.rowBytes (r.x0 + 1)
  let v (k : Nat) : Nat := valid.getD k 1
  r.rowsOf.zipIdx.foldl (fun (acc : List (Nat × Payload) × Flags × Bool × State) e =>
    let i := e.1
    if v 1 ≤ i.1 ∨ v 2 ≤ i.2.1 ∨ v 3 ≤ i.2.2.1 then acc
    else
      let n := min (v 0) (r.x0 + 1)
      let old := acc.2.2.2.readMem (spKey core i.2.2.2) (n * w)
      let row := (data.drop (e.2 * len)).take len
      (List.range n).foldl (fun (acc : List (Nat × Payload) × Flags × Bool × State) j =>
        let a : Payload := (old.1.drop (j * w)).take w
        let b : Payload := (row.drop (j * w)).take w
        let at_ := i.2.2.2 + j * w
        if a.poisoned || b.poisoned then (acc.1 ++ [(at_, List.replicate w none)], acc.2.1, true, acc.2.2.2)
        else
          let x := addElem f sat (bankFtz kbank (at_ / 0xC000)) (payloadNat a) (payloadNat b)
          (acc.1 ++ [(at_, goodBytes (natBytes w x.1))], acc.2.1 ||| x.2, acc.2.2.1, acc.2.2.2)) (acc.1, acc.2.1, acc.2.2.1, old.2))
    ([], 0, false, s)

/-- The oldest landing of a subscription: of the name that arrived first, in version order (R293; log entry 26 on several names). -/
def Sub.oldest (x : Sub) : Option Landing :=
  let first := x.landings.foldl (fun (b : Option Landing) l =>
    match b with
    | none => some l
    | some m => if l.order < m.order then some l else some m) none
  first.bind fun f => (x.landings.filter fun l => decide (l.name = f.name)).foldl (fun (b : Option Landing) l =>
    match b with
    | none => some l
    | some m => if newerVer m.ver l.ver then some l else some m) none

/-- The version a receive takes: the oldest of those whose chunks are all set (R293). -/
def Sub.ripe (x : Sub) : Option Landing := ({ x with landings := x.landings.filter Landing.whole } : Sub).oldest

/-- A receive takes a landing from its subscription: the place comes free, and for a record's subscription the reservation. -/
def Grove.takeLanding (gr : Grove) (sub order : Nat) : Grove :=
  gr.updSub sub fun x =>
    let one := x.one
    { x with landings := x.landings.filter (fun l => !decide (l.order = order)), place := if one then 0 else x.place }

/-- Has the operation of a job reached the router? -/
def Core.jobAccepted (c : Core) (job : Nat) : Bool := !c.xops.any fun o => decide (o.job = job)

/-- Does an earlier receive of the core still act on the same subscription? -/
def State.earlierRecv (s : State) (core : Nat) (j : Job) (id : Nat) : Bool :=
  (s.core core).jobs.any fun k => decide (k.ord < j.ord) &&
    (match k.kind with
     | .recv ch n _ _ _ => (match s.matchFor core ch n with | some y => decide (y.id = id) | none => false)
     | _ => false)

/-- The landings a `halo.r` takes, by face; none while one is missing (R298). -/
def State.haloRipe (s : State) (core ch : Nat) : Option (List (Nat × Nat × Landing)) :=
  let gr := s.grove (groveOf core)
  match gr.haloOf (s.core core).task ch with
  | none => some []
  | some h =>
    h.subs.foldl (fun (a : Option (List (Nat × Nat × Landing))) e =>
      match a, gr.sub? e.2 with
      | some l, some x => (match x.ripe with | some t => some (l ++ [(e.1, e.2, t)]) | none => none)
      | a, none => a
      | none, _ => none) (some [])

/-- What `halo.r` writes (R298). -/
def haloRows (e : List Byte) (base : Nat) (faces : List (Nat × Nat × Landing)) : List (Nat × Payload) :=
  (haloDirs e).flatMap fun f =>
    let r := faceRec e base f true
    let fm := chFmt e
    let len := fm.rowBytes (r.x0 + 1)
    r.rowsOf.zipIdx.map fun i =>
      (i.1.2.2.2, match faces.find? fun t => decide (t.1 = f) with
        | some t => (t.2.2.data.drop (i.2 * len)).take len
        | none => fillRow fm (r.x0 + 1) r.fill)

/-- The bytes of rows. -/
def rowsLen (l : List (Nat × Payload)) : Nat := l.foldl (fun n r => n + r.2.length) 0

/-- A receive starts: what it will write is ready, and its write takes 128 bytes per clock. It notes the landings it takes:
subscription, order, and what its tile would say of them. -/
def Core.readyRecv (c : Core) (id clk : Nat) (rows : List (Nat × Payload)) (fl : Flags) (poison : Bool)
    (taken : List (Nat × Landing)) : Core :=
  c.updJob id fun j =>
    { j with buf := rows, flags := fl, poison := if poison then some 0 else none, start := some clk,
             accept := some (clk + (rowsLen rows + 127) / 128), failed := taken.map fun t => (t.1, t.2.order, t.2.cross % 256 * 2 ^ 48 + t.2.inj % 2 ^ 32 * 65536 + t.2.ver % 65536, false) }

/-- R293, R294, R298: a receive whose version has landed takes it; when its write ends, the region holds the version, its place is
free, its entry is released, and its flags and poison are reported. -/
def execRecvDeliver (core k : Nat) (s : State) : Host.Outcome State Fault Refusal :=
  let c := s.core core
  let g := groveOf core
  match c.job? k with
  | none => .next s
  | some j =>
    match j.accept with
    | some t =>
      if s.clk < t then .next s
      else
        (match j.kind with
         | .recv _ n _ _ _ =>
           let s := (s.writeRows core j.buf).updCore core fun c => (c.raise j.flags).endCard k
           let s := s.updGrove g fun gr => j.failed.foldl (fun gr e => gr.takeLanding e.1 e.2.1) gr
           let s := s.serveAll
           .next (if j.poison.isSome then s.jobFault core (.of .poison) 3 5 (some n) 
             (let w := (j.failed.map fun e => e.2.2.1).headD 0
              xeDetail (w / 65536 % 2 ^ 32) (s.tick % 2 ^ 32) 0 (w % 65536) (w / 2 ^ 48) 0 0) else s)
         | .haloRecv _ _ =>
           let s := (s.writeRows core j.buf).updCore core fun c => c.endCard k
           .next (s.updGrove g fun gr => j.failed.foldl (fun gr e => gr.takeLanding e.1 e.2.1) gr).serveAll
         | _ => .next s)
    | none =>
      if c.jobWaits k || !c.jobAccepted k then .next s
      else
        match j.kind with
        | .recv ch n r add sat =>
          (match s.matchFor core ch n with
           | none => .next s
           | some x =>
             match x.ripe with
             | none => .next s
             | some l =>
               if s.earlierRecv core j x.id then .next s
               else if add then
                 let w := s.recvaRows core r j.kbank sat l.valid l.data
                 .next (w.2.2.2.updCore core fun c => c.readyRecv k s.clk w.1 w.2.1 w.2.2.1 [(x.id, l)])
               else .next (s.updCore core fun c => c.readyRecv k s.clk (recvRows r l.valid l.data) 0 false [(x.id, l)]))
        | .haloRecv ch base =>
          if c.jobs.any (fun i => decide (i.ord < j.ord) && (match i.kind with | .haloRecv h _ => decide (h = ch) | _ => false)) then .next s
          else
            (match s.haloRipe core ch with
             | none => .next s
             | some faces =>
               let rows := haloRows ((s.ctx c.ctxNo).image.chan ch) base faces
               .next (s.updCore core fun c => c.readyRecv k s.clk rows 0 false (faces.map fun t => (t.2.1, t.2.2))))
        | _ => .next s

end Sys2Proof.Machine
end

