-- ==== Sys2Proof/Machine/Collective.lean ====
section
/-!
DEFINITION. The collective engine (R346 to R369): channel entries of KIND 2, issue, class sets, contributions, reduction in member
order, results and completion.
-/

namespace Sys2Proof.Machine

/-- The descriptor of a contribution (R359): TYPE, OP, FMT, NMEM, COUNT, SAT, class and tail, at their places in the entry. -/
def clDesc (e : List Byte) : List Byte :=
  List.replicate 4 0 ++ (e.drop 4).take 6 ++ List.replicate 2 0 ++ (e.drop 12).take 4 ++ List.replicate 24 0 ++ (e.drop 0x28).take 24

/-- The alignment of a collective's bases (R351). -/
def clAlign (e : List Byte) : Nat :=
  match clType e with
  | 0 => clWidth e
  | 1 => clWidth e
  | 5 => min (mapEsz e) 8
  | _ => 1

/-- A part of a member's contribution: segment, offset in its source stream, length, offset in the segment. -/
structure ClPart where
  seg : Nat
  off : Nat
  len : Nat
  pos : Nat
deriving DecidableEq, Repr

/-- A run of bytes cut at multiples of 4,096. -/
def cutRun (start len : Nat) : List (Nat × Nat × Nat) :=
  ((List.range ((start % 4096 + len + 4095) / 4096)).map fun i =>
    let lo := max start (start / 4096 * 4096 + 4096 * i)
    let hi := min (start + len) (start / 4096 * 4096 + 4096 * (i + 1))
    (start / 4096 + i, lo, hi - lo))

/-- The parts of a member's contribution in the order in which they are read (R355). -/
def clParts (e : List Byte) (i : Nat) : List ClPart :=
  match clType e with
  | 2 => (cutRun (i * clCount e) (clCount e)).map fun c => ⟨c.1, c.2.1 - i * clCount e, c.2.2, c.2.1 % 4096⟩
  | 4 => [⟨0, 0, clCount e, 0⟩]
  | 5 =>
    let b := mapBytes e / clMembers e
    (List.range (clMembers e)).flatMap fun j => (cutRun 0 b).map fun c => ⟨j, j * b + c.2.1, c.2.2, c.2.1⟩
  | _ => (cutRun 0 (clSrcLen e i)).map fun c => ⟨c.1, c.2.1, c.2.2, 0⟩

/-- The segments whose roots answer a member (R355). A reduction's flags come from every segment (R353). -/
def clSegsOf (e : List Byte) (i : Nat) : List Nat :=
  match clType e with
  | 0 => List.range ((clCount e * clWidth e + 4095) / 4096)
  | 1 => List.range ((clCount e * clWidth e + 4095) / 4096)
  | 2 => List.range ((clMembers e * clCount e + 4095) / 4096)
  | 3 => List.range ((clCount e + 4095) / 4096)
  | 4 => [0]
  | _ => [i]

/-- The number of answers that complete a member's collective; for COLLECT see `collOver`. -/
def clAnswers (e : List Byte) (i : Nat) : Nat :=
  match clType e with
  | 5 => clMembers e * (cutRun 0 (mapBytes e / clMembers e)).length
  | _ => (clSegsOf e i).length

/-- Index d of element n of an array with the given extents, dimension 0 fastest. -/
def mixedIndex (ext : Nat → Nat) (n d : Nat) : Nat := n / ((List.range d).foldl (fun p k => p * ext k) 1) % ext d

/-- The source offset of byte `o` of the block stream of a layout map: block j in source order (R364). -/
def blockByte (e : List Byte) (j o : Nat) : Nat :=
  let z := mapEsz e
  let n := o / z
  let s (d : Nat) : Nat := mixedIndex (mapB e) n d + mixedIndex (mapNb e) j d * mapB e d
  z * (s 0 + mapX e 0 * (s 1 + mapX e 1 * (s 2 + mapX e 2 * s 3))) + o % z

/-- The destination offset of element n of the block of member i (R364). -/
def blockDest (e : List Byte) (i n : Nat) : Nat :=
  let g := mapGdim e
  let u (d : Nat) : Nat := mixedIndex (mapB e) n d + (if d = g then i * mapB e g else 0)
  let ext (d : Nat) : Nat := if d = g then mapB e g * clMembers e else mapB e d
  ((List.range 4).foldl (fun (a : Nat × Nat) k => (a.1 + u (mapPerm e k) * a.2, a.2 * ext (mapPerm e k))) (0, mapEsz e)).1

/-! ### Records (R353) -/

/-- What a collective has come to, kept in its job: (1, row) its row, (2, 0) NOROOM, (3, filled) all rows decided, (4, 0) LATE,
(5, kind) FAULT, with 256 times the segment whose root said so. -/
def Job.clNote (j : Job) (k : Nat) : Option Nat := (j.failed.find? fun e => decide (e.1 = k)).map fun e => e.2.1
/-- Adds a note. -/
def Job.addNote (j : Job) (k v : Nat) : Job := { j with failed := j.failed ++ [(k, v, 0, false)] }

/-- The round of a collective's job. -/
def Job.clRound (j : Job) : Nat := match j.kind with | .coll _ _ _ _ r => r | _ => 0
/-- The channel of a collective's job. -/
def Job.clChan (j : Job) : Option Nat := match j.kind with | .coll c _ _ _ _ => some c | _ => none

/-- The record of a collective in its present state (R353). -/
def Job.clRecord (j : Job) (ended : Bool) : Word :=
  let b (x : Bool) (i : Nat) : Nat := if x then 2 ^ i else 0
  let fault := (j.clNote 5).isSome
  let st := if !ended then 1 else if fault || j.poison.isSome then 3 else 2
  BitVec.ofNat 64 ((j.clNote 1).getD 0 % 4096 * 2 ^ 44 + (j.clNote 3).getD 0 % 4096 * 2 ^ 32 + j.clRound % 65536 * 2 ^ 16 +
    j.flags.toNat * 2 ^ 8 + b (j.clNote 2).isSome 7 + b j.poison.isSome 6 + b (j.clNote 4).isSome 5 + b fault 4 + st)

/-- DETAIL of the collective engine's tiles (R368). -/
def clDetail (e : List Byte) (round member ch seg : Nat) (record : Word) : List Byte :=
  natBytes 2 round ++ natBytes 2 member ++ natBytes 1 (clType e) ++ natBytes 1 ch ++ natBytes 2 seg ++ natBytes 8 record.toNat

/-! ### Issue (R350 to R352) -/

/-- The instance name of a collective (R349). -/
def State.collName (s : State) (core : Nat) (e : List Byte) (coord : Word) : Name :=
  instantiate (s.imageOf core).widths e 0x10 (s.core core).kwid coord

/-- The traps of `coll` beside ILLEGAL (R351). -/
def collTrap (e : List Byte) (i : Nat) (dst src : Nat) : Option Trap :=
  let sl := clSrcLen e i
  let dl := clDstLen e i
  let out (base len : Nat) : Option Word := if len = 0 then none else outside base (base + len - 1)
  match out src sl, out dst dl with
  | some a, _ => some (.xlate xcRange a)
  | none, some a => some (.xlate xcRange a)
  | none, none =>
    if sl ≠ 0 ∧ src % clAlign e ≠ 0 then some (.at_ .align (BitVec.ofNat 64 src))
    else if dl ≠ 0 ∧ dst % clAlign e ≠ 0 then some (.at_ .align (BitVec.ofNat 64 dst))
    else none

/-- The class of a channel: express or bulk. -/
def State.clExpress (s : State) (ctx ch : Nat) : Bool := chExpress ((s.ctx ctx).image.chan ch)

/-- The collectives of a core in a class that have not completed. -/
def State.collsOf (s : State) (core : Nat) (express : Bool) : List Job :=
  let c := s.core core
  c.jobs.filter fun j => match j.clChan with | some ch => s.clExpress c.ctxNo ch == express | none => false

/-- The regions of a collective at a member: none that it lacks; a COLLECT elsewhere than at RM holds an entry that covers nothing
(R350, R367). -/
def collRegions (e : List Byte) (i dst src : Nat) : List Region :=
  (if clSrcLen e i = 0 then [] else [⟨false, src, clSrcLen e i⟩]) ++
  (if clDstLen e i = 0 then (if clType e = 4 then [⟨true, 0, 0⟩] else []) else [⟨true, dst, clDstLen e i⟩])

/-- R350: `coll chC, aD, aS, sB`. -/
def execColl (d a b : BitVec 7) (p : BitVec 3) (ch : BitVec 6) (s : State) : Host.Outcome State Fault Refusal :=
  runOp (.coll d a b p ch) s fun c =>
    let e := s.chanOf s.cur ch.toNat
    let i := s.memberOf s.cur e
    let dst := (c.ra d.toNat).toNat
    let src := (c.ra a.toNat).toNat
    match collTrap e i dst src with
    | some t => .trap t
    | none =>
      let regions := collRegions e i dst src
      if 5 ≤ (s.collsOf s.cur (chExpress e)).length then .stall
      else
        match c.cardWaits regions with
        | some x => x
        | none =>
          let round := Tbl.getD c.rounds ch.toNat 0 % 65536
          let name := s.collName s.cur e (c.rs b.toNat)
          let x := XOp.of s.clk c.ords (.coll d a b p ch) (c.rs b.toNat) 0 0 c.kwid
          .ok (s.updCore s.cur fun k =>
            let k := (k.enterJob s.clk 3 (.coll ch.toNat name src dst round) regions).sendX { x with job := c.ords, name := some name }
            { k with rounds := Tbl.set k.rounds ch.toNat (Tbl.getD k.rounds ch.toNat 0 + 1) })

/-- R352: `colw sD, chC`. -/
def execColw (d : BitVec 7) (p : BitVec 3) (ch : BitVec 6) (s : State) : Host.Outcome State Fault Refusal :=
  runOp (.colw d p ch) s fun c =>
    if c.waitHolds then .stall
    else
      let s' := s.writeLater (sReg d) 0 (.colls ch.toNat c.ords)
      .ok (s'.updCore s.cur fun k => { k with ords := k.ords + 1 })

/-- R352: `colt sD, chC`. -/
def execColt (d : BitVec 7) (p : BitVec 3) (ch : BitVec 6) (s : State) : Host.Outcome State Fault Refusal :=
  xIssue (.colt d p ch) s [sReg d] fun c =>
    .ok (XOp.of s.clk c.ords (.colt d p ch) 0 0 0 c.kwid)

/-- The record that `colt` reads at its acceptance (R352): of the latest collective issued before it. -/
def Core.colt (c : Core) (ch ord : Nat) : Word :=
  let mine := c.jobs.filter fun j => decide (j.ord < ord) && decide (j.clChan = some ch)
  match mine.getLast? with
  | some j => j.clRecord false
  | none => Tbl.getD c.collRec ch 0

/-! ### Class sets (R360, R369) -/

/-- The key of a core's set of a class. -/
def setKey (core : Nat) (express : Bool) : Nat := core % 4 * 2 + (if express then 1 else 0)
/-- A set of a grove. -/
def Grove.collSet (gr : Grove) (core : Nat) (express : Bool) : CollSet := Tbl.getD gr.collSets (setKey core express) ⟨none, [], 0⟩
/-- Changes a set. -/
def Grove.updSet (gr : Grove) (core : Nat) (express : Bool) (f : CollSet → CollSet) : Grove :=
  { gr with collSets := Tbl.set gr.collSets (setKey core express) (f (gr.collSet core express)) }

/-- `coll` at its acceptance: it joins its class's set (R360). -/
def State.acceptColl (s : State) (core ch job : Nat) : State :=
  let x := s.clExpress (s.core core).ctxNo ch
  s.updGrove (groveOf core) fun gr => gr.updSet core x fun k => { k with queue := k.queue ++ [job] }

/-- A segment's name (R349). -/
def segName (n : Name) (seg : Nat) : Name := { n with c3 := seg % 16384 }

/-- Sends a contribution to the root of a segment, or the member's registration there (`join`). -/
def State.sendPart (s : State) (core : Nat) (j : Job) (ch : Nat) (n : Name) (e : List Byte) (i : Nat) (seg pos : Nat) (data : Payload)
    (join : Bool) : State :=
  let c := s.core core
  let m := segName n seg
  s.sendTo c.ctxNo m (.collPart core j.id ch i j.clRound seg pos (clDesc e) join) (groveOf core) ((s.ctx c.ctxNo).rootOf m) (chExpress e)
    s.tick data c.kwid

/-- R360: the head of a class's queue becomes active, and registers with the roots that will answer it (R355). -/
def execCollActivate (core : Nat) (cls : Bool) (s : State) : Host.Outcome State Fault Refusal :=
  let g := groveOf core
  let k := (s.grove g).collSet core cls
  match k.active, k.queue with
  | none, id :: rest =>
    let s := s.updGrove g fun gr => gr.updSet core cls fun k => { k with active := some id, queue := rest, segs := 0 }
    (match (s.core core).job? id with
     | none => .next s
     | some j =>
       match j.kind with
       | .coll ch n _ _ _ =>
         let e := (s.ctx (s.core core).ctxNo).image.chan ch
         let i := s.memberOf core e
         let s := s.updCore core fun c => c.updJob id fun j =>
           { j with start := some s.clk, accept := if (clParts e i).isEmpty then some s.clk else none }
         .next ((clSegsOf e i).foldl (fun s seg => s.sendPart core j ch n e i seg 0 [] true) s)
       | _ => .next s)
  | _, _ => .next s

/-! ### Units (R358, R361) -/

/-- The active collective of a class on a core. -/
def State.activeColl (s : State) (core : Nat) (cls : Bool) : Option Job :=
  match ((s.grove (groveOf core)).collSet core cls).active with
  | some id => (s.core core).job? id
  | none => none

/-- Is a message a contribution of a member to an instance's round at a root, still on its way? -/
def Pkt.isPart (p : Pkt) (n : Name) (member round root : Nat) : Bool :=
  match p.kind with
  | .collPart _ _ _ m r _ _ _ join => decide (m = member) && decide (r = round) && decide ({ p.name with c3 := 0 } = { n with c3 := 0 }) &&
      decide (p.dst = root) && !join
  | _ => false

/-- The record of a segment's round at a root. -/
def Grove.collRound (gr : Grove) (ctx : Nat) (n : Name) (round : Nat) : Option CollRound :=
  gr.rounds.find? fun r => decide (r.ctx = ctx) && decide (r.name = n) && decide (r.round = round)

/-- Does a root have a place for a member's next contribution (R358)? -/
def State.partPlace (s : State) (ctx : Nat) (n : Name) (e : List Byte) (i round seg : Nat) : Bool :=
  let m := segName n seg
  let root := (s.ctx ctx).rootOf m
  if clType e = 4 ∨ clType e = 5 ∨ !s.rootHere ctx m then true
  else
    let g := root % 2592
    let same (r : CollRound) : Bool := decide (r.ctx = ctx) && decide ({ r.name with c3 := 0 } = { n with c3 := 0 }) && decide (r.round = round)
    let early (r : CollRound) : Bool := r.result.isNone && r.early.any (fun x => decide (x.1 = i)) &&
      !((clBefore e r.name.c3 i).all fun k => r.early.any fun x => decide (x.1 = k))
    let held := ((s.grove g).rounds.filter fun r => same r && early r).length +
      (s.net.filter fun p => decide (p.ctx = ctx) && p.isPart n i round g).length
    let next := ((clBefore e seg i).all fun k => match (s.grove g).collRound ctx m round with
        | some r => r.early.any fun x => decide (x.1 = k)
        | none => false) && !(s.grove g).rounds.any fun r => same r && r.result.isNone && decide (r.doneT = 0) && decide (r.name.c3 < seg)
    decide (held < clDepth e) || next

/-- The part that a core's reader would read next for a class: its entries are clear, the reader is free, the budget and the root
admit it. -/
def State.nextPart (s : State) (core : Nat) (cls : Bool) : Option (Job × Nat × Name × ClPart) :=
  match s.activeColl core cls with
  | none => none
  | some j =>
    let c := s.core core
    match j.kind with
    | .coll ch n _ _ round =>
      let e := (s.ctx c.ctxNo).image.chan ch
      let i := s.memberOf core e
      (match (clParts e i)[j.steps]? with
       | none => none
       | some p =>
         let busy := [true, false].any fun x => match s.activeColl core x with
           | some k => (match k.start with | some t => decide (s.clk < t) | none => false)
           | none => false
         let waits := (c.entriesOf j.id).any fun x => !x.write && c.entryWaits x
         if busy ∨ waits ∨ !s.fitsWindow (groveOf core) c.ctxNo cls p.len ∨ s.heldCtx c.ctxNo ∨
             !s.partPlace c.ctxNo n e i round p.seg then none
         else some (j, ch, n, p))
    | _ => none

/-- The first number of the jobs of tasks that a rollback to snapshot n has put back and that have not started again: their results
wait at the grove (R376). -/
def parkBase (n : Nat) : Nat := 2 ^ 40 * (n + 1)

/-- May a result be written: its task is on the core, and no earlier entry conflicts with the destination (R21)? -/
def State.resultFree (s : State) (core : Nat) (p : Pkt) : Bool :=
  match p.kind with
  | .collRes _ job _ _ _ _ _ => decide (job < parkBase 0) && !(((s.core core).entriesOf job).any fun x => x.write && (s.core core).entryWaits x)
  | _ => false

/-- Is a packet a result that has come to its grove and may be written there? -/
def State.resultHere (s : State) (g : Nat) (p : Pkt) : Bool :=
  match p.kind with
  | .collRes k _ _ _ _ _ _ => decide (p.at_ = g) && decide (p.dst = g) && decide (p.time < s.clk) && s.resultFree k p
  | _ => false

/-- The order in which a unit chooses its next segment (R361): express, earlier arrival, older tick, lower source. -/
def Pkt.unitBefore (p q : Pkt) : Bool := if p.express ≠ q.express then p.express else p.sooner q

/-- The result that the layout unit of a grove takes next (R361). -/
def State.layoutNext (s : State) (g : Nat) : Option (Pkt × Nat) :=
  s.net.zipIdx.foldl (fun (b : Option (Pkt × Nat)) e =>
    if s.resultHere g e.1 then (match b with | some x => if e.1.unitBefore x.1 then some e else b | none => some e) else b) none

/-- The layout unit's next result, when it is one of a core in a class. -/
def State.nextResult (s : State) (core : Nat) (cls : Bool) : Option (Pkt × Nat) :=
  (s.layoutNext (groveOf core)).filter fun e => (e.1.express == cls) &&
    (match e.1.kind with | .collRes k _ _ _ _ _ _ => decide (k = core) | _ => false)

/-- A job's read of `len` bytes of its source stream from `off` (R355, R364). -/
def State.readPart (s : State) (core : Nat) (e : List Byte) (src : Nat) (p : ClPart) : Payload × State :=
  if clType e ≠ 5 then s.readMem (spKey core (src + p.off)) p.len
  else
    let z := mapEsz e
    (List.range (p.len / z)).foldl (fun (a : Payload × State) k =>
      let b := a.2.readMem (spKey core (src + blockByte e p.seg (p.pos + k * z))) z
      (a.1 ++ b.1, b.2)) ([], s)

/-- Counts an express segment that starts while a bulk one waits (R369). -/
def Grove.countOvertake (gr : Grove) (overtakes : Bool) : Grove :=
  { gr with clOvertake := if overtakes then (gr.clOvertake + 1) % 2 ^ 32 else gr.clOvertake }
/-- Counts a processed segment (R369). -/
def Grove.countSeg (gr : Grove) (overtakes : Bool) : Grove :=
  { gr with clSegs := (gr.clSegs + 1) % 2 ^ 32 }.countOvertake overtakes

/-- The source reader of a core reads and sends a part. -/
def State.sendNext (s : State) (core : Nat) (cls overtakes : Bool) (j : Job) (ch : Nat) (n : Name) (p : ClPart) : State :=
  let c := s.core core
  let g := groveOf core
  let e := (s.ctx c.ctxNo).image.chan ch
  let i := s.memberOf core e
  let src := match j.kind with | .coll _ _ a _ _ => a | _ => 0
  let r := s.readPart core e src p
  let ends := s.clk + (p.len + 127) / 128
  let last := decide (j.steps + 1 = (clParts e i).length)
  let s := r.2.updCore core fun c => c.updJob j.id fun j =>
    { j with steps := j.steps + 1, start := some ends, accept := if last then some ends else none }
  let s := s.updGrove g fun gr =>
    ((gr.updSet core cls fun k => { k with segs := k.segs + 1 }).countSeg overtakes).charge c.ctxNo cls p.len
  s.sendPart core j ch n e i p.seg p.pos r.1 false

/-- Marks a collective's record (R362: LATE). -/
def State.noteColl (s : State) (core job k v : Nat) : State := s.updCore core fun c => c.updJob job fun j => j.addNote k v

/-- A leg from a root to a member waits for its admission (R312, R362). -/
def State.leg (s : State) (g ctx : Nat) (name : Name) (core : Nat) (kind : PktKind) (express : Bool) (data : Payload) : State :=
  s.updGrove g fun gr => { gr with legs := gr.legs ++ [mkPkt ctx name kind g (groveOf core) express s.tick data 0 s.clk] }

/-- Raises DELIVERY_LATE for a leg of a collective whose bound has passed, and sets LATE in the record of its member (R362, R368); a member
of another module hears of it by a leg of kind 6 (log entry 27). -/
def State.legLate (s : State) (at_ : Nat) (p : Pkt) (core job ch member round seg : Nat) : State :=
  let e := (s.ctx p.ctx).image.chan ch
  if s.tick ≤ p.base + boundOf p.express p.data.length p.cross then s
  else
    let s := if isFar (groveOf core) then s.leg at_ p.ctx p.name core (.collRes core job seg 0 0 6 0) p.express []
      else s.noteColl core job 4 0
    let record := match (s.core core).job? job with | some j => j.clRecord false | none => 0
    s.faultTile at_ p.ctx ⟨kindLate, 7, 0, 0, 0, false, false, some (p.name, 0), clDetail e round member ch seg record⟩
      (if isFar (groveOf core) then none else (s.taskOf core).map fun t => ((s.core core).task, t))
      (if isFar (groveOf core) then p.wid else (s.core core).kwid)

/-- The bytes of a result that are a member's own (R355). -/
def resultPart (e : List Byte) (i seg : Nat) (data : Payload) : Payload :=
  if clType e = 1 then
    let len := clDstLen e i
    let lo := max (4096 * seg) (i * len)
    let hi := min (4096 * seg + data.length) ((i + 1) * len)
    (data.drop (lo - 4096 * seg)).take (hi - lo)
  else data

/-- Writes result bytes of a segment into a member's destination (R355, R364, R365). -/
def State.writeResult (s : State) (core : Nat) (e : List Byte) (i dst seg off row : Nat) (data : Payload) : State :=
  let ctx := (s.core core).ctxNo
  let put (s : State) (a : Nat) (b : Payload) : State := if b.isEmpty then s else (s.writeSp core a b ctx true).1
  match clType e with
  | 1 => put s (dst + (max (4096 * seg) (i * clDstLen e i) - i * clDstLen e i)) (resultPart e i seg data)
  | 4 => put s (dst + row * clCount e) data
  | 5 =>
    let z := mapEsz e
    (List.range (data.length / z)).foldl (fun s k => put s (dst + blockDest e row (off / z + k)) ((data.drop (k * z)).take z)) s
  | _ => put s (dst + 4096 * seg) data

/-- What a result says beside its bytes: 1 and 2 the faults COLLMISMATCH and COLLGONE; of a COLLECT 3 no room, 4 the contributor's row, 5 all
rows decided; 6 that a contribution was late. A segment of a REDSCAT outside the member's range brings its flags alone, and is no segment
that the member writes (R353, R355, R369). -/
def State.takeResult (s : State) (core : Nat) (p : Pkt) (k job seg off : Nat) (flags : Flags) (fault row : Nat) (overtakes cls : Bool) : State :=
  let s := (s.dropPkt k).updGrove (groveOf core) fun gr =>
    if fault = 0 ∧ !p.data.isEmpty then (gr.updSet core cls fun x => { x with segs := x.segs + 1 }).countSeg overtakes else gr
  match (s.core core).job? job with
  | none => s
  | some j =>
    match j.kind with
    | .coll ch _ _ dst round =>
      let e := (s.ctx p.ctx).image.chan ch
      let i := s.memberOf core e
      let s := s.legLate (groveOf core) p core job ch i round seg
      (match fault with
       | 1 => s.noteColl core job 5 (seg * 256 + 24)
       | 2 => s.noteColl core job 5 (seg * 256 + 25)
       | 3 => s.noteColl core job 2 0
       | 4 => s.noteColl core job 1 row
       | 5 => s.noteColl core job 3 row
       | 6 => s.noteColl core job 4 0
       | _ =>
         let piece := if clType e = 5 then row * 65536 + off / 4096 else if clType e = 4 then row else seg
         if j.doneSet.contains piece then s
         else
           let s := s.writeResult core e i dst seg off row p.data
           s.updCore core fun c => c.updJob job fun j =>
             { j with doneSet := j.doneSet ++ [piece], flags := j.flags ||| flags,
                      poison := if (resultPart e i seg p.data).poisoned then some seg else j.poison })
    | _ => s

/-- R361: a unit of the engine takes its next segment: the layout unit of the grove, else the reader of the core, an express one before
a bulk one. -/
def execCollSegmentStart (core : Nat) (cls : Bool) (s : State) : Host.Outcome State Fault Refusal :=
  match s.nextResult core cls with
  | some (p, k) =>
    let bulk := s.net.any fun q => !q.express && s.resultHere (groveOf core) q
    (match p.kind with
     | .collRes _ job seg off flags fault row => .next (s.takeResult core p k job seg off flags fault row (cls && bulk) cls)
     | _ => .next s)
  | none =>
    match s.nextPart core cls with
    | none => .next s
    | some (j, ch, n, p) =>
      let rival := (s.nextPart core (!cls)).isSome
      if !cls && rival then .next s else .next (s.sendNext core cls (cls && rival) j ch n p)

/-! ### Roots (R356 to R359, R365) -/

/-- The bits of element k of contribution bytes; none where a byte carries poison. -/
def elemAtBytes (w k : Nat) (d : Payload) : Option Nat :=
  let b : Payload := (d.drop (k * w)).take w
  if b.poisoned then none else some (payloadNat b)

/-- The reduction of one element over the members, in member order (R356). -/
def reduceElem (f : Fmt) (op : Nat) (sat : Bool) (l : List Nat) : Res Nat :=
  let w := f.width
  match op with
  | 3 => (l.foldl (fun a x => a &&& x) (2 ^ w - 1), 0)
  | 4 => (l.foldl (fun a x => a ||| x) 0, 0)
  | 5 => (l.foldl (fun a x => a ^^^ x) 0, 0)
  | _ =>
    match f.int? with
    | some (n, sg) =>
      let v := l.map (intVal n sg)
      let r := match v with
        | [] => 0
        | x :: t => t.foldl (fun a y => match op with | 0 => a + y | 1 => min a y | _ => max a y) x
      intResult n sg sat r
    | none =>
      let mid := match f with | .f64 => ffF64 | _ => ffF32
      match l.map fun x => f.decode x 0 0 with
      | [] => (0, 0)
      | x :: t =>
        let r := t.foldl (fun (a : Num × Flags) y =>
          match op with
          | 0 =>
            let z := Num.add a.1 y
            let m := mid.encode .rne (sat && !z.1.isInf) z.1
            (mid.decode m.1, a.2 ||| z.2 ||| m.2)
          | 1 => let z := Num.min a.1 y; (z.1, a.2 ||| z.2)
          | _ => let z := Num.max a.1 y; (z.1, a.2 ||| z.2)) (x, 0)
        let z := f.encode .rne (sat && !r.1.isInf) false r.1
        (z.1, r.2 ||| z.2)

/-- The result of a reduction's segment (R356, R357). -/
def reduceSeg (e : List Byte) (parts : List Payload) : Payload × Flags :=
  let w := clWidth e
  let n := (parts.headD []).length / max w 1
  (List.range n).foldl (fun (a : Payload × Flags) k =>
    match parts.mapM (elemAtBytes w k) with
    | none => (a.1 ++ List.replicate w none, a.2)
    | some l =>
      let r := reduceElem (clFmt e) (clOp e) (clSat e) l
      (a.1 ++ goodBytes (natBytes w r.1), a.2 ||| r.2)) ([], 0)

/-- The contribution of a member to a segment. -/
def CollRound.part (r : CollRound) (m : Nat) : Option (Nat × Payload) :=
  (r.early.find? fun x => decide (x.1 = m)).map fun x => (x.2.1, x.2.2)

/-- The result of a segment once every contribution it needs has come. -/
def CollRound.ready (r : CollRound) : Option (Payload × Flags) :=
  let e := r.desc
  let n := clMembers e
  match clType e with
  | 0 => ((List.range n).mapM fun m => (r.part m).map (·.2)).map (reduceSeg e)
  | 1 => ((List.range n).mapM fun m => (r.part m).map (·.2)).map (reduceSeg e)
  | 2 =>
    let lo := 4096 * r.name.c3
    let hi := min (lo + 4096) (n * clCount e)
    let need := (List.range n).filter fun m => decide (m * clCount e < hi) && decide (lo < (m + 1) * clCount e)
    (need.mapM fun m => (r.part m).map (·.2)).map fun l => (l.flatten, 0)
  | 3 => (r.part (clRoot e)).map fun p => (p.2, 0)
  | _ => none

/-- Has a root taken everything of a round? -/
def CollRound.full (r : CollRound) : Bool :=
  let e := r.desc
  match clType e with
  | 4 => decide (r.rows.length + r.refused = clMembers e)
  | 5 => decide (r.early.length = clMembers e * (cutRun 0 (mapBytes e / clMembers e)).length)
  | _ => r.result.isSome

/-- Sends a member what a root has for it. -/
def State.answerColl (s : State) (g : Nat) (r : CollRound) (core job off : Nat) (flags : Flags) (fault row : Nat) (data : Payload) : State :=
  s.leg g r.ctx r.name core (.collRes core job r.name.c3 off flags fault row) (chExpress r.desc) data

/-- Tells the contributor of a COLLECT which row it has, or that it found no room (R365). -/
def State.tellRow (s : State) (g : Nat) (r : CollRound) (m core job : Nat) : State :=
  match r.rows.zipIdx.find? fun y => decide (y.1.1 = m) with
  | some y => s.answerColl g r core job 0 0 4 y.2 []
  | none => if r.early.any fun x => decide (x.1 = m) then s.answerColl g r core job 0 0 3 0 [] else s

/-- The bytes of a segment's result that go to a member: of a REDSCAT all or none, as the segment meets its range or not (R355). -/
def resultFor (e : List Byte) (m seg : Nat) (data : Payload) : Payload := if (resultPart e m seg data).isEmpty then [] else data

/-- Everything a root holds for a member that registers, or that is registered when it comes (R355, R359, R365). -/
def State.serveMember (s : State) (g : Nat) (r : CollRound) (x : Nat × Nat × Nat × List Byte) : State :=
  let e := r.desc
  let (m, core, job, _) := x
  match clType e with
  | 4 =>
    let s := s.tellRow g r m core job
    if m = clRoot e then
      let s := r.rows.zipIdx.foldl (fun s y => s.answerColl g r core job 0 0 0 y.2 y.1.2) s
      if r.full then s.answerColl g r core job 0 0 5 r.rows.length [] else s
    else s
  | 5 => if m = r.name.c3 then r.early.foldl (fun s y => s.answerColl g r core job y.2.1 0 0 y.1 y.2.2) s else s
  | _ =>
    match r.result with
    | some v => s.answerColl g r core job 0 v.2 0 0 (resultFor e m r.name.c3 v.1)
    | none => s

/-- Changes a round's record. -/
def Grove.setRound (gr : Grove) (r : CollRound) : Grove :=
  { gr with rounds := gr.rounds.map fun q => if q.ctx = r.ctx ∧ q.name = r.name ∧ q.round = r.round then r else q }

/-- Finishes the first round of a root that can finish: it has all it needs, and no earlier round of its name is unfinished (R358). -/
def State.finishRound (s : State) (g : Nat) : State :=
  let gr := s.grove g
  match gr.rounds.find? fun r => decide (r.doneT = 0) && r.ready.isSome &&
      !gr.rounds.any fun q => decide (q.ctx = r.ctx) && decide (q.name = r.name) && decide (q.doneT = 0) && newerVer r.round q.round with
  | none => s
  | some r =>
    let r' : CollRound := { r with result := r.ready, doneT := s.tick + 1 }
    r'.regs.foldl (fun s x => s.serveMember g r' x) (s.updGrove g fun gr => (gr.setRound r').countSeg false)

/-- The member's collective ends with a fault (R359). -/
def State.failMember (s : State) (g : Nat) (p : Pkt) (core job seg kind : Nat) : State :=
  s.leg g p.ctx p.name core (.collRes core job seg 0 0 kind 0) p.express []

/-- What is sent to every registration of a member with a round. -/
def State.toRegs (s : State) (r : CollRound) (m : Nat) (f : State → Nat → Nat → State) : State :=
  (r.regs.filter fun x => decide (x.1 = m)).foldl (fun s x => f s x.2.1 x.2.2.1) s

/-- Counts a segment when its round has become full (R369). -/
def Grove.countFull (gr : Grove) (r : CollRound) : Grove := if r.full then gr.countSeg false else gr

/-- A COLLECT contribution gets the lowest free row, or finds no room (R365). -/
def State.placeRow (s : State) (g : Nat) (r : CollRound) (m core job : Nat) (data : Payload) : State :=
  let e := r.desc
  let room := decide (r.rows.length < clCap e)
  let r' : CollRound := if room then { r with rows := r.rows ++ [(m, data)], early := r.early ++ [(m, 0, [])] }
    else { r with refused := r.refused + 1, early := r.early ++ [(m, 0, [])] }
  let r' := if r'.full then { r' with doneT := s.tick + 1 } else r'
  let s := s.updGrove g fun gr => (gr.setRound r').countFull r'
  (s.tellRow g r' m core job).toRegs r' (clRoot e) fun s c j =>
    let s := if room then s.answerColl g r c j 0 0 0 r.rows.length data else s
    if r'.full then s.answerColl g r c j 0 0 5 r'.rows.length [] else s

/-- A contribution is added to its round; one that the root has taken before is not added again (R355, R358, R359). -/
def State.addPart (s : State) (g : Nat) (r : CollRound) (m core job pos : Nat) (data : Payload) : State :=
  let e := r.desc
  if r.early.any (fun x => decide (x.1 = m) && decide (x.2.1 = pos)) then
    (if clType e = 4 then s.tellRow g r m core job else s)
  else
    match clType e with
    | 4 => s.placeRow g r m core job data
    | 5 =>
      let r' := { r with early := r.early ++ [(m, pos, data)] }
      let r' := if r'.full then { r' with doneT := s.tick + 1 } else r'
      let s := s.updGrove g fun gr => (gr.setRound r').countFull r'
      s.toRegs r' r.name.c3 fun s c j => s.answerColl g r c j pos 0 0 m data
    | _ =>
      let s := s.updGrove g fun gr => gr.setRound { r with early := r.early ++ [(m, pos, data)] }
      (List.range (s.grove g).rounds.length).foldl (fun s _ => s.finishRound g) s

/-- Has a root already let the result of this round, or of a later one, go (R359)? -/
def Grove.roundGone (gr : Grove) (ctx : Nat) (n : Name) (round : Nat) : Bool :=
  gr.rounds.any fun r => decide (r.ctx = ctx) && decide (r.name = n) && r.regs.isEmpty && decide (r.doneT ≠ 0) && r.early.isEmpty &&
    !newerVer round r.round

/-- The first contribution fixes a round's descriptor (R359): registrations with another one end with a mismatch. -/
def State.fixDesc (s : State) (g : Nat) (p : Pkt) (r : CollRound) (seg : Nat) (desc : List Byte) : State × CollRound :=
  let r' := { r with desc := desc, regs := r.regs.filter fun x => decide (x.2.2.2 = desc) }
  let s := (r.regs.filter fun x => decide (x.2.2.2 ≠ desc)).foldl (fun s x => s.failMember g p x.2.1 x.2.2.1 seg 1) s
  (s.updGrove g fun gr => gr.setRound r', r')

/-- Does a bulk contribution wait at a root (R369)? -/
def State.bulkWaits (s : State) (g : Nat) : Bool :=
  s.net.any fun q => !q.express && decide (q.at_ = g) && decide (q.dst = g) &&
    (match q.kind with | .collPart _ _ _ _ _ _ _ _ join => !join | _ => false)

/-- The units that a contribution needs at its root (R358, R365; log entry 61): what the round's own place needs, where it opens the round;
beyond that a reduction's or a moved segment's contribution in its turn takes that place, and one before its turn needs a place of its own
and leaves one free. A row or block needs none where it is forwarded at once or finds no row. -/
def CollRound.partUnits (r : CollRound) (desc : List Byte) (m len : Nat) : Nat :=
  let open_ : CollRound := { r with desc := desc }
  match clType desc with
  | 4 => if r.hasReg (clRoot desc) || decide (clCap desc ≤ r.rows.length) then 0 else Machine.units len
  | 5 => if r.hasReg r.name.c3 then 0 else Machine.units len
  | _ => (open_.units - r.units) + (if open_.turn m then 0 else Machine.units len + 64)

/-- R356 to R359, R365: a root takes a member's contribution or registration. -/
def State.takePart (s : State) (g k : Nat) (p : Pkt) (core job ch m round seg pos : Nat) (desc : List Byte) (join : Bool) : State :=
  let gr := s.grove g
  let s1 := s.dropPkt k
  if gr.roundGone p.ctx p.name round then s1.failMember g p core job seg 2
  else
    let r := (gr.collRound p.ctx p.name round).getD ⟨p.ctx, p.name, round, [], [], [], [], none, 0, 0, s.tick⟩
    match gr.makeRoom s.tick (if join then 0 else r.partUnits desc m p.data.length) (gr.versions.length + 1) with
    | none =>
      { s with net := s.net.set k { p with inj := s.tick + 1024, base := s.tick + 1024 } }.updGrove g fun gr => { gr with glRefused := min (gr.glRefused + 1) 65535 }
    | some gr' =>
      let s1 := s1.setGrove g (if join || !r.early.isEmpty then gr' else gr'.countOvertake (p.express && s.bulkWaits g))
      let s1 := if join then s1 else s1.legLate g p core job ch m round seg
      let s1 := if (gr'.collRound p.ctx p.name round).isSome then s1 else s1.updGrove g fun gr => { gr with rounds := gr.rounds ++ [r] }
      let x := (m, core, job, desc)
      if r.desc ≠ [] ∧ r.desc ≠ desc then s1.failMember g p core job seg 1
      else if join then
        let r' := { r with regs := (r.regs.filter fun y => !decide (y = x)) ++ [x], regT := s.tick }
        (s1.updGrove g fun gr => gr.setRound r').serveMember g r' x
      else
        let a := if r.desc = [] then s1.fixDesc g p r seg desc else (s1, r)
        a.1.addPart g a.2 m core job pos p.data

/-- May a collective's message at its root be taken: it is the one that the unit chooses of those that have come (R361)? -/
def State.partFirst (s : State) (g : Nat) (p : Pkt) : Bool :=
  let here (q : Pkt) : Bool := match q.kind with
    | .collPart _ _ _ _ _ _ _ _ _ => decide (q.at_ = g) && decide (q.dst = g) && decide (q.time < s.clk) && decide (q.inj ≤ s.tick)
    | _ => false
  here p && !s.net.any fun q => here q && q.unitBefore p

/-- R356: the root takes the contribution that is next in its processing order. -/
def execCollContribution (g k : Nat) (s : State) : Host.Outcome State Fault Refusal :=
  match s.pkt k with
  | none => .next s
  | some p =>
    match p.kind with
    | .collPart core job ch m round seg pos desc join =>
      if s.partFirst g p then .next (s.takePart g k p core job ch m round seg pos desc join) else .next s
    | _ => .next s

/-- May a root let the result of a round go: every member has registered, and its retention time has passed since (R355)? -/
def Grove.roundExpired (gr : Grove) (r : CollRound) (tick : Nat) : Bool :=
  let need := if clType r.desc = 5 then [r.name.c3] else List.range (clMembers r.desc)
  decide (r.doneT ≠ 0) && need.all r.hasReg && decide (max r.doneT r.regT + gr.retention r.ctx (chExpress r.desc) ≤ tick)

/-- The result of a round goes; a mark that it has been is kept. -/
def Grove.dropRound (gr : Grove) (r : CollRound) : Grove :=
  let gone (q : CollRound) : Bool := decide (q.ctx = r.ctx) && decide (q.name = r.name) && q.regs.isEmpty && q.early.isEmpty && decide (q.doneT ≠ 0)
  { gr with
    rounds := (gr.rounds.filter fun q => !gone q).map fun q =>
      if q.ctx = r.ctx ∧ q.name = r.name ∧ q.round = r.round then { q with early := [], regs := [], rows := [], result := none } else q }

/-- R306, R355: version k of a root has no pin left and is dropped where it is dropped at once; past the versions, k counts the
rounds of collectives whose retention has ended. -/
def execRetentionExpire (g k : Nat) (s : State) : Host.Outcome State Fault Refusal :=
  let gr := s.grove g
  match gr.versions[k]? with
  | some v => if gr.dropsNow v s.tick then .next (s.updGrove g fun gr => gr.dropVersion v) else .next s
  | none =>
    match gr.rounds[k - gr.versions.length]? with
    | some r => if gr.roundExpired r s.tick then .next (s.updGrove g fun gr => gr.dropRound r) else .next s
    | none => .next s

/-! ### Completion (R354) -/

/-- Has a member everything its collective waits for? -/
def Job.collOver (j : Job) (e : List Byte) (i clk : Nat) : Bool :=
  (j.clNote 5).isSome ||
  ((match j.accept with | some t => decide (t ≤ clk) | none => false) &&
    (if clType e = 4 then
      ((j.clNote 1).isSome || (j.clNote 2).isSome) &&
      (decide (i ≠ clRoot e) || (match j.clNote 3 with | some n => decide (n ≤ j.doneSet.length) | none => false))
    else decide (clAnswers e i ≤ j.doneSet.length)))

/-- R354: a collective completes at its member: its record is final, its entries are released, its event is made, and a fault or
poison is reported. -/
def execCollComplete (core k : Nat) (s : State) : Host.Outcome State Fault Refusal :=
  let c := s.core core
  match c.job? k with
  | none => .next s
  | some j =>
    match j.kind with
    | .coll ch n _ _ round =>
      let e := (s.ctx c.ctxNo).image.chan ch
      let i := s.memberOf core e
      let g := groveOf core
      let cls := chExpress e
      if ((s.grove g).collSet core cls).active ≠ some k ∨ !j.collOver e i s.clk then .next s
      else
        let record := j.clRecord true
        let s := s.updCore core fun c =>
          let c := c.endCard k
          { c with collRec := Tbl.set c.collRec ch record }
        let s := s.updGrove g fun gr => (gr.updSet core cls fun x => { x with active := none }).collEvent j.owner ch
        let detail (seg : Nat) : List Byte := clDetail e round i ch seg record
        .next (match j.clNote 5, j.poison with
          | some v, _ => s.jobFaultKind core (v % 256) 3 7 0 (some (segName n (v / 256))) (detail (v / 256))
          | none, some seg => s.jobFaultKind core 4 3 7 0 (some (segName n seg)) (detail seg)
          | none, none => s)
    | _ => .next s

/-- A CL_SET word (R369). -/
def State.collSetWord (s : State) (core : Nat) (cls : Bool) : Word :=
  let k := (s.grove (groveOf core)).collSet core cls
  let j := s.activeColl core cls
  BitVec.ofNat 64 ((if k.active.isSome then 2 ^ 63 else 0) +
    (match j with | some j => (j.clChan.getD 0) % 64 * 2 ^ 56 + j.clRound % 65536 * 2 ^ 40 | none => 0) +
    k.queue.length % 8 * 2 ^ 32 + k.segs % 2 ^ 32)

end Sys2Proof.Machine
end

