-- ==== Sys2Proof/Machine/Regs.lean ====
section
/-!
DEFINITION. The management registers as `mrd` reads them (R155, R428, R429): the blocks of the groves (R183, R197, R286, R309,
R319, R344, R369, R391), of the rim fields (R411), of the partitions (R48, R390, R436) and of the module.
-/

namespace Sys2Proof.Machine

/-! ### Grove blocks -/

/-- Word k of a barrier (R183). -/
def Barrier.word (b : Barrier) (k : Nat) : Nat :=
  let f (x : Bool) (i : Nat) : Nat := if x then 2 ^ i else 0
  match k with
  | 0 => b.count % 4096 + b.arrived % 4096 * 2 ^ 12 + b.cdmask % 16 * 2 ^ 24 + f b.cgang 28 + b.level % 8 * 2 ^ 29 + f b.lvl 32 +
      b.nlevel % 8 * 2 ^ 33 + f b.nlvl 36 + f b.npend 37 + b.ncount % 4096 * 2 ^ 38
  | 1 => b.key.toNat
  | 2 => b.nkey.toNat
  | _ => b.pdmask % 16 + f b.pgang 4 + b.phase.toNat * 2 ^ 16

/-- The task engine's registers (R197). -/
def State.teReg (s : State) (g off : Nat) : Option Nat :=
  let gr := s.grove g
  if off < 0x8000 then some (s.recordWord g (off / 0x80) (off % 0x80 / 8))
  else if off = 0x8000 then some gr.teSave.toNat
  else if off = 0x8008 then some gr.teMigstat.toNat
  else if 0x9000 ≤ off ∧ off < 0xB000 then
    let o := off - 0x9000
    some ((gr.barrier (s.trunk.partOf (quarterOf g) * 16 + o / 0x200) (o % 0x200 / 0x20)).word (o % 0x20 / 8))
  else none

/-- Units of the resident versions of a gallery that are pinned (R306, R309). -/
def Grove.pinnedUnits (gr : Grove) (tick : Nat) : Nat :=
  gr.versions.foldl (fun n v => if v.ver.isSome && v.vote.isEmpty && !gr.unpinned v tick then n + v.units else n) 0

/-- The context whose channel table a core of a grove shows (R92, R286): that of its last task while it exists, else the lowest one of
the partition (log entry 62). -/
def State.tableCtx (s : State) (core : Nat) : Nat :=
  let k := (s.core core).ctxNo
  let p := s.trunk.partOf (quarterOf (groveOf core))
  let there (n : Nat) : Bool := decide ((s.ctx n).state ≠ .free)
  if partOfCtx k = p ∧ there k then k else (((List.range 16).map (16 * p + ·)).find? there).getD k

/-- The exchange engine's registers (R286, R309, R312, R319). -/
def State.xeReg (s : State) (g off : Nat) : Option Nat :=
  let gr := s.grove g
  if off < 0x4000 then
    some (fieldOfBytes ((s.ctx (s.tableCtx (4 * g + off / 0x1000))).image.chan (off % 0x1000 / 0x40)) (off % 0x40) 8)
  else if off < 0x4080 then some (Tbl.getD gr.xeAdmit ((off - 0x4000) / 8) 0x0010000001000000).toNat
  else if off < 0x4100 then some (Tbl.getD gr.glRetain ((off - 0x4080) / 8) 0x0001000000010000).toNat
  else if off = 0x4100 then
    some (gr.usedUnits % 65536 + gr.pinnedUnits s.tick % 65536 * 2 ^ 16 + gr.names.length % 65536 * 2 ^ 32 + gr.glRefused % 65536 * 2 ^ 48)
  else none

/-- The collective engine's registers (R369). -/
def State.clReg (s : State) (g off : Nat) : Option Nat :=
  if off < 0x40 then some (s.collSetWord (4 * g + off / 16) (decide (off % 16 = 8))).toNat
  else if off = 0x40 then some ((s.grove g).clSegs + (s.grove g).clOvertake * 2 ^ 32)
  else none

/-- The trigger engine's registers (R344). -/
def State.geReg (s : State) (g off : Nat) : Option Nat :=
  let gr := s.grove g
  if off < 0x400 then some (gr.counter (off / 8)).word.toNat
  else if off < 0xC00 then
    let c := gr.counter ((off - 0x400) / 16)
    some (if off % 16 = 0 then c.src.toNat else c.range.toNat)
  else if 0x10000 ≤ off ∧ off < 0x30000 then
    some (fieldOfBytes (gr.slot ((off - 0x10000) / 256)).image (off % 256) 8)
  else if 0x30000 ≤ off ∧ off < 0x31000 then some (gr.slot ((off - 0x30000) / 8)).status.toNat
  else if 0x31000 ≤ off ∧ off < 0x31080 then some (Tbl.getD gr.geGrant ((off - 0x31000) / 8) 0).toNat
  else none

/-- The registers of a ready grove (R428). -/
def State.groveReg (s : State) (g off : Nat) : Option Nat :=
  if !s.groveReady g then none
  else
    match off / 0x10000 with
    | 0 => s.teReg g off
    | 1 => s.xeReg g (off - 0x10000)
    | 2 => s.clReg g (off - 0x20000)
    | 3 => if off = 0x30000 then some (s.grove g).snBuf.toNat else none
    | _ => s.geReg g (off - 0x40000)

/-! ### Rim fields (R411) -/

/-- RA_ECCSTAT of a stack. -/
def Stack.eccWord (k : Stack) : Nat := k.passes % 65536 + k.uncorr % 65536 * 2 ^ 16 + k.corr % 2 ^ 32 * 2 ^ 32
/-- RA_DUPSTAT of a slice. -/
def Slice.dupWord (x : Slice) : Nat := x.dups.length % 8192 + x.dupHits % 65536 * 2 ^ 32 + x.dupRefused % 65536 * 2 ^ 48

/-- The registers of a ready rim field (R411). -/
def State.rimReg (s : State) (k off : Nat) : Option Nat :=
  if !s.rimReady k then none
  else if off < 0x40 then some (s.sliceOf (8 * k + off / 8)).split
  else if 0x400 ≤ off ∧ off < 0x800 then some (Tbl.getD (s.rim k).slwin ((off - 0x400) / 8) 0).toNat
  else if 0x800 ≤ off ∧ off < 0x810 then some (s.stack (2 * k + (off - 0x800) / 8)).scrub.toNat
  else if 0x810 ≤ off ∧ off < 0x820 then some (s.stack (2 * k + (off - 0x810) / 8)).eccWord
  else if 0x820 ≤ off ∧ off < 0x860 then some (s.sliceOf (8 * k + (off - 0x820) / 8)).dupWord
  else none

/-! ### Partitions and the module (R428, R429) -/

/-- CTXMASK of a partition: the contexts that exist. -/
def State.ctxMask (s : State) (p : Nat) : Nat :=
  (List.range 16).foldl (fun n i => if (s.ctx (16 * p + i)).state ≠ .free then n + 2 ^ i else n) 0

/-- The registers of a partition. -/
def State.partReg (s : State) (p off : Nat) : Option Nat :=
  let x (o : Nat) : Context := s.ctx (16 * p + (off - o) / 8)
  if off < 0x80 then some (x 0).snArea.toNat
  else if 0x100 ≤ off ∧ off < 0x180 then some (x 0x100).snStat.toNat
  else if 0x200 ≤ off ∧ off < 0x280 then some (x 0x200).seed.toNat
  else if 0x280 ≤ off ∧ off < 0x300 then some (if (x 0x280).flushDone then 2 else 0)
  else if 0x400 ≤ off ∧ off < 0xC00 then
    some ((s.ctx (16 * p + (off - 0x400) / 0x80)).rootovr[(off - 0x400) % 0x80 / 8]?.getD 0).toNat
  else if off = 0xC00 then some (s.trunk.gov[p]?.getD 0).toNat
  else none

/-- The registers of the module block (R429). -/
def State.moduleReg (s : State) (off : Nat) : Option Nat :=
  let t := s.trunk
  match off with
  | 0x00 => some Config.moduleId.toNat
  | 0x08 => some t.fw
  | 0x10 => some t.partmap.toNat
  | 0x18 => some (s.ctxMask 0 + s.ctxMask 1 * 2 ^ 16 + s.ctxMask 2 * 2 ^ 32 + s.ctxMask 3 * 2 ^ 48)
  | 0x20 => some (t.seamctl[0]).toNat
  | 0x28 => some (t.seamctl[1]).toNat
  | 0x30 => some (t.seamctl[2]).toNat
  | 0x40 => some (t.seamstat[0]).toNat
  | 0x48 => some (t.seamstat[1]).toNat
  | 0x50 => some (t.seamstat[2]).toNat
  | 0x60 => some (t.ilv[0]).toNat
  | 0x68 => some (t.ilv[1]).toNat
  | 0x70 => some (t.ilv[2]).toNat
  | 0x78 => some (t.ilv[3]).toNat
  | 0x80 => some t.shoot.toNat
  | 0x88 => some t.pwrcap.toNat
  | 0x90 => some t.therm.toNat
  | _ => none

/-- What `mrd` reads at an address of the management space; none where it names no register (R155, R428). -/
def State.mgmtRead (s : State) (a : Nat) : Option Nat :=
  if a % 8 ≠ 0 then none
  else if a < 0x100000 then s.moduleReg a
  else if a < 0x140000 then s.partReg ((a - 0x100000) / 0x10000) (a % 0x10000)
  else if a < 0x10000000 then none
  else if a < 0x100C0000 then (if 0x10000000 ≤ a then s.rimReg ((a - 0x10000000) / 0x10000) (a % 0x10000) else none)
  else if a < 0x100000000 then none
  else if a < 0x100000000 + 2592 * 0x100000 then s.groveReg ((a - 0x100000000) / 0x100000) (a % 0x100000)
  else none

end Sys2Proof.Machine
end

