-- ==== Sys2Proof/Machine/Snapshot.lean ====
section
/-!
DEFINITION. The capture of snapshots (R370 to R384, R389 to R392, R395): starting one, the records of the rim node and of the
groves, lanterns and logs, background write-out, and abandonment.
-/

namespace Sys2Proof.Machine

/-! ### Instructions (R389, R392) -/

/-- R389: `snap sA`. -/
def execSnap (a : BitVec 7) (p : BitVec 3) (s : State) : Host.Outcome State Fault Refusal :=
  xIssue (.snap a p) s [] fun c => .ok (XOp.of s.clk c.ords (.snap a p) (c.rs a.toNat) 0 0 c.kwid)

/-- R392: `snrd sD`. -/
def execSnrd (d : BitVec 7) (p : BitVec 3) (s : State) : Host.Outcome State Fault Refusal :=
  xIssue (.snrd d p) s [sReg d] fun c => .ok (XOp.of s.clk c.ords (.snrd d p) 0 0 0 c.kwid)

/-- R392: `snrd.rb sD`. -/
def execSnrdRb (d : BitVec 7) (p : BitVec 3) (s : State) : Host.Outcome State Fault Refusal :=
  xIssue (.snrdRb d p) s [sReg d] fun c => .ok (XOp.of s.clk c.ords (.snrdRb d p) 0 0 0 c.kwid)

/-! ### SN_STAT (R390) -/

/-- LAST of SN_STAT. -/
def snLast (w : Word) : Nat := (w.extractLsb' 32 32).toNat
/-- ROLLS of SN_STAT. -/
def snRolls (w : Word) : Nat := (w.extractLsb' 16 16).toNat
/-- CODE of SN_STAT. -/
def snCode (w : Word) : Nat := (w.extractLsb' 8 4).toNat
/-- INPROG of SN_STAT. -/
def snInprog (w : Word) : Bool := w.getLsbD 0
/-- SN_STAT from its fields. -/
def snWord (last rolls code : Nat) (inprog : Bool) : Word :=
  BitVec.ofNat 64 (last % 2 ^ 32 * 2 ^ 32 + rolls % 65536 * 2 ^ 16 + code % 16 * 2 ^ 8 + (if inprog then 1 else 0))

/-- Sets CODE and INPROG of a context. -/
def State.setSn (s : State) (ctx code : Nat) (inprog : Bool) : State :=
  s.updCtx ctx fun c => { c with snStat := snWord (snLast c.snStat) (snRolls c.snStat) code inprog }

/-- What `snrd.rb` reads (R392). -/
def Context.rbWord (c : Context) : Nat := c.lastRb % 2 ^ 32 * 2 ^ 32 + snRolls c.snStat

/-- The first virtual address of a context's snapshot area (R390). -/
def Context.areaBase (c : Context) : Nat := (c.snArea.extractLsb' 21 27).toNat * 2 ^ 21
/-- The end of the snapshot area (R390). -/
def Context.areaEnd (c : Context) : Nat := c.areaBase + (c.snArea.extractLsb' 48 15).toNat * 2 ^ 21

/-! ### The leaves and units of a context (R380, R381) -/

/-- The indices of a table's entries that hold anything. -/
def tableIndices (m : List Host.Cell) (table n : Nat) : List Nat := ((Memory.slice m table (8 * n)).map fun c => c.1 / 8).eraseDups

/-- The leaf entries below a table (R39, R41): entry address, entry, virtual address, page bits. `fuel` counts the levels left. -/
def leavesFrom (s : State) (p : Nat) : Nat → Nat → Nat → Nat → List (Nat × Word × Nat × Nat)
  | 0, _, _, _ => []
  | fuel + 1, lvl, table, va =>
    let step := match lvl with | 0 => 39 | 1 => 30 | 2 => 21 | _ => 16
    (tableIndices s.mem table (if lvl = 3 then 32 else 512)).flatMap fun i =>
      match readEntry s.mem (table + 8 * i) with
      | none => []
      | some e =>
        let addr := (e.extractLsb' 8 44).toNat * 256
        let at_ := va + i * 2 ^ step
        if !e.getLsbD 0 || !s.physOk p addr then []
        else if lvl = 3 || (decide (lvl = 2) && e.getLsbD 1) then [(table + 8 * i, e, at_, step)]
        else leavesFrom s p fuel (lvl + 1) addr at_

/-- Every leaf entry of a context. -/
def State.leaves (s : State) (ctx : Nat) : List (Nat × Word × Nat × Nat) :=
  leavesFrom s (partOfCtx ctx) 4 0 (s.ctx ctx).ptroot.toNat 0

/-- SNAP of a leaf entry. -/
def leafSnap (e : Word) : Nat := (e.extractLsb' 6 2).toNat

/-- Rewrites SNAP of a leaf entry. -/
def State.setLeafSnap (s : State) (key v : Nat) : State :=
  match readEntry s.mem key with
  | none => s
  | some e => { s with mem := storeWord s.mem key ((e &&& ~~~(0xC0 : Word)) ||| BitVec.ofNat 64 (v % 4 * 64)).toNat }

/-- The save frames that records of a context hold: grove, record and frame. -/
def State.framesOf (s : State) (ctx : Nat) : List (Nat × Nat × Nat) :=
  s.groves.flatMap fun e => e.2.tasks.filterMap fun t =>
    if t.2.ctx = ctx then t.2.frame.map fun f => (e.1, t.1, f) else none

/-- The window units of a context, by slice · 2^11 + unit: its windows, and the units of its save frames (R381). -/
def State.unitsOf (s : State) (ctx : Nat) : List Nat :=
  let wins := (List.range 96).flatMap fun i =>
    let w := s.windowOf ctx i
    (List.range ((w.2 - w.1) / 65536)).map fun k => i * 2 ^ 11 + w.1 / 65536 + k
  let frames := (s.framesOf ctx).flatMap fun e =>
    let key := s.frameAddr e.1 e.2.2 - 2 ^ 44
    let lo := key % 2 ^ 27 / 65536
    let hi := (key % 2 ^ 27 + 0x6C000 - 1) / 65536
    (List.range (hi + 1 - lo)).map fun k => key / 2 ^ 27 * 2 ^ 11 + lo + k
  (wins ++ frames).eraseDups

/-- Invalidates every cached translation of a context (R44). -/
def State.shootCtx (s : State) (ctx : Nat) : State :=
  { s with
    groves := s.groves.map fun e => (e.1, { e.2 with tlb := e.2.tlb.filter fun t => !decide (t.ctx = ctx) }),
    fieldTlb := s.fieldTlb.map fun e => (e.1, e.2.filter fun t => !decide (t.ctx = ctx)) }

/-! ### Records (R374 to R381) -/

/-- The running snapshot of a context changes. -/
def State.updSnap (s : State) (ctx : Nat) (f : Snap → Snap) : State :=
  { s with snaps := s.snaps.map fun sn => if sn.ctx = ctx ∧ sn.done.isNone then f sn else sn }

/-- The packets of a context that have come to a node and wait there for its engines: the state of its local channels. They
count as having come before the record. -/
def State.waitingAt (s : State) (ctx node : Nat) : List Pkt :=
  s.net.filter fun q => decide (q.ctx = ctx) && decide (nodeOf q.at_ = node) && decide (q.at_ = q.dst)

/-- The module-link ports of a context's gang: those that are ready and lead to another member (R370). -/
def State.linkPorts (s : State) (ctx : Nat) : List Nat :=
  let c := s.ctx ctx
  (List.range 32).filter fun p => s.ready.ports.getLsbD p && (match Tbl.get? s.ready.peers p with
    | some id => c.modules.zipIdx.any fun m => decide (m.2 ≠ c.member) && decide (m.1.toNat = id)
    | none => false)

/-- The other members of a context's gang. -/
def State.otherMembers (s : State) (ctx : Nat) : List Nat :=
  let c := s.ctx ctx
  (List.range c.nmem).filter fun m => decide (m ≠ c.member)

/-- The rim node sends a lantern on every channel of its module links, behind what stands on them (R371, R372). -/
def State.sendLanterns (s : State) (ctx id : Nat) (full : Bool) : State :=
  let s := s.flushLinks ctx
  { s with out := s.out ++ (s.linkPorts ctx).flatMap fun p => (List.range 4).map fun vc => .lantern p ctx id vc full }

/-- Packets at a node stand before its lanterns (R371). -/
def State.beforeLantern (s : State) (ctx node : Nat) : State :=
  { s with net := s.net.map fun q =>
      if q.ctx = ctx ∧ nodeOf q.at_ = node ∧ s.clk ≤ q.time then { q with time := s.clk - 1 } else q }

/-- A node's record as it begins. -/
def SnapNode.start (s : State) (ctx node : Nat) (grove : Grove) : SnapNode :=
  { node := node, tick := s.tick, clk := s.clk - 1, grove := grove, cores := [], started := [], loose := [], fetches := [], pending := [], chunks := [],
    pages := [], logs := (s.waitingAt ctx node).map fun q => (4, q.channel, q), closed := [], reported := false, buf := 0 }

/-- R380, R381: the rim node records: DIRTY leaves and units become ARMED, with FULL every writable one does; pages of the snapshot area
itself are left out (log entry 33); the cache is written back and translations shot down; then its lanterns leave. -/
def State.recordRim (s : State) (ctx id : Nat) (full : Bool) : State :=
  let arm (st : Nat) (w : Bool) : Bool := decide (st = 3) || (full && w)
  let n := { SnapNode.start s ctx 0xFFF .reset with
    fetches := s.rims.flatMap fun (e : Nat × Rim) => (e.2.ops.filter fun o => decide (o.ctx = ctx)).map fun o => (e.1, o) }
  let x := s.ctx ctx
  let own (va : Nat) : Bool := decide (x.areaBase ≤ va) && decide (va < x.areaEnd)
  let s : State := (s.leaves ctx).foldl (fun s e =>
    if arm (leafSnap e.2.1) (e.2.1.getLsbD 2) && !own e.2.2.1 then s.setLeafSnap e.1 1 else s) s
  let s : State := (s.unitsOf ctx).foldl (fun s u => if arm (Tbl.getD s.wins u 0) true then { s with wins := Tbl.set s.wins u 1 } else s) s
  let s := { s with cache := s.cache.map fun (l : CacheLine) => if l.ctx = ctx then { l with dirty := 0 } else l }
  (((s.shootCtx ctx).beforeLantern ctx 0xFFF).updSnap ctx fun sn => { sn with nodes := sn.nodes ++ [n] }).sendLanterns ctx id full

/-- A snapshot begins in this member (R389). -/
def State.openNew (s : State) (ctx id : Nat) (full : Bool) : State :=
  let sn : Snap := { ctx := ctx, id := id, full := full, prev := if full then 0 else snLast (s.ctx ctx).snStat, va := 0, size := 0,
                     start := s.tick, done := none, nodes := [], wants := [], members := [], wrote := false, released := false }
  ({ s.setSn ctx 1 true with snaps := s.snaps ++ [sn] }).recordRim ctx id full

/-- R389: a snapshot of a context starts, or is refused with a code. -/
def State.startSnap (s : State) (ctx : Nat) (full bad : Bool) : State :=
  let x := s.ctx ctx
  let none_ := decide (x.state = .free) || !s.trunk.partExists (partOfCtx ctx)
  if bad || none_ then s.setSn ctx 8 (snInprog x.snStat)
  else if snInprog x.snStat || (s.rollingFrom ctx).isSome then s.setSn ctx 3 (snInprog x.snStat)
  else if !x.snArea.getLsbD 63 then s.setSn ctx 5 false
  else s.openNew ctx (snLast x.snStat + 1) (full || decide (snLast x.snStat = 0))

/-- `snap` at its acceptance (R389). -/
def State.acceptSnap (s : State) (w : Word) : State :=
  s.startSnap (w.extractLsb' 0 6).toNat (w.getLsbD 6) (decide (w.extractLsb' 7 57 ≠ 0))

/-- Is a job of the kinds that a record takes as done once it has started (R376)? -/
def Job.runsOut (j : Job) : Bool :=
  match j.kind with
  | .vec _ _ _ _ => true
  | .mldb _ _ _ _ _ => true
  | .mat _ _ _ _ _ => true
  | .copy _ _ d _ _ _ => !d.sk && !d.dk
  | .recv _ _ _ _ _ => true
  | .haloRecv _ _ => true
  | _ => false

/-- Has a job started: has it read or written anything (R376)? -/
def Job.started (j : Job) : Bool :=
  j.start.isSome || decide (0 < j.steps) || !j.failed.isEmpty || !j.doneSet.isEmpty || !j.moving.isEmpty

/-- Has a job of those kinds started? -/
def Job.begun (j : Job) : Bool := j.runsOut && j.started

/-- The runs of a copy within the scratchpad that have begun are read on to their end and written (R377). -/
def State.writeMoving (s : State) (core id : Nat) : State :=
  match (s.core core).job? id with
  | none => s
  | some j =>
    match j.kind, j.copyPlan with
    | .copy tr slot d _ _ _, some p =>
      j.moving.foldl (fun s e =>
        let s := (List.range (p.srcLen / 16 + 1)).foldl (fun s _ =>
          match (s.core core).job? id with
          | some k => (match k.moved e.run with
            | some x => if p.readUp x then s else s.readRunOn core k p x
            | none => s)
          | none => s) s
        match (s.core core).job? id with
        | none => s
        | some k =>
          match k.moved e.run with
          | none => s
          | some x =>
            let ctx := s.jobCtx core slot
            let a := p.dstAt x.run + x.wrote
            ((s.writeSp core a.toNat x.data ctx true).1).wrotePiece core ctx tr d (k.endRun x.run) p a x.data.length) s
    | _, _ => s

/-- A job that has started is worked off (R376, R377): what it has still to read and write is read and written; its completion is
still owed. -/
def State.workOff (s : State) (core : Nat) (j : Job) : State :=
  match j.kind with
  | .mldb _ _ _ _ _ => s.updCore core fun c => c.endCard j.id
  | .mat _ _ _ _ _ =>
    let d := max j.rowClocks 1
    let from_ := (j.steps + d - 1) / d
    let s := (List.range (j.matRows - from_)).foldl (fun s i => s.matRow core j (from_ + i)) s
    match (s.core core).job? j.id with
    | none => s
    | some j' => (s.writeRows core j'.buf).updCore core fun c => c.updJob j.id fun j =>
        { j with buf := [], doneSet := [], steps := j.matRows * d, accept := some 0 }
  | .copy _ _ _ _ _ _ =>
    match j.copyPlan with
    | none => s
    | some p =>
      let s := (List.range p.d.runs).foldl (fun s r =>
        match (s.core core).job? j.id with
        | some k => (if k.ran r || (k.moved r).isSome then s else s.beginRun core k p r).writeMoving core j.id
        | none => s) s
      s.updCore core fun c => c.updJob j.id fun k => { k with steps := p.d.runs, doneSet := [] }
  | _ => (s.writeRows core j.buf).updCore core fun c => c.updJob j.id fun k => { k with buf := [], accept := some 0 }

/-- The cores of a grove that hold a task of a context. -/
def State.ctxCores (s : State) (ctx g : Nat) : List Nat :=
  ((List.range 4).map (4 * g + ·)).filter fun k =>
    let c := s.core k
    decide (c.ctxNo = ctx) && decide (c.mode ≠ .idle) && decide (c.mode ≠ .halted)

/-- The jobs of a grove that act for slots of a context and on no scratchpad. -/
def State.looseJobs (s : State) (ctx g : Nat) : List Job :=
  (s.core (4 * g)).jobs.filter fun j => j.loose && (match j.kind with
    | .copy _ (some k) _ _ _ _ => decide (((s.grove g).slot k).ctx = ctx)
    | _ => false)

/-- The chunks of the write entries of a core's started jobs. -/
def Core.begunChunks (c : Core) : List Nat :=
  ((c.jobs.filter Job.begun).flatMap fun j => ((c.entriesOf j.id).filter fun e => e.write && decide (e.lo ≤ e.hi)).flatMap fun e =>
    (List.range (e.hi + 1 - e.lo)).map (e.lo + ·)).eraseDups

/-- The footprint of the task on a core. -/
def State.footOf (s : State) (core : Nat) : BitVec 8 := match s.taskOf core with | some t => t.foot | none => 0

/-- The chunks of a core that a record arms: the dirty ones of its task's footprint, but for those of started jobs, which are taken
from what the jobs write (R377, R379). -/
def State.armedAt (s : State) (core : Nat) : List Nat :=
  let begun := (s.core core).begunChunks
  (List.range 768).filter fun k =>
    (footChunks (s.footOf core)).getLsbD k && (s.core core).dirty.getLsbD k && !begun.contains k

/-- Chunk k of a core: of its scratchpad, or from 768 on of its lane slices. -/
def chunkKey (core k : Nat) : Nat := if k < 768 then spKey core (512 * k) else laneKey core 0 (512 * (k - 768))

/-- Is a gallery entry captured by its bytes: any but a version whose write-back is complete, which a refetch serves (R382)? -/
def Version.byBytes (v : Version) : Bool := !(v.ver.isSome && v.wbDone)

/-- The gallery entries of a context that are captured by their bytes are pinned until they have been written out, or are released (R382). -/
def Grove.holdVersions (gr : Grove) (ctx : Nat) (b : Bool) : Grove :=
  { gr with versions := gr.versions.map fun v => if v.ctx = ctx then { v with held := b && v.byBytes } else v }

/-- A core as a record takes it: without the jobs of slots, with the flags of its started jobs (R377). -/
def Core.asRecorded (c : Core) : Core :=
  { (c.jobs.filter Job.begun).foldl (fun (c : Core) j => c.raise j.flags) c with
    jobs := c.jobs.filter (fun j => !j.loose), board := c.board.filter fun e => !(c.jobs.any fun j => j.loose && decide (j.id = e.job)) }

/-- R374 to R379: a grove records. -/
def State.recordGrove (s : State) (ctx g : Nat) : State :=
  let ks := s.ctxCores ctx g
  let s := ks.foldl (fun s k => s.updCore k Core.landAll) s
  let w := ks.foldl (fun w k => ((s.core k).jobs.filter Job.begun).foldl (fun w j => w.workOff k j) w) s
  let read (k i : Nat) : Nat × Nat × Payload := (k, i, readBytes w.mem (chunkKey k i) 512)
  let arms := ks.flatMap fun k => (s.armedAt k).map fun i => (k, i)
  let n := { SnapNode.start s ctx g (w.grove g) with
    cores := ks.map fun k => (k, (w.core k).asRecorded),
    started := ks.flatMap fun k => ((s.core k).jobs.filter Job.started).map fun j => (k, j.id),
    loose := s.looseJobs ctx g,
    pending := arms,
    chunks := ks.flatMap fun k => ((List.range 64).map fun i => read k (768 + i)) ++ (s.core k).begunChunks.map (read k) }
  let s := ks.foldl (fun s k =>
    let foot := footChunks (s.footOf k)
    let mask := (s.armedAt k).foldl (fun m i => setChunk m i true) (0 : BitVec 768)
    s.updCore k fun c => { c with armed := c.armed ||| mask, dirty := c.dirty &&& ~~~foot }) s
  ((s.beforeLantern ctx g).updGrove g fun gr => gr.holdVersions ctx true).updSnap ctx fun sn => { sn with nodes := sn.nodes ++ [n] }

/-! ### Lanterns (R371, R372) -/

/-- Is a position a node of a context's snapshots: the rim node, or a grove index of the partition, whose router passes lanterns on
even while the grove is not ready (log entry 10)? -/
def State.snapNode (s : State) (ctx n : Nat) : Bool :=
  decide (n = 0xFFF) || (decide (n < 2592) && s.trunk.groveIn (partOfCtx ctx) n)

/-- The node from which an incoming channel of a node comes. -/
def chanFrom (node chan : Nat) : Option Nat :=
  if node = 0xFFF then (if 256 ≤ chan then some ((chan - 256) / 4) else none)
  else
    match chan / 4 with
    | 0 => if groveY node < 53 then some (node + 48) else none
    | 1 => if groveX node < 47 then some (node + 1) else none
    | 2 => if 0 < groveY node then some (node - 48) else none
    | 3 => if 0 < groveX node then some (node - 1) else none
    | 4 => some 0xFFF
    | _ => none

/-- The incoming channels of a node. -/
def State.channels (s : State) (ctx node : Nat) : List Nat :=
  let all := if node = 0xFFF then (List.range (4 * 2592)).map (256 + ·) else List.range 20
  (all.filter fun c => match chanFrom node c with | some n => s.snapNode ctx n | none => false) ++
    if node = 0xFFF then (s.linkPorts ctx).flatMap fun p => (List.range 4).map fun v => linkChan + 4 * p + v else []

/-- Has a lantern come to a node's channel: its sender has recorded, and nothing that stood before the lantern is left
or has come in this clock? -/
def State.lanternCame (s : State) (ctx node chan : Nat) : Bool :=
  match chanFrom node chan with
  | none => false
  | some f =>
    s.snapNode ctx node && s.snapNode ctx f &&
    (match s.nodeRec ctx f with
     | none => false
     | some r =>
       decide (r.clk + 1 < s.clk) && s.chanOpen ctx node chan &&
       !s.net.any fun q => decide (q.ctx = ctx) && decide (nodeOf q.at_ = f) && decide (q.at_ ≠ q.dst) && decide (q.time ≤ r.clk) &&
         decide (q.channel = chan % 4) && decide (nodeOf q.nextHop.1 = node) &&
         decide (chanNo node f q.nextHop.2 q.channel = chan)) &&
    (decide (node = 0xFFF) || !s.net.any fun q =>
      decide (q.ctx = ctx) && decide (q.at_ = node) && decide (q.time = s.clk) && decide (chanNo node f q.inp q.channel = chan))

/-- Has a grove a snapshot buffer, without which its record waits (R391)? -/
def State.hasBuffer (s : State) (g : Nat) : Bool := !s.groveReady g || decide ((s.grove g).snBuf.extractLsb' 40 9 ≠ 0)

/-- Can a grove record now: its cores with tasks of the context stand at a boundary that R163 allows, and it has a snapshot buffer
(R374, R391)? -/
def State.mayRecord (s : State) (ctx g : Nat) : Bool := (s.ctxCores ctx g).all (fun k => !(s.core k).midway) && s.hasBuffer g

/-- May a lantern be taken: its node has recorded or can record now, or it stops the grove's cores at their next boundaries (R374)? -/
def State.lanternGoes (s : State) (ctx node chan : Nat) : Bool :=
  s.lanternCame ctx node chan &&
    ((s.nodeRec ctx node).isSome || s.mayRecord ctx node || (s.hasBuffer node && !s.wanted ctx node))

/-- A lantern has come by a node's channel: its log is closed (R372). -/
def State.closeChan (s : State) (ctx node chan : Nat) : State :=
  s.updSnap ctx fun sn => sn.mapNodes fun n => if n.node = node then { n with closed := n.closed ++ [chan] } else n

/-- R372, R374: a lantern reaches a node by a channel: the first makes it record, where its cores can stop, or stop them; the channel's
log is closed. -/
def execLanternArrive (ctx node chan : Nat) (s : State) : Host.Outcome State Fault Refusal :=
  if !s.lanternGoes ctx node chan then .next s
  else if (s.nodeRec ctx node).isSome then .next (s.closeChan ctx node chan)
  else if s.mayRecord ctx node then
    .next (((s.recordGrove ctx node).updSnap ctx fun sn => { sn with wants := sn.wants.filter fun g => !decide (g = node) }).closeChan
      ctx node chan)
  else .next (s.updSnap ctx fun sn => { sn with wants := sn.wants ++ [node] })

/-- R372: a lantern comes in over a module link: the first of a snapshot makes this member's rim node record; the channel's log is
closed. -/
def State.lanternIn (s : State) (port ctx id vc : Nat) (full : Bool) : State :=
  let x := s.ctx ctx
  let s := if (s.openSnap ctx).isNone && (s.rollingFrom ctx).isNone && decide (x.state ≠ .free) && decide (snLast x.snStat < id)
    then s.openNew ctx id full else s
  match s.openSnap ctx with
  | some sn => if sn.id = id then s.closeChan ctx 0xFFF (linkChan + 4 * port + vc) else s
  | none => s

/-! ### Background write-out (R379 to R381) -/

/-- R379: an armed chunk of the context's record is written out. -/
def execChunkWriteout (ctx core chunk : Nat) (s : State) : Host.Outcome State Fault Refusal :=
  match s.openSnap ctx with
  | none => .next s
  | some sn => if sn.nodes.any fun n => n.pending.contains (core, chunk) then .next (s.captureChunk core chunk) else .next s

/-- R380, R381: an armed page, or window unit under its identity, is written out and becomes PRESERVED. -/
def execPageWriteout (ctx va : Nat) (s : State) : Host.Outcome State Fault Refusal :=
  if !s.recorded ctx 0xFFF then .next s
  else if 2 ^ 60 ≤ va then
    let slice := (va - 2 ^ 60) / 2 ^ 48
    let unit := (va - 2 ^ 60) % 2 ^ 48 / 65536
    let id := slice * 2 ^ 11 + unit
    if Tbl.getD s.wins id 0 = 1 ∧ (s.unitsOf ctx).contains id then
      let s := s.capturePage ctx (winId slice unit) (slKey slice (unit * 65536)) 65536
      .next { s with wins := Tbl.set s.wins id 2 }
    else .next s
  else
    match s.walk 0 ctx va with
    | .ok l =>
      if leafSnap l.entry = 1 then .next ((s.capturePage ctx (va / 2 ^ l.bits * 2 ^ l.bits) l.pa (2 ^ l.bits)).setLeafSnap l.key 2)
      else .next s
    | .error _ => .next s

/-- The next page or unit to be written out. -/
def State.nextWriteout (s : State) (ctx : Nat) : Option Nat :=
  match (s.leaves ctx).find? fun e => decide (leafSnap e.2.1 = 1) with
  | some e => some e.2.2.1
  | none => ((s.unitsOf ctx).find? fun u => decide (Tbl.getD s.wins u 0 = 1)).map fun u => winId (u / 2 ^ 11) (u % 2 ^ 11)

/-! ### Abandonment (R380, R384, R395) -/

/-- A running snapshot of a context is abandoned in this member: what it had armed or preserved is DIRTY again, and its ring record, if
it has been written, is released. -/
def State.abandonHere (s : State) (ctx code : Nat) : State :=
  match s.openSnap ctx with
  | none => s
  | some sn =>
    let back (st : Nat) : Bool := decide (st = 1) || decide (st = 2)
    let s := (s.leaves ctx).foldl (fun s e => if back (leafSnap e.2.1) then s.setLeafSnap e.1 3 else s) s
    let s := (s.unitsOf ctx).foldl (fun s u => if back (Tbl.getD s.wins u 0) then { s with wins := Tbl.set s.wins u 3 } else s) s
    let s := sn.nodes.foldl (fun s n =>
      let s := n.pending.foldl (fun s e =>
        s.updCore e.1 fun c => { c with armed := setChunk c.armed e.2 false, dirty := setChunk c.dirty e.2 true }) s
      let s := n.chunks.foldl (fun s e =>
        if e.2.1 < 768 then s.updCore e.1 fun c => { c with dirty := setChunk c.dirty e.2.1 true } else s) s
      if n.node = 0xFFF then s else s.updGrove n.node fun gr => (gr.holdVersions ctx false).sweep s.tick) s
    { s with snaps := s.snaps.filter fun x => !(decide (x.ctx = ctx) && x.done.isNone) }.setSn ctx code false

/-- A running snapshot of a context is abandoned in every member (R384, R395). -/
def State.abandonSnap (s : State) (ctx code : Nat) : State :=
  match s.openSnap ctx with
  | none => s
  | some sn =>
    let s := s.abandonHere ctx code
    { s with out := s.out ++ (s.otherMembers ctx).map fun m => .abandoned m ctx sn.id code }

/-- Another member has abandoned a snapshot (R384). -/
def State.abandonIn (s : State) (ctx id code : Nat) : State :=
  match s.openSnap ctx with
  | some sn => if sn.id = id then s.abandonHere ctx code else s
  | none => s

end Sys2Proof.Machine
end

