-- ==== Sys2Proof/Machine/Ring.lean ====
section
/-!
DEFINITION. Ring records (R384 to R388, R390): their items, their bytes in the snapshot area, and the completion of a snapshot.
-/

namespace Sys2Proof.Machine

/-- An item of a ring record (R386): type, SUB, KEY and data. -/
structure RingItem where
  type : Nat
  sub : Nat
  key : Nat
  data : Payload
deriving DecidableEq, Repr

/-- Inserts an item in the order of its key, after those of the same key. -/
def insertItem (x : RingItem) (l : List RingItem) : List RingItem :=
  l.takeWhile (fun y => decide (y.key ≤ x.key)) ++ [x] ++ l.dropWhile (fun y => decide (y.key ≤ x.key))

/-- Items in ascending order of KEY. -/
def sortItems (l : List RingItem) : List RingItem := l.foldl (fun a x => insertItem x a) []

/-- Words as bytes. -/
def natWords (l : List Nat) : List Byte := l.flatMap (natBytes 8)

/-- A good payload, padded with zeros to a length. -/
def padGood (n : Nat) (l : List Byte) : Payload := goodBytes (padTo n l)

/-- Bytes of an implementation-defined region of a NODE item (log entry 14). -/
def implBytes (id node off len : Nat) : Payload := goodBytes ((List.range len).map fun i => Config.nodeByte id node (off + i))

/-- A core slot of a NODE item (R387). -/
def SnapNode.coreBytes (n : SnapNode) (id slot : Nat) : Payload :=
  match n.cores.find? fun e => decide (e.1 % 4 = slot) with
  | none => List.replicate 0xA200 (some 0) ++ implBytes id n.node (slot * 0xC000 + 0xA200) 0x1E00
  | some (core, c) =>
    let lane (i : Nat) : Payload := match n.chunks.find? fun e => decide (e.1 = core) && decide (e.2.1 = 768 + i) with
      | some e => e.2.2
      | none => List.replicate 512 (some 0)
    padGood 0x2000 (c.frameHead ++ c.frameVectors) ++ (List.range 64).flatMap lane ++ padGood 0x40 (natBytes 8 c.kmjob.toNat) ++
    padGood 0x1C0 c.planeRecords ++ implBytes id n.node (slot * 0xC000 + 0xA200) 0x1E00

/-- The NODE item of a grove (R387). -/
def State.nodeItem (s : State) (ctx id : Nat) (n : SnapNode) : Payload :=
  let g := n.node
  let gr := n.grove
  let t := s.setGrove g gr
  let record (i : Nat) : List Byte := match gr.task? i with
    | some r => if r.ctx = ctx then natWords ((List.range 16).map (t.recordWord g i)) else natBytes 0x80 0
    | none => natBytes 0x80 0
  let bar (k : Nat) : List Byte := if k / 16 = ctx % 16 then natWords ((List.range 4).map (gr.barrier ctx (k % 16)).word) else natBytes 0x20 0
  let mine (k : Nat) : Bool := gr.ownsCounter ctx k
  let ctr (k : Nat) : Nat := if mine k then (gr.counter k).word.toNat else 0
  let src (k : Nat) : List Nat := if mine k then [(gr.counter k).src.toNat, (gr.counter k).range.toNat] else [0, 0]
  let slot (k : Nat) : Nat := if gr.ownsSlot ctx k then (gr.slot k).status.toNat else 0
  let img (k : Nat) : List Byte := if gr.ownsSlot ctx k then padTo 256 (gr.slot k).image else natBytes 256 0
  (List.range 4).flatMap (n.coreBytes id) ++ goodBytes ((List.range 256).flatMap record) ++ goodBytes ((List.range 256).flatMap bar) ++
  goodBytes (natWords ((List.range 128).map ctr)) ++ goodBytes (natWords ((List.range 128).flatMap src)) ++
  implBytes id g 0x3AC00 0x400 ++ goodBytes (natWords ((List.range 512).map slot)) ++ goodBytes ((List.range 512).flatMap img) ++
  implBytes id g 0x5C000 0x14000

/-- GAL data: a header of name, version, flags and valid extents, and the bytes (R386). -/
def galBytes (name : Name) (ver flags : Nat) (valid : List Nat) (data : Payload) : Payload :=
  goodBytes (natBytes 12 name.bits ++ natBytes 2 ver ++ natBytes 2 flags ++
    (List.range 4).flatMap (fun i => natBytes 2 (valid.getD i 1)) ++ natBytes 8 0) ++ data

/-- A gallery entry as GAL data; a vote buffer's bytes are those of the chunks that its copies have brought, in their order (R382). -/
def Version.galData (v : Version) : Payload :=
  galBytes v.name (v.ver.getD 0)
    ((if v.ver.isNone && v.vote.isEmpty then 1 else 0) + (if v.keep then 2 else 0) + (if v.vote.isEmpty then 0 else 4)) v.valid
    (if v.vote.isEmpty then v.data else v.vote.flatMap fun c => c.2.flatMap (·.2))

/-- The GAL data of a recorded grove for a context: its entries captured by their bytes, and the landed chunks of its subscriptions;
copy states and chunk bits stand in the NODE item's region of landing state and gallery directory (R382, R387). -/
def Grove.galItems (gr : Grove) (ctx : Nat) : List Payload :=
  ((gr.versions.filter fun v => decide (v.ctx = ctx) && v.byBytes).map Version.galData) ++
  (gr.subs.filter fun x => decide (x.ctx = ctx)).flatMap fun x => x.landings.map fun l => galBytes l.name l.ver 0 l.valid l.data

/-- The logs of a node as LOG items (R373, R386): each packet a 64-byte header, whose layout the spec leaves to the part, and its
payload. -/
def SnapNode.logItems (n : SnapNode) (id : Nat) : List RingItem :=
  let keys := (n.logs.map fun e => (e.1, e.2.1)).eraseDups
  keys.map fun k =>
    ⟨5, k.2, n.node * 2 ^ 40 + k.1,
      (n.logs.zipIdx.filter fun e => decide (e.1.1 = k.1) && decide (e.1.2.1 = k.2)).flatMap fun e =>
        implBytes id n.node (0x100000 + 64 * e.2) 64 ++ e.1.2.2.data⟩

/-- Every item of a snapshot's record, in the order of R386. -/
def State.ringItems (s : State) (sn : Snap) : List RingItem :=
  let groves := sn.nodes.filter fun n => decide (n.node ≠ 0xFFF) && s.groveReady n.node
  let rim := sn.nodes.filter fun n => decide (n.node = 0xFFF)
  let nodes := groves.map (fun n => RingItem.mk 4 0 n.node (s.nodeItem sn.ctx sn.id n)) ++
    rim.map fun n => RingItem.mk 4 1 0xFFF (implBytes sn.id n.node 0 0x1000)
  let pages := rim.flatMap fun n => (n.pages.filter fun e => decide (e.1 < 2 ^ 60)).map fun e => RingItem.mk 1 0 e.1 e.2
  let wins := rim.flatMap fun n => (n.pages.filter fun e => decide (2 ^ 60 ≤ e.1)).map fun e => RingItem.mk 2 0 (e.1 - 2 ^ 60) e.2
  let gals := groves.flatMap fun n => (n.grove.galItems sn.ctx).map (RingItem.mk 6 0 n.node)
  let chunks := groves.flatMap fun n => (n.chunks.filter fun e => decide (e.2.1 < 768)).map fun e =>
    RingItem.mk 3 0 (e.1 / 4 * 2 ^ 40 + e.1 % 4 * 2 ^ 38 + e.2.1 * 512) e.2.2
  let logs := sn.nodes.flatMap fun n => n.logItems sn.id
  sortItems nodes ++ sortItems pages ++ sortItems wins ++ sortItems gals ++ sortItems chunks ++ sortItems logs

/-- A length rounded up. -/
def roundUp (n k : Nat) : Nat := (n + k - 1) / k * k

/-- FLAGS of a ring record's header (R385). -/
def Snap.flags (sn : Snap) (complete : Bool) : Nat := (if sn.full then 1 else 0) + (if complete then 2 else 0)

/-- The bytes of a record at a virtual address, before its snapshot completes (R385, R386). -/
def ringBytes (s : State) (sn : Snap) (items : List RingItem) (prevVa va : Nat) : Payload :=
  let start := roundUp (64 + 32 * items.length) 4096
  let locs := (items.foldl (fun (a : List Nat × Nat) x => (a.1 ++ [a.2], a.2 + roundUp x.data.length 512)) ([], start)).1
  let head := natBytes 4 0x474E4952 ++ natBytes 2 1 ++ natBytes 1 (s.ctx sn.ctx).member ++ natBytes 1 sn.ctx ++ natBytes 4 sn.id ++
    natBytes 4 sn.prev ++ natBytes 8 sn.start ++ natBytes 8 s.tick ++ natBytes 8 prevVa ++ natBytes 4 items.length ++
    natBytes 4 (sn.flags false) ++ natBytes 16 0
  let entries := (items.zip locs).flatMap fun e =>
    natBytes 1 e.1.type ++ natBytes 1 e.1.sub ++ natBytes 2 0 ++ natBytes 4 e.1.data.length ++ natBytes 8 e.1.key ++
    natBytes 8 (va + e.2) ++ natBytes 8 0
  padGood start (head ++ entries) ++
  items.flatMap fun x => x.data ++ List.replicate (roundUp x.data.length 512 - x.data.length) (some 0)

/-- The bytes that a record takes. -/
def ringSize (items : List RingItem) : Nat :=
  items.foldl (fun n x => n + roundUp x.data.length 512) (roundUp (64 + 32 * items.length) 4096)

/-- The records of a context that are kept: those that have not been released (R390). -/
def State.kept (s : State) (ctx : Nat) : List Snap := s.snaps.filter fun n => decide (n.ctx = ctx) && n.done.isSome && !n.released

/-- Where a record goes (R390): at BASE for FULL, else at the first 2 MiB boundary after the data of the record before it, or at BASE
when the area ends before; none when it does not fit. -/
def State.ringPlace (s : State) (sn : Snap) (size : Nat) : Option Nat :=
  let base := (s.ctx sn.ctx).areaBase
  let stop := (s.ctx sn.ctx).areaEnd
  let free (va : Nat) : Bool := decide (va + size ≤ stop) &&
    (s.kept sn.ctx).all fun k => decide (va + size ≤ k.va) || decide (k.va + k.size ≤ va)
  if sn.full then (if base + size ≤ stop then some base else none)
  else
    let next := match (s.kept sn.ctx).getLast? with | some k => roundUp (k.va + k.size) (2 ^ 21) | none => base
    if next + size ≤ stop then (if free next then some next else none) else if free base then some base else none

/-- Can a range of a context's space be written (R384)? -/
def State.writable (s : State) (ctx va len : Nat) : Bool :=
  (pieces va len).all fun p => match s.locateVa ctx (va + p.1) true with | .ok _ => true | .error _ => false

/-- The trunk's SNAPFAIL tile (R384). -/
def State.snapFail (s : State) (ctx id cause : Nat) : State :=
  let t : TileInfo := ⟨26, 8, 0, 0, 0, false, false, none,
    natBytes 4 id ++ natBytes 1 (s.ctx ctx).member ++ natBytes 1 cause⟩
  s.trunkTile (tileBytes t none 0 s.tick (some (0, 0, 0)))

/-- R384: the snapshot completes when every member has written its ring record: PRESERVED pages become CLEAN, the record's COMPLETE
is set, and a FULL one releases the earlier records (R390). -/
def State.completeSnap (s : State) (ctx : Nat) : State :=
  match s.openSnap ctx with
  | none => s
  | some sn =>
    if !sn.wrote || !(s.otherMembers ctx).all sn.members.contains then s
    else
      let s := (s.writeVa ctx (sn.va + 0x2C) (goodBytes (natBytes 4 (sn.flags true)))).1
      let s : State := (s.leaves ctx).foldl (fun s e => if leafSnap e.2.1 = 2 then s.setLeafSnap e.1 0 else s) s
      let s : State := (s.unitsOf ctx).foldl (fun s u => if Tbl.getD s.wins u 0 = 2 then { s with wins := Tbl.del s.wins u } else s) s
      let s := { s with snaps := s.snaps.map fun (n : Snap) =>
        if n.ctx = ctx then (if n.done.isNone then { n with done := some s.tick } else { n with released := n.released || sn.full }) else n }
      s.updCtx ctx fun c => { c with snStat := snWord sn.id (snRolls c.snStat) 2 false }

/-- Another member has written its ring record (R384). -/
def State.ringDoneIn (s : State) (ctx id m : Nat) : State :=
  (s.updSnap ctx fun sn => if sn.id = id then { sn with members := sn.members ++ [m] } else sn).completeSnap ctx

/-- R384: this member's record is written, or the snapshot is abandoned in every member. -/
def State.writeRing (s : State) (sn : Snap) : State :=
  let items := s.ringItems sn
  let size := ringSize items
  match s.ringPlace sn size with
  | none => (s.abandonSnap sn.ctx 6).snapFail sn.ctx sn.id 1
  | some va =>
    if !s.writable sn.ctx va size then ((s.probed sn.ctx va size true).abandonSnap sn.ctx 10).snapFail sn.ctx sn.id 2
    else
      let prevVa := match s.snaps.find? fun n => decide (n.ctx = sn.ctx) && n.done.isSome && decide (n.id = sn.prev) with
        | some p => if sn.full then 0 else p.va
        | none => 0
      let s := (s.writeVa sn.ctx va (ringBytes s sn items prevVa va)).1
      let s := s.updSnap sn.ctx fun n => { n with wrote := true, va := va, size := size }
      ({ s with out := s.out ++ (s.otherMembers sn.ctx).map fun m => Out.ringDone m sn.ctx sn.id }).completeSnap sn.ctx

/-- Has a node finished capturing (R372)? -/
def State.captured (s : State) (ctx node : Nat) : Bool :=
  match s.nodeRec ctx node with
  | none => false
  | some n => !n.reported && n.pending.isEmpty && (s.channels ctx node).all n.closed.contains &&
      (decide (node ≠ 0xFFF) || (s.nextWriteout ctx).isNone)

/-- R384, R382: a node that has finished capturing reports, and its gallery entries are no longer pinned; with the last one the record is
written. -/
def execCaptureReport (ctx node : Nat) (s : State) : Host.Outcome State Fault Refusal :=
  if !s.captured ctx node then .next s
  else
    let s := s.updSnap ctx fun sn => sn.mapNodes fun n => if n.node = node then { n with reported := true } else n
    let s := if node = 0xFFF then s else s.updGrove node fun gr => (gr.holdVersions ctx false).sweep s.tick
    match s.openSnap ctx with
    | none => .next s
    | some sn =>
      let all := sn.nodes.all (fun n => n.reported) &&
        (List.range 2592).all fun g => !s.snapNode ctx g || sn.nodes.any fun n => decide (n.node = g)
      .next (if all then s.writeRing sn else s)

end Sys2Proof.Machine
end

