-- ==== Sys2Proof/Machine/Rollback.lean ====
section
/-!
DEFINITION. Rollback (R388, R393, R394) and the restore of a task from its save frame or from a snapshot's image (R176, R284).
-/

namespace Sys2Proof.Machine

/-- The state an outcome leaves, where it leaves one. -/
def nextOr (o : Host.Outcome State Fault Refusal) (s : State) : State :=
  match o with
  | .next t => t
  | _ => s

/-! ### The chain (R388) -/

/-- The snapshots of a context from n back to the FULL record of its chain, oldest first (R388). -/
def State.chain (s : State) (ctx n : Nat) : List Snap :=
  (s.snaps.filter fun x => decide (x.ctx = ctx) && x.done.isSome && decide (x.id ≤ n)).foldl
    (fun l x => if x.full then [x] else l ++ [x]) []

/-- A page or unit as it stood at snapshot n, where a record of the chain lists it. -/
def State.pageAt (s : State) (ctx n id : Nat) : Option Payload :=
  ((s.chain ctx n).flatMap fun x => x.nodes.flatMap fun k => (k.pages.filter fun e => decide (e.1 = id)).map (·.2)).getLast?

/-- Has a record after snapshot n captured a page or unit: may it differ from what it held at n, though it is CLEAN (log entry 33)? -/
def State.pageLater (s : State) (ctx n id : Nat) : Bool :=
  s.snaps.any fun x => decide (x.ctx = ctx) && decide (n < x.id) && x.done.isSome && x.nodes.any fun k => k.pages.any fun e => decide (e.1 = id)

/-- A chunk as it stood at snapshot n; one that no record lists reads as it stands. -/
def State.chunkAt (s : State) (ctx n core i : Nat) : Payload :=
  (((s.chain ctx n).flatMap fun x => x.nodes.flatMap fun k =>
    (k.chunks.filter fun e => decide (e.1 = core) && decide (e.2.1 = i)).map (·.2.2)).getLast?).getD (readBytes s.mem (chunkKey core i) 512)

/-- The nodes of a snapshot. -/
def State.snapNodes (s : State) (ctx n : Nat) : List SnapNode :=
  match s.snaps.find? fun x => decide (x.ctx = ctx) && decide (x.id = n) && x.done.isSome with
  | some x => x.nodes
  | none => []

/-- The node of a snapshot. -/
def State.nodeAt (s : State) (ctx n node : Nat) : Option SnapNode :=
  (s.snapNodes ctx n).find? fun k => decide (k.node = node)

/-- The recorded core of an image: snapshot and core. -/
def State.imageCore (s : State) (ctx n core : Nat) : Option Core :=
  (s.nodeAt ctx n (groveOf core)).bind fun k => (k.cores.find? fun e => decide (e.1 = core)).map (·.2)

/-! ### Images and frames (R393) -/

/-- A core number at which an image is put together. -/
def scratchCore : Nat := 2 ^ 20

/-- Writes the save image of a recorded core to a frame: its core state with KSTAT.rb set, its lane slices, and its banks from the
chain. -/
def State.imageFrame (s : State) (ctx n core : Nat) (c : Core) (foot : BitVec 8) (key : Nat) : State :=
  let x := scratchCore
  let chunks := (List.range 832).filter fun i => decide (768 ≤ i) || (footChunks foot).getLsbD i
  let m := chunks.foldl (fun m i => (writeRun m (chunkKey x i) (s.chunkAt ctx n core i)).1) s.mem
  let t := ({ s with mem := m }.setCore x { c with kstat := setBit c.kstat 5 true }).writeFrame x key foot
  let clear (m : List Host.Cell) (lo len : Nat) : List Host.Cell := Memory.clear (Memory.clear m lo len) (synKey lo) (len / 8)
  { t with mem := clear (clear t.mem (spKey x 0) 0x60000) (laneKey x 0 0) 0x8000, cores := Tbl.del t.cores x }

/-- The place at which an image without a frame is put together: a slice number that no slice has. -/
def scratchFrame : Nat := slKey 120 0

/-- The number under which the publications and shares of a recorded core wait for its task to start again. -/
def parked (n core : Nat) : Nat := 100000 + 16384 * n + core

/-! ### Renumbering -/

/-- Shifts the order numbers of a core: jobs, entries, requests, operations and waits (R376: recorded job cards enter again after the
plane reloads, in their order). -/
def Core.shift (c : Core) (d : Nat) : Core :=
  let wait (w : Wait) : Wait := match w with
    | .timed t => .timed t
    | .posted t i => .posted t (i + d)
    | .chunks t l o => .chunks t l (o + d)
    | .phase b t o => .phase b t (o + d)
    | .colls h o => .colls h (o + d)
    | .reply i => .reply i
    | .answered t => .answered t
  { c with
    jobs := c.jobs.map fun j => { j with id := j.id + d, ord := j.ord + d },
    board := c.board.map fun e => { e with id := e.id + 8 * d, job := e.job + d, ord := e.ord + d },
    queues := c.queues.map fun q => q.map fun e => { e with ord := e.ord + d },
    xops := c.xops.map fun x => { x with ord := x.ord + d, job := x.job + d },
    pend := c.pend.map fun p => { p with wait := wait p.wait },
    ords := c.ords + d, bord := c.bord + d }

/-- The publications and shares of core `a` of a grove become those of core `b`, their jobs shifted. -/
def Grove.remap (gr : Grove) (a b d : Nat) : Grove :=
  { gr with
    pubs := gr.pubs.map fun p => if p.core = some a then { p with core := some b, job := p.job + d, order := p.order + d } else p,
    gangs := gr.gangs.map fun G => { G with members := G.members.map fun m =>
      if m.core = a then { m with core := b, job := m.job.map (· + d), ord := m.ord + d } else m } }

/-- How the collectives of a core are renumbered: those of core `a` with jobs from `lo` on become those of core `b` with jobs from `hi`
on. -/
structure CollMove where
  a : Nat
  lo : Nat
  b : Nat
  hi : Nat

/-- The new core and job of a collective. -/
def CollMove.to (m : CollMove) (core job : Nat) : Nat × Nat :=
  if core = m.a ∧ m.lo ≤ job ∧ job < m.lo + parkBase 0 then (m.b, job - m.lo + m.hi) else (core, job)

/-- A packet of a collective, with its result sent on to where the task is. -/
def CollMove.pkt (m : CollMove) (p : Pkt) : Pkt :=
  match p.kind with
  | .collPart c j h i r sg off desc join => let x := m.to c j; { p with kind := .collPart x.1 x.2 h i r sg off desc join }
  | .collRes c j sg off fl ft row =>
    let x := m.to c j
    { p with kind := .collRes x.1 x.2 sg off fl ft row, dst := if x.1 = c then p.dst else groveOf x.1 }
  | _ => p

/-- The registrations and waiting legs of a grove. -/
def CollMove.grove (m : CollMove) (gr : Grove) : Grove :=
  { gr with
    rounds := gr.rounds.map fun r => { r with regs := r.regs.map fun x => let y := m.to x.2.1 x.2.2.1; (x.1, y.1, y.2, x.2.2.2) },
    legs := gr.legs.map m.pkt }

/-- The operations that wait for the task of core k as snapshot n recorded it become those of a core. -/
def State.unpark (s : State) (n k core d : Nat) : State :=
  let m : CollMove := ⟨k, parkBase n, core, d⟩
  { s with groves := s.groves.map fun e => (e.1, m.grove (e.2.remap (parked n k) core d)), net := s.net.map m.pkt }

/-- Renumbers the table entries of a recorded grove. -/
def Grove.renumber (gr : Grove) (f : Nat → Nat) : Grove :=
  let owner (o : SubOwner) : SubOwner := match o with
    | .record t i => .record (f t) i
    | .kernel t => .kernel (f t)
    | .halo t c => .halo (f t) c
  { gr with
    tasks := gr.tasks.foldl (fun t e => Tbl.set t (f e.1) e.2) [],
    subs := gr.subs.map fun x => { x with owner := owner x.owner },
    pubs := gr.pubs.map fun p => { p with task := p.task.map f },
    halos := gr.halos.map fun h => { h with task := f h.task },
    counters := gr.counters.map fun e => (e.1, { e.2 with task := e.2.task.map f })
  }

/-- New entries for recorded ones whose entry another context's record has taken meanwhile. -/
def Grove.newEntries (cur : Grove) (ctx : Nat) (own : List Nat) : List (Nat × Nat) :=
  own.foldl (fun (m : List (Nat × Nat)) i =>
    let taken (j : Nat) : Bool := (match cur.task? j with | some t => decide (t.ctx ≠ ctx) | none => false) ||
      cur.reservedIn.any (fun e => decide (e.1 = j)) || m.any fun e => decide (e.2 = j)
    m ++ [(i, if taken i then ((List.range 256).find? fun j => !taken j && !own.contains j).getD i else i)]) []

/-- The recorded entry's new number. -/
def renum (m : List (Nat × Nat)) (i : Nat) : Nat := ((m.find? fun e => decide (e.1 = i)).map (·.2)).getD i

/-! ### A grove at a rollback (R382, R383, R393) -/

/-- The context's parts of a recorded grove take the place of those that stand. -/
def Grove.mergeCtx (cur rec : Grove) (ctx : Nat) : Grove :=
  let mix {α : Type} (c : α → Nat) (a b : List α) : List α := (a.filter fun x => !decide (c x = ctx)) ++ b.filter fun x => decide (c x = ctx)
  let mixT {α : Type} (own : Nat → Bool) (a b : Tbl α) : Tbl α :=
    (b.filter fun e => own e.1).foldl (fun t e => Tbl.set t e.1 e.2) (a.filter fun e => !own e.1)
  let mine (gr : Grove) (i : Nat) : Bool := match gr.task? i with | some t => decide (t.ctx = ctx) | none => false
  { cur with
    tasks := (rec.tasks.filter fun e => decide (e.2.ctx = ctx)).foldl (fun t e => Tbl.set t e.1 e.2) (cur.tasks.filter fun e => !decide (e.2.ctx = ctx)),
    bars := mixT (fun k => decide (k / 16 = ctx)) cur.bars rec.bars,
    arrivals := mix Arrival.ctx cur.arrivals rec.arrivals, leases := mix Lease.ctx cur.leases rec.leases,
    pools := mix Pool.ctx cur.pools rec.pools, subs := mix Sub.ctx cur.subs rec.subs, regs := mix SubReg.ctx cur.regs rec.regs,
    names := mix NameRec.ctx cur.names rec.names, versions := mix Version.ctx cur.versions rec.versions,
    pubs := mix PubOp.ctx cur.pubs rec.pubs, matchTab := mix MatchEntry.ctx cur.matchTab rec.matchTab,
    halos := (cur.halos.filter fun h => !mine cur h.task) ++ rec.halos.filter fun h => mine rec h.task,
    counters := mixT (cur.ownsCounter ctx) cur.counters rec.counters, slots := mixT (cur.ownsSlot ctx) cur.slots rec.slots,
    gangs := mix GangJob.ctx cur.gangs rec.gangs,
    gangLate := (cur.gangLate.filter fun e => !decide (e.1 = ctx)) ++ rec.gangLate.filter fun e => decide (e.1 = ctx),
    rounds := mix CollRound.ctx cur.rounds rec.rounds, legs := mix Pkt.ctx cur.legs rec.legs,
    preempt := match cur.preempt with | some p => if mine cur p.2 then none else some p | none => none,
    ids := max cur.ids rec.ids, armSeq := max cur.armSeq rec.armSeq, eligSeq := max cur.eligSeq rec.eligSeq }

/-- A record as a rollback restores it: one that was on a core becomes READY with an image, or starts afresh when it had not begun
(R393). -/
def TaskRec.rolled (t : TaskRec) (n g : Nat) (cores : List (Nat × Core)) (i : Nat) : TaskRec :=
  if !t.oncore then t
  else
    match cores.find? fun e => decide (e.1 = 4 * g + t.slot) && decide (e.2.task = i) with
    | none => { t with state := .ready, oncore := false }
    | some (core, c) =>
      match c.mode with
      | .starting _ true => { t with state := .ready, oncore := false }
      | _ => { t with state := .ready, oncore := false, saved := true, imageSnap := some (n, core), pend := c.pend, rounds := c.rounds,
                      collRec := c.collRec }

/-- A gang job as recorded: its window runs on from the clocks that remained, and a share that had not started waits for the planes
again (R375). -/
def GangJob.rolled (G : GangJob) (late : Nat) (cores : List (Nat × Core)) : GangJob :=
  let started (m : GangMember) : Bool := cores.any fun e => decide (e.1 = m.core) && e.2.jobs.any fun j => decide (m.job = some j.id) && j.start.isSome
  { G with opened := G.opened + late, completed := G.completed.map (· + late),
           members := G.members.map fun m => if started m then m else { m with transferred := none } }

/-- A version whose write-back had completed is not resident after a rollback (R382). -/
def Version.refetched (v : Version) : Bool := !v.byBytes

/-- The names, with the version or none before it has one, of the publications of which a flit was logged in a member, its
acknowledgements counted among them (R394; log entry 33). -/
def Snap.logged (sn : Snap) : List (Name × Option Nat) :=
  sn.nodes.flatMap fun n => n.logs.filterMap fun e =>
    match e.2.2.kind with
    | .pubChunk _ _ _ _ _ _ _ _ => some (e.2.2.name, none)
    | .deliver v _ _ _ => some (e.2.2.name, some v)
    | .ack v _ _ => some (e.2.2.name, some v)
    | _ => none

/-- A version as it stands after a rollback: the bound of one of which a flit was logged counts from the resume (R394). -/
def Version.restored (v : Version) (s : State) (logged : List (Name × Option Nat)) : Version :=
  let v := { v with held := false }
  if logged.contains (v.name, v.ver) then
    { v with
      base := s.tick, bases := v.bases.map fun e => (e.1, s.tick), acks := v.acks.map fun a => (a.1, a.2.1, min a.2.2 1) }
  else v

/-- A recorded grove as it stands after a rollback: images, gang windows, the bounds of logged versions (R394), name records
alone for versions in memory (R382), and its cores' operations parked. -/
def SnapNode.restored (n : SnapNode) (s : State) (snap : Nat) (logged : List (Name × Option Nat)) (f : Nat → Nat) : Grove :=
  let gr := n.grove
  let late := s.clk - n.clk
  let gr : Grove := { gr with
    tasks := gr.tasks.map fun e => (e.1, e.2.rolled snap n.node n.cores e.1),
    gangs := gr.gangs.map fun G => G.rolled late n.cores,
    names := gr.names.map fun r =>
      if gr.versions.any fun v => decide (v.ctx = r.ctx) && decide (v.name = r.name) && decide (v.ver = r.latest) && v.refetched then
        { r with del := true } else r,
    versions := (gr.versions.filter fun v => !v.refetched).map fun v => v.restored s logged }
  n.cores.foldl (fun (gr : Grove) e => gr.remap e.1 (parked snap e.1) 0) (gr.renumber f)

/-- The registrations that a version kept only in memory still owes: they are served again by a refetch (R310, R382). -/
def SnapNode.owedAgain (n : SnapNode) : List (SubReg × Name) :=
  (n.grove.versions.filter Version.refetched).flatMap fun v =>
    (n.grove.regs.filter fun r => v.owed.contains (r.grove, r.sub) || v.acks.any fun a => decide (a.1 = r.grove) && decide (a.2.1 = r.sub)).map
      fun r => ({ r with served := false }, v.name)

/-! ### The steps of a rollback (R393) -/

/-- The tasks of a context leave their cores, and its jobs end. -/
def State.stopTasks (s : State) (ctx : Nat) : State :=
  (s.groves.map (·.1)).foldl (fun s g =>
    let ks := s.ctxCores ctx g
    let gone := (s.looseJobs ctx g).map (·.id)
    let s := ks.foldl (fun s k => s.updCore k Core.leave) s
    let s := s.updCore (4 * g) fun c =>
      if gone.isEmpty then c
      else { c with jobs := c.jobs.filter (fun j => !gone.contains j.id), board := c.board.filter fun e => !gone.contains e.job }
    s.updGrove g fun gr => { gr with collSets := gr.collSets.filter fun e => !ks.contains (4 * g + e.1 / 2) }) s

/-- Step 1: tasks leave their cores, and everything of the context in the fabric is discarded. -/
def State.quiesceCtx (s : State) (ctx : Nat) : State :=
  let s := if (s.openSnap ctx).isSome then s.abandonSnap ctx 7 else s
  let s := (s.endMigrations ctx).stopTasks ctx
  let off (t : TaskRec) : TaskRec := if t.ctx = ctx ∧ t.oncore then { t with state := .ready, oncore := false } else t
  { s with groves := s.groves.map fun e => (e.1, { e.2 with tasks := e.2.tasks.map fun t => (t.1, off t.2) }),
           net := s.net.filter fun p => !decide (p.ctx = ctx),
           rims := s.rims.map fun e => (e.1, { e.2 with ops := e.2.ops.filter fun o => !decide (o.ctx = ctx) }) }

/-- Step 2: pages and window units that are not CLEAN, or that a later record has captured, are restored from the chain. -/
def State.restoreMemory (s : State) (ctx n : Nat) : State :=
  let s : State := (s.leaves ctx).foldl (fun (s : State) e =>
    if leafSnap e.2.1 = 0 ∧ !s.pageLater ctx n e.2.2.1 then s
    else
      let s : State := match s.pageAt ctx n (e.2.2.1) with
        | some d => { s with mem := (writeRun s.mem ((e.2.1.extractLsb' 8 44).toNat * 256) d).1 }
        | none => s
      s.setLeafSnap e.1 0) s
  (s.unitsOf ctx).foldl (fun (s : State) u =>
    let inWin := s.inWindow ctx (u / 2 ^ 11) (u % 2 ^ 11 * 65536)
    if Tbl.getD s.wins u 0 = 0 ∧ !s.pageLater ctx n (winId (u / 2 ^ 11) (u % 2 ^ 11)) then s
    else
      let s : State := match s.pageAt ctx n (winId (u / 2 ^ 11) (u % 2 ^ 11)) with
        | some d => if inWin then { s with mem := (writeRun s.mem (slKey (u / 2 ^ 11) (u % 2 ^ 11 * 65536)) d).1 } else s
        | none => s
      { s with wins := Tbl.del s.wins u }) s

/-- The bytes of a save frame as they stood at snapshot n, where the chain lists their units. -/
def State.frameAt (s : State) (ctx n key : Nat) : List (Nat × Payload) :=
  let off := (key - 2 ^ 44) % 2 ^ 27
  let sl := (key - 2 ^ 44) / 2 ^ 27
  (List.range 8).filterMap fun i =>
    let u := off / 65536 + i
    let lo := max off (u * 65536)
    let hi := min (off + 0x6C000) (u * 65536 + 65536)
    if hi ≤ lo then none
    else (s.pageAt ctx n (winId sl u)).map fun d => (lo - off, (d.drop (lo - u * 65536)).take (hi - lo))

/-- KSTAT.rb is set in a save frame: its task resumes after a rollback (R393). -/
def State.markRb (s : State) (key : Nat) : State :=
  match readBytes s.mem (key + 0x278) 1 with
  | [some b] => { s with mem := (writeRun s.mem (key + 0x278) [some (b ||| 0x20)]).1 }
  | _ => s

/-- Gives a restored record its save frame (R393): the recorded one with its bytes, or for an image a free one; an image without a free
frame stays in the chain. -/
def State.placeFrame (s : State) (ctx n g i : Nat) (t : TaskRec) : State :=
  let gr := s.grove g
  let use (f : Nat) (s : State) : State :=
    (s.updGrove g fun gr => { gr with framesUsed := gr.framesUsed ||| ((1 : BitVec 31) <<< f) }).updTask g i fun t => { t with frame := some f }
  match t.imageSnap, t.frame with
  | some (m, core), _ =>
    (match s.imageCore ctx m core, gr.freeFrame with
     | some c, some f => (use f s).imageFrame ctx m core c t.foot (gr.frameKey f)
     | _, _ => s.updTask g i fun t => { t with frame := none })
  | none, some f =>
    let dst := if gr.framesUsed.getLsbD f || decide (32 ≤ f) then gr.freeFrame.getD (f % 32) else f
    let s := (s.frameAt ctx n (s.frameAddr g f)).foldl (fun (s : State) e => { s with mem := (writeRun s.mem (gr.frameKey dst + e.1) e.2).1 }) s
    use dst (s.markRb (gr.frameKey dst))
  | none, none => s

/-- The logged answers to a core's or, as 32,768 + g, a trigger engine's requests: order or slot, and the end (R376). -/
def answersTo (nodes : List SnapNode) (asker : Nat) : List (Nat × AccessEnd) :=
  nodes.flatMap fun n => n.logs.filterMap fun e =>
    match e.2.2.kind with
    | .reply _ _ _ a ord v fail => if a = asker ∧ !isFar e.2.2.dst then some (ord, accessEnd v fail) else none
    | _ => none

/-- A recorded core with the logged answers to its requests (R376). -/
def Core.answered (c : Core) (l : List (Nat × AccessEnd)) : Core :=
  { c with queues := c.queues.map fun q => q.map fun e =>
      if e.state = .sent then (match l.find? fun a => decide (a.1 = e.ord) with | some a => e.finish a.2 | none => e) else e }

/-- Step 3 at one grove. -/
def State.restoreGrove (s : State) (ctx n : Nat) (nodes : List SnapNode) (logged : List (Name × Option Nat)) (node : SnapNode) : State :=
  let g := node.node
  let cur := s.grove g
  let own := (node.grove.tasks.filter fun e => decide (e.2.ctx = ctx)).map (·.1)
  let m := cur.newEntries ctx own
  let gr := cur.mergeCtx (node.restored s n logged (renum m)) ctx
  let others := gr.tasks.filter fun e => !decide (e.2.ctx = ctx)
  let lent := s.groves.flatMap fun e => e.2.tasks.filterMap fun t =>
    match t.2.frame with | some f => if t.2.ctx ≠ ctx ∧ f / 32 = g + 1 then some (f % 32) else none | none => none
  let used := lent ++ others.filterMap fun e => e.2.frame.filter fun f => decide (f < 32)
  let gr := { gr with framesUsed := used.foldl (fun (u : BitVec 31) f => u ||| (1 <<< f)) 0 }
  let s := s.setGrove g ((answersTo nodes (32768 + g)).foldl (fun x a => x.endAmo a.1 a.2) gr)
  let mine := gr.tasks.filter fun e => decide (e.2.ctx = ctx)
  let fixed := mine.filter fun e => e.2.imageSnap.isNone
  let images := mine.filter fun e => e.2.imageSnap.isSome
  let s := (fixed ++ images).foldl (fun s e => s.placeFrame ctx n g e.1 e.2) s
  s.updCore (4 * g) fun c =>
    if node.loose.isEmpty then c else { c with jobs := c.jobs ++ node.loose.map fun j => { j with owner := renum m j.owner } }

/-- The logged packets of a node as they are reinjected (R393): those of a channel stand at the node in log order, ahead of every new one,
and the bound of each counts from the resume (R394). Answers to requests go to the images that await them. -/
def SnapNode.reinject (n : SnapNode) (s : State) : List Pkt :=
  n.logs.zipIdx.filterMap fun e =>
    let later := (n.logs.drop e.2).filter fun f => decide (f.1 = e.1.1) && decide (f.2.1 = e.1.2.1)
    match e.1.2.2.kind with
    | .reply _ _ _ _ _ _ _ => if isFar e.1.2.2.dst then some { e.1.2.2 with time := s.clk - later.length, base := s.tick } else none
    | _ => some { e.1.2.2 with time := s.clk - later.length, base := s.tick }

/-- The collectives of recorded cores wait for their tasks (R376). -/
def State.parkColls (s : State) (n : Nat) (cores : List (Nat × Core)) (ctx : Nat) : State :=
  let moves : List CollMove := cores.map fun c => ⟨c.1, 0, c.1, parkBase n⟩
  let mine (m : CollMove) (gr : Grove) : Grove :=
    { gr with rounds := gr.rounds.map (fun r => if r.ctx = ctx then ((m.grove { gr with rounds := [r] }).rounds.head?).getD r else r),
              legs := gr.legs.map fun p => if p.ctx = ctx then m.pkt p else p }
  moves.foldl (fun (s : State) m =>
    { s with groves := s.groves.map (fun e => (e.1, mine m e.2)), net := s.net.map fun p => if p.ctx = ctx then m.pkt p else p }) s

/-! ### Tags and triads after a rollback (log entry 32) -/

/-- A tag of a context's pools: level, group and number. -/
abbrev PoolTag := Nat × Word × Nat

/-- Takes from leases of a context the tags that something else holds already. -/
def claimTags (ctx : Nat) (widths : List Nat) (seen : List PoolTag) (l : List Lease) : List PoolTag × List Lease :=
  l.foldl (fun (a : List PoolTag × List Lease) x =>
    if x.ctx ≠ ctx then (a.1, a.2 ++ [x])
    else
      let keep := x.tags.filter fun t => !a.1.contains (x.level, x.group, t.1)
      let top : PoolTag := (x.level, x.group, poolSize widths x.level - 1)
      let grant := x.granted.isSome && !a.1.contains top
      (a.1 ++ keep.map (fun t => (x.level, x.group, t.1)) ++ (if grant then [top] else []),
       a.2 ++ [{ x with tags := keep, granted := if grant then x.granted else none }])) (seen, [])

/-- The waiting spawners of a pool that its restored list and the restored records show, in the order of R179. -/
def State.waitersOf (s : State) (ctx level : Nat) (group : Word) (old : List (Nat × Word × Nat)) : List (Nat × Word × Nat) :=
  let widths := (s.ctx ctx).image.widths
  let recs := s.allRecords.filter fun e => decide (e.2.2.ctx = ctx) && e.2.2.spv
  let kept := old.filterMap fun w => (recs.find? fun e => decide (e.2.2.wid = w.2.1)).map fun e => (w.1, w.2.1, e.1)
  let new := recs.filterMap fun e =>
    if e.2.2.spl = level ∧ widPrefix widths level e.2.2.wid = group ∧ !kept.any (fun w => decide (w.2.1 = e.2.2.wid)) then
      some (e.2.2.spt, e.2.2.wid, e.1) else none
  let before (x y : Nat × Word × Nat) : Bool := decide (x.1 < y.1) || (decide (x.1 = y.1) && decide (x.2.1.toNat ≤ y.2.1.toNat))
  (kept ++ new).foldl (fun l x => l.takeWhile (fun y => before y x) ++ [x] ++ l.dropWhile fun y => before y x) []

/-- The pools and leases of a context agree with its restored records: a tag is held once, by a record, else by the first lease that
lists it, else it is free at its home. -/
def State.settleTags (s : State) (ctx : Nat) : State :=
  let widths := (s.ctx ctx).image.widths
  let recs := (s.allRecords.map (·.2.2) ++ s.transit).filter fun t => decide (t.ctx = ctx)
  let held : List PoolTag := recs.filterMap fun t => t.tag.map fun x => (t.splvl, widPrefix widths t.splvl t.wid, x)
  let r := s.groves.foldl (fun (a : List PoolTag × Tbl Grove) e =>
    let c := claimTags ctx widths a.1 e.2.leases
    (c.1, a.2 ++ [(e.1, { e.2 with leases := c.2, pools := e.2.pools.filter fun p => !decide (p.ctx = ctx) })])) (held, [])
  let old := s.groves.flatMap fun e => e.2.pools.filter fun p => decide (p.ctx = ctx)
  let keys := (r.1.map (fun t => (t.1, t.2.1)) ++ old.map (fun p => (p.level, p.group)) ++
    recs.filterMap fun t => if t.spv then some (t.spl, widPrefix widths t.spl t.wid) else none).eraseDups
  keys.foldl (fun s k =>
    let size := poolSize widths k.1
    let grant := s.groves.findSome? fun e => e.2.leases.findSome? fun l =>
      if l.ctx = ctx ∧ l.level = k.1 ∧ l.group = k.2 then l.granted else none
    let list := (old.find? fun p => decide (p.level = k.1) && decide (p.group = k.2)).map (·.waiters)
    s.updPool ctx k.1 k.2 fun p =>
      { p with free := (List.range (size - 1)).filter (fun x => !r.1.contains (k.1, k.2, x)),
               resFree := !r.1.contains (k.1, k.2, size - 1), granted := grant,
               waiters := s.waitersOf ctx k.1 k.2 (list.getD []) }) { s with groves := r.2 }

/-- The triad instances of a context are those whose restored records, or whose publications, are left (R193). -/
def State.settleTriads (s : State) (ctx : Nat) : State :=
  let mine := s.triads.filter fun t => decide (t.task.ctx = ctx)
  let all : List (Nat × TaskRec) := s.allRecords.map (fun e => (e.1, e.2.2)) ++ s.transit.map fun t => (4096, t)
  let recs := all.filter fun e => decide (e.2.ctx = ctx) && e.2.triad
  let insts := (recs.map (·.2.inst)).eraseDups
  let new := insts.filterMap fun n =>
    let rs := recs.filter fun e => decide (e.2.inst = n)
    rs.head?.map fun e =>
      let run := mine.find? fun t => decide (t.inst = n) && decide (t.task.replay = e.2.replay)
      let groves := ((rs.map (·.1)).filter (fun g => decide (g < 4096)) ++ (match run with | some t => t.groves | none => [])).eraseDups
      (⟨n, { e.2 with copy := 0 }, groves, (rs.filter fun x => decide (x.2.state = .faulted)).length⟩ : Triad)
  let others := s.triads.filter fun t => !decide (t.task.ctx = ctx)
  let votes := mine.filter fun t => !insts.contains t.inst
  State.sweepTriads { s with triads := others ++ new ++ votes }

/-- Reservations for records in migration: those whose record is on its way, each with an entry (R190). -/
def State.fixReserved (s : State) : State :=
  let going := s.net.filterMap fun p => match p.kind with | .migrate _ i _ _ _ => some (p.dst, 256 * p.src + i) | _ => none
  let s := { s with groves := s.groves.map fun e => (e.1, { e.2 with reservedIn := e.2.reservedIn.filter fun r => going.contains (e.1, r.2) }) }
  going.foldl (fun s e =>
    let gr := s.grove e.1
    if gr.reservedIn.any fun r => decide (r.2 = e.2) then s
    else match gr.freeIndex with
      | some i => s.setGrove e.1 { gr with reservedIn := gr.reservedIn ++ [(i, e.2)] }
      | none => s) s

/-- R393, R394: a context is rolled back to snapshot n. -/
def State.rollbackTo (s : State) (ctx n : Nat) : State :=
  let s := (s.quiesceCtx ctx).restoreMemory ctx n
  match s.snaps.find? fun x => decide (x.ctx = ctx) && decide (x.id = n) && x.done.isSome with
  | none => s
  | some sn =>
    let s : State := { s with snaps := s.snaps.filter fun x => !(decide (x.ctx = ctx) && decide (n < x.id)) }
    let groves := sn.nodes.filter fun k => decide (k.node ≠ 0xFFF)
    let s := groves.foldl (fun s k => s.restoreGrove ctx n sn.nodes sn.logged k) s
    let cores := groves.flatMap (·.cores)
    let s : State := sn.nodes.foldl (fun (s : State) k => k.fetches.foldl (fun s e => s.updRim e.1 fun r => { r with ops := r.ops ++ [e.2] }) s) s
    let s : State := { s with net := (sn.nodes.flatMap fun k => k.reinject s) ++ s.net }
    let s := ((((s.parkColls n cores ctx).fixReserved).settleTags ctx).settleTriads ctx).shootCtx ctx
    let s := groves.foldl (fun s k => k.owedAgain.foldl (fun s e =>
      (s.updGrove k.node fun gr => { gr with regs := gr.regs.map fun r => if r.order = e.1.order then { r with served := false } else r }).serveName
        k.node e.1 e.2) s) s
    s.updCtx ctx fun c =>
      { c with snStat := snWord n (snRolls c.snStat + 1) 0 false, lastRb := n, state := if c.state = .stopped ∨ c.state = .loaded then .running else c.state }

/-! ### Restores (R176, R284, R376, R393) -/

/-- The completions that an image owes for jobs recorded as done (R376). -/
def State.owedEvents (s : State) (core : Nat) : State :=
  ((s.core core).jobs.filter Job.begun).foldl (fun s j =>
    match j.kind with
    | .vec _ _ _ _ => nextOr (execVectorJobComplete core s) s
    | .mat _ _ _ _ _ => nextOr (execMatrixJobComplete core s) s
    | .copy _ _ _ _ _ _ => nextOr (execCopyFinish core j.id s) s
    | .recv _ _ _ _ _ => nextOr (execRecvDeliver core j.id s) s
    | .haloRecv _ _ => nextOr (execRecvDeliver core j.id s) s
    | _ => s) s

/-- The core after its registers and planes have been restored, with what a recorded core held in flight. -/
def Core.overlay (c r : Core) (i : Nat) (pend : List Pend) : Core :=
  let d := c.ords
  let r := { r with pend := pend }.shift d
  { c with
    queues := r.queues, trackers := r.trackers, pend := r.pend, xops := r.xops, imprecise := r.imprecise, kmjob := r.kmjob,
    kscr := r.kscr, jobs := c.jobs ++ r.jobs.map (fun j => { j with owner := i }), board := c.board ++ r.board, ords := r.ords, bord := r.ords,
    inGang := r.inGang, ktrap := r.ktrap, kepc := r.kepc, ktval := r.ktval, branch := r.branch, delay := r.delay, split := r.split }

/-- The mode in which a recorded core goes on. -/
def resumeMode : CoreMode → CoreMode
  | .exiting => .exiting
  | .faulted => .faulted
  | _ => .running

/-- Restores a core from an image of a snapshot. -/
def State.restoreImage (s : State) (core i : Nat) (t : TaskRec) (n k : Nat) : State :=
  match s.imageCore t.ctx n k with
  | none => s
  | some c =>
    let r := c.answered (answersTo (s.snapNodes t.ctx n) k)
    let g := groveOf core
    let key := match t.frame with | some f => s.frameAddr g f | none => scratchFrame
    let s := if t.frame.isSome then s else s.imageFrame t.ctx n k r t.foot scratchFrame
    let s := s.readFrame core key t.ctx t.foot
    let s : State := if t.frame.isSome then s
      else { s with mem := Memory.clear (Memory.clear s.mem scratchFrame 0x6C000) (synKey scratchFrame) (0x6C000 / 8) }
    let d := (s.core core).ords
    let s := s.updCore core fun c => { c.overlay r i t.pend with mode := resumeMode r.mode }
    let sets := match s.nodeAt t.ctx n (groveOf k) with | some x => x.grove.collSets | none => []
    let move (m : Tbl CollSet) (cls : Nat) : Tbl CollSet := match Tbl.get? sets (k % 4 * 2 + cls) with
      | some x => Tbl.set m (core % 4 * 2 + cls) { x with active := x.active.map (· + d), queue := x.queue.map (· + d) }
      | none => m
    let s := s.updGrove g fun gr => { gr with collSets := (List.range 2).foldl move gr.collSets }
    (s.unpark n k core d).owedEvents core

/-- R176, R284, R393: a restore ends: from its frame, or from the image a rollback left; held triggered jobs enter, and the first
bundle issues. -/
def execRestoreComplete (g i : Nat) (s : State) : Host.Outcome State Fault Refusal :=
  match (s.grove g).task? i with
  | none => .next s
  | some t =>
    let core := 4 * g + t.slot
    match (s.core core).mode with
    | .starting at_ true =>
      if !t.oncore ∨ (s.core core).task ≠ i ∨ s.clk < at_ then .next s
      else
        let s := match t.imageSnap with
          | some (n, k) => s.restoreImage core i t n k
          | none =>
            let key := s.frameAddr g (t.frame.getD 0)
            let still (p : Pend) : Pend := { p with wait := (match p.wait with
              | .chunks x l _ => .chunks x l 0 | .phase b x _ => .phase b x 0 | .colls h _ => .colls h 0 | w => w) }
            (s.readFrame core key t.ctx t.foot).updCore core fun c => { c with mode := .running, pend := t.pend.map still }
        let s := (s.giveFrame g i).updTask g i fun t => { t with saved := false, imageSnap := none, pend := [] }
        .next ((s.updCore core fun c => { c with next := s.clk, latch := .none }).enterHeld core t.uid)
    | _ => .next s

end Sys2Proof.Machine
end

