-- ==== Sys2Proof/Machine/Rim.lean ====
section
/-!
DEFINITION. The rim fields: fetches and write-backs of the rim agents (R400 to R405), remote requests at both ends (R406 to
R408), the token (R59, R409) and the patrol scrubber (R410).
-/

namespace Sys2Proof.Machine

/-! ### The backing of a tile (R402) -/

/-- Tile extent along shape dimension k. -/
def Tensor.tile (t : Tensor) (k : Nat) : Nat := if k < t.ndim then t.tiles.getD k 1 else 1
/-- Tensor extent along shape dimension k. -/
def Tensor.dim (t : Tensor) (k : Nat) : Nat := if k < t.ndim then t.dims.getD k 1 else 1
/-- The origin of a tile along shape dimension k. -/
def Tensor.origin (t : Tensor) (n : Name) (k : Nat) : Nat := if k < t.ndim then n.coord (t.ndim - 1 - k) * t.tile k else 0

/-- The valid extents of a tile (R288). -/
def Tensor.valid (t : Tensor) (n : Name) : List Nat :=
  (List.range 4).map fun k => min (t.tile k) (t.dim k - t.origin n k)

/-- The bytes of a whole tile's payload (R288). -/
def Tensor.payload (t : Tensor) : Nat := (Fmt.ofBank t.fmt).rowBytes (t.tile 0) * t.tile 1 * t.tile 2 * t.tile 3

/-- The number of a tile's slot (R402). -/
def Tensor.slotNo (t : Tensor) (n : Name) : Nat :=
  (List.range (t.ndim - 1)).foldl (fun i j => i * t.count (t.ndim - 2 - j) + n.coord (j + 1)) (n.coord 0)

/-- The rows of a tile's valid extent: offset in the payload and virtual address (R402). -/
def Tensor.rows (t : Tensor) (n : Name) (valid : List Nat) : List (Nat × Nat) :=
  let f := Fmt.ofBank t.fmt
  let v (k : Nat) := valid.getD k 1
  let o (k : Nat) := t.origin n k
  (List.range (v 1 * v 2 * v 3)).map fun r =>
    let i1 := r % v 1
    let i2 := r / v 1 % v 2
    let i3 := r / (v 1 * v 2)
    let off := f.rowBytes (t.tile 0) * (i1 + t.tile 1 * (i2 + t.tile 2 * i3))
    if t.tiled then (off, t.base + t.slotNo n * ((t.payload + 63) / 64 * 64) + off)
    else (off, t.base + f.rowBytes (t.dim 0) * (o 1 + i1 + t.dim 1 * (o 2 + i2 + t.dim 2 * (o 3 + i3))) + f.rowBytes (o 0))

/-- The low bits of byte j of a row that its first v elements occupy. -/
def keptBits (f : Fmt) (v j : Nat) : Nat :=
  match f with
  | .db8 => if 32 ≤ j % 34 ∨ 32 * (j / 34) + j % 34 < v then 8 else 0
  | .db4 => if 16 ≤ j % 18 then 8 else min 8 (4 * (v - (32 * (j / 18) + 2 * (j % 18))))
  | f => min 8 (v * f.width - 8 * j)

/-- A row with the bits beyond its first v elements zero (R402). -/
def clipRow (f : Fmt) (v : Nat) (row : Payload) : Payload :=
  row.zipIdx.map fun e =>
    let n := keptBits f v e.2
    if n = 0 then some 0 else e.1.map fun b => b &&& BitVec.ofNat 8 (2 ^ n - 1)

/-! ### Agents (R401, R403, R404) -/

/-- Write-backs of an operation's name that its agent holds. -/
def Rim.writebacks (r : Rim) (o : RimOp) : List RimOp :=
  r.ops.filter fun p => !p.fetch && decide (p.ctx = o.ctx) && decide (p.name = o.name)

/-- The fault tile of a rim agent (R405), published by the grove of the root concerned. -/
def State.rimTile (s : State) (o : RimOp) (xc addr : Nat) : State :=
  s.faultTile o.root o.ctx
    { kind := Kind.xlate.code, src := 9, ktrap := 0, kepc := 0, ktval := 0, final := false, gang := false,
      name := some (o.name, o.ver),
      detail := natBytes 1 (if o.fetch then 1 else 2) ++ natBytes 1 xc ++ natBytes 2 o.ver ++ natBytes 4 0 ++ natBytes 8 addr } none 0

/-- Removes operation k of a rim field. -/
def State.dropRimOp (s : State) (rim k : Nat) : State := s.updRim rim fun r => { r with ops := r.ops.eraseIdx k }

/-- A fetch has failed: its tile goes out, and the root may ask again for a later subscription (R403). -/
def State.failFetch (s : State) (rim k : Nat) (o : RimOp) (xc addr : Nat) : State :=
  ((s.dropRimOp rim k).rimTile o xc addr).updGrove o.root fun gr =>
    match gr.nameRec o.ctx o.name with
    | some r => gr.setNameRec { r with fetching := false }
    | none => gr

/-- Puts bytes into a payload. -/
def patch (p : Payload) (off : Nat) (b : Payload) : Payload := p.take off ++ b ++ p.drop (off + b.length)

/-- Reads the valid extent of a tile, up to the first failing byte; the error is the cause and the first failing address. -/
def State.readTile (s : State) (ctx : Nat) (t : Tensor) (n : Name) (valid : List Nat) : State × Except (Nat × Nat) Payload :=
  let f := Fmt.ofBank t.fmt
  let v := valid.getD 0 1
  (t.rows n valid).foldl (fun (acc : State × Except (Nat × Nat) Payload) e =>
    match acc.2 with
    | .error _ => acc
    | .ok d =>
      let r := acc.1.readVa ctx e.2 (f.rowBytes v)
      (r.1, r.2.map fun b => patch d e.1 (clipRow f v b))) (s, .ok (List.replicate t.payload (some 0)))

/-- The chunk packets of a rim publication leave for its root, stamped now (R310). -/
def State.sendRimPub (s : State) (rim : Nat) (o : RimOp) : State :=
  let n := chunksIn o.data.length
  (List.range n).foldl (fun s i =>
    s.send (mkPkt o.ctx o.name (.pubChunk o.agent 3 i n false false o.ver o.valid) (2592 + rim) o.root false s.tick
      (chunkOf o.data i) 0 s.clk)) s

/-- Is the write-back of an older version of an operation's name still on its way, or has its root still to send it: a vote whose chunks
have not all been forwarded? -/
def State.olderWriteback (s : State) (o : RimOp) : Bool :=
  s.net.any (fun p => match p.kind with
    | .writeback v _ _ => decide (p.ctx = o.ctx) && decide (p.name = o.name) && newerVer o.ver v
    | _ => false) ||
  (!isFar o.root && (s.grove o.root).versions.any fun v => decide (v.ctx = o.ctx) && decide (v.name = o.name) && v.keep &&
    !v.vote.isEmpty && decide (v.forwarded.length < chunksIn v.data.length) &&
    (match v.ver with | some n => newerVer o.ver n | none => false))

/-- Does the rule on names hold an operation back (R403): a fetch behind the write-backs of its name that its agent holds, a write-back
behind those of older versions (R308)? -/
def State.rimHeld (s : State) (r : Rim) (o : RimOp) : Bool :=
  if o.fetch then o.data.isEmpty && !(r.writebacks o).isEmpty
  else s.olderWriteback o || (r.writebacks o).any fun p => newerVer o.ver p.ver

/-- Is operation k of a rim field among the 64 that its agent keeps in flight (R403)? Those that the rule on names holds back take no
place. -/
def State.rimFlight (s : State) (rim k : Nat) : Bool :=
  let r := s.rim rim
  match r.ops[k]? with
  | none => false
  | some o => decide (((r.ops.take k).filter fun p => decide (p.agent = o.agent) && !s.rimHeld r p).length < 64)

/-- Can operation k of a rim field go on as a fetch: start, or be sent again after a refusal? -/
def State.fetchGoes (s : State) (rim k : Nat) : Bool :=
  match (s.rim rim).ops[k]? with
  | none => false
  | some o =>
    o.fetch && s.rimFlight rim k &&
    (if o.data.isEmpty then !s.rimHeld (s.rim rim) o
     else match o.retryAt with | some t => decide (t ≤ s.tick) | none => false)

/-- R403: the holder of a tensor fetches a tile and publishes it. -/
def execRimFetch (rim k : Nat) (s : State) : Host.Outcome State Fault Refusal :=
  match (s.rim rim).ops[k]? with
  | none => .next s
  | some o =>
    if !s.fetchGoes rim k then .next s
    else if !o.data.isEmpty then
      let o := { o with retryAt := none }
      .next ((s.updRim rim fun r => { r with ops := r.ops.set k o }).sendRimPub rim o)
    else
      match ((s.ctx o.ctx).image.tensor? o.name.handle).filter (·.backed) with
      | none => .next (s.failFetch rim k o xcRange 0)
      | some t =>
        let valid := t.valid o.name
        let x := s.readTile o.ctx t o.name valid
        match x.2 with
        | .error e => .next (x.1.failFetch rim k o e.1 e.2)
        | .ok d =>
          let o := { o with data := d, valid := valid }
          .next ((x.1.updRim rim fun r => { r with ops := r.ops.set k o }).sendRimPub rim o)

/-- Writes the valid extent of a tile, up to the first failing byte. -/
def State.writeTile (s : State) (ctx : Nat) (t : Tensor) (n : Name) (valid : List Nat) (data : Payload) : State × Option (Nat × Nat) :=
  let f := Fmt.ofBank t.fmt
  let v := valid.getD 0 1
  (t.rows n valid).foldl (fun (acc : State × Option (Nat × Nat)) e =>
    match acc.2 with
    | some _ => acc
    | none => acc.1.writeVa ctx e.2 (clipRow f v ((data.drop e.1).take (f.rowBytes v)))) (s, none)

/-- Can operation k of a rim field be performed as a write-back (R308: versions of a name in order)? -/
def State.writebackGoes (s : State) (rim k : Nat) : Bool :=
  match (s.rim rim).ops[k]? with
  | none => false
  | some o => !o.fetch && s.rimFlight rim k && !s.rimHeld (s.rim rim) o

/-- R404: a write-back is performed at its homes, and its root hears of it. -/
def execKeepWriteback (rim k : Nat) (s : State) : Host.Outcome State Fault Refusal :=
  match (s.rim rim).ops[k]? with
  | none => .next s
  | some o =>
    if !s.writebackGoes rim k then .next s
    else
      let s := s.dropRimOp rim k
      match ((s.ctx o.ctx).image.tensor? o.name.handle).filter (·.backed) with
      | none => .next (s.rimTile o xcRange 0)
      | some t =>
        let r := s.writeTile o.ctx t o.name o.valid o.data
        match r.2 with
        | some e => .next (r.1.rimTile o e.1 e.2)
        | none => .next (r.1.send (mkPkt o.ctx o.name (.wbDone o.ver) (2592 + rim) o.root false s.tick [] 0 s.clk))

/-! ### Remote requests at their sender (R407) -/

/-- The request that a core's queue entry `k` = queue · 16 + place stands for. -/
def Core.entryAt (c : Core) (k : Nat) : Option QEntry := (c.queue (k / 16))[k % 16]?

/-- Is a request on its way to another module as a store or atomic? -/
def State.isRemote (s : State) (core : Nat) (e : QEntry) : Bool :=
  decide (e.state = .sent) && decide (e.kind ≠ .load) &&
  (match s.requestPlace core e with | some (.ok (.remote _ _ _)) => true | _ => false)

/-- Is slot k's operation on its way to another module, and where? -/
def State.slotRemote (s : State) (g k : Nat) : Option (Nat × Nat × Nat) :=
  let t := (s.grove g).slot k
  if t.state = .active ∧ slKind t.image = 5 ∧ t.first ≠ 0 ∧ t.fin.isNone then
    match s.amoPlace g t with
    | some (.ok (.remote m sl off)) => some (m, sl, off)
    | _ => none
  else none

/-- Retransmits a core's request (R407). -/
def State.resendCore (s : State) (core k : Nat) : State :=
  match (s.core core).entryAt k with
  | none => s
  | some e =>
    if s.isRemote core e && decide (e.last + 2000 ≤ s.tick) && decide (s.tick < e.first + 20000) then
      match s.requestPlace core e with
      | some (.ok (.remote m sl off)) =>
        (s.remoteOut (s.core core).ctxNo m sl (remoteSource (s.ctx (s.core core).ctxNo).member core) e.seq (queueClass (k / 16))
          e.kind.code e.sz.toNat off e.data e.data2 e.first).updCore core fun x =>
            { x.putEntry (k / 16) { e with last := s.tick } with seqs := seqRenew x.seqs (seqKey m sl (queueClass (k / 16))) e.seq s.tick }
      | _ => s
    else s

/-- Retransmits a trigger engine's request (R407); its ticks are kept one higher, zero standing for none. -/
def State.resendSlot (s : State) (g k : Nat) : State :=
  let t := (s.grove g).slot k
  match s.slotRemote g k with
  | none => s
  | some (m, sl, off) =>
    if t.last + 2000 ≤ s.tick + 1 ∧ s.tick + 1 < t.first + 20000 then
      let a := t.amo
      (s.remoteOut t.ctx m sl (remoteSource (s.ctx t.ctx).member (32768 + g)) t.seq (slClass t.image) a.1.code a.2.1.toNat off
        a.2.2.2.1 a.2.2.2.2 (t.first - 1)).updGrove g fun x =>
          { x.updSlot k (fun t => { t with last := s.tick + 1 }) with
            trigSeqs := seqRenew x.trigSeqs (seqKey m sl (slClass t.image)) t.seq s.tick }
    else s

/-- R407: a request without an answer is sent again 2,000 ticks after its last sending (`core` 32,768 + g: slot k of grove g). -/
def execRemoteRetransmit (core k : Nat) (s : State) : Host.Outcome State Fault Refusal :=
  if 32768 ≤ core then .next (s.resendSlot (core - 32768) k) else .next (s.resendCore core k)

/-- R407: a request fails with XLATE cause RANGE 20,000 ticks after its first sending. -/
def execRemoteRequestExpire (core k : Nat) (s : State) : Host.Outcome State Fault Refusal :=
  if 32768 ≤ core then
    let g := core - 32768
    let t := (s.grove g).slot k
    if (s.slotRemote g k).isSome && decide (t.first + 20000 ≤ s.tick + 1) then
      .next (s.updGrove g fun x => x.endSlot k Kind.xlate.code xcRange t.amo.2.2.1)
    else .next s
  else
    match (s.core core).entryAt k with
    | none => .next s
    | some e =>
      if s.isRemote core e && decide (e.first + 20000 ≤ s.tick) then
        .next (s.updCore core fun x => x.putEntry (k / 16) (e.finish (.error (Kind.xlate.code, xcRange))))
      else .next s

/-! ### Remote requests at their slice (R408) -/

/-- The kind of a request by its number on the fabric. -/
def QKind.ofCode (n : Nat) : QKind :=
  if n = 0 then .store else if n < 16 then .amo (n - 1) else if n < 32 then .seq (n - 16) else .load

/-- The context whose window in a slice holds an offset, among contexts that run in a gang. -/
def State.windowOwner (s : State) (slice off : Nat) : Option Nat :=
  (List.range 64).find? fun c => decide (1 < (s.ctx c).nmem) && s.inWindow c slice off

/-- Must a request wait for the token (R409)? -/
def State.needsToken (s : State) (slice : Nat) (r : RemoteReq) : Bool :=
  (QKind.ofCode r.op).isSeq &&
  (match s.windowOwner slice r.off with | some c => s.isSync c slice r.off | none => false)

/-- Performs a request at its slice: result, failure code and the state after it. -/
def State.performRemote (s : State) (slice : Nat) (r : RemoteReq) : Word × Nat × State :=
  match s.windowOwner slice r.off with
  | none => (0, Kind.xlate.code + 16 * xcWindow, s)
  | some c =>
    if (QKind.ofCode r.op).isSeq && !s.isSync c slice r.off then (0, Kind.xlate.code + 16 * xcNotSync, s)
    else
      let p := s.performAt (.slice slice r.off) (QKind.ofCode r.op) (BitVec.ofNat 3 r.sz) r.val r.new c
      match p.1 with
      | .ok v => (if r.op = 0 then 0 else v, 0, p.2)
      | .error f => (0, f.1 + 16 * f.2, p.2)

/-- The key of a source's expected number at a slice. -/
def RemoteReq.key (r : RemoteReq) : Nat := r.source * 2 + (if r.cls then 1 else 0)

/-- Answers a request, by the port of the answer's route; where no context of a gang has the window, by the port the request came by
(R370, R418). -/
def State.answerRemote (s : State) (slice : Nat) (r : RemoteReq) (v : Word) (fail : Nat) : State :=
  let m := r.source / 2 ^ 16
  let port := match s.windowOwner slice r.off with
    | some c => portOf (s.ctx c) m (BitVec.ofNat 64 (r.source + slice * 2 ^ 23))
    | none => r.port
  { s with out := s.out ++ [Out.reply m port r.source r.seq slice v fail] }

/-- Has a request's failure been reported to its source: is it 20,000 ticks since its first sending (R407)? -/
def RemoteReq.expired (r : RemoteReq) (tick : Nat) : Bool := decide (r.first + 20000 ≤ tick)

/-- Drops the requests held at a slice whose failure has been reported; what follows such a one is next expected (R407, R408; log entry
34). -/
def State.dropExpired (s : State) (slice : Nat) : State :=
  s.updSlice slice fun x =>
    let gone := x.waiting.filter fun w => w.expired s.tick
    let past (t : Tbl Nat) (w : RemoteReq) : Tbl Nat :=
      if (w.seq + 65536 - Tbl.getD t w.key 0) % 65536 < 32768 then Tbl.set t w.key ((w.seq + 1) % 65536) else t
    { x with waiting := x.waiting.filter fun w => !w.expired s.tick, expect := gone.foldl past x.expect }

/-- Performs a request, stores its result, answers it and expects the next (R408). -/
def State.serveRemote (s : State) (slice : Nat) (r : RemoteReq) : State :=
  let p := s.performRemote slice r
  let s := p.2.2.answerRemote slice r p.1 p.2.1
  s.updSlice slice fun x =>
    { x with dups := (x.dups.filter fun d => decide (s.tick < d.made + 40000)) ++ [⟨r.source, r.seq, r.cls, p.1, p.2.1, s.tick⟩],
             expect := Tbl.set x.expect r.key ((r.seq + 1) % 65536),
             waiting := x.waiting.filter fun w => !(decide (w.key = r.key) && decide (w.seq = r.seq)) }

/-- Is the window full of young entries (R408)? -/
def Slice.full (x : Slice) (tick : Nat) : Bool := decide (4096 ≤ (x.dups.filter fun d => decide (tick < d.made + 40000)).length)

/-- Refuses a request and the held requests that follow it (R408). -/
def Slice.refuse (x : Slice) (key : Nat) : Nat → Nat → Slice
  | 0, _ => x
  | fuel + 1, seq =>
    let x := { x with dupRefused := min (x.dupRefused + 1) 65535,
                      waiting := x.waiting.filter fun w => !(decide (w.key = key) && decide (w.seq = seq)) }
    let nxt := (seq + 1) % 65536
    if x.waiting.any fun w => decide (w.key = key) && decide (w.seq = nxt) then Slice.refuse x key fuel nxt else x

/-- Serves the held requests whose turn has come, but for those that wait for the token. -/
def State.serveHeld (s : State) (slice : Nat) : Nat → State
  | 0 => s
  | fuel + 1 =>
    let x := s.sliceOf slice
    match x.waiting.find? fun w => decide (Tbl.getD x.expect w.key 0 = w.seq) && !s.needsToken slice w with
    | none => s
    | some w =>
      if x.full s.tick then (s.updSlice slice fun x => x.refuse w.key x.waiting.length w.seq).serveHeld slice fuel
      else (s.serveRemote slice w).serveHeld slice fuel

/-- A store or atomic comes to a slice (R408); one whose failure has been reported is not performed any more (R407). -/
def State.takeRemote (s : State) (slice : Nat) (r : RemoteReq) : State :=
  let x := s.sliceOf slice
  let serve (s : State) : State :=
    let s := s.dropExpired slice
    s.serveHeld slice ((s.sliceOf slice).waiting.length + 1)
  match x.dups.find? fun d => decide (d.source = r.source) && decide (d.seq = r.seq) && decide (d.cls = r.cls) with
  | some d =>
    (s.answerRemote slice r d.result d.fail).updSlice slice fun x => { x with dupHits := min (x.dupHits + 1) 65535 }
  | none =>
    if x.waiting.any fun w => decide (w.key = r.key) && decide (w.seq = r.seq) then serve s
    else serve (s.updSlice slice fun x => { x with waiting := x.waiting ++ [r] })

/-- The bytes of a granule of a copy of another module: those of its lower and of its upper word, of which 64 plus 1 and 2 say that they
carry poison (R52, R60). -/
def granuleBytes (op sz off : Nat) (v w : Word) : Payload :=
  let n := min sz (16 - off % 16)
  let lower := if off % 16 < 8 then min n (8 - off % 8) else 0
  let part (bad : Bool) (len : Nat) (x : Word) : Payload := if bad then List.replicate len none else goodBytes (natBytes len x.toNat)
  part ((op - 64).testBit 0) lower v ++ part ((op - 64).testBit 1) (n - lower) w

/-- A request of another module has come to its slice (R408): loads, and the granules that copies write (64 to 67), are performed at
once. -/
def State.serveRequest (s : State) (slice : Nat) (r : RemoteReq) : State :=
  if !s.rimReady (slice / 8) then s
  else if r.op < 32 then s.takeRemote slice r
  else if r.op < 64 then
    let p := s.performRemote slice r
    p.2.2.answerRemote slice r p.1 p.2.1
  else
    match s.windowOwner slice r.off with
    | none => s
    | some c => (s.writePlace (.slice slice r.off) (granuleBytes r.op r.sz r.off r.val r.new) c true).1

/-- A request as the rim node logs it (R372, R373). -/
def RemoteReq.pkt (r : RemoteReq) (ctx slice clk : Nat) : Pkt :=
  let at_ := 2592 + portRim r.port
  { mkPkt ctx noName (.request slice r.source r.seq r.cls r.op r.sz r.off r.val r.new r.first) (farCode (r.source / 2 ^ 16) 0) at_ r.cls r.came
      [] 0 clk with at_ := at_, port := r.port }

/-- R408: a request of another module comes in over a module link's port, first sent at a tick, and arrives at its slice; the rim node logs
it where it has to (R372). -/
def execRemoteRequestArrive (slice src seq : Nat) (cls : Bool) (op sz off : Nat) (v w : BitVec 64) (s : State) :
    Host.Outcome State Fault Refusal :=
  let port := src / 2 ^ 22 % 32
  let r : RemoteReq := ⟨src % 2 ^ 22, seq, cls, op, sz, off, v, w, s.tick, src / 2 ^ 27, port⟩
  let s := match s.windowOwner slice off with
    | some c => let p := r.pkt c slice s.clk; s.logOn 0xFFF (linkChan + 4 * port + p.channel) p
    | none => s
  .next (s.serveRequest slice r)

/-- A request that came in as a packet, or that a rollback has put back (R393), is served at its slice. -/
def State.requestTaken (s : State) (k : Nat) (p : Pkt) : State :=
  match p.kind with
  | .request slice src seq cls op sz off v w first =>
    (s.dropPkt k).serveRequest slice ⟨src, seq, cls, op, sz, off, v, w, s.tick, first, p.port⟩
  | _ => s

/-- R408: an entry of the window retires 40,000 ticks after it was made. -/
def execDupEntryRetire (slice k : Nat) (s : State) : Host.Outcome State Fault Refusal :=
  match (s.sliceOf slice).dups[k]? with
  | none => .next s
  | some d =>
    if d.made + 40000 ≤ s.tick then .next (s.updSlice slice fun x => { x with dups := x.dups.eraseIdx k }) else .next s

/-! ### The token (R59, R409) -/

/-- Who asks for a sequential atomic. -/
inductive SeqAsker where
  | core (k q i : Nat)
  | slot (g k : Nat)
  | remote (slice : Nat) (r : RemoteReq)
deriving DecidableEq, Repr

/-- The sequential atomics that wait at a rim field's controller, with the ticks at which they came. -/
def State.seqWaiting (s : State) (rim : Nat) : List (Nat × SeqAsker) :=
  let here (p : Option (Except (Nat × Nat) Place)) (g ctx : Nat) : Bool := match p with
    | some (.ok (.slice i off)) => decide (i / 8 = rim) && !s.placeHeld g ctx (.slice i off)
    | _ => false
  (s.cores.flatMap fun e => (List.range 8).flatMap fun q => (e.2.queue q).zipIdx.filterMap fun x =>
    if x.1.kind.isSeq && s.mayPerform e.1 x.1 && here (s.requestPlace e.1 x.1) (groveOf e.1) e.2.ctxNo
    then some (x.1.first, .core e.1 q x.2) else none) ++
  (s.groves.flatMap fun e => e.2.slots.filterMap fun x =>
    if decide (x.2.state = .active) && x.2.fin.isNone && decide (slKind x.2.image = 5) && x.2.amo.1.isSeq &&
      here (s.amoPlace e.1 x.2) e.1 x.2.ctx
    then some (x.2.last, .slot e.1 x.1) else none) ++
  ((List.range 8).flatMap fun j =>
    let x := s.sliceOf (8 * rim + j)
    x.waiting.filterMap fun w =>
      if decide (Tbl.getD x.expect w.key 0 = w.seq) && s.needsToken (8 * rim + j) w
      then some (w.came, .remote (8 * rim + j) w) else none)

/-- Inserts by arrival. -/
def insertSeq (x : Nat × SeqAsker) (l : List (Nat × SeqAsker)) : List (Nat × SeqAsker) :=
  l.takeWhile (fun y => decide (y.1 ≤ x.1)) ++ [x] ++ l.dropWhile (fun y => decide (y.1 ≤ x.1))

/-- Performs one sequential atomic under the token. -/
def State.performSeq (s : State) : SeqAsker → State
  | .core k q i =>
    (match ((s.core k).queue q)[i]? with
     | none => s
     | some e =>
       match s.requestPlace k e with
       | some (.ok pl) =>
         let r := s.performAt pl e.kind e.sz e.data e.data2 (s.core k).ctxNo
         r.2.updCore k fun x => x.putEntry q (e.finish r.1)
       | _ => s)
  | .slot g k =>
    let t := (s.grove g).slot k
    let a := t.amo
    (match s.amoPlace g t with
     | some (.ok pl) =>
       let r := s.performAt pl a.1 a.2.1 a.2.2.2.1 a.2.2.2.2 t.ctx
       r.2.updGrove g fun x => x.endAmo k r.1
     | _ => s)
  | .remote slice r =>
    let x := s.sliceOf slice
    let s := if r.expired s.tick then s.dropExpired slice
      else if x.full s.tick then s.updSlice slice fun x => x.refuse r.key x.waiting.length r.seq else s.serveRemote slice r
    s.serveHeld slice ((s.sliceOf slice).waiting.length + 1)

/-- Performs waiting operations under the token, the first to have come each time, as many as a visit allows (R409): one that is performed
may give the next of its source its turn. -/
def State.performSeqs (s : State) (rim : Nat) : Nat → State
  | 0 => s
  | fuel + 1 =>
    match (s.seqWaiting rim).foldl (fun a x => insertSeq x a) [] with
    | [] => s
    | x :: _ => (s.performSeq x.2).performSeqs rim fuel

/-- The ready rim field that the token visits after a rim field. -/
def State.nextRim (s : State) (rim : Nat) : Nat :=
  ((((List.range 12).map fun i => (rim + 1 + i) % 12).find? s.rimReady)).getD rim

/-- R409: the token visits a controller, which performs up to eight waiting operations, and goes on to the next. -/
def execTokenVisit (rim : Nat) (s : State) : Host.Outcome State Fault Refusal :=
  let t := s.trunk
  if t.tokenLost || decide (t.token ≠ rim) || !s.rimReady rim || decide (s.clk < t.tokenAt) then .next s
  else
    let s := s.performSeqs rim 8
    let n := s.nextRim rim
    .next (s.updTrunk fun t =>
      { t with token := n, tokenAt := s.clk + 36, tokenZero := if n ≤ rim then s.tick else t.tokenZero })

/-- R409: a token that has not come back within 1 µs is made anew at rim field 0, or at the first ready rim field. -/
def execTokenRegenerate (s : State) : Host.Outcome State Fault Refusal :=
  if s.trunk.tokenLost && decide (s.trunk.tokenZero + 1000 ≤ s.tick) then
    .next (s.updTrunk fun t => { t with token := s.nextRim 11, tokenLost := false, tokenAt := s.clk, tokenZero := s.tick })
  else .next s

/-! ### Scrubbing (R410, R411) -/

/-- The physical address of a word of a stack, where a partition maps the stack (R431). -/
def State.stackWord (s : State) (stack pos : Nat) : Option Nat :=
  (List.range 4).findSome? fun p =>
    let w := s.ilv p
    if s.trunk.partExists p && w.getLsbD 63 && w.getLsbD stack then
      let l := ilvStacks w
      let gsh := (w.extractLsb' 48 6).toNat
      let a := pos * 8
      let g := a / 2 ^ gsh * l.length + (l.takeWhile fun x => decide (x ≠ stack)).length
      some ((w.extractLsb' 36 6).toNat * 2 ^ 36 + g * 2 ^ gsh + a % 2 ^ gsh)
    else none

/-- May a stack's scrubber read its next word? -/
def State.scrubDue (s : State) (stack : Nat) : Bool :=
  s.ready.hbmStacks.getLsbD stack && (s.stack stack).scrub.getLsbD 63 && decide ((s.stack stack).due ≤ s.scrubTime)

/-- R410: the patrol scrubber reads a word, and rewrites it where it is not good. -/
def execScrubStep (stack : Nat) (s : State) : Host.Outcome State Fault Refusal :=
  if !s.scrubDue stack then .next s
  else
    let k := s.stack stack
    let go (s : State) : State := s.updStack stack fun k =>
      { k with pos := (k.pos + 1) % 2 ^ 33, passes := if k.pos + 1 = 2 ^ 33 then (k.passes + 1) % 65536 else k.passes,
               due := k.due + max (k.scrub.extractLsb' 0 24).toNat 1 }
    match s.stackWord stack k.pos with
    | none => .next (go s)
    | some key =>
      match syndrome (synOf s.mem key) with
      | .uncorrectable =>
        .next (go ({ s with mem := poisonWord s.mem key }.updStack stack fun k => { k with uncorr := min (k.uncorr + 1) 65535 }))
      | .corrected _ =>
        let w := (readWord? s.mem key).getD 0
        .next (go (({ s with mem := storeWord s.mem key w }.updStack stack fun k =>
          { k with corr := min (k.corr + 1) (2 ^ 32 - 1) }).updTrunk fun t => { t with cecHbm := t.cecHbm + 1 }))
      | _ => .next (go s)

end Sys2Proof.Machine
end

