-- ==== Sys2Proof/Machine/Sha.lean ====
section
/-!
DEFINITION. SHA-256, which R438 and R439 use: digests of firmware, launch images and supervisor images.
-/

namespace Sys2Proof.Machine

/-- The round constants of SHA-256. -/
def shaK : List (BitVec 32) :=
  [0x428a2f98, 0x71374491, 0xb5c0fbcf, 0xe9b5dba5, 0x3956c25b, 0x59f111f1, 0x923f82a4, 0xab1c5ed5] ++
  [0xd807aa98, 0x12835b01, 0x243185be, 0x550c7dc3, 0x72be5d74, 0x80deb1fe, 0x9bdc06a7, 0xc19bf174] ++
  [0xe49b69c1, 0xefbe4786, 0x0fc19dc6, 0x240ca1cc, 0x2de92c6f, 0x4a7484aa, 0x5cb0a9dc, 0x76f988da] ++
  [0x983e5152, 0xa831c66d, 0xb00327c8, 0xbf597fc7, 0xc6e00bf3, 0xd5a79147, 0x06ca6351, 0x14292967] ++
  [0x27b70a85, 0x2e1b2138, 0x4d2c6dfc, 0x53380d13, 0x650a7354, 0x766a0abb, 0x81c2c92e, 0x92722c85] ++
  [0xa2bfe8a1, 0xa81a664b, 0xc24b8b70, 0xc76c51a3, 0xd192e819, 0xd6990624, 0xf40e3585, 0x106aa070] ++
  [0x19a4c116, 0x1e376c08, 0x2748774c, 0x34b0bcb5, 0x391c0cb3, 0x4ed8aa4a, 0x5b9cca4f, 0x682e6ff3] ++
  [0x748f82ee, 0x78a5636f, 0x84c87814, 0x8cc70208, 0x90befffa, 0xa4506ceb, 0xbef9a3f7, 0xc67178f2]

/-- The initial hash value of SHA-256. -/
def shaInit : List (BitVec 32) := [0x6a09e667, 0xbb67ae85, 0x3c6ef372, 0xa54ff53a, 0x510e527f, 0x9b05688c, 0x1f83d9ab, 0x5be0cd19]

/-- Word i of a list of words. -/
def shaAt (l : List (BitVec 32)) (i : Nat) : BitVec 32 := l.getD i 0

/-- The message with its padding (a 1 bit, zeros, the length in bits). -/
def shaPad (b : List Byte) : List Byte :=
  b ++ [(0x80 : Byte)] ++ List.replicate ((119 - b.length % 64) % 64) (0 : Byte) ++
    ((List.range 8).map fun i => BitVec.ofNat 8 ((8 * b.length) >>> (56 - 8 * i)))

/-- Big-endian words of bytes. -/
def shaWords : List Byte → List (BitVec 32)
  | a :: b :: c :: d :: r => (a ++ b ++ c ++ d) :: shaWords r
  | _ => []

/-- The message schedule, most recent word first. -/
def shaSchedule (w : List (BitVec 32)) : List (BitVec 32) :=
  ((List.range 48).foldl (fun r _ =>
    let x (k : Nat) := shaAt r (k - 1)
    let s0 := (x 15).rotateRight 7 ^^^ (x 15).rotateRight 18 ^^^ (x 15) >>> 3
    let s1 := (x 2).rotateRight 17 ^^^ (x 2).rotateRight 19 ^^^ (x 2) >>> 10
    (x 16 + s0 + x 7 + s1) :: r) w.reverse).reverse

/-- One round on the eight working variables. -/
def shaRound (v : List (BitVec 32)) (kw : BitVec 32) : List (BitVec 32) :=
  let x := shaAt v
  let s1 := (x 4).rotateRight 6 ^^^ (x 4).rotateRight 11 ^^^ (x 4).rotateRight 25
  let ch := (x 4 &&& x 5) ^^^ (~~~(x 4) &&& x 6)
  let t1 := x 7 + s1 + ch + kw
  let s0 := (x 0).rotateRight 2 ^^^ (x 0).rotateRight 13 ^^^ (x 0).rotateRight 22
  let maj := (x 0 &&& x 1) ^^^ (x 0 &&& x 2) ^^^ (x 1 &&& x 2)
  [t1 + s0 + maj, x 0, x 1, x 2, x 3 + t1, x 4, x 5, x 6]

/-- One block of 16 words. -/
def shaBlock (h w : List (BitVec 32)) : List (BitVec 32) :=
  let v := (List.zipWith (· + ·) shaK (shaSchedule w)).foldl shaRound h
  List.zipWith (· + ·) h v

/-- Blocks one after another. -/
def shaBlocks : Nat → List (BitVec 32) → List (BitVec 32) → List (BitVec 32)
  | 0, h, _ => h
  | n + 1, h, w => shaBlocks n (shaBlock h (w.take 16)) (w.drop 16)

/-- The digest of bytes, as the number whose little-endian bytes are the digest's in order. -/
def sha256 (b : List Byte) : Nat :=
  let w := shaWords (shaPad b)
  let bytes := (shaBlocks (w.length / 16) shaInit w).flatMap fun (x : BitVec 32) =>
    (List.range 4).map fun (i : Nat) => (x >>> (24 - 8 * i)).toNat % 256
  bytes.foldr (fun x n => n * 256 + x) 0

end Sys2Proof.Machine
end

