-- ==== Sys2Proof/Machine/Load.lean ====
section
/-!
DEFINITION. Launch and supervisor images as bytes: header, section table and sections (R93 to R97, R169 to R171, R286, R287,
R341, R346, R347, R400), and the checks of LOAD_IMAGE (R98, R417). A refusal is its DETAIL code.
-/

namespace Sys2Proof.Machine

/-! ### Sections (R93 to R95) -/

/-- A section table entry. -/
structure Section where
  type : Nat
  sver : Nat
  count : Nat
  off : Nat
  len : Nat
  ent : Nat
  rsv : Nat
deriving DecidableEq, Repr

/-- Entry i of the section table. -/
def sectionAt (b : List Byte) (i : Nat) : Section :=
  let f := fieldOfBytes (b.drop (0x40 + 32 * i))
  ⟨f 0 2, f 2 2, f 4 4, f 8 8, f 16 8, f 24 4, f 28 4⟩

/-- The section table. -/
def sectionsOf (b : List Byte) : List Section := (List.range (fieldOfBytes b 6 2)).map (sectionAt b)

/-- Bytes of a section; none where the image has none of its type. -/
def sectionBytes (b : List Byte) (type : Nat) : List Byte :=
  match (sectionsOf b).find? fun x => decide (x.type = type) with
  | some x => (b.drop x.off).take x.len
  | none => []

/-- Cuts bytes into entries of a size. -/
def entriesOf (size : Nat) (b : List Byte) : List (List Byte) :=
  (List.range (b.length / size)).map fun i => (b.drop (size * i)).take size

/-- The entries of PARM and DATA: a number and bytes each (R97); none where an entry runs past the section. -/
def varEntries : Nat → List Byte → Option (List (Nat × List Byte))
  | 0, _ => some []
  | n + 1, b =>
    if b.isEmpty then some []
    else
      let len := fieldOfBytes b 8 8
      let size := 16 + (len + 15) / 16 * 16
      if b.length < size then none
      else (varEntries n (b.drop size)).map fun r => (fieldOfBytes b 0 8, (b.drop 16).take len) :: r

/-- The entry size of a section type; 0 for variable-length ones. -/
def entSize (type : Nat) : Nat :=
  match type with
  | 1 => 32 | 2 => 16 | 3 => 16 | 4 => 64 | 5 => 64 | 6 => 32 | 7 => 80 | 9 => 272 | 10 => 112 | _ => 0

/-! ### The parts of an image -/

/-- A kernel table entry (R96). -/
def ktabOf (b : List Byte) : KtabEntry := ⟨fieldOfBytes b 0 2, fieldOfBytes b 2 2, BitVec.ofNat 64 (fieldOfBytes b 8 8)⟩

/-- A name-directory entry (R400). -/
def tensorOf (b : List Byte) : Tensor :=
  let f := fieldOfBytes b
  { handle := f 0 3, backed := (f 3 1).testBit 0, tiled := (f 3 1).testBit 1, fault := (f 3 1).testBit 2, fmt := f 4 1 % 16,
    ndim := f 5 1, shift := f 6 1, base := f 8 8,
    dims := (List.range 4).map fun k => f (0x10 + 4 * k) 4 + 1, tiles := (List.range 4).map fun k => f (0x20 + 4 * k) 4 + 1 }

/-- A task template (R170). -/
def templateOf (b : List Byte) : Template :=
  let f := fieldOfBytes b
  { kidx := f 0 2, prio := f 2 1 % 4, foot := BitVec.ofNat 8 (f 3 1), guarded := (f 4 1).testBit 0, triad := (f 4 1).testBit 1,
    gang := (f 4 1).testBit 2, subs := (List.range (min (f 5 1) 8)).map fun i => BitVec.ofNat 64 (f (8 + 8 * i) 8) }

/-- A placement record (R171). -/
def placementOf (b : List Byte) : Placement :=
  let f := fieldOfBytes b
  { tmpl := f 0 2, mode := f 2 1, grove := f 4 2, region := (List.range 4).map fun i => f (8 + i) 1,
    ranges := (List.range 6).map fun i => (f (16 + 16 * i) 8, f (24 + 16 * i) 8) }

/-- A trigger section entry (R341). -/
def trigOf (b : List Byte) : TrigImage := ⟨fieldOfBytes b 0 2, fieldOfBytes b 2 2, (b.drop 16).take 256⟩

/-- The image that bytes hold. -/
def imageOfBytes (b : List Byte) : Image :=
  let h := sectionBytes b 1
  { widths := (List.range 6).map fun i => fieldOfBytes h i 1, dbg := (fieldOfBytes h 6 1).testBit 0,
    faultH := BitVec.ofNat 32 (fieldOfBytes h 8 4), kernels := (entriesOf 16 (sectionBytes b 2)).map ktabOf,
    code := (entriesOf 16 (sectionBytes b 3)).map fun e => BitVec.ofNat 128 (fieldOfBytes e 0 16),
    tensors := (entriesOf 64 (sectionBytes b 4)).map tensorOf, chans := entriesOf 64 (sectionBytes b 5),
    templates := (entriesOf 80 (sectionBytes b 7)).map templateOf,
    params := ((varEntries (b.length + 1) (sectionBytes b 8)).getD []).foldl (fun t e => Tbl.set t e.1 e.2) [],
    trigs := (entriesOf 272 (sectionBytes b 9)).map trigOf, placements := (entriesOf 112 (sectionBytes b 10)).map placementOf,
    digest := sha256 b }

/-- The data blocks of an image: virtual address and bytes (R97). -/
def imageData (b : List Byte) : List (Nat × List Byte) := (varEntries (b.length + 1) (sectionBytes b 11)).getD []

/-! ### Checks (R98, R417) -/

/-- The sections are aligned, in order, apart and within the image. -/
def sectionsFit (b : List Byte) : Bool :=
  let n := fieldOfBytes b 6 2
  let l := sectionsOf b
  decide (3 ≤ n ∧ n ≤ 12) && decide (0x40 + 32 * n ≤ b.length) &&
  (l.foldl (fun (acc : Bool × Nat) x =>
    (acc.1 && decide (x.off % 64 = 0) && decide (acc.2 ≤ x.off) && decide (x.off + x.len ≤ b.length) &&
      decide (x.ent = entSize x.type ∨ 13 ≤ x.type) && (decide (entSize x.type = 0) || decide (x.len = x.count * x.ent)),
     x.off + x.len)) (true, 0x40 + 32 * n)).1 &&
  (varEntries (b.length + 1) (sectionBytes b 8)).isSome && (varEntries (b.length + 1) (sectionBytes b 11)).isSome

/-- The section types are known, of version 1, single, and those that must be there are. -/
def sectionsKnown (b : List Byte) : Bool :=
  let l := sectionsOf b
  let ts : List Nat := l.map fun x => x.type
  l.all (fun x => decide (1 ≤ x.type ∧ x.type ≤ 12) && decide (x.sver = 1)) && decide ts.Nodup && [1, 2, 3].all ts.contains

/-- A task template's reserved fields (R170); a subscription word below NSUB with V = 0 counts as one (log entry 58: the spec does not
say). -/
def taskReserved (b : List Byte) : Bool :=
  let n := fieldOfBytes b 5 1
  !(decide (fieldOfBytes b 4 1 < 8) && zeroBytes b 6 8 && zeroBytes b 0x48 80 &&
    (List.range 8).all fun i =>
      let w := fieldOfBytes b (8 + 8 * i) 8
      if i < n then decide (w / 2 ^ 62 = 2) else decide (w = 0))

/-- Reserved fields of the header and of sections that have no code of their own: in KTAB those of KBANK too (R30), in TRIG those of the
slot images (R326; log entry 58). -/
def reservedClear (b : List Byte) : Bool :=
  let h := sectionBytes b 1
  zeroBytes b 0x12 0x40 && (sectionsOf b).all (fun x => decide (x.rsv = 0)) &&
  decide (fieldOfBytes h 6 1 < 2) && zeroBytes h 7 8 && decide (fieldOfBytes h 11 1 % 128 = 0) && zeroBytes h 16 32 &&
  (entriesOf 16 (sectionBytes b 2)).all (fun e => zeroBytes e 4 8 && zeroBytes e 13 16) &&
  (entriesOf 32 (sectionBytes b 6)).all (fun e => !(parseShape e).2) &&
  (entriesOf 80 (sectionBytes b 7)).all (fun e => !taskReserved e) &&
  (entriesOf 272 (sectionBytes b 9)).all (fun e => zeroBytes e 4 16 && !imageReserved (e.drop 16)) &&
  (entriesOf 112 (sectionBytes b 10)).all (fun e => zeroBytes e 3 4 && zeroBytes e 6 8 && zeroBytes e 12 16)

/-- KERN and KTAB (R98). -/
def kernelsFit (b : List Byte) : Bool :=
  let im := imageOfBytes b
  decide (im.code.length ≤ 4096) && decide (fieldOfBytes (sectionBytes b 1) 14 2 = im.kernels.length) &&
  im.kernels.all fun k => decide (k.entry + k.count ≤ im.code.length) && decide (k.entry < im.code.length)

/-- TASK (R170); a parameter block belongs to a template (R97). -/
def tasksFit (b : List Byte) : Bool :=
  let im := imageOfBytes b
  let n := im.templates.length
  decide (fieldOfBytes (sectionBytes b 1) 12 2 = n) && decide (1 ≤ n ∧ n ≤ 256) &&
  (entriesOf 80 (sectionBytes b 7)).all (fun e => decide (fieldOfBytes e 2 1 < 4) && decide (fieldOfBytes e 5 1 ≤ 8)) &&
  im.templates.all (fun t => decide (t.kidx < im.kernels.length) && (!t.triad || t.guarded)) &&
  im.params.all fun e => decide (e.1 < n)

/-- One entry of TENS (R400). -/
def tensorFits (b : List Byte) : Bool :=
  let t := tensorOf b
  let unit := match Fmt.ofBank t.fmt with
    | .i4 => 2 | .e2m1 => 2 | .e2m3 => 4 | .e3m2 => 4 | .db8 => 32 | .db4 => 32 | _ => 1
  decide (fieldOfBytes b 3 1 < 8) && decide (fieldOfBytes b 4 1 < 16) && zeroBytes b 7 8 && zeroBytes b 0x30 0x40 &&
  decide (1 ≤ t.ndim ∧ t.ndim ≤ 4) && decide (t.base % 64 = 0) &&
  (List.range t.ndim).all (fun k => decide (t.count k ≤ 16384)) && decide (32 ≤ t.payload ∧ t.payload ≤ 65536) &&
  (t.tiled || decide (t.tile 0 % unit = 0))

/-- TENS (R400). -/
def tensorsFit (b : List Byte) : Bool :=
  let l := entriesOf 64 (sectionBytes b 4)
  let ts := l.map tensorOf
  decide (l.length ≤ 4096) && l.all tensorFits && decide (ts.map (·.handle)).Nodup && decide ((ts.filter (·.fault)).length ≤ 1)

/-- The coordinate templates at `base` of a channel entry have a known SEL and a zero byte. -/
def coordsFit (e : List Byte) (base : Nat) : Bool :=
  (List.range 4).all fun j =>
    let sel := fieldOfBytes e (base + 6 * j + 4) 1
    decide (sel < 6 ∨ sel = 0xFF) && zeroBytes e (base + 6 * j + 5) (base + 6 * j + 6)

/-- Coordinate 3 has SEL 0xFF and OFFSET 0. -/
def coord3Free (e : List Byte) (base : Nat) : Bool :=
  decide (fieldOfBytes e (base + 22) 1 = 0xFF) && decide (fieldOfBytes e (base + 20) 2 = 0)

/-- The halo fields of an exchange channel (R287). -/
def haloFits (e : List Byte) (t : Tensor) : Bool :=
  let r := chShape e
  let axes := (List.range 3).filter fun k => (chHalo e).testBit k
  let x (k : Nat) : Nat := match k with | 0 => r.x0 | 1 => r.x1 | _ => r.x2
  decide (chHw e = 0) ||
  (decide (chHw e ≤ 15) && !axes.isEmpty && decide (t.ndim < 4) && decide (chHalo e / 8 % 4 ≠ 3) &&
    decide (8 ≤ (chFmt e).width) && coord3Free e 8 &&
    axes.all fun k => decide (k < t.ndim) && decide (chHw e ≤ x k + 1) && decide (t.dim k % t.tile k = 0))

/-- An exchange channel (R287). -/
def exchangeFits (e : List Byte) (ts : List Tensor) : Bool :=
  match ts.find? fun t => decide (t.handle = chHandle e) with
  | none => false
  | some t =>
    decide (fieldOfBytes e 4 1 < 16) && decide (fieldOfBytes e 6 1 < 64) && coordsFit e 8 && !(parseShape (e.drop 32)).2 &&
    decide (fieldOfBytes e 32 4 = 0) && decide (1 ≤ chDepth e ∧ chDepth e ≤ 16) && decide (32 ≤ chPayload e) &&
    decide (chPayload e ≤ if chExpress e then 4096 else 65536) && (!chKeep e || chBacked e) && (!chBacked e || t.backed) &&
    (!(chFmt e).isDb || (List.range t.ndim).all fun k => decide (t.dim k % t.tile k = 0)) && haloFits e t

/-- A layout map (R363). -/
def mapFits (e : List Byte) : Bool :=
  let n := clMembers e
  decide (fieldOfBytes e 0x39 1 ≤ 4) && decide (mapGdim e < 4) && zeroBytes e 0x3B 0x40 &&
  decide (((List.range 4).map (mapPerm e)).Nodup) && (List.range 4).all (fun d => decide (mapX e d % mapB e d = 0)) &&
  decide (mapNb e 0 * mapNb e 1 * mapNb e 2 * mapNb e 3 = n) && decide (mapB e (mapGdim e) * n ≤ 65536)

/-- A collective channel (R346, R347). -/
def collectiveFits (e : List Byte) (widths : List Nat) : Bool :=
  let ty := clType e
  let n := clMembers e
  let f := fieldOfBytes e 7 1
  let some4 := [1, 2, 3, 4, 9, 10, 11]
  decide (fieldOfBytes e 4 1 < 4) && decide (ty ≤ 5) &&
  (if ty ≤ 1 then decide (clOp e ≤ 5) && some4.contains f && (decide (clOp e < 3) || decide (4 < f))
   else decide (clOp e = 0) && decide (f = 0)) &&
  decide (2 ≤ n ∧ n ≤ 1024) && decide (clMsel e < 6) && decide (widWidth widths (clMsel e) ≠ 0) && coordsFit e 0x10 &&
  (List.range 4).all (fun j => decide (fieldOfBytes e (0x14 + 6 * j) 1 ≠ clMsel e)) && coord3Free e 0x10 &&
  decide (1 ≤ clDepth e ∧ clDepth e ≤ 16) &&
  (match ty with
   | 5 => decide (clCount e = 0) && mapFits e
   | 4 => decide (clRoot e < n) && decide (1 ≤ clCap e ∧ clCap e ≤ 4095) && zeroBytes e 0x2C 0x40
   | 3 => decide (clRoot e < n) && zeroBytes e 0x2A 0x40
   | _ => zeroBytes e 0x28 0x40 && (decide (ty ≠ 1) || decide (clCount e % n = 0))) &&
  [0, clRoot e, (clRoot e + 1) % n].all fun i =>
    let lim := if (fieldOfBytes e 4 1).testBit 0 then 4096 else 393216
    decide (clSrcLen e i ≤ lim) && decide (clDstLen e i ≤ lim)

/-- CHAN (R286, R287, R346, R347). -/
def chansFit (b : List Byte) : Bool :=
  let im := imageOfBytes b
  decide (im.chans.length ≤ 64) && im.chans.all fun e =>
    match chKind e with
    | 0 => true
    | 1 => exchangeFits e im.tensors
    | 2 => collectiveFits e im.widths
    | _ => false

/-- The refusal of image bytes by themselves, received with a length under a firmware level (R98, R417). -/
def imageRefusal (fw len : Nat) (b : List Byte) : Option Nat :=
  if fieldOfBytes b 0 4 ≠ 0x4958594E ∨ fieldOfBytes b 4 2 ≠ 2 then some 1
  else if fw < fieldOfBytes b 16 2 then some 2
  else if fieldOfBytes b 8 8 ≠ len then some 3
  else if !sectionsKnown b then some 6
  else if !sectionsFit b then some 5
  else if !reservedClear b then some 4
  else if !kernelsFit b then some 7
  else if !tasksFit b then some 9
  else if !tensorsFit b then some 11
  else if !chansFit b then some 10
  else none

/-! ### Trailers (R438) -/

/-- What the trailer of a signed image names: firmware level, anti-rollback counter and digest of the image without it. -/
structure Signed where
  fwlvl : Nat
  roll : Nat
  digest : Nat
deriving DecidableEq, Repr

/-- Checks the signature of bytes that end in a trailer (R438); none is AUTH. -/
def signedOf (rollMin : Nat) (revoked : BitVec 2) (b : List Byte) : Option Signed :=
  let body := b.length - 512
  let t := fieldOfBytes (b.drop body)
  let key := t 4 2
  if b.length < 512 ∨ t 0 4 ≠ 0x4E474953 ∨ 1 < key ∨ t 0xC 116 ≠ 0 then none
  else if revoked.getLsbD key ∨ t 8 4 < rollMin then none
  else if Config.signatureOk key (sha256 (b.take (body + 128))) (t 128 384) then some ⟨t 6 2, t 8 4, sha256 (b.take body)⟩
  else none

end Sys2Proof.Machine
end

