-- ==== Sys2Proof/Machine/Mgmt.lean ====
section
/-!
DEFINITION. Writes of the management registers (R155, R35, R47, R48, R177, R309, R312, R343, R390, R391, R411, R428 to R433,
R436, R437): each as an operation that answers none where the register refuses it, then the steps of those registers, and `mrd`
and `mwr` over all of them.
-/

namespace Sys2Proof.Machine

/-- The step that a register write stands for: the write, or nothing where it is refused. -/
def orSame (s : State) (r : Option State) : Host.Outcome State Fault Refusal := .next (r.getD s)

/-! ### Roots, seeds and flushes (R47, R48) -/

/-- The ready groves of a context's partition as positions, after and before the groves of the other members (R47). -/
def State.rootsNow (s : State) (ctx : Nat) : List Nat :=
  let x := s.ctx ctx
  (x.rootList.filter fun r => decide (r / 2592 < x.member)) ++
  ((s.partGroves (partOfCtx ctx)).map fun g => x.member * 2592 + g) ++
  (x.rootList.filter fun r => decide (x.member < r / 2592))

/-- Sends again the subscriptions of a record that have not landed (R48). -/
def State.reissue (s : State) (g i : Nat) : State :=
  match (s.grove g).task? i with
  | none => s
  | some t =>
    if t.state ≠ .armed then s
    else
      let open_ (x : Sub) : Bool := match x.owner with
        | .record k j => decide (k = i) && !(match t.subs[j]? with | some y => y.landed | none => false)
        | _ => false
      (s.updGrove g fun gr => { gr with subs := gr.subs.filter fun x => !open_ x }).sendRecSubs g i

/-- The records of a context. -/
def State.ctxRecords (s : State) (ctx : Nat) : List (Nat × Nat × TaskRec) := s.allRecords.filter fun e => decide (e.2.2.ctx = ctx)

/-- What follows an accepted write of the seed or of an override entry: DONE falls, lists are made anew, and subscriptions of
ARMED tasks are sent again (R47 to R49). -/
def State.rehash (s : State) (ctx : Nat) : State :=
  let s := s.updCtx ctx fun x =>
    { x with flushDone := false, rootList := s.rootsNow ctx, rimList := s.readyRims (partOfCtx ctx) }
  (s.ctxRecords ctx).foldl (fun s e => s.reissue e.1 e.2.1) s

/-- TK_CTX_SEED (R48). -/
def State.writeSeed (s : State) (ctx : Nat) (v : Word) : Option State :=
  if (s.ctx ctx).flushDone then some (((s.updCtx ctx fun x => { x with seed := v }).rehash ctx).settlePools ctx) else none

/-- An entry of TK_CTX_ROOTOVR (R47, R48). -/
def State.writeRootovr (s : State) (ctx i : Nat) (v : Word) : Option State :=
  if (s.ctx ctx).flushDone then
    some (((s.updCtx ctx fun x => { x with rootovr := x.rootovr.setIfInBounds i (v &&& 0x80FFFFFF00FFFFFF) }).rehash ctx).settlePools ctx)
  else none

/-- Is a write-back of a version on its way? -/
def State.wbOpen (s : State) (ctx : Nat) (name : Name) (ver : Nat) : Bool :=
  (s.net.any fun p => decide (p.ctx = ctx) && decide (p.name = name) &&
    (match p.kind with | .writeback v _ _ => decide (v = ver) | .wbDone v => decide (v = ver) | _ => false)) ||
  s.rims.any fun e => e.2.ops.any fun o => !o.fetch && decide (o.ctx = ctx) && decide (o.name = name) && decide (o.ver = ver)

/-- A flush of a context begins (R48): DONE falls, and keep versions not yet written back are sent. -/
def State.startFlush (s : State) (ctx : Nat) : State :=
  let s := s.updCtx ctx fun x => { x with flushing := true, flushDone := false }
  s.groves.foldl (fun s e =>
    (e.2.versions.filter fun v => decide (v.ctx = ctx) && v.keep && !v.rim && !v.wbDone).foldl (fun s v =>
      match v.ver, s.holder ctx v.name.handle with
      | some n, some k =>
        if s.wbOpen ctx v.name n then s
        else s.sendRim ctx v.name (.writeback n e.1 v.valid) e.1 k v.express v.data v.pubWid
      | _, _ => s) s) s

/-- Is a context idle: no RUNNING task, no job in flight, no write-back on its way (R48)? -/
def State.flushIdle (s : State) (ctx : Nat) : Bool :=
  (s.ctxRecords ctx).all (fun e => !e.2.2.oncore) &&
  s.groves.all (fun e => (s.looseJobs ctx e.1).isEmpty) &&
  (s.net.all fun p => !decide (p.ctx = ctx) || (match p.kind with | .writeback _ _ _ => false | .wbDone _ => false | _ => true)) &&
  s.rims.all fun e => e.2.ops.all fun o => o.fetch || !decide (o.ctx = ctx)

/-- What a flush drops of a grove: gallery entries, registrations, match entries and waiting legs of the context. -/
def Grove.flushCtx (gr : Grove) (ctx : Nat) : Grove :=
  { gr with versions := gr.versions.filter (fun v => !decide (v.ctx = ctx)), names := gr.names.filter (fun v => !decide (v.ctx = ctx)),
            regs := gr.regs.filter (fun v => !decide (v.ctx = ctx)), rounds := gr.rounds.filter (fun v => !decide (v.ctx = ctx)),
            matchTab := gr.matchTab.filter (fun v => !decide (v.ctx = ctx)), legs := gr.legs.filter fun v => !decide (v.ctx = ctx) }

/-- Writes back and invalidates the cache lines of a context (R48); homes hold what was written. -/
def State.flushCache (s : State) (ctx : Nat) : State := { s with cache := s.cache.filter fun l => !decide (l.ctx = ctx) }

/-- The effect of a flush once its context is idle. -/
def State.flushNow (s : State) (ctx : Nat) : State :=
  let s : State := { s with groves := s.groves.map fun e => (e.1, e.2.flushCtx ctx) }
  (s.flushCache ctx).updCtx ctx fun x => { x with flushing := false, flushDone := true }

/-- TK_CTX_FLUSH (R48): START starts a flush; it is refused while a snapshot of the context is in progress (R395). -/
def State.writeFlush (s : State) (ctx : Nat) (v : Word) : Option State :=
  if !v.getLsbD 0 then some s else if snInprog (s.ctx ctx).snStat then none else some (s.startFlush ctx)

/-- The counters and slots of a context's grant are reset (R343). -/
def Grove.resetGrant (gr : Grove) (ctx : Nat) : Grove :=
  { gr with counters := gr.counters.filter fun e => !gr.ownsCounter ctx e.1, slots := gr.slots.filter fun e => !gr.ownsSlot ctx e.1 }

/-- Resets a context's grant on every grove of its partition. -/
def State.resetGrants (s : State) (ctx : Nat) : State :=
  { s with groves := s.groves.map fun e => (e.1, if s.trunk.groveIn (partOfCtx ctx) e.1 then e.2.resetGrant ctx else e.2) }

/-- Deletes a context (R419): its windows, grant, translations, pools, barriers and ring records go with it. Its XE_ADMIT and GL_RETAIN
registers keep what they hold (log entry 50: the spec does not say whether they are reset). -/
def State.freeCtx (s : State) (ctx : Nat) : State :=
  let units := s.unitsOf ctx
  let grove (e : Nat × Grove) : Nat × Grove :=
    if !s.trunk.groveIn (partOfCtx ctx) e.1 then e
    else (e.1, { e.2 with
      geGrant := Tbl.del e.2.geGrant (ctx % 16), tlb := e.2.tlb.filter fun t => !decide (t.ctx = ctx),
      pools := e.2.pools.filter fun p => !decide (p.ctx = ctx), leases := e.2.leases.filter fun l => !decide (l.ctx = ctx),
      bars := e.2.bars.filter fun b => !decide (b.1 / 16 = ctx) })
  let rims := s.trunk.partRims (partOfCtx ctx)
  { s with
    wins := s.wins.filter fun e => !units.contains e.1,
    groves := s.groves.map grove,
    fieldTlb := s.fieldTlb.map fun (e : Nat × List TlbEntry) => (e.1, e.2.filter fun t => !decide (t.ctx = ctx)),
    rims := s.rims.map fun (e : Nat × Rim) =>
      (e.1, if rims.contains e.1 then { e.2 with slwin := e.2.slwin.filter fun x => !decide (x.1 / 8 = ctx % 16) } else e.2),
    snaps := s.snaps.filter fun x => !decide (x.ctx = ctx), contexts := Tbl.del s.contexts ctx }

/-- The flush of RESET_CONTEXT is done (R419): the grant is reset, the context accepts LAUNCH again or is deleted, and the commands
are answered. -/
def State.endResets (s : State) (ctx : Nat) : State :=
  if (s.ctx ctx).state ≠ .resetting then s
  else
    let mine := s.trunk.resets.filter fun e => decide (e.2.2.1 = ctx)
    let s := (s.updTrunk fun t => { t with resets := t.resets.filter fun e => !decide (e.2.2.1 = ctx) }).resetGrants ctx
    let s := s.updCtx ctx fun x => { x with state := .loaded }
    let s := if mine.any fun e => e.2.2.2 then s.freeCtx ctx else s
    mine.foldl (fun s e => s.respond e.1 8 e.2.1 0 0 []) s

/-- R48: writing START starts a flush. -/
def execCtxFlush (ctx : Nat) (s : State) : Host.Outcome State Fault Refusal := orSame s (s.writeFlush ctx 1)

/-- R48: a flush completes, and DONE rises. -/
def execFlushComplete (ctx : Nat) (s : State) : Host.Outcome State Fault Refusal :=
  if (s.ctx ctx).flushing && s.flushIdle ctx then .next ((s.flushNow ctx).endResets ctx) else .next s

/-- R48: a write to TK_CTX_SEED. -/
def execSeedWrite (ctx : Nat) (v : BitVec 64) (s : State) : Host.Outcome State Fault Refusal := orSame s (s.writeSeed ctx v)

/-- R48: a write to an override entry. -/
def execRootovrWrite (ctx i : Nat) (v : BitVec 64) (s : State) : Host.Outcome State Fault Refusal :=
  orSame s (s.writeRootovr ctx i v)

/-! ### Slices (R35) -/

/-- Does a window of a running context lie in a slice? -/
def State.sliceInUse (s : State) (slice : Nat) : Bool :=
  (List.range 64).any fun c =>
    (decide ((s.ctx c).state = .running) || decide ((s.ctx c).state = .launched)) &&
    (let w := s.windowOf c slice; decide (w.1 < w.2))

/-- RA_SLICE_SPLIT (R35): the cache region's lines become invalid; a slice that a running context's window covers keeps its
SPLIT. -/
def State.writeSplit (s : State) (slice : Nat) (v : Word) : Option State :=
  if s.sliceInUse slice then none
  else
    let s : State := { s with cache := s.cache.filter fun l => !decide (l.slice = slice) }
    some (s.updSlice slice fun x => { x with split := min (v.toNat % 2048) 1280 })

/-- R35: a write to RA_SLICE_SPLIT. -/
def execSliceSplitWrite (slice : Nat) (v : BitVec 64) (s : State) : Host.Outcome State Fault Refusal := orSame s (s.writeSplit slice v)

/-! ### Partitions and seams (R430 to R433) -/

/-- The valid layouts of TK_PARTMAP (R430). -/
def layouts : List Word := [0xFE4, 0xDE0, 0x7A4, 0x5A0, 0x100]

/-- The partition of a quarter in a TK_PARTMAP word. -/
def mapPart (w : Word) (q : Nat) : Nat := w.toNat / 4 ^ q % 4

/-- TK_SEAMSTAT of a seam. -/
def Trunk.seam (t : Trunk) (k : Nat) : Word := t.seamstat[k]?.getD 0
/-- STATE of a seam. -/
def Trunk.seamState (t : Trunk) (k : Nat) : Nat := ((t.seam k).extractLsb' 0 2).toNat
/-- Changes STATE of a seam. -/
def Trunk.setSeam (t : Trunk) (k st : Nat) : Trunk :=
  { t with seamstat := t.seamstat.setIfInBounds k ((t.seam k &&& ~~~(3 : Word)) ||| BitVec.ofNat 64 (st % 4)) }

/-- The seams between quarters whose grouping a new map changes. -/
def seamsChanged (old new : Word) : List Nat :=
  (List.range 3).filter fun k => decide (mapPart old k = mapPart old (k + 1)) != decide (mapPart new k = mapPart new (k + 1))

/-- TK_PARTMAP (R430). -/
def State.writePartmap (s : State) (v : Word) : Option State :=
  let w := v &&& 0xFFF
  let old := s.trunk.partmap
  let moved := (List.range 4).filter fun q => decide (mapPart old q ≠ mapPart w q)
  if !layouts.contains w then none
  else if moved.any fun q => decide (s.ctxMask (mapPart old q) ≠ 0) then none
  else if (seamsChanged old w).any fun k => decide (s.trunk.seamState k ≠ 1) then none
  else some (s.updTrunk fun t => { t with partmap := w })

/-- R430: a write to TK_PARTMAP. -/
def execPartmapWrite (v : BitVec 64) (s : State) : Host.Outcome State Fault Refusal := orSame s (s.writePartmap v)

/-- The physical range of a TK_ILV word (R431). -/
def ilvRange (w : Word) : Nat × Nat :=
  let b := (w.extractLsb' 36 6).toNat * 2 ^ 36
  (b, b + (ilvStacks w).length * 2 ^ 36)

/-- TK_ILVp (R431). -/
def State.writeIlv (s : State) (p : Nat) (v : Word) : Option State :=
  let w := v &&& 0x803F03F000FFFFFF
  let own := (s.trunk.partRims p).flatMap fun k => [2 * k, 2 * k + 1]
  let r := ilvRange w
  let clash := (List.range 4).any fun q =>
    let o := s.ilv q
    decide (q ≠ p) && o.getLsbD 63 && (let x := ilvRange o; decide (r.1 < x.2) && decide (x.1 < r.2))
  if w.getLsbD 63 && ((ilvStacks w).any (fun k => !own.contains k) || clash) then none
  else some (s.updTrunk fun t =>
    { t with ilv := t.ilv.setIfInBounds p w,
             clearing := if w.getLsbD 63 then t.clearing ||| ((1 : BitVec 4) <<< p) else t.clearing &&& ~~~((1 : BitVec 4) <<< p) })

/-- R431: a write to TK_ILVp; one with V set starts a clear of the range. -/
def execIlvWrite (part : Nat) (v : BitVec 64) (s : State) : Host.Outcome State Fault Refusal := orSame s (s.writeIlv part v)

/-- The clear of a partition's range: zero, with correct check bytes. -/
def State.clearHbm (s : State) (p : Nat) : State :=
  let r := ilvRange (s.ilv p)
  { s with mem := Memory.clear (Memory.clear s.mem r.1 (r.2 - r.1)) (synKey r.1) ((r.2 - r.1) / 8),
           cache := s.cache.filter fun l => !decide (partOfCtx l.ctx = p) }.updTrunk fun t =>
    { t with clearing := t.clearing &&& ~~~((1 : BitVec 4) <<< p) }

/-- R431: the clear of a partition's range ends. -/
def execHbmClearComplete (part : Nat) (s : State) : Host.Outcome State Fault Refusal :=
  if s.trunk.clearing.getLsbD part then .next (s.clearHbm part) else .next s

/-- QUIESCE begins (R432): nothing new enters the seam's queues. When they will be empty is open. -/
def State.startQuiesce (s : State) (k : Nat) (v : Word) : Option State :=
  if s.trunk.seamState k = 1 ∨ (s.trunk.seamBusy[k]?.getD none).isSome ∨ 2 < k then none
  else
    let w := (v.extractLsb' 32 32).toNat
    let f := s.freeWord
    let empty := s.tick + f.1.toNat % 2 ^ 33
    some (f.2.updTrunk fun t =>
      { t with seamctl := t.seamctl.setIfInBounds k (v &&& 0xFFFFFFFF00000003),
               seamBusy := t.seamBusy.setIfInBounds k (some (t.seamState k + 4 * empty, s.tick + (if w = 0 then 65536 else w))) })

/-- R432: QUIESCE of a seam. -/
def execSeamQuiesce (seam : Nat) (v : BitVec 64) (s : State) : Host.Outcome State Fault Refusal := orSame s (s.startQuiesce seam v)

/-- R432: all queues of a seam are empty: it is quiesced. -/
def execSeamQuiesced (seam : Nat) (s : State) : Host.Outcome State Fault Refusal :=
  match s.trunk.seamBusy[seam]?.getD none with
  | some (e, dead) =>
    if e / 4 ≤ s.tick ∧ s.tick < dead then
      .next (s.updTrunk fun t =>
        { t.setSeam seam 1 with
          seamstat := (t.setSeam seam 1).seamstat.setIfInBounds seam (t.seam seam &&& ~~~(7 : Word) ||| 1),
          seamBusy := t.seamBusy.setIfInBounds seam none, seamAns := t.seamAns.setIfInBounds seam (some true) })
    else .next s
  | none => .next s

/-- R432: a quiesce still waiting after TIMEOUT is refused; FLITS, GY and DIR name a queue that is not empty. -/
def execSeamQuiesceTimeout (seam : Nat) (s : State) : Host.Outcome State Fault Refusal :=
  match s.trunk.seamBusy[seam]?.getD none with
  | some (e, dead) =>
    if dead ≤ s.tick then
      let f := s.freeWord
      .next (f.2.updTrunk fun t =>
        { t with seamstat := t.seamstat.setIfInBounds seam (BitVec.ofNat 64
                   ((f.1.toNat % 65535 + 1) * 2 ^ 48 + f.1.toNat / 2 ^ 16 % 54 * 2 ^ 36 + f.1.toNat / 2 ^ 32 % 2 * 2 ^ 35 + 4 + e % 4)),
                 seamBusy := t.seamBusy.setIfInBounds seam none, seamAns := t.seamAns.setIfInBounds seam (some false) })
    else .next s
  | none => .next s

/-- OPEN or CLOSE of a seam (R432). -/
def State.turnSeam (s : State) (k : Nat) (opens : Bool) : Option State :=
  let same := decide (mapPart s.trunk.partmap k = mapPart s.trunk.partmap (k + 1))
  if s.trunk.seamState k = 1 ∧ k < 3 ∧ same = opens then some (s.updTrunk fun t => t.setSeam k (if opens then 2 else 0)) else none

/-- R432: OPEN of a quiesced seam. -/
def execSeamOpen (seam : Nat) (s : State) : Host.Outcome State Fault Refusal := orSame s (s.turnSeam seam true)

/-- R432: CLOSE of a quiesced seam. -/
def execSeamClose (seam : Nat) (s : State) : Host.Outcome State Fault Refusal := orSame s (s.turnSeam seam false)

/-- TK_SHOOT (R44, R433): every grove and field cache of the partition drops the translations named. -/
def State.writeShoot (s : State) (v : Word) : Option State :=
  let p := (v.extractLsb' 60 2).toNat
  let lo := (v.extractLsb' 16 32).toNat * 65536
  let hi := lo + ((v.extractLsb' 0 16).toNat + 1) * 65536
  let hit (e : TlbEntry) : Bool :=
    decide (partOfCtx e.ctx = p) && (v.getLsbD 62 || decide (e.ctx % 16 = (v.extractLsb' 56 4).toNat)) &&
    (v.getLsbD 63 || (decide (e.va < hi) && decide (lo < e.va + 2 ^ e.bits)))
  if !s.trunk.partExists p then none
  else
    let s : State := { s with
      groves := s.groves.map fun (e : Nat × Grove) => (e.1, { e.2 with tlb := e.2.tlb.filter fun t => !hit t }) }
    let s : State := { s with fieldTlb := s.fieldTlb.map fun (e : Nat × List TlbEntry) => (e.1, e.2.filter fun t => !hit t) }
    some (s.updTrunk fun t => { t with shoot := v &&& 0xFF00FFFFFFFFFFFF })

/-- R433: a write to TK_SHOOT. -/
def execShootdown (v : BitVec 64) (s : State) : Host.Outcome State Fault Refusal := orSame s (s.writeShoot v)

/-! ### Grants (R343) -/

/-- Do two grants share a counter or a slot? -/
def grantsMeet (v w : Word) : Bool :=
  let r (x : Word) (b n bits top : Nat) : Nat × Nat :=
    let lo := (x.extractLsb' b bits).toNat
    (lo, min (lo + (x.extractLsb' n (bits + 1)).toNat) top)
  let meets (a b : Nat × Nat) : Bool := decide (max a.1 b.1 < min a.2 b.2)
  meets (r v 0 8 7 128) (r w 0 8 7 128) || meets (r v 33 42 9 512) (r w 33 42 9 512)

/-- GE_GRANT of a context at a grove (R343). -/
def State.writeGrant (s : State) (g ctx : Nat) (v : Word) : Option State :=
  let w := v &&& 0x000FFFFE0000FF7F
  if (s.grove g).geGrant.any fun e => decide (e.1 ≠ ctx % 16) && grantsMeet e.2 w then none
  else some (s.updGrove g fun gr => { gr with geGrant := Tbl.set gr.geGrant (ctx % 16) w })

/-- R343: a write to GE_GRANT. -/
def execGrantWrite (g ctx : Nat) (v : BitVec 64) (s : State) : Host.Outcome State Fault Refusal := orSame s (s.writeGrant g ctx v)

/-! ### All registers (R155, R428, R429) -/

/-- How a write of a management register ends: done, refused, at no register, or only after the register's answer. -/
inductive MgmtEnd where
  | done (s : State)
  | busy
  | range
  | waits
deriving DecidableEq, Repr

/-- A refusal becomes BUSY. -/
def orBusy (r : Option State) : MgmtEnd := match r with | some s => .done s | none => .busy

/-- TK_SEAMCTL of a seam (R432): QUIESCE waits for its answer. -/
def State.writeSeamctl (s : State) (k : Nat) (v : Word) : MgmtEnd :=
  let keep (s : State) : State := s.updTrunk fun t => { t with seamctl := t.seamctl.setIfInBounds k (v &&& 0xFFFFFFFF00000003) }
  match (v.extractLsb' 0 2).toNat with
  | 0 => .done (keep s)
  | 1 =>
    (match s.trunk.seamAns[k]?.getD none with
     | some true => .done (keep s)
     | some false => .busy
     | none => if s.trunk.seamState k = 1 then .busy else .waits)
  | n => orBusy ((s.turnSeam k (decide (n = 2))).map keep)

/-- TK_GOV of a partition (R436). -/
def State.writeGov (s : State) (p : Nat) (v : Word) : Option State :=
  if s.trunk.pwrcap.getLsbD 16 then none
  else
    let b := v.toNat % 2048
    some (s.updTrunk fun t => { t with gov := t.gov.setIfInBounds p (BitVec.ofNat 64 (if b = 0 then 1 else min b 1024)) })

/-- SN_AREA of a context (R390). -/
def State.writeSnArea (s : State) (ctx : Nat) (v : Word) : Option State :=
  if snInprog (s.ctx ctx).snStat then none else some (s.updCtx ctx fun x => { x with snArea := v &&& 0xFFFFFFFFFFE00000 })

/-- A write in the module block (R429); those of the listed read-only registers are ignored (R4). -/
def State.writeModule (s : State) (off : Nat) (v : Word) : MgmtEnd :=
  match off with
  | 0x10 => orBusy (s.writePartmap v)
  | 0x20 => s.writeSeamctl 0 v
  | 0x28 => s.writeSeamctl 1 v
  | 0x30 => s.writeSeamctl 2 v
  | 0x60 => orBusy (s.writeIlv 0 v)
  | 0x68 => orBusy (s.writeIlv 1 v)
  | 0x70 => orBusy (s.writeIlv 2 v)
  | 0x78 => orBusy (s.writeIlv 3 v)
  | 0x80 => orBusy (s.writeShoot v)
  | 0x88 => .done (s.updTrunk fun t =>
      { t with pwrcap := (v &&& 0x10000) ||| BitVec.ofNat 64 (max 180 (min (v.toNat % 65536) 240)) })
  | 0x90 => .done (s.updTrunk fun t => { t with therm := v &&& 0xFFFFFF })
  | 0x00 => .done s
  | 0x08 => .done s
  | 0x18 => .done s
  | 0x40 => .done s
  | 0x48 => .done s
  | 0x50 => .done s
  | _ => .busy

/-- A write in a partition's block (R48, R390, R436). SN_STAT is read-only (R390). -/
def State.writePart (s : State) (p off : Nat) (v : Word) : MgmtEnd :=
  if off < 0x80 then orBusy (s.writeSnArea (16 * p + off / 8) v)
  else if off < 0x200 then .done s
  else if off < 0x280 then orBusy (s.writeSeed (16 * p + (off - 0x200) / 8) v)
  else if off < 0x300 then orBusy (s.writeFlush (16 * p + (off - 0x280) / 8) v)
  else if off < 0xC00 then orBusy (s.writeRootovr (16 * p + (off - 0x400) / 0x80) ((off - 0x400) % 0x80 / 8) v)
  else orBusy (s.writeGov p v)

/-- A write in a rim field's block (R411). -/
def State.writeRim (s : State) (k off : Nat) (v : Word) : MgmtEnd :=
  if off < 0x40 then orBusy (s.writeSplit (8 * k + off / 8) v)
  else if off < 0x800 then
    .done (s.updRim k fun r => { r with slwin := Tbl.set r.slwin ((off - 0x400) / 8) (v &&& 0xFFFFFFFFFF) })
  else if off < 0x810 then
    .done (s.updStack (2 * k + (off - 0x800) / 8) fun x => { x with scrub := v &&& 0x8000000000FFFFFF, due := s.scrubTime })
  else .busy

/-- A write in a grove's block (R177, R197, R309, R312, R319, R343, R344, R369, R391). TE_MIGSTAT is read-only (R189). -/
def State.writeGroveReg (s : State) (g off : Nat) (v : Word) : MgmtEnd :=
  if off = 0x8000 then .done (s.updGrove g fun gr => { gr with teSave := v &&& 0x00FFF000000007FF })
  else if off = 0x8008 then .done s
  else if 0x14000 ≤ off ∧ off < 0x14080 then
    .done (s.updGrove g fun gr => { gr with xeAdmit := Tbl.set gr.xeAdmit ((off - 0x14000) / 8) v })
  else if 0x14080 ≤ off ∧ off < 0x14100 then
    .done (s.updGrove g fun gr => { gr with glRetain := Tbl.set gr.glRetain ((off - 0x14080) / 8) v })
  else if off = 0x30000 then .done (s.updGrove g fun gr => { gr with snBuf := v &&& 0x00FFFF00000007FF })
  else if 0x71000 ≤ off ∧ off < 0x71080 then orBusy (s.writeGrant g ((off - 0x71000) / 8) v)
  else .busy

/-- A write of the management register at an address (R155, R428). -/
def State.mgmtWrite (s : State) (a : Nat) (v : Word) : MgmtEnd :=
  if (s.mgmtRead a).isNone ∧ (a % 8 ≠ 0 ∨ 0x100000 ≤ a) then .range
  else if a < 0x100000 then s.writeModule a v
  else if a < 0x10000000 then s.writePart ((a - 0x100000) / 0x10000) (a % 0x10000) v
  else if a < 0x100000000 then s.writeRim ((a - 0x10000000) / 0x10000) (a % 0x10000) v
  else s.writeGroveReg ((a - 0x100000000) / 0x100000) (a % 0x100000) v

/-- R155: a write of a management register that has no step of its own. -/
def execRegisterWrite (addr v : BitVec 64) (s : State) : Host.Outcome State Fault Refusal :=
  match s.mgmtWrite addr.toNat v with
  | .done s' => .next s'
  | _ => .next s

/-- R155: after a `fence.k` of its own, reads the register at s[A]. -/
def execMrd (d a : BitVec 7) (p : BitVec 3) (s : State) : Host.Outcome State Fault Refusal :=
  runOp (.mrd d a p) s fun c =>
    let x := c.rs a.toNat
    if !s.released s.cur 2 c.ords then .stall
    else match s.mgmtRead x.toNat with
      | none => .trap (.xlate xcRange x)
      | some v => .ok (s.writeReg 1 (sReg d) v 0)

/-- R155: after a `fence.k` of its own, writes s[B] to the register at s[A]. -/
def execMwr (a b : BitVec 7) (p : BitVec 3) (s : State) : Host.Outcome State Fault Refusal :=
  runOp (.mwr a b p) s fun c =>
    let x := c.rs a.toNat
    if !s.released s.cur 2 c.ords then .stall
    else match s.mgmtWrite x.toNat (c.rs b.toNat) with
      | .range => .trap (.xlate xcRange x)
      | .busy => .trap (.at_ .busy x)
      | .waits => .stall
      | .done s' => .ok s'

end Sys2Proof.Machine
end

