-- ==== Sys2Proof/Machine/Power.lean ====
section
/-!
DEFINITION. Bring-up and readiness (R42, R425 to R427), withdrawals and the forced flush (R49, R401, R426), time (R424), power and
heat (R436, R437), soft errors (R50, R51) and the notification queue (R421).
-/

namespace Sys2Proof.Machine

/-! ### The readiness map (R42, R425) -/

/-- The byte of a grove index. -/
def Readiness.groveByte (r : Readiness) (g : Nat) : Nat := Tbl.getD r.groves g 0

/-- Sets the byte of a grove index. -/
def Readiness.setGrove (r : Readiness) (g b : Nat) : Readiness := { r with groves := if b = 0 then Tbl.del r.groves g else Tbl.set r.groves g b }

/-- The rim field that the table of R42 lists for a compute field. -/
def walkerListed (field : Nat) : Nat :=
  let fy := field / 8 / 3
  ([[9, 10, 11], [8, 7, 0], [6, 2, 1], [5, 4, 3]].getD (field % 8 / 2) []).getD fy 0

/-- The walker rim field of a compute field under the ready rim fields (R42). -/
def walkerOf (rims : BitVec 12) (field : Nat) : Nat :=
  let w := walkerListed field
  let own := rimsOfQuarter (field % 8 / 2)
  let turn := (own.filter fun k => decide (w ≤ k)) ++ (own.filter fun k => decide (k < w))
  match turn.find? fun k => rims.getLsbD k with
  | some k => k
  | none => ((List.range 12).find? fun k => rims.getLsbD k).getD 0

/-- Assigns the walkers anew (R42). -/
def Readiness.assign (r : Readiness) : Readiness :=
  { r with walkers := (List.range 72).foldl (fun t f =>
      let k := walkerOf r.rims f
      if k = 0 then Tbl.del t f else Tbl.set t f k) [] }

/-- A change of the map: GEN rises (R425). -/
def State.mapChange (s : State) (f : Readiness → Readiness) : State :=
  { s with ready := { f s.ready with gen := ((f s.ready).gen + 1) % 2 ^ 32 } }

/-- Sets or clears the ready bit of a rim field, stack or port: kinds 1, 2 and 3. -/
def Readiness.mark (r : Readiness) (kind idx : Nat) (b : Bool) : Readiness :=
  match kind with
  | 1 => ({ r with rims := if b then r.rims ||| ((1 : BitVec 12) <<< idx) else r.rims &&& ~~~((1 : BitVec 12) <<< idx) } : Readiness).assign
  | 2 => { r with hbmStacks := if b then r.hbmStacks ||| ((1 : BitVec 24) <<< idx) else r.hbmStacks &&& ~~~((1 : BitVec 24) <<< idx) }
  | _ => { r with ports := if b then r.ports ||| ((1 : BitVec 32) <<< idx) else r.ports &&& ~~~((1 : BitVec 32) <<< idx) }

/-- Does a function of a kind exist: grove indices, rim fields, stacks, module-link ports? -/
def functionExists (kind idx : Nat) : Bool :=
  match kind with
  | 0 => decide (idx < 2592)
  | 1 => decide (idx < 12)
  | 2 => decide (idx < 24)
  | 3 => decide (idx < 32)
  | _ => false

/-- Puts the token on a ready rim field when the one it stands at is not. -/
def State.placeToken (s : State) : State :=
  if s.rimReady s.trunk.token then s else s.updTrunk fun t => { t with token := s.nextRim 11 }

/-- The start is reached once trunk cores, host port 0 and rim field 1 are ready (R427): FAILS becomes 0, and the ROLL of new
firmware the fused minimum (R438). -/
def State.noteStart (s : State) : State :=
  if s.trunk.started || decide (s.trunk.up ≠ 3) || !s.rimReady 1 then s
  else s.updTrunk fun t =>
    { t with started := true, fails := if t.minimal then t.fails else 0, staged := none,
             rollMin := match t.staged with | some x => x.2.1 | none => t.rollMin }

/-- The end of bring-up (R431): the whole module is one partition with every ready stack, and its clear runs. -/
def State.endBringup (s : State) : State :=
  if s.ready.reported.length < 2660 then s
  else s.updTrunk fun t =>
    { t with ilv := t.ilv.setIfInBounds 0 (0x800C000000000000 ||| s.ready.hbmStacks.setWidth 64),
             clearing := t.clearing ||| 1 }

/-- A module reset (R417, R426): everything as at power-on but the fuses, the staged firmware and the record of failed starts;
`restart` is the restart of R417, which leaves minimal mode. -/
def State.resetModule (s : State) (restart : Bool) : State :=
  let o := s.trunk
  let n : Trunk := { Trunk.reset with
    staged := o.staged, rollMin := o.rollMin, revoked := o.revoked, startedAt := s.clk,
    fw := (match o.staged with | some x => x.1 | none => o.fw),
    fwDigest := (match o.staged with | some x => some x.2.2 | none => o.fwDigest),
    fails := if restart then 0 else o.fails, reason := if restart then 0 else o.reason,
    minimal := !restart && decide (3 ≤ o.fails) }
  { State.reset with
    clk := s.clk, base := 2 ^ 64 - s.clk * 5 / 9 % 2 ^ 64, agenda := s.agenda, inbox := s.inbox, out := s.out,
    fresh := s.fresh, trunk := n }

/-- A start has failed, for a reason (R427): it is counted once; with the third one in a row the module starts over in minimal mode. -/
def State.failStart (s : State) (why : Nat) : State :=
  let s := s.updTrunk fun t => { t with fails := min (t.fails + 1) 3, reason := t.reason ||| why, failed := true }
  if 3 ≤ s.trunk.fails then s.resetModule false else s

/-- R426: a function reports once, ready or not (kinds 0 grove index with SPARE and REASON bits in `info`, 1 rim field, 2 stack,
3 port with its peer's identity in `info`), or the trunk cores (4) or host port `idx` (5) are ready. Bit 2 of `info` says of trunk cores
that are not ready that the firmware image fails R438: a failed start (R427). -/
def execBringupReport (kind idx : Nat) (ready : Bool) (info : Nat) (s : State) : Host.Outcome State Fault Refusal :=
  if kind = 4 then
    .next (if !ready && info.testBit 2 && !s.trunk.started && !s.trunk.minimal && !s.trunk.failed then s.failStart 4
      else (s.updTrunk fun t => { t with up := if ready then t.up ||| 1 else t.up }).noteStart)
  else if kind = 5 then
    .next (if idx = 0 then (s.updTrunk fun t => { t with up := if ready then t.up ||| 2 else t.up }).noteStart else s)
  else if !functionExists kind idx || s.ready.reported.contains (kind * 4096 + idx) ||
      (s.trunk.minimal && !(decide (kind = 1) && decide (idx = 1))) then .next s
  else
    let s := s.mapChange fun r =>
      let r := { r with reported := r.reported ++ [kind * 4096 + idx] }
      if kind = 0 then r.setGrove idx (info % 256 / 2 * 2 + (if ready then 1 else 0))
      else
        let r := if ready then r.mark kind idx true else r
        if kind = 3 ∧ info ≠ 0 then { r with peers := Tbl.set r.peers idx info } else r
    let s := if kind = 2 then s.updStack idx fun x => { x with due := s.scrubTime } else s
    .next s.placeToken.noteStart.endBringup

/-- R427: trunk, rim field 1 or port 0 have not reported ready within 60 s of reset: a failed start; the third one in a row
leads to minimal mode. -/
def execStartTimeout (s : State) : Host.Outcome State Fault Refusal :=
  let t := s.trunk
  if t.started || t.minimal || t.failed || decide ((s.clk - t.startedAt) * 5 / 9 < 60000000000) then .next s
  else
    let b (x : Bool) (k : Nat) : Nat := if x then k else 0
    let why := b (!t.up.getLsbD 0) 1 + b (!s.rimReady 1) 2 +
      b (!(s.ready.hbmStacks.getLsbD 2 && s.ready.hbmStacks.getLsbD 3)) 8 + 16
    .next (s.failStart why)

/-- R426: power-on or reset starts the bring-up of every function. -/
def execModuleReset (s : State) : Host.Outcome State Fault Refusal := .next (s.resetModule false)

/-! ### Forced flushes and withdrawals (R49, R401, R426) -/

/-- Step 1 of a forced flush: a context is held (R49), and its running snapshot is abandoned. -/
def State.startHold (s : State) (ctx : Nat) : State :=
  if (s.ctx ctx).hold ≠ .none then s else (s.abandonSnap ctx 9).updCtx ctx fun x => { x with hold := .holding, holdFrom := s.tick }

/-- The contexts that exist in a partition. -/
def State.ctxsOf (s : State) (p : Nat) : List Nat :=
  ((List.range 16).map (16 * p + ·)).filter fun c => decide ((s.ctx c).state ≠ .free)

/-- Is everything that a hold lets run to completion complete (R49)? Jobs that wait for what the hold keeps back may remain. -/
def State.holdQuiet (s : State) (ctx : Nat) : Bool :=
  let waiting (j : Job) : Bool := !j.begun && (match j.kind with
    | .recv _ _ _ _ _ | .haloRecv _ _ | .pub _ _ _ _ _ | .coll _ _ _ _ _ => true
    | _ => false)
  s.groves.all (fun e =>
    (s.looseJobs ctx e.1).isEmpty &&
    (s.ctxCores ctx e.1).all (fun k =>
      let c := s.core k
      c.jobs.all waiting && c.queues.toList.flatten.all QEntry.complete && c.xops.isEmpty) &&
    e.2.pubs.all (fun p => !decide (p.ctx = ctx) || p.admitted.isNone || decide (p.sent = 2)) &&
    e.2.gangs.all (fun G => !decide (G.ctx = ctx) || G.completed.isSome) &&
    e.2.versions.all fun v => !decide (v.ctx = ctx) || v.acks.isEmpty) &&
  s.net.all (fun p => !decide (p.ctx = ctx)) && s.rims.all fun e => e.2.ops.all fun o => !decide (o.ctx = ctx)

/-- What a root held of a name goes to the name's root on the new list, in this member or, by its link, in another (R49). -/
def State.moveEntry (s : State) (ctx g : Nat) (n : Name) (names : List NameRec) (vers : List Version) (rounds : List CollRound) : State :=
  let pos := (s.ctx ctx).rootOf n
  if pos / 2592 = (s.ctx ctx).member then s.updGrove (pos % 2592) fun gr => gr.takeMoved names vers rounds
  else s.sendTo ctx n (.moved names vers rounds) g pos false s.tick [] 0

/-- The root entries of a context at a grove move to the roots of the new list (R49), with new order numbers there. -/
def State.moveRoots (s : State) (ctx g : Nat) : State :=
  let old := s.grove g
  let s := s.setGrove g (old.flushCtx ctx)
  let s := (old.names.filter fun r => decide (r.ctx = ctx)).foldl (fun s r => s.moveEntry ctx g r.name [r] [] []) s
  let s := (old.versions.filter fun v => decide (v.ctx = ctx)).foldl (fun s v => s.moveEntry ctx g v.name [] [v] []) s
  (old.rounds.filter fun r => decide (r.ctx = ctx)).foldl (fun s r => s.moveEntry ctx g r.name [] [] [r]) s

/-- Steps 2 and 3 of a forced flush (R49): cache lines are written back, roots move to a list without the groves that are lost, in this
member and in others, subscriptions are registered again, and the context goes on. -/
def State.moveFlush (s : State) (ctx : Nat) : State :=
  let s := (s.flushCache ctx).updCtx ctx fun x =>
    { x with rootList := x.rootList.filter (fun r => if r / 2592 = x.member then s.groveReady (r % 2592) else !x.lost.contains r),
             rimList := s.readyRims (partOfCtx ctx), lost := [] }
  let s := (s.groves.map (·.1)).foldl (fun s g => s.moveRoots ctx g) s
  let again (x : Sub) : Sub := if x.ctx = ctx ∧ (x.state = .sent ∨ x.state = .registered) then { x with state := .waiting } else x
  let s : State := { s with groves := s.groves.map fun (e : Nat × Grove) => (e.1, { e.2 with subs := e.2.subs.map again }) }
  (s.updCtx ctx fun x => { x with hold := .none }).settlePools ctx

/-- R49: after the hold, root state moves to the new roots and cores resume. -/
def execForcedFlushMove (ctx : Nat) (s : State) : Host.Outcome State Fault Refusal :=
  if (s.ctx ctx).hold = .holding ∧ s.holdQuiet ctx then .next (s.moveFlush ctx) else .next s

/-- Kind WITHDRAWN (R49, R426). -/
def kindWithdrawn : Nat := 27

/-- A context whose gallery entries or data are lost stops, with a WITHDRAWN tile from the first ready grove (R49, R401). -/
def State.loseCtx (s : State) (ctx idx : Nat) : State :=
  let g := ((s.partGroves (partOfCtx ctx))).headD 0
  (s.faultTile g ctx ⟨kindWithdrawn, 5, 0, 0, 0, false, false, none, natBytes 2 idx⟩ none 0).stopCtx ctx

/-- The other members of a gang hear of a grove of their root list that this member has lost, with its entries or not (R49). -/
def State.tellLost (s : State) (ctx g : Nat) (gone : Bool) : State :=
  let pos := (s.ctx ctx).member * 2592 + g
  { s with out := s.out ++ (s.otherMembers ctx).map fun m => Out.rootLost m ctx pos gone }

/-- Another member has lost a grove of a context's root list (R49): the context is held for its forced flush here too, and stops where the
entries are lost. -/
def State.rootLostIn (s : State) (ctx pos : Nat) (gone : Bool) : State :=
  if !(s.ctx ctx).rootList.contains pos then s
  else
    let s := (s.startHold ctx).updCtx ctx fun x => { x with lost := x.lost ++ [pos] }
    if gone then s.stopCtx ctx else s

/-- The trigger state of a withdrawn grove (R426): counters are lost, and waiting slots fail with their tiles. -/
def State.loseTriggers (s : State) (g : Nat) : State :=
  let s := (s.grove g).slots.foldl (fun s e =>
    if e.2.state = .armed ∨ e.2.state = .held then
      (s.updGrove g fun x => x.updSlot e.1 fun t => { t with state := .failed, eligible := none }).trigTile g e.2.ctx e.1 e.2.owner e.2.wid 3
        e.2.image 0 0 0 none (if e.2.state = .held then e.2.value else ((s.grove g).counter (slCtr e.2.image)).value)
    else s) s
  s.updGrove g fun x => { x with counters := [] }

/-- A record of a grove that is withdrawn (R167, R426). -/
def State.withdrawRecord (s : State) (g i : Nat) (lost : Bool) : State :=
  match (s.grove g).task? i with
  | none => s
  | some t =>
    match t.state with
    | .running =>
      if (s.core (4 * g + t.slot)).mode = .exiting then (if lost then s.loseCtx t.ctx g else s)
      else s.jobFaultKind (4 * g + t.slot) kindWithdrawn 0 4 0 none []
    | .faulted => s.freeRecord g i
    | .suspended => s
    | .done => if lost then s.loseCtx t.ctx g else s
    | _ => s.migrateRecord g i 0xFFF true fun _ => true

/-- R426: a grove leaves readiness with a reason; one withdrawn by heat (3) can still be read. -/
def execGroveWithdraw (g reason : Nat) (s : State) : Host.Outcome State Fault Refusal :=
  if !s.groveReady g then .next s
  else
    let lost := decide (reason ≠ 3)
    let s := s.mapChange fun r => r.setGrove g (r.groveByte g / 2 * 2 % 16 + reason % 16 * 16)
    let p := s.trunk.partOf (quarterOf g)
    let held (c : Nat) : Bool := (s.ctx c).rootList.contains ((s.ctx c).member * 2592 + g)
    let cs := (s.ctxsOf p).filter held
    let gone := if lost then cs else []
    let s := if lost then s.updGrove g fun gr => cs.foldl (fun gr c => gr.flushCtx c) gr else s
    let s := cs.foldl State.startHold s
    let s := cs.foldl (fun s c => s.tellLost c g lost) s
    let s := gone.foldl (fun s c => s.loseCtx c g) s
    let s := s.loseTriggers g
    let s := ((s.grove g).tasks.map (·.1)).foldl (fun s i => s.withdrawRecord g i lost) s
    .next (s.updGrove g fun gr => { gr with cool := none })

/-- The stacks on which a 2 MiB frame of a partition lies (R431): the units of its interleaving that it meets. -/
def State.frameStacks (s : State) (p frame : Nat) : List Nat :=
  let gsh := ((s.ilv p).extractLsb' 48 6).toNat
  let n := min (2 ^ (21 - gsh)) 24
  ((List.range n).map fun i => s.stackOf p (frame * 2 ^ 21 + i * 2 ^ gsh)).eraseDups

/-- Does a context keep data in a rim field's stacks or slices: frames of its HBM, windows, save frames, or dirty cached lines (R35, R48,
R177, R431)? -/
def State.dataInRim (s : State) (ctx k : Nat) : Bool :=
  (s.ctx ctx).frames.any (fun f => (s.frameStacks (partOfCtx ctx) f).any fun i => decide (i / 2 = k)) ||
  (List.range 8).any (fun j => (let w := s.windowOf ctx (8 * k + j); decide (w.1 < w.2))) ||
  (s.framesOf ctx).any (fun e => decide ((s.frameAddr e.1 e.2.2 - 2 ^ 44) / 2 ^ 27 / 8 = k)) ||
  s.cache.any fun l => decide (l.ctx = ctx) && decide (l.dirty ≠ 0) && decide (l.slice / 8 = k)

/-- R401, R426: a rim field, stack or port in service loses readiness; for a rim field its partition's contexts are flushed, those
with data there stop, and a token there is lost. -/
def execReadinessLost (kind idx : Nat) (s : State) : Host.Outcome State Fault Refusal :=
  let r := s.ready
  let was := match kind with | 1 => r.rims.getLsbD idx | 2 => r.hbmStacks.getLsbD idx | 3 => r.ports.getLsbD idx | _ => false
  if !was then .next s
  else
    let cs := if kind = 1 then
        (List.range 4).flatMap fun p => if (s.trunk.partRims p).contains idx then s.ctxsOf p else []
      else []
    let gone := cs.filter fun c => s.dataInRim c idx
    let s := s.mapChange fun r => r.mark kind idx false
    let s := if kind = 1 ∧ s.trunk.token = idx then s.updTrunk fun t => { t with tokenLost := true } else s
    let s := cs.foldl State.startHold s
    .next (gone.foldl (fun s c => s.loseCtx c idx) s)

/-- R426: a function that was not ready becomes ready again, but for a grove withdrawn by heat. -/
def execReadinessRegained (kind idx : Nat) (s : State) : Host.Outcome State Fault Refusal :=
  if !functionExists kind idx then .next s
  else if kind = 0 then
    let b := s.ready.groveByte idx
    if b.testBit 0 ∨ b / 16 = 3 then .next s else .next (s.mapChange fun r => r.setGrove idx (b % 16 / 2 * 2 + 1))
  else
    let r := s.ready
    let was := match kind with | 1 => r.rims.getLsbD idx | 2 => r.hbmStacks.getLsbD idx | _ => r.ports.getLsbD idx
    if was then .next s
    else
      let s := s.mapChange fun r => r.mark kind idx true
      let s := if kind = 2 then s.updStack idx fun x => { x with due := s.scrubTime } else s
      .next s.placeToken

/-! ### Heat and power (R436, R437) -/

/-- HOT, HYST and CRIT of TK_THERM in tenths of a degree. -/
def Trunk.hotAt (t : Trunk) : Nat := 10 * (t.therm.extractLsb' 0 8).toNat
/-- HOT less HYST. -/
def Trunk.coolAt (t : Trunk) : Nat := t.hotAt - 10 * (t.therm.extractLsb' 8 8).toNat
/-- CRIT. -/
def Trunk.critAt (t : Trunk) : Nat := 10 * (t.therm.extractLsb' 16 8).toNat

/-- A grove's sensor reads a temperature, in tenths of a degree (R422, R437): below HOT less HYST its event clears and its cool ticks
count, at or above that they start anew. -/
def State.setTemp (s : State) (g temp : Nat) : State :=
  let cool := decide (temp < s.trunk.coolAt)
  (s.updTrunk fun t => { t with temps := Tbl.set t.temps g temp }).updGrove g fun gr =>
    { gr with hot := gr.hot && !cool, cool := if cool then some (gr.cool.getD s.clk) else none }

/-- Is a ready grove to be withdrawn, since its sensor reads CRIT or above (R437)? -/
def State.tooHot (s : State) (g : Nat) : Bool :=
  s.groveReady g && (match Tbl.get? s.trunk.temps g with | some t => decide (s.trunk.critAt ≤ t) | none => false)

/-- The records that a hot grove sends away (R190). -/
def State.hotRecords (s : State) (g : Nat) : List Nat :=
  ((s.grove g).tasks.filter fun e => decide (s.mayMove g e.1 false = 0)).map (·.1)

/-- May a hot grove's records go somewhere? -/
def State.hotTarget (s : State) (g : Nat) : Bool :=
  (s.hotRecords g).any fun i => match (s.grove g).task? i with
    | some t => (s.nearestFree t.ctx g fun h => !(s.grove h).hot && decide (h ≠ g)).isSome
    | none => false

/-- R437, R190: a grove's sensor reads `temp`, in tenths of a degree: at HOT or above a ready grove raises a hot-grove event, and its ARMED
and READY records migrate to groves that are not hot. -/
def execHotGroveEvent (g temp : Nat) (s : State) : Host.Outcome State Fault Refusal :=
  if 2592 ≤ g then .next s
  else if !s.groveReady g ∨ temp < s.trunk.hotAt then .next (s.setTemp g temp)
  else
    let s := (s.setTemp g temp).updGrove g fun gr => { gr with hot := true, cool := none }
    .next ((s.hotRecords g).foldl (fun s i => s.migrateRecord g i 0xFFF false fun h => !(s.grove h).hot) s)

/-- R437: a grove's sensor reads `temp`, below HOT: below HOT less HYST the event clears, and a withdrawn grove counts its cool ticks. -/
def execHotGroveClear (g temp : Nat) (s : State) : Host.Outcome State Fault Refusal :=
  .next (if 2592 ≤ g ∨ s.trunk.hotAt ≤ temp then s else s.setTemp g temp)

/-- R437: a grove withdrawn by heat returns after 2^30 ticks below HOT less HYST. -/
def execGroveReturn (g : Nat) (s : State) : Host.Outcome State Fault Refusal :=
  match (s.grove g).cool with
  | some t =>
    if s.ready.groveByte g / 16 = 3 ∧ !s.groveReady g ∧ 2 ^ 30 ≤ (s.clk - t) * 5 / 9 then
      .next ((s.mapChange fun r => r.setGrove g (r.groveByte g % 16 / 2 * 2 + 1)).updGrove g fun gr => { gr with cool := none })
    else .next s
  | none => .next s

/-- The BUDGET of TK_GOV after a measurement (R436). -/
def nextBudget (b cap watts : Nat) : Nat :=
  if 100 * cap < watts then max 64 (b * 7 / 8)
  else if watts * 100 < 95 * (100 * cap) then min 1024 ((b * 17 + 15) / 16)
  else b

/-- R436: under AUTO the trunk measures power once every 2^20 ticks and adjusts every BUDGET. -/
def execPowerMeasure (watts : Nat) (s : State) : Host.Outcome State Fault Refusal :=
  let t := s.trunk
  if !t.pwrcap.getLsbD 16 ∨ t.measured = s.tick / 2 ^ 20 + 1 then .next s
  else .next (s.updTrunk fun t =>
    { t with watts := watts, measured := s.tick / 2 ^ 20 + 1,
             gov := t.gov.map fun b => BitVec.ofNat 64 (nextBudget b.toNat (t.pwrcap.toNat % 65536) watts) })

/-! ### Time (R424) -/

/-- Is a context of the module launched? -/
def State.anyLaunched (s : State) : Bool :=
  s.contexts.any fun e => match e.2.state with | .free | .loaded => false | _ => true

/-- Sets the time base. -/
def State.setTime (s : State) (time : Nat) : State := { s with base := (time + 2 ^ 64 - s.clk * 5 / 9 % 2 ^ 64) % 2 ^ 64 }

/-- Slews the time base towards a time (R424): forward by at most 100 ppm of the ticks since the last slew; back by one tick, in a
clock in which the base has just advanced. -/
def State.slew (s : State) (time : Nat) : State :=
  let ahead := (time + 2 ^ 64 - s.tick) % 2 ^ 64
  let room := (s.tick + 2 ^ 64 - s.trunk.slewAt) % 2 ^ 64 / 10000
  if ahead = 0 ∨ room = 0 then s
  else if ahead < 2 ^ 63 then
    let s := { s with base := (s.base + min ahead room) % 2 ^ 64 }
    s.updTrunk fun t => { t with slewAt := s.tick }
  else if s.clk * 5 / 9 ≠ (s.clk - 1) * 5 / 9 then
    let s := { s with base := (s.base + 2 ^ 64 - 1) % 2 ^ 64 }
    s.updTrunk fun t => { t with slewAt := s.tick }
  else s

/-- R424: a PTP message on the port in use sets the time base before the first LAUNCH, or slews it. -/
def execPtpMessage (port time : Nat) (s : State) : Host.Outcome State Fault Refusal :=
  if 1 < port ∨ (port = 1 ∧ s.trunk.ptpLock.getLsbD 0) then .next s
  else
    let s := s.updTrunk fun t => { t with ptpLock := t.ptpLock ||| ((1 : BitVec 2) <<< port) }
    if s.trunk.everPtp then .next (s.slew time)
    else if s.anyLaunched then .next s
    else .next ((s.setTime time).updTrunk fun t => { t with everPtp := true, slewAt := time })

/-- R424: a port loses its master. -/
def execPtpMasterLoss (port : Nat) (s : State) : Host.Outcome State Fault Refusal :=
  .next (s.updTrunk fun t => { t with ptpLock := t.ptpLock &&& ~~~((1 : BitVec 2) <<< port) })

/-- R424: a sync symbol of the reference disciplines the time base; `err` is the error estimate in ps, two's complement. A
free-running member takes the reference's value once, and reports SYNCERR where a launched context keeps it from that. -/
def execSyncSymbol (time err : Nat) (s : State) : Host.Outcome State Fault Refusal :=
  let e : Int := intVal 64 true (err % 2 ^ 64)
  let s := s.updTrunk fun t =>
    { t with syncPs := e, syncErr := if 2000 < e.natAbs then true else if e.natAbs ≤ 1500 then false else t.syncErr }
  if s.trunk.everPtp || s.trunk.joined then .next (s.slew time)
  else if s.anyLaunched then .next (s.updTrunk fun t => { t with syncErr := true })
  else .next ((s.setTime time).updTrunk fun t => { t with joined := true, slewAt := time })

/-! ### Soft errors and notifications -/

/-- R50, R51: bit `bit` of a stored word flips: 0 to 63 of the data, 64 to 71 of the check byte. `addr` is a memory key. -/
def execSoftError (addr bit : Nat) (s : State) : Host.Outcome State Fault Refusal :=
  let key := addr / 8 * 8
  if 71 < bit ∨ 2 ^ 48 ≤ key then .next s
  else
    let col := if bit < 64 then dataColumns.getD bit 0 else 2 ^ (bit - 64)
    let syn := BitVec.ofNat 8 (synOf s.mem key) ^^^ BitVec.ofNat 8 col
    let m := if bit < 64 then
        Memory.write s.mem (key + bit / 8) (Memory.read s.mem (key + bit / 8) ^^^ ((1 : Byte) <<< (bit % 8)))
      else s.mem
    .next { s with mem := Memory.write m (synKey key) syn }

/-- R421: the oldest tile that has reached the trunk is sent to the notification queue pair. -/
def execFaultNotify (k : Nat) (s : State) : Host.Outcome State Fault Refusal :=
  match s.trunk.notifyQp, s.trunk.tiles with
  | some qp, t :: r =>
    if k ≠ 0 then .next s
    else
      let bytes := natBytes 2 0x80 ++ List.replicate 14 (0 : Byte) ++ t
      .next ({ s with out := s.out ++ [Out.notify qp bytes] }.updTrunk fun x => { x with tiles := r })
  | _, _ => .next s

end Sys2Proof.Machine
end

