-- ==== Sys2Proof/Machine/Launch.lean ====
section
/-!
DEFINITION. Host commands (R414 to R416): their common checks and answers, LOAD_IMAGE (R417, R438) and LAUNCH (R418, R420) with
placement (R8, R92, R171).
-/

namespace Sys2Proof.Machine

/-! ### Commands (R414, R415) -/

/-- How a command ends: done with DETAIL and RESULT, refused with STATUS and DETAIL, BUSY with a DETAIL that the spec does not state,
or to be answered later; `refuseIn` refuses it in a state with the report that R424 makes of the refusal. -/
inductive CmdEnd where
  | done (s : State) (detail : Word) (result : List Byte)
  | refuseIn (s : State) (status detail : Nat)
  | refuse (status detail : Nat)
  | busyOpen
  | later (s : State)
deriving DecidableEq, Repr

/-- CMD. -/
def cmdCode (b : List Byte) : Nat := fieldOfBytes b 0 2
/-- TAG. -/
def cmdTag (b : List Byte) : Nat := fieldOfBytes b 4 4
/-- PART. -/
def cmdPart (b : List Byte) : Nat := fieldOfBytes b 8 1
/-- The context that a command names, part · 16 + ctx. -/
def cmdCtx (b : List Byte) : Nat := cmdPart b * 16 + fieldOfBytes b 9 1
/-- KIND of LOAD_IMAGE. -/
def cmdKind (b : List Byte) : Nat := fieldOfBytes b 0x20 1

/-- Has a command the length that R414 allows? -/
def cmdSized (b : List Byte) : Bool := decide (16 ≤ b.length ∧ b.length ≤ 1024)

/-- What a command needs (R415): nothing, a supervisor image's place (PART 0xF is allowed), its partition, or its context too. -/
inductive CmdNeed where
  | nothing | supervisor | part | ctx
deriving DecidableEq, Repr

/-- The checks that all commands share (R1, R415): firmware and minimal mode, reserved fields, PART and CTX, existence. -/
def State.cmdGate (s : State) (b : List Byte) (always : Bool) (need : CmdNeed) : Option CmdEnd :=
  if !always && (decide (s.trunk.fw < 0x0401) || s.trunk.minimal) then some .busyOpen
  else if !zeroBytes b 2 4 || !zeroBytes b 10 16 then some (.refuse 4 0)
  else
    let p := cmdPart b
    let bad (sup : Bool) : Bool := (decide (3 < p) && !(sup && decide (p = 15))) || decide (15 < fieldOfBytes b 9 1)
    match need with
    | .nothing => none
    | .supervisor => if bad true then some (.refuse 2 16) else none
    | .part => if bad false then some (.refuse 2 16) else if !s.trunk.partExists p then some (.refuse 1 7) else none
    | .ctx =>
      if bad false then some (.refuse 2 16)
      else if !s.trunk.partExists p then some (.refuse 1 7)
      else if (s.ctx (cmdCtx b)).state = .free then some (.refuse 1 8) else none

/-- Is no earlier command of a queue pair, numbered port · 64 + n, still to be answered (R414)? -/
def State.qpFree (s : State) (qp : Nat) : Bool :=
  decide (qp < 128) && !s.trunk.migrations.any (fun e => decide (e.1 = qp)) && !s.trunk.resets.any (fun e => decide (e.1 = qp)) &&
  !s.trunk.rollbacks.any (fun e => decide (e.1 = qp)) && !s.trunk.parting.any (fun p => decide (p.qp = qp)) &&
  !s.trunk.supRun.any fun e => decide (e.1 = qp)

/-- Answers a command as it ended. -/
def State.finish (s : State) (qp : Nat) (b : List Byte) : CmdEnd → State
  | .done s' d r => s'.respond qp (cmdCode b) (cmdTag b) 0 d r
  | .refuse st d => s.respond qp (cmdCode b) (cmdTag b) st (BitVec.ofNat 64 d) []
  | .refuseIn s' st d => s'.respond qp (cmdCode b) (cmdTag b) st (BitVec.ofNat 64 d) []
  | .busyOpen => let f := s.freeWord; f.2.respond qp (cmdCode b) (cmdTag b) 1 f.1 []
  | .later s' => s'

/-- Runs a command on a queue pair: the row that `sel` selects checks it and ends it. -/
def runCommand (s : State) (qp : Nat) (b : List Byte) (sel : Bool) (gate : Option CmdEnd) (body : CmdEnd) :
    Host.Outcome State Fault Refusal :=
  if sel && cmdSized b && s.qpFree qp then .next (s.finish qp b (gate.getD body)) else .next s

/-! ### LOAD_IMAGE: what it reads (R417) -/

/-- The bytes that LOAD_IMAGE names in the image buffer. -/
def State.imageBytes (s : State) (b : List Byte) : List Byte :=
  s.goodRun (trunkKey (0x10000000 + fieldOfBytes b 0x10 8)) (fieldOfBytes b 0x18 8)

/-- The checks of the arguments before anything is read. -/
def loadArgs (b : List Byte) : Option CmdEnd :=
  let off := fieldOfBytes b 0x10 8
  if 1 < fieldOfBytes b 0x21 1 ∨ !zeroBytes b 0x22 0x28 then some (.refuse 4 0)
  else if off % 64 ≠ 0 ∨ 2 ^ 28 < off + fieldOfBytes b 0x18 8 then some (.refuse 2 17)
  else if 2 < cmdKind b then some (.refuse 2 18)
  else none

/-- The MAP list: virtual base, size and W. -/
def mapOf (b : List Byte) : List (Nat × Nat × Bool) :=
  ((List.range 16).map fun i =>
    let sz := fieldOfBytes b (0x48 + 16 * i) 8
    (fieldOfBytes b (0x40 + 16 * i) 8, sz / 2 * 2, sz.testBit 0)).takeWhile fun e => decide (e.2.1 ≠ 0)

/-- MAP ranges lie in the virtual space, are aligned to 2 MiB and do not overlap. -/
def rangesFit (l : List (Nat × Nat × Bool)) : Bool :=
  l.all (fun e => decide (e.1 % 2 ^ 21 = 0) && decide (e.2.1 % 2 ^ 21 = 0) && decide (e.1 + e.2.1 ≤ 2 ^ 48)) &&
  l.zipIdx.all fun a => l.zipIdx.all fun c =>
    decide (a.2 = c.2) || decide (a.1.1 + a.1.2.1 ≤ c.1.1) || decide (c.1.1 + c.1.2.1 ≤ a.1.1)

/-- Does a data block lie in writable ranges? -/
def blockMapped (l : List (Nat × Nat × Bool)) (va len : Nat) : Bool :=
  decide (len = 0) ||
  (List.range ((va + len - 1) / 2 ^ 21 + 1 - va / 2 ^ 21)).all fun i =>
    let x := (va / 2 ^ 21 + i) * 2 ^ 21
    l.any fun e => e.2.2 && decide (e.1 ≤ x) && decide (x < e.1 + e.2.1)

/-! ### LOAD_IMAGE: allocation -/

/-- The lowest place at or after `start` for a run of `size` units below `cap` that keeps clear of what is used. -/
def firstFit (used : List (Nat × Nat)) (cap size start : Nat) : Option Nat :=
  let fits (x : Nat) : Bool := decide (x + size ≤ cap) && used.all fun u => decide (x + size ≤ u.1) || decide (u.2 ≤ x)
  ((start :: (used.map (·.2)).filter fun x => decide (start ≤ x)).filter fits).foldl
    (fun (m : Option Nat) x => some (match m with | some y => min x y | none => x)) none

/-- `firstFit` from the trunk's choice, or else from the bottom. -/
def fitFrom (used : List (Nat × Nat)) (cap size start : Nat) : Option Nat := (firstFit used cap size start).orElse fun _ => firstFit used cap size 0

/-- The first k numbers from `cur` that are below a limit and not used. -/
def freeFrames (used : List Nat) (lim : Nat) : Nat → Nat → Nat → Option (List Nat)
  | _, _, 0 => some []
  | 0, _, _ + 1 => none
  | fuel + 1, cur, k + 1 =>
    if lim ≤ cur then none
    else if used.contains cur then freeFrames used lim fuel (cur + 1) (k + 1)
    else (freeFrames used lim fuel (cur + 1) k).map (cur :: ·)

/-- Free 2 MiB frames of a partition's memory, from the trunk's choice on or else from its bottom. -/
def State.takeFrames (s : State) (p k start : Nat) : Option (List Nat) :=
  let used := s.contexts.flatMap fun e => e.2.frames
  let r := if (s.ilv p).getLsbD 63 then ilvRange (s.ilv p) else (0, 0)
  let lo := r.1 / 2 ^ 21
  let from_ (x : Nat) : Option (List Nat) := freeFrames used (r.2 / 2 ^ 21) (used.length + k) x k
  (from_ (lo + start)).orElse fun _ => from_ lo

/-- The pages of a MAP list with their W. -/
def mapPages (l : List (Nat × Nat × Bool)) : List (Nat × Bool) :=
  l.flatMap fun e => (List.range (e.2.1 / 2 ^ 21)).map fun i => (e.1 + i * 2 ^ 21, e.2.2)

/-- The distinct values of a shifted address over a MAP list. -/
def mapKeys (l : List (Nat × Nat × Bool)) (sh : Nat) : List Nat :=
  (l.flatMap fun e => (List.range ((e.1 + e.2.1 - 1) / 2 ^ sh + 1 - e.1 / 2 ^ sh)).map fun i => e.1 / 2 ^ sh + i).eraseDups

/-- Writes the page tables of a MAP list (R39, R40): tables lie in the first frames, 512 in each, the root first; pages of 2 MiB with
U = 1 follow. -/
def State.writeTables (s : State) (l : List (Nat × Nat × Bool)) (frames : List Nat) : State :=
  let k1 := mapKeys l 39
  let k2 := mapKeys l 30
  let n := 1 + k1.length + k2.length
  let at_ (i : Nat) : Nat := frames.getD (i / 512) 0 * 2 ^ 21 + i % 512 * 4096
  let t1 (x : Nat) : Nat := at_ (1 + k1.idxOf x)
  let t2 (x : Nat) : Nat := at_ (1 + k1.length + k2.idxOf x)
  let m := (List.range n).foldl (fun m i => Memory.clear (Memory.clear m (at_ i) 4096) (synKey (at_ i)) 512) s.mem
  let m := k1.foldl (fun m x => storeWord m (at_ 0 + x % 512 * 8) (t1 x + 1)) m
  let m := k2.foldl (fun m x => storeWord m (t1 (x / 512) + x % 512 * 8) (t2 x + 1)) m
  let m := ((mapPages l).zip (frames.drop ((n + 511) / 512))).foldl (fun m e =>
    storeWord m (t2 (e.1.1 / 2 ^ 30) + e.1.1 / 2 ^ 21 % 512 * 8) (e.2 * 2 ^ 21 + (if e.1.2 then 0xF else 0xB))) m
  { s with mem := m }

/-- How many frames a MAP list takes, tables included. -/
def mapFrames (l : List (Nat × Nat × Bool)) : Nat :=
  (1 + (mapKeys l 39).length + (mapKeys l 30).length + 511) / 512 + (mapPages l).length

/-- The areas of groves in the slices: slice, first unit and end (R177, R391). -/
def State.groveAreas (s : State) : List (Nat × Nat × Nat) :=
  s.groves.flatMap fun e =>
    let t := e.2.teSave
    let b := e.2.snBuf
    let n := (t.extractLsb' 44 5).toNat * 0x6C000
    let tb := (t.extractLsb' 0 11).toNat
    let bb := (b.extractLsb' 0 11).toNat
    [((t.extractLsb' 49 7).toNat, tb, tb + (n + 65535) / 65536), ((b.extractLsb' 49 7).toNat, bb, bb + (b.extractLsb' 40 9).toNat)]

/-- What is taken of a slice: grove areas and context windows. -/
def State.usedIn (s : State) (areas : List (Nat × Nat × Nat)) (slice : Nat) : List (Nat × Nat) :=
  ((areas.filter fun a => decide (a.1 = slice)).map (·.2)) ++
  ((s.rim (slice / 8)).slwin.filter fun e => decide (e.1 % 8 = slice % 8)).map fun e =>
    ((e.2.extractLsb' 0 16).toNat, (e.2.extractLsb' 16 16).toNat)

/-- The units that may be given out in a slice: up to SPLIT where it may not change (R35), else all. -/
def State.sliceCap (s : State) (slice : Nat) : Nat := if s.sliceInUse slice then (s.sliceOf slice).split else 1280

/-- Raises SPLIT of a slice to cover a unit; the cache lines there are written back and dropped. -/
def State.coverUnit (s : State) (slice top : Nat) : State :=
  if top ≤ (s.sliceOf slice).split then s
  else { s with cache := s.cache.filter fun l => !decide (l.slice = slice) }.updSlice slice fun x => { x with split := top }

/-- Gives a context its window in every slice of its partition's ready rim fields. -/
def State.giveWindows (s : State) (ctx size sync start : Nat) : Option State :=
  let areas := s.groveAreas
  let slices := (s.readyRims (partOfCtx ctx)).flatMap fun k => (List.range 8).map (8 * k + ·)
  if size = 0 then some s
  else slices.foldl (fun (o : Option State) sl =>
    match o with
    | none => none
    | some s => (fitFrom (s.usedIn areas sl) (s.sliceCap sl) size start).map fun b =>
        (s.coverUnit sl (b + size)).updRim (sl / 8) fun r =>
          { r with slwin := Tbl.set r.slwin (ctx % 16 * 8 + sl % 8) (BitVec.ofNat 64 (sync * 2 ^ 32 + (b + size) * 65536 + b)) }) (some s)

/-- A run of units for a grove in one of its partition's slices, the search beginning at a slice of the grove's number. -/
def State.areaFor (s : State) (p g size start : Nat) : Option (Nat × Nat) :=
  let slices := (s.readyRims p).flatMap fun k => (List.range 8).map (8 * k + ·)
  let n := slices.length
  let areas := s.groveAreas
  (slices.drop (g % max n 1) ++ slices.take (g % max n 1)).findSome? fun sl =>
    (fitFrom (s.usedIn areas sl) (s.sliceCap sl) size start).map fun b => (sl, b)

/-- Assigns a grove's TE_SAVE and SN_BUF where they are not assigned; the trunk chooses how many frames and units. -/
def State.giveAreas (s : State) (p g nframe size start : Nat) : Option State :=
  let gr := s.grove g
  let s1 : Option State :=
    if gr.teSave ≠ 0 then some s
    else (s.areaFor p g ((nframe * 0x6C000 + 65535) / 65536) start).map fun e =>
      (s.coverUnit e.1 (e.2 + (nframe * 0x6C000 + 65535) / 65536)).updGrove g fun gr =>
        { gr with teSave := BitVec.ofNat 64 (e.1 * 2 ^ 49 + nframe * 2 ^ 44 + e.2) }
  match s1 with
  | none => none
  | some s =>
    if gr.snBuf ≠ 0 then some s
    else (s.areaFor p g size start).map fun e =>
      (s.coverUnit e.1 (e.2 + size)).updGrove g fun gr => { gr with snBuf := BitVec.ofNat 64 (e.1 * 2 ^ 49 + size * 2 ^ 40 + e.2) }

/-- Grants counters and slots of a grove to a context (R343). -/
def State.giveGrant (s : State) (ctx g counters slots : Nat) : Option State :=
  let gr := s.grove g
  let others := gr.geGrant.filter fun e => decide (e.1 ≠ ctx % 16)
  let cs := others.map fun e => let b := (e.2.extractLsb' 0 7).toNat; (b, b + (e.2.extractLsb' 8 8).toNat)
  let ss := others.map fun e => let b := (e.2.extractLsb' 33 9).toNat; (b, b + (e.2.extractLsb' 42 10).toNat)
  match (if counters = 0 then some 0 else firstFit cs 128 counters 0), (if slots = 0 then some 0 else firstFit ss 512 slots 0) with
  | some c, some k => some (s.updGrove g fun gr =>
      { gr with geGrant := Tbl.set gr.geGrant (ctx % 16) (BitVec.ofNat 64 (slots * 2 ^ 42 + k * 2 ^ 33 + counters * 256 + c)) })
  | _, _ => none

/-- Chains an operation over a list, stopping at the first failure. -/
def eachOf {α : Type} (l : List α) (s : State) (f : State → α → Option State) : Option State :=
  l.foldl (fun o x => match o with | some s => f s x | none => none) (some s)

/-- How many save frames the trunk chooses for a grove that has no TE_SAVE: 1 to 31 (log entry 39). -/
def areaFrames (choice : List Nat) : Nat := min (max (choice.getD 2 0) 1) 31
/-- How many units the trunk chooses for a grove that has no SN_BUF: 1 to 511 (log entry 39). -/
def areaUnits (choice : List Nat) : Nat := min (max (choice.getD 3 0) 1) 511

/-- All that LOAD_IMAGE allocates and sets for a context. `choice` holds what the trunk chooses: the first frame and the first unit it
looks at, and the save frames and snapshot units of each grove that has none. -/
def State.createCtx (s : State) (b : List Byte) (im : Image) (choice : List Nat) : Option State :=
  let ctx := cmdCtx b
  let p := partOfCtx ctx
  let maps := mapOf b
  let win := fieldOfBytes b 0x38 4
  let grant := fieldOfBytes b 0x3C 4
  let groves := s.partGroves p
  match s.takeFrames p (mapFrames maps) (choice.getD 0 0) with
  | none => none
  | some frames =>
    match s.giveWindows ctx (win % 65536) (win / 65536 % 256) (choice.getD 1 0) with
    | none => none
    | some s =>
      match eachOf groves s fun s g => s.giveAreas p g (areaFrames choice) (areaUnits choice) (choice.getD 1 0) with
      | none => none
      | some s =>
        (eachOf groves s fun s g => s.giveGrant ctx g (grant % 256) (grant / 256 % 1024)).map fun s =>
          let s := s.writeTables maps frames
          s.setCtx ctx { Context.reset with
            state := .loaded, image := im, seed := BitVec.ofNat 64 (fieldOfBytes b 0x28 8),
            snArea := BitVec.ofNat 64 (fieldOfBytes b 0x30 8) &&& 0xFFFFFFFFFFE00000,
            ptroot := BitVec.ofNat 64 (frames.headD 0 * 2 ^ 21), rootList := groves, rimList := s.readyRims p, frames := frames,
            poolSeed := BitVec.ofNat 64 (fieldOfBytes b 0x28 8), poolList := groves }

/-- LOAD_IMAGE of a launch image (R98, R417). -/
def State.loadLaunch (s : State) (b : List Byte) (choice : List Nat) : CmdEnd :=
  let ctx := cmdCtx b
  let bytes := s.imageBytes b
  if (s.ctx ctx).state ≠ .free then .refuse 1 1
  else if s.trunk.clearing.getLsbD (cmdPart b) then .refuse 1 5
  else
    match imageRefusal s.trunk.fw (fieldOfBytes b 0x18 8) bytes with
    | some d => .refuse 2 d
    | none =>
      if !rangesFit (mapOf b) then .refuse 2 12
      else if (imageData bytes).any fun e => !blockMapped (mapOf b) e.1 e.2.length then .refuse 2 8
      else
        match s.createCtx b (imageOfBytes bytes) choice with
        | none => .refuse 1 2
        | some s => .done ((imageData bytes).foldl (fun s e => (s.writeVa ctx e.1 (goodBytes e.2)).1) s) 0 []

/-- R417: LOAD_IMAGE of a launch image. -/
def execLoadImage (qp : Nat) (cmd : List (BitVec 8)) (choice : List Nat) (s : State) : Host.Outcome State Fault Refusal :=
  let gate := (s.cmdGate cmd false .nothing).orElse fun _ => (loadArgs cmd).orElse fun _ => s.cmdGate cmd false .part
  runCommand s qp cmd (decide (cmdCode cmd = 1) && decide (cmdKind cmd ≠ 1) && decide (cmdKind cmd ≠ 2)) gate (s.loadLaunch cmd choice)

/-! ### Signed images (R438) -/

/-- R438: LOAD_IMAGE of firmware: checked and staged; with RESTART the module then restarts with it. -/
def execLoadImageFirmware (qp : Nat) (cmd : List (BitVec 8)) (s : State) : Host.Outcome State Fault Refusal :=
  let gate := (s.cmdGate cmd true .nothing).orElse fun _ => loadArgs cmd
  let body : CmdEnd := match signedOf s.trunk.rollMin s.trunk.revoked (s.imageBytes cmd) with
    | none => .refuse 3 0
    | some x => .done (s.updTrunk fun t => { t with staged := some (x.fwlvl, x.roll, x.digest) }) 0 []
  let restart := match gate, body with
    | none, .done _ _ _ => (fieldOfBytes cmd 0x21 1).testBit 0
    | _, _ => false
  let sel := decide (cmdCode cmd = 1) && decide (cmdKind cmd = 1)
  if restart && sel && cmdSized cmd && s.qpFree qp then .next ((s.finish qp cmd body).resetModule true)
  else runCommand s qp cmd sel gate body

/-- LOAD_IMAGE of a supervisor image: signature first, then the checks of a launch image without the trailer. -/
def State.loadSupervisor (s : State) (b : List Byte) : CmdEnd :=
  let bytes := s.imageBytes b
  let body := bytes.take (bytes.length - 512)
  match signedOf s.trunk.rollMin s.trunk.revoked bytes with
  | none => .refuse 3 0
  | some x =>
    if x.fwlvl ≠ 0 then .refuse 3 0
    else
      match imageRefusal s.trunk.fw body.length body with
      | some d => .refuse 2 d
      | none => .done (s.updTrunk fun t => { t with supImage := some { imageOfBytes body with digest := sha256 bytes } }) 0 []

/-- R420: LOAD_IMAGE of a supervisor image. -/
def execLoadImageSupervisor (qp : Nat) (cmd : List (BitVec 8)) (s : State) : Host.Outcome State Fault Refusal :=
  let gate := (s.cmdGate cmd false .nothing).orElse fun _ => (loadArgs cmd).orElse fun _ => s.cmdGate cmd false .supervisor
  runCommand s qp cmd (decide (cmdCode cmd = 1) && decide (cmdKind cmd = 2)) gate (s.loadSupervisor cmd)

/-! ### LAUNCH: routes (R418) -/

/-- The ready ports that lead to a module identity. -/
def State.portsTo (s : State) (id : Nat) : List Nat :=
  (List.range 32).filter fun p => s.ready.ports.getLsbD p && decide (Tbl.get? s.ready.peers p = some id)

/-- Are two other members cabled to each other: LAUNCH's choice says so with 2^20 + 64 · a + b (log entry 39)? -/
def cabled (choice : List Nat) (a b : Nat) : Bool :=
  choice.contains (2 ^ 20 + 64 * a + b) || choice.contains (2 ^ 20 + 64 * b + a)

/-- The members of a list from which member m can be reached over at most k links between members of the list, with the number of
links. -/
def linkDistances (choice l : List Nat) (m : Nat) : Nat → List (Nat × Nat)
  | 0 => [(m, 0)]
  | k + 1 =>
    let r := linkDistances choice l m k
    r ++ (l.filter fun a => !r.any (fun e => decide (e.1 = a)) && r.any fun e => cabled choice a e.1).map fun a => (a, k + 1)

/-- The ways to a member that begin at a neighbour: links after the first, and the ports to the neighbour. -/
def State.waysBy (s : State) (modules : List Nat) (member : Nat) (choice : List Nat) (m : Nat) : List (Nat × List Nat) :=
  let others := (List.range modules.length).filter fun a => decide (a ≠ member)
  ((linkDistances choice others m others.length).map fun e => (e.2, s.portsTo (modules.getD e.1 0))).filter fun e => !e.2.isEmpty

/-- The way to a member (R418): the ports of its direct links, or those to the neighbour from which the fewest members lie between, of
several the one with the lowest first port; with the number of its links (R313). -/
def State.wayTo (s : State) (modules : List Nat) (member : Nat) (choice : List Nat) (m : Nat) : Option (Nat × List Nat) :=
  let before (x y : Nat × List Nat) : Bool := decide (x.1 < y.1) || (decide (x.1 = y.1) && decide (x.2.headD 0 < y.2.headD 0))
  ((s.waysBy modules member choice m).foldl (fun (b : Option (Nat × List Nat)) e => match b with
    | some x => if before e x then some e else b
    | none => some e) none).map fun e => (e.1 + 1, e.2)

/-- The ways to every other member of a gang. -/
def State.gangWays (s : State) (modules : List Nat) (member : Nat) (choice : List Nat) : List (Nat × Option (Nat × List Nat)) :=
  ((List.range modules.length).filter fun m => decide (m ≠ member)).map fun m => (m, s.wayTo modules member choice m)

/-- How many module links the way to each other member has (R313, R418). -/
def State.gangLinks (s : State) (modules : List Nat) (member : Nat) (choice : List Nat) : List (Nat × Nat) :=
  (s.gangWays modules member choice).filterMap fun e => e.2.map fun w => (e.1, w.1)

/-- The route table of a gang (R418): the ports of the way to each other member; none when a member has no route. -/
def State.gangRoutes (s : State) (modules : List Nat) (member : Nat) (choice : List Nat) : Option (List (Nat × List Nat)) :=
  let l := s.gangWays modules member choice
  if l.any fun e => e.2.isNone then none else some (l.filterMap fun e => e.2.map fun w => (e.1, w.2))

/-! ### LAUNCH: placement (R8, R11, R92, R171, R341) -/

/-- Do a placement record's template, mode and ranges hold (R171)? -/
def placementFits (im : Image) (p : Placement) : Bool :=
  decide (p.mode ≤ 2) && decide (p.tmpl < im.templates.length) &&
  p.ranges.zipIdx.all fun e => decide (e.1.1 ≤ e.1.2) && decide (e.1.2 < 2 ^ widWidth im.widths e.2)

/-- The ranges of a record for a member: field f0 is the member's in a gang. -/
def memberRanges (p : Placement) (member : Option Nat) : List (Nat × Nat) :=
  match member, p.ranges with
  | some m, r :: rest => (if r.1 ≤ m ∧ m ≤ r.2 then (m, m) else (1, 0)) :: rest
  | _, l => l

/-- How many instances ranges give. -/
def rangeCount (l : List (Nat × Nat)) : Nat := l.foldl (fun n r => n * (r.2 + 1 - r.1)) 1

/-- The WIDs that ranges give, in rising order. -/
def rangeWids (widths : List Nat) (l : List (Nat × Nat)) : List Nat :=
  l.zipIdx.foldl (fun ws e => ws.flatMap fun w => (List.range (e.1.2 + 1 - e.1.1)).map fun i =>
    if widWidth widths e.2 = 0 then w else w + (e.1.1 + i) * 2 ^ (64 - widStart widths (e.2 + 1))) [0]

/-- The nearest ready grove with room for a record that names a grove which is not ready or full (R8): of the same field, or of the
nearest field, ties to the lower field, the lowest grove first. -/
def State.fieldFallback (s : State) (p g : Nat) : Option Nat :=
  let far (h : Nat) : Nat := groveDist (fieldOf g / 8 * 48 + fieldOf g % 8) (fieldOf h / 8 * 48 + fieldOf h % 8)
  ((s.partGroves p).filter fun h => (s.grove h).freeIndex.isSome).foldl (fun (b : Option Nat) h =>
    match b with
    | none => some h
    | some x => if far h < far x ∨ (far h = far x ∧ fieldOf h < fieldOf x) then some h else some x) none

/-- The next grove of a list in turn that has a free entry, and the turn after it. -/
def State.nextInTurn (s : State) (l : List Nat) (turn : Nat) : Option (Nat × Nat) :=
  let n := l.length
  ((List.range n).find? fun j => (s.grove (l.getD ((turn + j) % n) 0)).freeIndex.isSome).map fun j =>
    (l.getD ((turn + j) % n) 0, (turn + j) % n + 1)

/-- Installs a launch record, IDLE, at a grove; a triad's copies around it (R171). -/
def State.placeOne (s : State) (ctx g tmpl : Nat) (wid : Word) : Option State :=
  let im := (s.ctx ctx).image
  match im.templates[tmpl]? with
  | none => none
  | some t =>
    let r (c : Nat) : TaskRec := newRecord im ctx tmpl t wid c 0 7 false none none
    if !t.triad then some (s.enterRecord g (r 3) false)
    else (s.triadPlaces ctx g []).map fun e => s.enterTriad (r 0) g e.1 e.2 false

/-- Where a launch stands while it places: the state, the turn of `auto`, and the turns of regions by record. -/
structure Placing where
  s : State
  turn : Nat
  turns : Tbl Nat
deriving DecidableEq, Repr

/-- Places one instance of placement record k. -/
def Placing.place (x : Placing) (ctx k : Nat) (p : Placement) (wid : Word) : Option Placing :=
  let part := partOfCtx ctx
  let s := x.s
  match p.mode with
  | 0 =>
    (match s.nextInTurn (s.partGroves part) x.turn with
     | none => none
     | some (g, n) => (s.placeOne ctx g p.tmpl wid).map fun s => { x with s := s, turn := n })
  | 1 =>
    let ok := (s.partGroves part).contains p.grove && (s.grove p.grove).freeIndex.isSome
    (match (if ok then some p.grove else s.fieldFallback part (min p.grove 2591)) with
     | none => none
     | some g => (s.placeOne ctx g p.tmpl wid).map fun s => { x with s := s })
  | _ =>
    let e (i : Nat) : Nat := p.region.getD i 0
    let l := (s.partGroves part).filter fun g =>
      decide (e 0 ≤ groveX g) && decide (groveX g ≤ e 2) && decide (e 1 ≤ groveY g) && decide (groveY g ≤ e 3)
    (match s.nextInTurn l (Tbl.getD x.turns k 0) with
     | none => none
     | some (g, n) => (s.placeOne ctx g p.tmpl wid).map fun s => { x with s := s, turns := Tbl.set x.turns k n })

/-- Puts an instance in WID order behind those of equal WID. -/
def insertWid (x : Nat × Nat × Placement) (l : List (Nat × Nat × Placement)) : List (Nat × Nat × Placement) :=
  l.takeWhile (fun y => decide (y.1 ≤ x.1)) ++ [x] ++ l.dropWhile fun y => decide (y.1 ≤ x.1)

/-- Do no two images of a context claim one slot of a grove (R341)? -/
def State.slotsApart (s : State) (ctx : Nat) : Bool :=
  s.groves.all fun e =>
    let l := (e.2.tasks.filter fun t => decide (t.2.ctx = ctx)).flatMap fun t =>
      ((s.ctx ctx).image.trigs.filter fun i => decide (i.tmpl = t.2.tmpl)).map (·.slot)
    decide l.Nodup

/-- Places all instances of a context: those of `auto` in WID order, then the others in WID order (that the automatic ones go first is the
model's choice, log entry 39: R92 gives no order between the modes); none when R11, R92, R171 or R341 is broken. -/
def State.placeAll (s : State) (ctx : Nat) (member : Option Nat) : Option State :=
  let im := (s.ctx ctx).image
  let total := (im.placements.map fun p => rangeCount (memberRanges p member)).foldl (· + ·) 0
  if 64 < im.widths.foldl (· + ·) 0 ∨ !im.placements.all (placementFits im) ∨ 256 * 2592 < total then none
  else
    let all := im.placements.zipIdx.flatMap fun e => (rangeWids im.widths (memberRanges e.1 member)).map fun w => (w, e.2, e.1)
    let order (auto : Bool) : List (Nat × Nat × Placement) :=
      (all.filter fun x => decide (x.2.2.mode = 0) == auto).foldl (fun l x => insertWid x l) []
    let r := (order true ++ order false).foldl (fun (o : Option Placing) x =>
      match o with
      | none => none
      | some y => y.place ctx x.2.1 x.2.2 (BitVec.ofNat 64 x.1)) (some ⟨s, 0, []⟩)
    match r with
    | none => none
    | some y => if y.s.slotsApart ctx then some y.s else none

/-! ### LAUNCH (R418) -/

/-- The request numberings count from 0 at LAUNCH (R406); they are shared by contexts, so another gang context that runs keeps them
(log entry 34). -/
def State.startNumbers (s : State) : State :=
  if s.contexts.any fun e => decide (1 < e.2.nmem) && (decide (e.2.state = .running) || decide (e.2.state = .launched)) then s
  else
    let zero (t : Tbl Nat) : Tbl Nat := t.filter fun e => decide (e.1 % 2 ^ 17 ≠ 0)
    { s with cores := s.cores.map fun (e : Nat × Core) => (e.1, { e.2 with seqs := zero e.2.seqs }),
             groves := s.groves.map fun (e : Nat × Grove) => (e.1, { e.2 with trigSeqs := zero e.2.trigSeqs }),
             slices := s.slices.map fun (e : Nat × Slice) => (e.1, { e.2 with expect := [] }) }

/-- Has this module still to take the time base of a gang's reference before it installs its share of the gang's LAUNCH (R424)? Member 0
of a gang of free-running members is the reference itself (log entry 41). -/
def State.joinDue (s : State) (n member : Nat) : Bool :=
  decide (1 < n) && decide (member ≠ 0) && !s.trunk.everPtp && !s.trunk.joined

/-- LAUNCH of a context: its own share of the root list is that of its creation (R49). `choice` holds what the other members and the
links between them give: positions member · 2,592 + grove of their ready groves, and the pairs of them that are cabled. -/
def State.launchCtx (s : State) (b : List Byte) (choice : List Nat) : CmdEnd :=
  let ctx := cmdCtx b
  let x := s.ctx ctx
  let start := fieldOfBytes b 0x10 8
  let n := fieldOfBytes b 0x18 1 + 1
  let member := fieldOfBytes b 0x19 1
  let modules := (List.range n).map fun i => fieldOfBytes b (0x20 + 8 * i) 8
  if !zeroBytes b 0x1A 0x20 then .refuse 4 0
  else if x.state ≠ .loaded then .refuse 1 3
  else if s.trunk.clearing.getLsbD (cmdPart b) then .refuse 1 5
  else if s.trunk.syncErr then .refuse 1 4
  else if s.joinDue n member && s.anyLaunched then .refuseIn (s.updTrunk fun t => { t with syncErr := true }) 1 4
  else if start ≤ s.tick then .refuse 2 13
  else if 64 < n ∨ n ≤ member then .refuse 2 15
  else
    match s.gangRoutes modules member choice with
    | none => .refuse 2 15
    | some routes =>
      let own := (x.rootList.filter fun r => decide (r / 2592 = x.member)).map fun r => member * 2592 + r % 2592
      let others := choice.filter fun c => decide (c < n * 2592) && decide (c / 2592 ≠ member)
      let roots := (List.range n).flatMap fun m => if m = member then own else others.filter fun c => decide (c / 2592 = m)
      let s := s.startNumbers.resetGrants ctx
      let s : State := { s with snaps := s.snaps.filter fun y => !decide (y.ctx = ctx) }
      let s := s.setCtx ctx { x with
        state := .launched, nmem := n, member := member, ltag := cmdTag b, start := start, modules := modules.map (BitVec.ofNat 64),
        routes := routes, links := s.gangLinks modules member choice, rootList := roots, lastRb := 0,
        snStat := x.snStat &&& 0x00000000FFFFFFFF }
      match s.placeAll ctx (if n = 1 then none else some member) with
      | none => .refuse 2 14
      | some s => .done (s.settlePools ctx) 0 []

/-- Does a LAUNCH wait for a sync symbol, with which its module joins the gang's time base (R424)? -/
def State.awaitsJoin (s : State) (b : List Byte) : Bool :=
  s.joinDue (fieldOfBytes b 0x18 1 + 1) (fieldOfBytes b 0x19 1) && !s.anyLaunched && decide (cmdCode b = 2) && decide (cmdPart b ≠ 15) &&
  cmdSized b && (s.cmdGate b false .ctx).isNone && zeroBytes b 0x1A 0x20 && decide ((s.ctx (cmdCtx b)).state = .loaded) &&
  !s.trunk.syncErr && !s.trunk.clearing.getLsbD (cmdPart b) && decide (fieldOfBytes b 0x18 1 < 64) &&
  decide (fieldOfBytes b 0x19 1 ≤ fieldOfBytes b 0x18 1)

/-- R418: LAUNCH of a context. -/
def execLaunch (qp : Nat) (cmd : List (BitVec 8)) (choice : List Nat) (s : State) : Host.Outcome State Fault Refusal :=
  runCommand s qp cmd (decide (cmdCode cmd = 2) && decide (cmdPart cmd ≠ 15)) (s.cmdGate cmd false .ctx) (s.launchCtx cmd choice)

/-- Trunk core 3 as a supervisor image's template 0 starts on it (R81, R151, R420). KSTAT.dbg is the image's DBG flag (log entry 53: the
spec does not say from where a trunk core's comes). -/
def Core.beginSup (im : Image) (clk : Nat) : Core :=
  let k := match im.templates[0]? with | some t => im.kernels[t.kidx]? | none => none
  let win := Tbl.get? im.params 0
  { Core.reset with
    mode := .running, next := clk, pc := (match k with | some k => BitVec.ofNat 12 k.entry | none => 0),
    kstat := if im.dbg then 3 else 1, kbank := (match k with | some k => k.kbank | none => 0),
    kpwin := (match win with | some w => BitVec.ofNat 64 (0x10000 + (w.length + 7) / 8 * 8) | none => 0), window := win.getD [] }

/-- LAUNCH of the supervisor image (R420). -/
def State.launchSup (s : State) (qp : Nat) (b : List Byte) : CmdEnd :=
  if !zeroBytes b 0x1A 0x20 then .refuse 4 0
  else if fieldOfBytes b 0x10 8 ≠ 0 then .refuse 2 13
  else
    match s.trunk.supImage, s.trunk.supRun with
    | none, _ => .busyOpen
    | _, some _ => .refuse 1 6
    | some im, none => .later ((s.setCore (trunkCore0 + 3) (Core.beginSup im s.clk)).updTrunk fun t =>
        { t with supCode := im, supRun := some (qp, cmdTag b), supDigest := im.digest })

/-- R420: LAUNCH of the supervisor image on trunk core 3. -/
def execLaunchSupervisor (qp : Nat) (cmd : List (BitVec 8)) (s : State) : Host.Outcome State Fault Refusal :=
  runCommand s qp cmd (decide (cmdCode cmd = 2) && decide (cmdPart cmd = 15)) (s.cmdGate cmd false .supervisor) (s.launchSup qp cmd)

end Sys2Proof.Machine
end

