-- ==== Sys2Proof/Machine/Trunk.lean ====
section
/-!
DEFINITION. The other host commands: MIGRATE, SNAPSHOT and ROLLBACK (R416), PARTITION (R434, R435), SUMMARY with its record and quote
(R422, R423, R425, R439) and RESET_CONTEXT (R419), and RDMA (R412, R413).
-/

namespace Sys2Proof.Machine

/-! ### MIGRATE, SNAPSHOT, ROLLBACK (R416) -/

/-- MIGRATE: the record is that of the command's context on a ready grove of its partition; the answer waits for the outcome. -/
def State.commandMigrate (s : State) (qp : Nat) (b : List Byte) : CmdEnd :=
  let g := fieldOfBytes b 0x10 2
  let i := fieldOfBytes b 0x12 1
  if !zeroBytes b 0x13 0x14 then .refuse 4 0
  else if (s.ctx (cmdCtx b)).state ≠ .running then .busyOpen
  else if !(s.partGroves (cmdPart b)).contains g then .refuse 2 19
  else
    match (s.grove g).task? i with
    | none => .refuse 2 19
    | some t =>
      if t.ctx ≠ cmdCtx b then .refuse 2 19
      else
        let s := s.migrateRecord g i (fieldOfBytes b 0x14 2) false fun _ => true
        let w := (s.grove g).teMigstat
        if w.extractLsb' 0 4 = 5 then
          .later (s.updTrunk fun k => { k with migrations := k.migrations ++ [(qp, cmdTag b, 256 * g + i)] })
        else .done s 0 (natBytes 8 w.toNat)

/-- R416: the MIGRATE command. -/
def execMigrateCmd (qp : Nat) (cmd : List (BitVec 8)) (s : State) : Host.Outcome State Fault Refusal :=
  runCommand s qp cmd (decide (cmdCode cmd = 3)) (s.cmdGate cmd false .ctx) (s.commandMigrate qp cmd)

/-- SNAPSHOT: as `snap` does; DETAIL is SN_STAT after it, and a refusal is BUSY. -/
def State.commandSnapshot (s : State) (qp : Nat) (b : List Byte) : CmdEnd :=
  if 3 < cmdPart b ∨ 15 < fieldOfBytes b 9 1 then .refuse 2 16
  else
    let s := s.startSnap (cmdCtx b) ((fieldOfBytes b 0x10 1).testBit 0) false
    let w := (s.ctx (cmdCtx b)).snStat
    .later (s.respond qp 4 (cmdTag b) (if w.extractLsb' 8 4 = 1 then 0 else 1) w [])

/-- R416: the SNAPSHOT command. -/
def execSnapshot (qp : Nat) (cmd : List (BitVec 8)) (s : State) : Host.Outcome State Fault Refusal :=
  runCommand s qp cmd (decide (cmdCode cmd = 4)) (s.cmdGate cmd false .nothing) (s.commandSnapshot qp cmd)

/-- A rollback begins in this member, by the command of a queue pair or, as 128 + ctx, by another member's message: the context is
quiesced, and the other members are told (R393). -/
def State.beginRollback (s : State) (qp ctx n : Nat) (b : List Byte) : State :=
  let s := ((s.quiesceCtx ctx).updCtx ctx fun x => { x with marks := [] }).updTrunk fun t =>
    { t with rollbacks := t.rollbacks ++ [(qp, ctx, s.tick, b)] }
  { s with out := s.out ++ (s.otherMembers ctx).map fun m => Out.rollback m ctx n }

/-- The ROLLBACK command of a rollback that another member's message begins: it is answered nowhere. -/
def rollbackBytes (ctx n : Nat) : List Byte := natBytes 8 5 ++ natBytes 8 (ctx / 16 + ctx % 16 * 256) ++ natBytes 4 n

/-- Member m rolls a context back to snapshot n, and has sent what goes before the rollback: this member does so too (R393). -/
def State.rollbackIn (s : State) (m ctx n : Nat) : State :=
  if (s.ctx ctx).state = .free then s
  else
    let s := if (s.rollingFrom ctx).isSome then s else s.beginRollback (128 + ctx) ctx n (rollbackBytes ctx n)
    s.updCtx ctx fun x => { x with marks := x.marks ++ [m] }

/-- Has every other member of a context's gang begun the rollback, so that nothing from before it is still on its way? -/
def State.rollbackReady (s : State) (ctx : Nat) : Bool := (s.otherMembers ctx).all (s.ctx ctx).marks.contains

/-- ROLLBACK to a snapshot that has completed and whose record is kept. -/
def State.commandRollback (s : State) (qp : Nat) (b : List Byte) : CmdEnd :=
  let ctx := cmdCtx b
  let n := fieldOfBytes b 0x10 4
  let kept := s.snaps.any fun x => decide (x.ctx = ctx) && decide (x.id = n) && x.done.isSome && !x.released
  if (s.rollingFrom ctx).isSome then .refuse 1 9
  else if (s.ctx ctx).state = .resetting then .busyOpen
  else if snLast (s.ctx ctx).snStat < n ∨ !kept then .refuse 2 1
  else .later (s.beginRollback qp ctx n b)

/-- A rollback ends: memory, groves and rims stand as the snapshot has them, the context resumes, and the command is answered. -/
def State.endRollback (s : State) (qp : Nat) (b : List Byte) : State :=
  let s := (s.updTrunk fun t => { t with rollbacks := t.rollbacks.filter fun e => decide (e.1 ≠ qp) }).updCtx (cmdCtx b) fun x =>
    { x with marks := [] }
  let s := s.rollbackTo (cmdCtx b) (fieldOfBytes b 0x10 4)
  if 128 ≤ qp then s else s.respond qp 5 (cmdTag b) 0 0 []

/-- Does a queue pair's rollback by this command run? -/
def State.rollbackRuns (s : State) (qp : Nat) (b : List Byte) : Bool :=
  s.trunk.rollbacks.any fun e => decide (e.1 = qp) && decide (e.2.2.2 = b)

/-- R393: the ROLLBACK command: the context is quiesced, and the rollback runs; while it runs, its end, once every member has begun. -/
def execRollback (qp : Nat) (cmd : List (BitVec 8)) (s : State) : Host.Outcome State Fault Refusal :=
  if s.rollbackRuns qp cmd then .next (if s.rollbackReady (cmdCtx cmd) then s.endRollback qp cmd else s)
  else runCommand s qp cmd (decide (cmdCode cmd = 5)) (s.cmdGate cmd false .ctx) (s.commandRollback qp cmd)

/-! ### PARTITION (R434, R435) -/

/-- The quarters of a QMASK. -/
def maskQuarters (m : Nat) : List Nat := (List.range 4).filter fun q => m.testBit q

/-- The partitions that a QMASK covers. -/
def State.covered (s : State) (m : Nat) : List Nat := ((maskQuarters m).map s.trunk.partOf).eraseDups

/-- TK_PARTMAP when each quarter q of a mask lies in partition `f q`. -/
def State.newMap (s : State) (m : Nat) (f : Nat → Nat) : Word :=
  let part (q : Nat) : Nat := if m.testBit q then f q else s.trunk.partOf q
  BitVec.ofNat 64 ((List.range 4).foldl (fun n q => n ||| part q * 4 ^ q ||| 2 ^ (8 + part q)) 0)

/-- May PARTITION change the partitions of a mask to a layout: a union of partitions without contexts, and no PARTITION or supervisor
image runs? -/
def State.mayPartition (s : State) (m : Nat) (w : Word) : Bool :=
  let ps := s.covered m
  decide (0 < m ∧ m < 16) && layouts.contains w && s.trunk.supRun.isNone && s.trunk.parting.isNone &&
  (List.range 4).all (fun q => m.testBit q || !ps.contains (s.trunk.partOf q)) && ps.all fun p => decide (s.ctxMask p = 0)

/-- The 64 GiB units that the memory of other partitions takes. -/
def State.unitsTaken (s : State) (ps : List Nat) : List (Nat × Nat) :=
  (((List.range 4).filter fun q => !ps.contains q && (s.ilv q).getLsbD 63).map fun q => ilvRange (s.ilv q)).map fun r => (r.1 / 2 ^ 36, r.2 / 2 ^ 36)

/-- Gives partitions of the new layout their memory, every ready stack of their rim fields in a range of its own (R431). -/
def State.giveMemory (s : State) (ps : List Nat) (start : Nat) : Option State :=
  ps.foldl (fun (o : Option State) p =>
    match o with
    | none => none
    | some s =>
      let own := ((s.trunk.partRims p).flatMap fun k => [2 * k, 2 * k + 1]).filter fun i => s.ready.hbmStacks.getLsbD i
      match fitFrom (s.unitsTaken [p]) 24 own.length start with
      | none => none
      | some u => s.writeIlv p (BitVec.ofNat 64 (0x800C000000000000 + u * 2 ^ 36 + (own.map fun i => 2 ^ i).foldl (· + ·) 0))) (some s)

/-- The steps of a PARTITION whose seams are quiesced: map, memory, seams, shoot-down. The new memory begins where the trunk chooses, else
with the old one's lowest base (log entry 37). -/
def State.repartition (s : State) (seams : List Nat) (w : Word) (opens : Bool) (new : List Nat) (old : List Nat) (choice : List Nat) :
    Option State :=
  let bases := (old.filter fun p => (s.ilv p).getLsbD 63).map fun p => (ilvRange (s.ilv p)).1 / 2 ^ 36
  match s.writePartmap w with
  | none => none
  | some s =>
    let s := s.updTrunk fun t => old.foldl (fun t p =>
      { t with ilv := t.ilv.setIfInBounds p 0, clearing := t.clearing &&& ~~~((1 : BitVec 4) <<< p) }) t
    match s.giveMemory new (choice.headD (bases.foldl min 23)) with
    | none => none
    | some s =>
      let s : State := s.updTrunk fun t => seams.foldl (fun t k =>
        { t.setSeam k (if opens then 2 else 0) with
          seamctl := t.seamctl.setIfInBounds k (BitVec.ofNat 64 (4096 * 2 ^ 32 + (if opens then 2 else 3))) }) t
      some (new.foldl (fun s p => (s.writeShoot (BitVec.ofNat 64 (0xC000000000000000 + p * 2 ^ 60))).getD s) s)

/-- Is a PARTITION's bytes a merge, with OP 0? -/
def parts0 (b : List Byte) : Bool := decide (fieldOfBytes b 0x10 1 = 0)
/-- The lowest quarter of a PARTITION's mask. -/
def lowQuarter (b : List Byte) : Nat := (maskQuarters (fieldOfBytes b 0x11 1)).headD 0
/-- The layout that a PARTITION makes: its quarters in one partition, or separate. -/
def State.partLayout (s : State) (b : List Byte) : Word := s.newMap (fieldOfBytes b 0x11 1) fun q => if parts0 b then lowQuarter b else q

/-- QUIESCE of the seams of a PARTITION that are not quiesced, with TIMEOUT 4,096. -/
def State.quiesceSeams (s : State) (seams : List Nat) : State :=
  seams.foldl (fun s k => if s.trunk.seamState k = 1 then s else (s.startQuiesce k 0x0000100000000001).getD s) s

/-- PARTITION starts: its seams are asked to quiesce. -/
def State.commandPartition (s : State) (qp : Nat) (b : List Byte) (choice : List Nat) : CmdEnd :=
  let w := s.partLayout b
  let seams := seamsChanged s.trunk.partmap w
  if !s.mayPartition (fieldOfBytes b 0x11 1) w ∨ (s.covered (fieldOfBytes b 0x11 1)).length ≠ (if parts0 b then 2 else 1) then .busyOpen
  else
    match seams.find? fun k => decide (s.trunk.seamState k = 1) || (s.trunk.seamBusy[k]?.getD none).isSome with
    | some k => .refuse 1 (s.trunk.seam k).toNat
    | none => .later ((s.quiesceSeams seams).updTrunk fun t =>
        { t with parting := some ⟨qp, b, seams, 0, none, s.trunk.seamctl, s.trunk.seamstat, choice⟩ })

/-- A PARTITION ends: it is answered, and a refused one leaves the seams' registers as it found them (R434). -/
def State.endPartition (s : State) (p : Parting) (e : CmdEnd) : State :=
  let s := s.updTrunk fun t => { t with parting := none, seamAns := Vector.replicate 3 none }
  match e with
  | .done _ _ _ => s.finish p.qp p.cmd e
  | e => (s.updTrunk fun t => { t with seamctl := p.ctl, seamstat := p.stat }).finish p.qp p.cmd e

/-- What a PARTITION in progress does next: nothing while a seam is being quiesced or a retry is waited for; then, with every seam
quiesced, the other steps; else it waits 8,192 clk and tries again, up to three times. -/
def State.partitionGoes (s : State) : Option State :=
  match s.trunk.parting with
  | none => none
  | some p =>
    let b := p.cmd
    if p.seams.any fun k => (s.trunk.seamBusy[k]?.getD none).isSome then none
    else
      match p.seams.find? fun k => decide (s.trunk.seamState k ≠ 1), p.wake with
      | none, _ =>
        let new := if parts0 b then [lowQuarter b] else maskQuarters (fieldOfBytes b 0x11 1)
        let s' := s.updTrunk fun t => { t with parting := none, seamAns := Vector.replicate 3 none }
        (match s'.repartition p.seams (s.partLayout b) (parts0 b) new (s.covered (fieldOfBytes b 0x11 1)) p.choice with
         | some u => some (u.finish p.qp b (.done u 0 []))
         | none => some (s.endPartition p .busyOpen))
      | some k, none =>
        if p.tries = 3 then some (s.endPartition p (.refuse 1 (s.trunk.seam k).toNat))
        else some (s.updTrunk fun t => { t with parting := some { p with tries := p.tries + 1, wake := some (s.clk + 8192) } })
      | some _, some w =>
        if s.clk < w then none
        else some ((s.quiesceSeams p.seams).updTrunk fun t => { t with parting := some { p with wake := none } })

/-- Does a queue pair's PARTITION by this command run? -/
def State.partitionRuns (s : State) (qp : Nat) (b : List Byte) : Bool :=
  s.trunk.parting.any fun p => decide (p.qp = qp) && decide (p.cmd = b)

/-- R434: the PARTITION command with OP 0; while it runs, its next step. -/
def execPartitionMerge (qp : Nat) (cmd : List (BitVec 8)) (choice : List Nat) (s : State) : Host.Outcome State Fault Refusal :=
  if s.partitionRuns qp cmd then .next (s.partitionGoes.getD s)
  else runCommand s qp cmd (decide (cmdCode cmd = 6) && decide (fieldOfBytes cmd 0x10 1 = 0)) (s.cmdGate cmd false .nothing)
    (s.commandPartition qp cmd choice)

/-- R435: the PARTITION command with OP 1; while it runs, its next step. -/
def execPartitionSplit (qp : Nat) (cmd : List (BitVec 8)) (choice : List Nat) (s : State) : Host.Outcome State Fault Refusal :=
  if s.partitionRuns qp cmd then .next (s.partitionGoes.getD s)
  else runCommand s qp cmd (decide (cmdCode cmd = 6) && decide (fieldOfBytes cmd 0x10 1 = 1)) (s.cmdGate cmd false .nothing)
    (s.commandPartition qp cmd choice)

/-! ### SUMMARY (R422, R423, R425, R439) -/

/-- Bits as a number. -/
def bitsOf (l : List Bool) : Nat := l.foldr (fun x n => n * 2 + (if x then 1 else 0)) 0

/-- The first 128 bytes of a SUMMARY record. -/
def State.summaryHead (s : State) : List Byte :=
  let t := s.trunk
  let flt := t.trunkFlt.getD (0, 0)
  natBytes 4 0x4D4D5553 ++ natBytes 2 1 ++ natBytes 2 t.fw ++ natBytes 8 Config.moduleId.toNat ++ natBytes 8 s.tick ++
  natBytes 1 (if t.minimal then 1 else 0) ++ natBytes 1 t.fails ++ natBytes 2 t.reason ++
  natBytes 4 (bitsOf [t.syncErr, t.trunkFlt.isSome, t.progress, !t.everPtp]) ++ natBytes 4 (t.syncPs % 2 ^ 32).toNat ++
  natBytes 4 t.watts ++ natBytes 8 t.pwrcap.toNat ++ natBytes 2 ((t.temps.map (·.2)).foldl max 0) ++
  natBytes 2 (s.groves.filter fun e => e.2.hot).length ++ zeros 4 ++
  natBytes 4 (min t.cecSram 0xFFFFFFFF) ++ natBytes 4 (min t.cecHbm 0xFFFFFFFF) ++
  natBytes 8 flt.1.toNat ++ natBytes 8 flt.2.toNat ++ natBytes 8 t.partmap.toNat ++ zeros 40

/-- A partition entry (R423). -/
def State.partEntry (s : State) (p : Nat) : List Byte :=
  natBytes 1 (if s.trunk.partExists p then 1 else 0) ++ natBytes 1 ((s.trunk.quarters p).foldl (fun n q => n + 2 ^ q) 0) ++
  natBytes 2 (s.ctxMask p) ++ natBytes 2 (s.partGroves p).length ++ natBytes 2 (s.trunk.gov[p]?.getD 0).toNat ++
  natBytes 8 (s.ilv p).toNat ++ zeros 48

/-- STATE of a context (R423). -/
def CtxState.code : CtxState → Nat
  | .free => 0 | .loaded => 1 | .launched => 2 | .running => 3 | .stopped => 4 | .resetting => 5

/-- Is an override entry of a context ignored: valid, with no ready grove of the partition in its rectangle (R47)? -/
def State.overrideIgnored (s : State) (ctx : Nat) : Bool :=
  (s.ctx ctx).rootovr.toList.any fun w => w.getLsbD 63 &&
    !(s.partGroves (partOfCtx ctx)).any fun g =>
      decide ((w.extractLsb' 32 6).toNat ≤ groveX g) && decide (groveX g ≤ (w.extractLsb' 38 6).toNat) &&
      decide ((w.extractLsb' 44 6).toNat ≤ groveY g) && decide (groveY g ≤ (w.extractLsb' 50 6).toNat)

/-- A context entry (R423). -/
def State.ctxEntry (s : State) (ctx : Nat) : List Byte :=
  let x := s.ctx ctx
  natBytes 1 x.state.code ++ natBytes 1 (bitsOf [snInprog x.snStat, (s.rollingFrom ctx).isSome, s.overrideIgnored ctx]) ++ natBytes 1 (x.nmem - 1) ++
  natBytes 1 x.member ++ natBytes 4 x.ltag ++ natBytes 8 x.start ++ natBytes 8 x.snStat.toNat ++ natBytes 4 x.image.faultH.toNat ++
  natBytes 4 x.ftiles ++ natBytes 8 x.ftick ++ natBytes 2 x.fkind ++ natBytes 2 x.fver ++ natBytes 2 x.fc1 ++ zeros 18

/-- The readiness map (R425). -/
def Readiness.bytes (r : Readiness) : List Byte :=
  let ready := (r.groves.filter fun e => e.2.testBit 0).length
  let one (b : Bool) : Byte := if b then 1 else 0
  natBytes 4 r.gen ++ natBytes 2 ready ++ zeros 10 ++ ((List.range 2592).map fun g => BitVec.ofNat 8 (r.groveByte g)) ++
  ((List.range 72).map fun f => BitVec.ofNat 8 (Tbl.getD r.walkers f 0)) ++ ((List.range 12).map fun k => one (r.rims.getLsbD k)) ++
  ((List.range 24).map fun k => one (r.hbmStacks.getLsbD k)) ++
  ((List.range 32).map fun p => one (r.ports.getLsbD p) ||| (one (Tbl.get? r.peers p).isSome <<< 1)) ++ zeros 4

/-- The quote (R439). -/
def State.quote (s : State) (nonce : List Byte) : List Byte :=
  let t := s.trunk
  let body := padTo 32 nonce ++ natBytes 8 Config.moduleId.toNat ++ natBytes 8 s.tick ++
    natBytes 32 (t.fwDigest.getD Config.firmwareDigest.toNat) ++
    ((List.range 64).flatMap fun c => natBytes 32 (if (s.ctx c).state = .free then 0 else (s.ctx c).image.digest)) ++
    natBytes 32 t.supDigest ++ zeros 48
  body ++ natBytes 384 (Config.quoteSignature (sha256 body)).toNat

/-- The SUMMARY record (R422). -/
def State.summaryRecord (s : State) : List Byte :=
  s.summaryHead ++ (List.range 4).flatMap s.partEntry ++ (List.range 64).flatMap s.ctxEntry ++ s.ready.bytes

/-- SUMMARY: the record is written at its queue pair's place; NOTIFY names the queue pair for fault tiles (R421). -/
def State.commandSummary (s : State) (qp : Nat) (b : List Byte) : CmdEnd :=
  let f := fieldOfBytes b 0x10 1
  let rec_ := s.summaryRecord ++ (if f.testBit 1 then s.quote ((b.drop 0x20).take 32) else [])
  let addr := qp / 64 * 0x400000 + qp % 64 * 0x10000
  let s : State := { s with mem := (writeRun s.mem (trunkKey addr) (goodBytes rec_)).1 }
  let s := if f.testBit 0 then s.updTrunk fun t => { t with notifyQp := some qp } else s
  .done s (BitVec.ofNat 64 addr) (natBytes 4 rec_.length)

/-- R422: the SUMMARY command. -/
def execSummary (qp : Nat) (cmd : List (BitVec 8)) (s : State) : Host.Outcome State Fault Refusal :=
  runCommand s qp cmd (decide (cmdCode cmd = 7)) (s.cmdGate cmd true .nothing) (s.commandSummary qp cmd)

/-! ### RESET_CONTEXT (R419) -/

/-- What a grove keeps of a context that is being reset: nothing of its tasks. -/
def Grove.dropCtx (gr : Grove) (ctx : Nat) : Grove :=
  { gr with
    pubs := gr.pubs.filter (fun p => !decide (p.ctx = ctx)), subs := gr.subs.filter (fun x => !decide (x.ctx = ctx)),
    gangs := gr.gangs.filter (fun G => !decide (G.ctx = ctx)), gangLate := gr.gangLate.filter (fun e => !decide (e.1 = ctx)),
    arrivals := gr.arrivals.filter fun a => !decide (a.ctx = ctx) }

/-- A reset begins: the snapshot is abandoned, tasks stop without a save and their records are freed, and the flush of R48 starts. -/
def State.startReset (s : State) (qp : Nat) (b : List Byte) (free : Bool) : State :=
  let ctx := cmdCtx b
  let s := if (s.openSnap ctx).isSome then s.abandonSnap ctx 7 else s
  let moving := s.net.filterMap fun p => match p.kind with
    | .migrate _ i _ _ _ => if p.ctx = ctx then some (256 * p.src + i) else none
    | _ => none
  let s := (s.endMigrations ctx).stopTasks ctx
  let s := (s.ctxRecords ctx).foldl (fun s e => s.evict e.1 e.2.1) s
  let keep (p : Pkt) : Bool := !decide (p.ctx = ctx) || (match p.kind with | .writeback _ _ _ => true | .wbDone _ => true | _ => false)
  let s : State := { s with
    net := s.net.filter keep, triads := s.triads.filter fun t => !decide (t.task.ctx = ctx),
    rims := s.rims.map fun (e : Nat × Rim) => (e.1, { e.2 with ops := e.2.ops.filter fun o => !(o.fetch && decide (o.ctx = ctx)) }),
    groves := s.groves.map fun (e : Nat × Grove) =>
      (e.1, { e.2.dropCtx ctx with reservedIn := e.2.reservedIn.filter fun r => !moving.contains r.2 }) }
  (((s.updCtx ctx fun x => { x with state := .resetting }).startFlush ctx).updTrunk fun t =>
    { t with resets := t.resets ++ [(qp, cmdTag b, ctx, free)] })

/-- The FAULTED records of a context are freed (CLEAR). -/
def State.clearFaulted (s : State) (ctx : Nat) : State :=
  ((s.ctxRecords ctx).filter fun e => decide (e.2.2.state = .faulted)).foldl (fun s e => s.freeRecord e.1 e.2.1) s

/-- The check of a RESET_CONTEXT: no rollback of its context is in progress (R419). -/
def State.resetGate (s : State) (b : List Byte) : Option CmdEnd :=
  (s.cmdGate b false .ctx).orElse fun _ => if (s.rollingFrom (cmdCtx b)).isSome then some (.refuse 1 9) else none

/-- CLEAR of a RESET_CONTEXT. -/
def resetClear (b : List Byte) : Bool := (fieldOfBytes b 0x10 1).testBit 0
/-- FREE of a RESET_CONTEXT. -/
def resetFree (b : List Byte) : Bool := (fieldOfBytes b 0x10 1).testBit 1

/-- RESET_CONTEXT: its answer comes at once, or when the flush ends. -/
def commandReset (s' : State) (later : Bool) : CmdEnd :=
  if later then .later s' else .done s' 0 []

/-- R419: RESET_CONTEXT without CLEAR and FREE. -/
def execResetContext (qp : Nat) (cmd : List (BitVec 8)) (s : State) : Host.Outcome State Fault Refusal :=
  runCommand s qp cmd (decide (cmdCode cmd = 8) && !resetClear cmd && !resetFree cmd) (s.resetGate cmd)
    (commandReset (s.startReset qp cmd false) true)

/-- R419: RESET_CONTEXT with CLEAR. -/
def execResetContextClear (qp : Nat) (cmd : List (BitVec 8)) (s : State) : Host.Outcome State Fault Refusal :=
  runCommand s qp cmd (decide (cmdCode cmd = 8) && resetClear cmd) (s.resetGate cmd)
    (commandReset (s.clearFaulted (cmdCtx cmd)) false)

/-- R419: RESET_CONTEXT with FREE. -/
def execResetContextFree (qp : Nat) (cmd : List (BitVec 8)) (s : State) : Host.Outcome State Fault Refusal :=
  runCommand s qp cmd (decide (cmdCode cmd = 8) && !resetClear cmd && resetFree cmd) (s.resetGate cmd)
    (commandReset (s.startReset qp cmd true) true)

/-! ### What is no command (R414, R415) -/

/-- R1, R415: a SEND of another length, with no command code, or a PARTITION with no OP of R416; the last is a command, and waits for
firmware 4.1. -/
def execUnknownCommand (qp : Nat) (cmd : List (BitVec 8)) (s : State) : Host.Outcome State Fault Refusal :=
  let noOp := decide (cmdCode cmd = 6) && decide (1 < fieldOfBytes cmd 0x10 1)
  let known := decide (1 ≤ cmdCode cmd ∧ cmdCode cmd ≤ 8) && !noOp
  let gate := if cmdSized cmd && noOp then s.cmdGate cmd false .nothing else none
  if s.qpFree qp && !(cmdSized cmd && known) then .next (s.finish qp cmd (gate.getD (.refuse 4 0))) else .next s

/-! ### RDMA (R412, R413) -/

/-- Sends a NAK: 0 invalid request, 1 remote access error. -/
def State.nak (s : State) (qp kind : Nat) : State := { s with out := s.out ++ [.nak qp kind] }

/-- Is every byte of a range of a context's space accessible to RDMA? -/
def State.vaOpen (s : State) (ctx va len : Nat) (write : Bool) : Bool :=
  decide (va + len ≤ 2 ^ 48) && (pieces va len).all fun p =>
    match s.locateVa ctx (va + p.1) write with
    | .ok _ => true
    | .error _ => false

/-- Refuses an access to a range that is not accessible; what the failing walk read is corrected, counted or rewritten (R41). -/
def State.vaDenied (s : State) (qp ctx va len : Nat) (write : Bool) : State :=
  (if va + len ≤ 2 ^ 48 then s.probed ctx va len write else s).nak qp 1

/-- The context of an rkey, where it exists. -/
def State.rkeyCtx (s : State) (rkey : Nat) : Option Nat :=
  if 0x5000 ≤ rkey ∧ rkey < 0x5040 ∧ (s.ctx (rkey - 0x5000)).state ≠ .free then some (rkey - 0x5000) else none

/-- R413: RDMA WRITE into the image buffer or a context's space; anything else performs nothing. -/
def execRdmaWrite (qp rkey addr : Nat) (data : List (BitVec 8)) (s : State) : Host.Outcome State Fault Refusal :=
  if 128 ≤ qp then .next s
  else if rkey = 0x4F00 then
    .next (if 0x10000000 ≤ addr ∧ addr + data.length ≤ 0x20000000 then
        { s with mem := (writeRun s.mem (trunkKey addr) (goodBytes data)).1 }
      else s.nak qp 1)
  else
    match s.rkeyCtx rkey with
    | some c => .next (if s.vaOpen c addr data.length true then (s.writeVa c addr (goodBytes data)).1 else s.vaDenied qp c addr data.length true)
    | none => .next (s.nak qp 1)

/-- A word of a slice distance table (R37). -/
def State.distanceWord (s : State) (ctx i : Nat) : Nat :=
  let g := i / 96
  let sl := i % 96
  if s.trunk.groveIn (partOfCtx ctx) g ∧ s.rimReady (sl / 8) then (Config.sliceDistance (s.ready.gen * 2592 + g) sl).toNat else 0xFFFFFFFF

/-- A byte of the trunk region (R413). -/
def State.trunkByte (s : State) (map : List Byte) (a : Nat) : Option Byte :=
  if 0x800000 ≤ a ∧ a < 0x800AC0 then some (map.getD (a - 0x800000) 0)
  else if 0x810000 ≤ a ∧ a < 0x1000000 then some (Config.certificateByte (a - 0x810000))
  else if 0x1000000 ≤ a ∧ a < 0x1000000 + 64 * 0x100000 ∧ a % 0x100000 < 4 * 2592 * 96 then
    some (BitVec.ofNat 8 (s.distanceWord ((a - 0x1000000) / 0x100000) (a % 0x100000 / 4) >>> (8 * (a % 4))))
  else readByte? s.mem (trunkKey a)

/-- R413: RDMA READ of the trunk region or of a context's space. -/
def execRdmaRead (qp rkey addr len : Nat) (s : State) : Host.Outcome State Fault Refusal :=
  let give (d : Payload) (s : State) : State := { s with out := s.out ++ [.data qp d] }
  if 128 ≤ qp then .next s
  else if rkey = 0x4F00 then
    let map := s.ready.bytes
    .next (if addr + len ≤ 0x20000000 then give ((List.range len).map fun i => s.trunkByte map (addr + i)) s else s.nak qp 1)
  else
    match s.rkeyCtx rkey with
    | none => .next (s.nak qp 1)
    | some c =>
      if !s.vaOpen c addr len false then .next (s.vaDenied qp c addr len false)
      else
        let r := s.readVa c addr len
        match r.2 with
        | .ok d => .next (give d r.1)
        | .error _ => .next (r.1.nak qp 1)

/-- R412: an atomic or any other opcode has no effect. -/
def execRdmaInvalid (qp _opcode : Nat) (s : State) : Host.Outcome State Fault Refusal :=
  if 128 ≤ qp then .next s else .next (s.nak qp 0)

end Sys2Proof.Machine
end

