-- ==== Sys2Proof/Machine/Accept.lean ====
section
/-!
DEFINITION. The acceptance of X-slot operations at their grove's engines, 6 clk after issue (R83, R289): in issue order for one
channel and name (R290), arrivals and counter operations as releases (R57, R184), and what each operation does there; and what the
module does with a message of another member of the gang.
-/

namespace Sys2Proof.Machine

/-- The channel of an exchange operation. -/
def XOp.chan (x : XOp) : Option Nat :=
  match x.op with
  | .pub _ _ _ ch => some ch.toNat
  | .sub _ _ _ ch => some ch.toNat
  | .unsub _ _ _ ch => some ch.toNat
  | .recv _ _ _ ch => some ch.toNat
  | .recva _ _ _ _ ch => some ch.toNat
  | .peek _ _ _ ch => some ch.toNat
  | .halo _ _ _ ch => some ch.toNat
  | .haloR _ _ _ ch => some ch.toNat
  | .nameq _ _ _ ch => some ch.toNat
  | _ => none

/-- Is an earlier receive of a name not complete (R290)? -/
def Core.recvOpen (c : Core) (n : Name) (ord : Nat) : Bool :=
  c.jobs.any fun j => decide (j.ord < ord) && (match j.kind with | .recv _ m _ _ _ => decide (m = n) | _ => false)

/-- Is an earlier `halo.r` of a channel not complete? -/
def Core.haloOpen (c : Core) (ch ord : Nat) : Bool :=
  c.jobs.any fun j => decide (j.ord < ord) && (match j.kind with | .haloRecv h _ => decide (h = ch) | _ => false)

/-- Does an acquire issued before an operation hold it back (R57, R142): a publication whose root acceptance the acquire covers, or an
operation on banks 6 or 7? -/
def State.xHeld (s : State) (core : Nat) (x : XOp) : Bool :=
  let c := s.core core
  (match x.op, x.name with
   | .pub _ _ _ _, some n => c.acquireHolds (s.rootClass core n) x.ord
   | .halo _ _ _ _, some n => c.acquireHolds (s.rootClass core n) x.ord
   | _, _ => false) ||
  (c.acquireHolds 0 x.ord && decide (x.job = x.ord) && c.board.any fun e => decide (e.job = x.job) && decide (e.lo ≤ e.hi) && decide (0x48000 / 512 ≤ e.hi))

/-- Is a collective behind an earlier one of its core and class that has still to join its class's set (R360, R366)? -/
def State.collBehind (s : State) (core : Nat) (x : XOp) : Bool :=
  let c := s.core core
  match x.op with
  | .coll _ _ _ _ ch => c.xops.any fun y => decide (y.ord < x.ord) && (match y.op with
    | .coll _ _ _ _ k => s.clExpress c.ctxNo k.toNat == s.clExpress c.ctxNo ch.toNat
    | _ => false)
  | _ => false

/-- May an operation of a core take effect now: no earlier `cwait` or `colw` is waiting (R254, R352), its grove is not about to record
(R374), and the order of R57, R142, R290, R297 and R360 holds? -/
def State.xMay (s : State) (core : Nat) (x : XOp) : Bool :=
  let c := s.core core
  decide (x.at_ ≤ s.clk) && (!x.rel || s.released core 1 x.ord) && !c.waitsBefore x.ord && !s.xHeld core x && !s.collBehind core x &&
  (c.midway || !s.wanted c.ctxNo (groveOf core)) &&
  !c.xops.any (fun y => decide (y.ord < x.ord) && y.chan.isSome && decide (y.chan = x.chan) && decide (y.name = x.name)) &&
  (match x.op, x.name with
   | .unsub _ _ _ _, some n => !c.recvOpen n x.ord
   | .peek _ _ _ _, some n => !c.recvOpen n x.ord
   | .halo _ _ _ ch, some n =>
     (match (s.grove (groveOf core)).haloOf c.task ch.toNat with
      | some h => decide (h.coord = n.coordWord) || !c.haloOpen ch.toNat x.ord
      | none => true)
   | _, _ => true)

/-- The first operation of a core that takes effect now. -/
def State.xNext (s : State) (core : Nat) : Option XOp := (s.core core).xops.find? (s.xMay core)

/-- Answers the posted results of an operation. -/
def State.answerX (s : State) (core : Nat) (x : XOp) (vals : List Nat) : State := s.updCore core fun c => c.answer x.ord vals

/-- What an operation does at its engine. -/
def State.acceptOp (s : State) (core : Nat) (x : XOp) : State :=
  let g := groveOf core
  let gr := s.grove g
  let c := s.core core
  match x.op with
  | .mgang _ _ _ _ _ => s.gangAccept core false x.va x.vb.toNat x.job (decide (x.vd = 1)) x.wid
  | .mgangJoin _ _ _ _ _ => s.gangAccept core true x.va x.vb.toNat x.job (decide (x.vd = 1)) x.wid
  | .pub _ _ _ ch => s.acceptPubOp core ch.toNat x
  | .sub _ _ _ ch => (match x.name with | some n => s.acceptSub core ch.toNat n x.vb | none => s)
  | .unsub _ _ _ _ => (match x.name with | some n => s.acceptUnsub core n x.vb | none => s)
  | .recv _ _ _ ch => s.acceptRecv core ch.toNat x
  | .recva _ _ _ _ ch => s.acceptRecv core ch.toNat x
  | .peek _ _ _ ch => (match x.name with | some n => s.answerX core x [s.peekValue core ch.toNat n] | none => s)
  | .halo _ _ _ ch => s.acceptHalo core ch.toNat x
  | .haloR _ _ _ ch => s.acceptHaloR core ch.toNat x
  | .nameq _ _ _ _ => s.acceptNameq core x
  | .spawn _ _ _ _ l => let r := s.acceptSpawn core l.toNat x; r.1.answerX core x r.2
  | .tinst _ _ _ l => s.acceptTinst core l.toNat x
  | .barr a _ => s.acceptBarr core a.toNat x.wid
  | .bwait _ a _ => s.acceptBwait core a.toNat x.ord
  | .btest _ a _ => s.answerX core x [s.btestValue core a.toNat]
  | .bset a _ _ => s.acceptBset core a.toNat x.va x.wid
  | .migrate _ _ _ =>
    s.migrateRecord (x.va.extractLsb' 8 12).toNat (x.va.extractLsb' 0 8).toNat (x.vb.extractLsb' 0 12).toNat false fun _ => true
  | .tsrc d _ _ _ => s.setGrove g (gr.wire c.ctxNo d.toNat c.task x.va x.vb)
  | .tadd d _ _ => s.setGrove g (gr.raiseCounter d.toNat (x.va.extractLsb' 0 48).toNat)
  | .tset d _ _ => s.setGrove g (gr.tsetAt d.toNat x.va)
  | .tarm _ _ _ => s.acceptTarm core (slotNo x.va) x.image
  | .tdis _ _ => s.setGrove g (gr.disarm (slotNo x.va))
  | .tget _ a _ => s.answerX core x [(gr.counter a.toNat).word.toNat]
  | .tgetSlot _ _ _ => s.answerX core x [(gr.slot (slotNo x.va)).status.toNat]
  | .tgetRes _ _ _ => s.answerX core x [(gr.slot (slotNo x.va)).res.toNat]
  | .coll _ _ _ _ ch => s.acceptColl core ch.toNat x.job
  | .colt _ _ ch => s.answerX core x [(c.colt ch.toNat x.ord).toNat]
  | .snap _ _ => s.acceptSnap x.va
  | .snrd _ _ => s.answerX core x [(s.ctx c.ctxNo).snStat.toNat]
  | .snrdRb _ _ => s.answerX core x [(s.ctx c.ctxNo).rbWord]
  | _ => s

/-- R289: the first operation of a core that may is accepted at its engine. -/
def execXOpAccept (core : Nat) (s : State) : Host.Outcome State Fault Refusal :=
  match s.xNext core with
  | none => .next s
  | some x => .next ((s.updCore core fun c => { c with xops := c.xops.filter fun y => !decide (y.ord = x.ord) }).acceptOp core x)

/-! ### Messages of other members -/

/-- What the module does with a message that comes in over a module link (R49, R303, R370, R372, R384, R393). -/
def State.arrive (s : State) (m : Inbound) : State :=
  match m.msg with
  | .packet dest p => s.packetIn m.sender dest m.port p
  | .lantern ctx id vc full => s.lanternIn m.port ctx id vc full
  | .ringDone ctx id => s.ringDoneIn ctx id m.sender
  | .abandoned ctx id code => s.abandonIn ctx id code
  | .rollback ctx id => s.rollbackIn m.sender ctx id
  | .rootLost ctx pos gone => s.rootLostIn ctx pos gone

end Sys2Proof.Machine
end

