-- ==== Sys2Proof/Machine/Control.lean ====
section
/-!
DEFINITION. Branches (R130 to R132), the loop nest (R135, R136), K-registers (R150), software traps and the return from a
trap (R156, R157), and the parameter window (R149). `mrd` and `mwr` stand with the management registers.
-/

namespace Sys2Proof.Machine

/-! ### Branches -/

/-- A branch: its delay bundle issues next whether or not it is taken, and then the target when it is (R87). -/
def Core.take (c : Core) (cond : Bool) (t : BitVec 12) : Core := { c with branch := if cond then some t else none, delay := true }

/-- A branch of the issuing core, taken when the condition holds. -/
def State.branchIf (s : State) (cond : Bool) (t : BitVec 12) : State := s.updCore s.cur fun c => c.take cond t

/-- The target of a Br-format branch (R130). -/
def relTarget (pc : BitVec 12) (off : BitVec 13) : BitVec 12 := pc + (off.signExtend 64).setWidth 12

/-- The conditions of `br` (R130). -/
def brCond (c : Nat) (x : Word) : Bool :=
  match c with
  | 0 => decide (x = 0)
  | 1 => decide (x ≠ 0)
  | 2 => decide (x.toInt < 0)
  | 3 => decide (0 ≤ x.toInt)
  | 4 => decide (0 < x.toInt)
  | _ => decide (x.toInt ≤ 0)

/-- The conditions of `brp` (R130). -/
def brpCond (c : Nat) (x : BitVec 32) : Bool :=
  match c with
  | 0 => x.getLsbD 0
  | 1 => !x.getLsbD 0
  | 2 => decide (x ≠ 0)
  | 3 => decide (x = 0)
  | 4 => decide (x = BitVec.allOnes 32)
  | _ => decide (x ≠ BitVec.allOnes 32)

/-- The address after the delay bundle, as a link value (R132). -/
def linkValue (pc : BitVec 12) : Word := (pc + 2).setWidth 64

/-- R130. -/
def execBr (a : BitVec 5) (c : BitVec 3) (off : BitVec 13) (s : State) : Host.Outcome State Fault Refusal :=
  runOp (.br a c off) s fun k => .ok (s.branchIf (brCond c.toNat (k.rs a.toNat)) (relTarget k.pc off))
/-- R130. -/
def execBrp (a : BitVec 5) (c : BitVec 3) (off : BitVec 13) (s : State) : Host.Outcome State Fault Refusal :=
  runOp (.brp a c off) s fun k => .ok (s.branchIf (brpCond c.toNat (k.rp a.toNat)) (relTarget k.pc off))
/-- R131. -/
def execBrv (a : BitVec 5) (c : BitVec 3) (off : BitVec 13) (s : State) : Host.Outcome State Fault Refusal :=
  runOp (.brv a c off) s fun k =>
    let active := k.rp c.toNat
    let t := k.rp a.toNat &&& active
    if t = 0 then .ok (s.branchIf false (relTarget k.pc off))
    else if t = active then .ok (s.branchIf true (relTarget k.pc off))
    else .trap { Trap.of .nonuniform with reg := some ⟨.p, a.toNat⟩ }
/-- R132. -/
def execJmp (target : BitVec 12) (s : State) : Host.Outcome State Fault Refusal :=
  runOp (.jmp target) s fun _ => .ok (s.branchIf true target)
/-- R132: the delay bundle already reads the link. -/
def execCall (d : BitVec 5) (target : BitVec 12) (s : State) : Host.Outcome State Fault Refusal :=
  runOp (.call d target) s fun k => .ok ((s.writeReg 1 (sReg5 d) (linkValue k.pc).toNat 0).branchIf true target)
/-- R132: turned off by its guard, the branch is not taken. -/
def execJr (a : BitVec 7) (p : BitVec 3) (s : State) : Host.Outcome State Fault Refusal :=
  runChecked (.jr a p) s fun k => .ok (s.branchIf (k.guardOn (.jr a p)) ((k.rs a.toNat).setWidth 12))
/-- R132: turned off by its guard, it writes no link and is not taken. -/
def execJrLink (d a : BitVec 7) (p : BitVec 3) (s : State) : Host.Outcome State Fault Refusal :=
  runChecked (.jrLink d a p) s fun k =>
    let on := k.guardOn (.jrLink d a p)
    .ok ((if on then s.writeReg 1 (sReg d) (linkValue k.pc).toNat 0 else s).branchIf on ((k.rs a.toNat).setWidth 12))
/-- R132: as `jr`. -/
def execRet (a : BitVec 7) (p : BitVec 3) (s : State) : Host.Outcome State Fault Refusal :=
  runChecked (.ret a p) s fun k => .ok (s.branchIf (k.guardOn (.ret a p)) ((k.rs a.toNat).setWidth 12))

/-! ### The loop nest -/

/-- Arms a level, or skips its body by standing at the body's last bundle, from where R133 chooses the next one (R135). -/
def Core.armLoop (c : Core) (l : Nat) (count : BitVec 32) (len : Nat) : Core :=
  let stop : BitVec 12 := BitVec.ofNat 12 (c.pc.toNat + len)
  let lvl : LoopLvl := ⟨decide (count ≠ 0), c.pc + 1, stop, count⟩
  { c with loops := c.loops.setIfInBounds l lvl, n := c.n.setIfInBounds l 0, pc := if count = 0 then stop else c.pc }

/-- R135. -/
def execLoop (d a : BitVec 5) (p : BitVec 3) (imm : BitVec 12) (s : State) : Host.Outcome State Fault Refusal :=
  runOp (.loop d a p imm) s fun k =>
    .ok (s.updCore s.cur fun c => c.armLoop d.toNat ((k.rs a.toNat).setWidth 32) imm.toNat)
/-- R136: the post-add of this bundle still uses the stride before it (R133). -/
def execLstr (d b : BitVec 7) (p : BitVec 3) (l : BitVec 3) (s : State) : Host.Outcome State Fault Refusal :=
  runOp (.lstr d b p l) s fun k =>
    .ok (s.updCore s.cur fun c => { c with strides := c.strides.setIfInBounds (l.toNat * 16 + d.toNat) (k.rs b.toNat) })

/-! ### System operations -/

/-- R156. -/
def execTrap (p : BitVec 3) (code : BitVec 12) (s : State) : Host.Outcome State Fault Refusal :=
  runOp (.trap p code) s fun _ => .trap { Trap.of .swtrap with code := code.toNat }
/-- R150: the value in the issue clock, with latency 2. -/
def execKrd (d : BitVec 5) (p : BitVec 3) (k : BitVec 12) (s : State) : Host.Outcome State Fault Refusal :=
  runOp (.krd d p k) s fun c => .ok (s.writeReg 2 (sReg5 d) (c.getK k.toNat s.tick).toNat 0)
/-- The banks whose format or flush bit a new KBANK value changes (R31). -/
def changedBanks (old new : Word) : List Nat :=
  (List.range 8).filter fun k => decide (bankCode old k ≠ bankCode new k) || (bankFtz old k != bankFtz new k)

/-- Does a scoreboard entry lie on one of the banks? -/
def Core.entriesOn (c : Core) (banks : List Nat) : Bool :=
  c.board.any fun e => banks.any fun k => overlap (e.lo, e.hi) (96 * k, 96 * k + 95)

/-- R150: takes effect for the bundles after it. A write of KBANK waits for the entries on the banks it changes (R31). -/
def execKwr (a : BitVec 5) (p : BitVec 3) (k : BitVec 12) (s : State) : Host.Outcome State Fault Refusal :=
  runOp (.kwr a p k) s fun c =>
    if k = 6 ∧ c.entriesOn (changedBanks c.kbank (c.rs a.toNat)) then
      (if c.dbg then .trap (.of .scorefull) else .stall)
    else .ok (s.updCore s.cur fun x => { x with kpend := x.kpend ++ [(k.toNat, c.rs a.toNat)] })
/-- R157: no delay bundle. -/
def execEret (s : State) : Host.Outcome State Fault Refusal :=
  runOp .eret s fun _ => .ok (s.updCore s.cur fun c => { c.returnFromTrap with latch := .jumped })

/-- The bytes of the parameter window at an offset; past the bound size they read zero (R149). -/
def Core.paramWord (c : Core) (o : Nat) : Word :=
  BitVec.ofNat 64 ((List.range 8).foldr (fun j n =>
    n * 256 + (if o + j < c.kpwin.toNat % 2 ^ 13 then (c.window.getD (o + j) 0).toNat else 0)) 0)

/-- R149. -/
def execLdpw (d a : BitVec 5) (p : BitVec 3) (imm : BitVec 12) (s : State) : Host.Outcome State Fault Refusal :=
  runOp (.ldpw d a p imm) s fun k =>
    let o := k.rs a.toNat + imm.signExtend 64
    if !k.kpwin.getLsbD 16 then .trap (.at_ .pwunbound o)
    else if o.toNat % 8 ≠ 0 then .trap (.at_ .align o)
    else
      let past := decide (k.kpwin.toNat % 2 ^ 13 < o.toNat + 8)
      let s := s.writeReg 4 (sReg5 d) (k.paramWord o.toNat).toNat 0
      .ok (if past then s.updCore s.cur fun c => { c with kstat := setBit c.kstat 4 true } else s)

end Sys2Proof.Machine
end

