-- ==== Sys2Proof/Machine/Scalar.lean ====
section
/-!
DEFINITION. Scalar arithmetic (R122 to R126), compares, selects and address registers (R127 to R129).
-/

namespace Sys2Proof.Machine

/-! ### Values -/

/-- The smaller of two words under an order. -/
def pickBy (first : Bool) (x y : Word) : Word := if first then x else y

/-- The number of set bits (R123). -/
def countOnes (x : Word) : Nat := popCount 64 x.toNat
/-- The number of zero bits above the highest set bit, 64 for zero (R123). -/
def leadingZeros (x : Word) : Nat := if x = 0 then 64 else 63 - Nat.log2 x.toNat
/-- The number of zero bits below the lowest set bit, 64 for zero (R123). -/
def trailingZeros (x : Word) : Nat := ((List.range 64).find? fun i => x.getLsbD i).getD 64

/-- The high 64 bits of an exact product (R124). -/
def highProduct (x y : Int) : Word := BitVec.ofInt 64 (x * y / 2 ^ 64)

/-- Signed quotient with the edge cases of R124. -/
def quotS (x y : Word) : Word :=
  if y = 0 then BitVec.allOnes 64 else BitVec.ofInt 64 (Int.tdiv x.toInt y.toInt)
/-- Unsigned quotient (R124). -/
def quotU (x y : Word) : Word := if y = 0 then BitVec.allOnes 64 else BitVec.ofNat 64 (x.toNat / y.toNat)
/-- Signed remainder `x − quotient × y` (R124). -/
def remS (x y : Word) : Word := if y = 0 then x else x - quotS x y * y
/-- Unsigned remainder (R124). -/
def remU (x y : Word) : Word := if y = 0 then x else x - quotU x y * y

/-- The conditions of `cmp` and `cmpp` (R127). -/
def cmpCond (cc : Nat) (x y : Word) : Bool :=
  match cc with
  | 0 => decide (x = y)
  | 1 => decide (x ≠ y)
  | 2 => decide (x.toInt < y.toInt)
  | 3 => decide (y.toInt ≤ x.toInt)
  | 4 => decide (x.toNat < y.toNat)
  | _ => decide (y.toNat ≤ x.toNat)

/-- A predicate of all ones or all zeros. -/
def predAll (b : Bool) : Nat := if b then 0xFFFFFFFF else 0

/-! ### Forms -/

/-- A scalar operation that writes one s register with a latency (R122 to R126). -/
def scalarOp (i : Sys2Proof.Instr) (s : State) (lat : Nat) (d : BitVec 7) (v : Core → Word) :
    Host.Outcome State Fault Refusal :=
  runOp i s fun c => .ok (s.writeReg lat (sReg d) (v c).toNat 0)

/-- The immediate form: 5-bit register fields. -/
def scalarImm (i : Sys2Proof.Instr) (s : State) (d : BitVec 5) (v : Core → Word) : Host.Outcome State Fault Refusal :=
  runOp i s fun c => .ok (s.writeReg 1 (sReg5 d) (v c).toNat 0)

/-- An operation that writes one a register (R129). -/
def addressOp (i : Sys2Proof.Instr) (s : State) (d : BitVec 7) (v : Core → Word) : Host.Outcome State Fault Refusal :=
  runOp i s fun c => .ok (s.writeReg 1 (aReg d) (v c).toNat 0)

/-- R75: an all-zero slot word has no effect. -/
def execNop (s : State) : Host.Outcome State Fault Refusal := .next s

/-- R122. -/
def execAdd (d a b : BitVec 7) (p : BitVec 3) (s : State) : Host.Outcome State Fault Refusal :=
  scalarOp (.add d a b p) s 1 d fun c => c.rs a.toNat + c.rs b.toNat
/-- R122. -/
def execIsub (d a b : BitVec 7) (p : BitVec 3) (s : State) : Host.Outcome State Fault Refusal :=
  scalarOp (.isub d a b p) s 1 d fun c => c.rs a.toNat - c.rs b.toNat
/-- R122. -/
def execAnd (d a b : BitVec 7) (p : BitVec 3) (s : State) : Host.Outcome State Fault Refusal :=
  scalarOp (.and d a b p) s 1 d fun c => c.rs a.toNat &&& c.rs b.toNat
/-- R122. -/
def execOr (d a b : BitVec 7) (p : BitVec 3) (s : State) : Host.Outcome State Fault Refusal :=
  scalarOp (.or d a b p) s 1 d fun c => c.rs a.toNat ||| c.rs b.toNat
/-- R122. -/
def execXor (d a b : BitVec 7) (p : BitVec 3) (s : State) : Host.Outcome State Fault Refusal :=
  scalarOp (.xor d a b p) s 1 d fun c => c.rs a.toNat ^^^ c.rs b.toNat
/-- R122. -/
def execAndn (d a b : BitVec 7) (p : BitVec 3) (s : State) : Host.Outcome State Fault Refusal :=
  scalarOp (.andn d a b p) s 1 d fun c => c.rs a.toNat &&& ~~~(c.rs b.toNat)
/-- R122. -/
def execShl (d a b : BitVec 7) (p : BitVec 3) (s : State) : Host.Outcome State Fault Refusal :=
  scalarOp (.shl d a b p) s 1 d fun c => c.rs a.toNat <<< ((c.rs b.toNat).toNat % 64)
/-- R122. -/
def execShr (d a b : BitVec 7) (p : BitVec 3) (s : State) : Host.Outcome State Fault Refusal :=
  scalarOp (.shr d a b p) s 1 d fun c => c.rs a.toNat >>> ((c.rs b.toNat).toNat % 64)
/-- R122. -/
def execSar (d a b : BitVec 7) (p : BitVec 3) (s : State) : Host.Outcome State Fault Refusal :=
  scalarOp (.sar d a b p) s 1 d fun c => (c.rs a.toNat).sshiftRight ((c.rs b.toNat).toNat % 64)
/-- R122. -/
def execMin (d a b : BitVec 7) (p : BitVec 3) (s : State) : Host.Outcome State Fault Refusal :=
  scalarOp (.min d a b p) s 1 d fun c =>
    pickBy (decide ((c.rs a.toNat).toInt ≤ (c.rs b.toNat).toInt)) (c.rs a.toNat) (c.rs b.toNat)
/-- R122. -/
def execMax (d a b : BitVec 7) (p : BitVec 3) (s : State) : Host.Outcome State Fault Refusal :=
  scalarOp (.max d a b p) s 1 d fun c =>
    pickBy (decide ((c.rs b.toNat).toInt ≤ (c.rs a.toNat).toInt)) (c.rs a.toNat) (c.rs b.toNat)
/-- R122. -/
def execMinu (d a b : BitVec 7) (p : BitVec 3) (s : State) : Host.Outcome State Fault Refusal :=
  scalarOp (.minu d a b p) s 1 d fun c =>
    pickBy (decide ((c.rs a.toNat).toNat ≤ (c.rs b.toNat).toNat)) (c.rs a.toNat) (c.rs b.toNat)
/-- R122. -/
def execMaxu (d a b : BitVec 7) (p : BitVec 3) (s : State) : Host.Outcome State Fault Refusal :=
  scalarOp (.maxu d a b p) s 1 d fun c =>
    pickBy (decide ((c.rs b.toNat).toNat ≤ (c.rs a.toNat).toNat)) (c.rs a.toNat) (c.rs b.toNat)
/-- R123. -/
def execBcntPop (d a : BitVec 7) (p : BitVec 3) (s : State) : Host.Outcome State Fault Refusal :=
  scalarOp (.bcntPop d a p) s 1 d fun c => BitVec.ofNat 64 (countOnes (c.rs a.toNat))
/-- R123. -/
def execBcntLz (d a : BitVec 7) (p : BitVec 3) (s : State) : Host.Outcome State Fault Refusal :=
  scalarOp (.bcntLz d a p) s 1 d fun c => BitVec.ofNat 64 (leadingZeros (c.rs a.toNat))
/-- R123. -/
def execBcntTz (d a : BitVec 7) (p : BitVec 3) (s : State) : Host.Outcome State Fault Refusal :=
  scalarOp (.bcntTz d a p) s 1 d fun c => BitVec.ofNat 64 (trailingZeros (c.rs a.toNat))
/-- R124. -/
def execMul (d a b : BitVec 7) (p : BitVec 3) (s : State) : Host.Outcome State Fault Refusal :=
  scalarOp (.mul d a b p) s 3 d fun c => c.rs a.toNat * c.rs b.toNat
/-- R124. -/
def execMulh (d a b : BitVec 7) (p : BitVec 3) (s : State) : Host.Outcome State Fault Refusal :=
  scalarOp (.mulh d a b p) s 3 d fun c => highProduct (c.rs a.toNat).toInt (c.rs b.toNat).toInt
/-- R124. -/
def execMulhu (d a b : BitVec 7) (p : BitVec 3) (s : State) : Host.Outcome State Fault Refusal :=
  scalarOp (.mulhu d a b p) s 3 d fun c => highProduct (c.rs a.toNat).toNat (c.rs b.toNat).toNat
/-- R124. -/
def execDiv (d a b : BitVec 7) (p : BitVec 3) (s : State) : Host.Outcome State Fault Refusal :=
  scalarOp (.div d a b p) s 18 d fun c => quotS (c.rs a.toNat) (c.rs b.toNat)
/-- R124. -/
def execDivu (d a b : BitVec 7) (p : BitVec 3) (s : State) : Host.Outcome State Fault Refusal :=
  scalarOp (.divu d a b p) s 18 d fun c => quotU (c.rs a.toNat) (c.rs b.toNat)
/-- R124. -/
def execRem (d a b : BitVec 7) (p : BitVec 3) (s : State) : Host.Outcome State Fault Refusal :=
  scalarOp (.rem d a b p) s 18 d fun c => remS (c.rs a.toNat) (c.rs b.toNat)
/-- R124. -/
def execRemu (d a b : BitVec 7) (p : BitVec 3) (s : State) : Host.Outcome State Fault Refusal :=
  scalarOp (.remu d a b p) s 18 d fun c => remU (c.rs a.toNat) (c.rs b.toNat)

/-- R125. -/
def execAddi (d a : BitVec 5) (p : BitVec 3) (imm : BitVec 19) (s : State) : Host.Outcome State Fault Refusal :=
  scalarImm (.addi d a p imm) s d fun c => c.rs a.toNat + imm.signExtend 64
/-- R125. -/
def execAndi (d a : BitVec 5) (p : BitVec 3) (imm : BitVec 19) (s : State) : Host.Outcome State Fault Refusal :=
  scalarImm (.andi d a p imm) s d fun c => c.rs a.toNat &&& imm.signExtend 64
/-- R125. -/
def execOri (d a : BitVec 5) (p : BitVec 3) (imm : BitVec 19) (s : State) : Host.Outcome State Fault Refusal :=
  scalarImm (.ori d a p imm) s d fun c => c.rs a.toNat ||| imm.signExtend 64
/-- R125. -/
def execXori (d a : BitVec 5) (p : BitVec 3) (imm : BitVec 19) (s : State) : Host.Outcome State Fault Refusal :=
  scalarImm (.xori d a p imm) s d fun c => c.rs a.toNat ^^^ imm.signExtend 64
/-- R125. -/
def execShli (d a : BitVec 5) (p : BitVec 3) (imm : BitVec 12) (s : State) : Host.Outcome State Fault Refusal :=
  scalarImm (.shli d a p imm) s d fun c => c.rs a.toNat <<< imm.toNat
/-- R125. -/
def execShri (d a : BitVec 5) (p : BitVec 3) (imm : BitVec 12) (s : State) : Host.Outcome State Fault Refusal :=
  scalarImm (.shri d a p imm) s d fun c => c.rs a.toNat >>> imm.toNat
/-- R125. -/
def execSari (d a : BitVec 5) (p : BitVec 3) (imm : BitVec 12) (s : State) : Host.Outcome State Fault Refusal :=
  scalarImm (.sari d a p imm) s d fun c => (c.rs a.toNat).sshiftRight imm.toNat
/-- R126. -/
def execLi (d : BitVec 5) (imm : BitVec 20) (s : State) : Host.Outcome State Fault Refusal :=
  scalarImm (.li d imm) s d fun _ => imm.signExtend 64
/-- R126. -/
def execLsh (d : BitVec 5) (imm : BitVec 20) (s : State) : Host.Outcome State Fault Refusal :=
  scalarImm (.lsh d imm) s d fun c => (c.rs d.toNat <<< 20) + imm.setWidth 64

/-- R127. -/
def execCmp (d a b : BitVec 7) (p : BitVec 3) (cc : BitVec 7) (s : State) : Host.Outcome State Fault Refusal :=
  scalarOp (.cmp d a b p cc) s 1 d fun c => if cmpCond cc.toNat (c.rs a.toNat) (c.rs b.toNat) then 1 else 0
/-- R127. -/
def execCmpp (d a b : BitVec 7) (p : BitVec 3) (cc : BitVec 7) (s : State) : Host.Outcome State Fault Refusal :=
  runOp (.cmpp d a b p cc) s fun c =>
    .ok (s.writeReg 1 (pReg d) (predAll (cmpCond cc.toNat (c.rs a.toNat) (c.rs b.toNat))) 0)
/-- R128: the selecting predicate is not the guard. -/
def execSel (d a b : BitVec 7) (p : BitVec 3) (q : BitVec 3) (s : State) : Host.Outcome State Fault Refusal :=
  scalarOp (.sel d a b p q) s 1 d fun c => if (c.rp q.toNat).getLsbD 0 then c.rs a.toNat else c.rs b.toNat

/-- R129. -/
def execAdda (d a b : BitVec 7) (p : BitVec 3) (s : State) : Host.Outcome State Fault Refusal :=
  addressOp (.adda d a b p) s d fun c => c.ra a.toNat + c.rs b.toNat
/-- R129: `mova aD, sA`. -/
def execMovaAS (d a : BitVec 7) (p : BitVec 3) (s : State) : Host.Outcome State Fault Refusal :=
  addressOp (.movaAS d a p) s d fun c => c.rs a.toNat
/-- R129: `mova sD, aA`. -/
def execMovaSA (d a : BitVec 7) (p : BitVec 3) (s : State) : Host.Outcome State Fault Refusal :=
  scalarOp (.movaSA d a p) s 1 d fun c => c.ra a.toNat
/-- R129: `mova aD, aA`. -/
def execMovaAA (d a : BitVec 7) (p : BitVec 3) (s : State) : Host.Outcome State Fault Refusal :=
  addressOp (.movaAA d a p) s d fun c => c.ra a.toNat
/-- R129: `mova sD, nA`. -/
def execMovaSN (d a : BitVec 7) (p : BitVec 3) (s : State) : Host.Outcome State Fault Refusal :=
  scalarOp (.movaSN d a p) s 1 d fun c => (c.rn a.toNat).setWidth 64

end Sys2Proof.Machine
end

