-- ==== Sys2Proof/Machine/Dispatch.lean ====
section
/-!
DEFINITION. The dispatcher: one arm for each step of the part, in the order of the opcode table. An arm calls the meaning
of its step.
-/

namespace Sys2Proof.Machine

/-- The effect of one step of the part. -/
def exec (i : Instr) (s : State) : Host.Outcome State Fault Refusal :=
  match i with
  | .nop => Sys2Proof.Machine.execNop s
  | .add d a b p => Sys2Proof.Machine.execAdd d a b p s
  | .isub d a b p => Sys2Proof.Machine.execIsub d a b p s
  | .and d a b p => Sys2Proof.Machine.execAnd d a b p s
  | .or d a b p => Sys2Proof.Machine.execOr d a b p s
  | .xor d a b p => Sys2Proof.Machine.execXor d a b p s
  | .andn d a b p => Sys2Proof.Machine.execAndn d a b p s
  | .shl d a b p => Sys2Proof.Machine.execShl d a b p s
  | .shr d a b p => Sys2Proof.Machine.execShr d a b p s
  | .sar d a b p => Sys2Proof.Machine.execSar d a b p s
  | .min d a b p => Sys2Proof.Machine.execMin d a b p s
  | .max d a b p => Sys2Proof.Machine.execMax d a b p s
  | .minu d a b p => Sys2Proof.Machine.execMinu d a b p s
  | .maxu d a b p => Sys2Proof.Machine.execMaxu d a b p s
  | .bcntPop d a p => Sys2Proof.Machine.execBcntPop d a p s
  | .bcntLz d a p => Sys2Proof.Machine.execBcntLz d a p s
  | .bcntTz d a p => Sys2Proof.Machine.execBcntTz d a p s
  | .mul d a b p => Sys2Proof.Machine.execMul d a b p s
  | .mulh d a b p => Sys2Proof.Machine.execMulh d a b p s
  | .mulhu d a b p => Sys2Proof.Machine.execMulhu d a b p s
  | .div d a b p => Sys2Proof.Machine.execDiv d a b p s
  | .divu d a b p => Sys2Proof.Machine.execDivu d a b p s
  | .rem d a b p => Sys2Proof.Machine.execRem d a b p s
  | .remu d a b p => Sys2Proof.Machine.execRemu d a b p s
  | .addi d a p imm => Sys2Proof.Machine.execAddi d a p imm s
  | .andi d a p imm => Sys2Proof.Machine.execAndi d a p imm s
  | .ori d a p imm => Sys2Proof.Machine.execOri d a p imm s
  | .xori d a p imm => Sys2Proof.Machine.execXori d a p imm s
  | .shli d a p imm => Sys2Proof.Machine.execShli d a p imm s
  | .shri d a p imm => Sys2Proof.Machine.execShri d a p imm s
  | .sari d a p imm => Sys2Proof.Machine.execSari d a p imm s
  | .li d imm => Sys2Proof.Machine.execLi d imm s
  | .lsh d imm => Sys2Proof.Machine.execLsh d imm s
  | .cmp d a b p cc => Sys2Proof.Machine.execCmp d a b p cc s
  | .cmpp d a b p cc => Sys2Proof.Machine.execCmpp d a b p cc s
  | .sel d a b p c => Sys2Proof.Machine.execSel d a b p c s
  | .adda d a b p => Sys2Proof.Machine.execAdda d a b p s
  | .movaAS d a p => Sys2Proof.Machine.execMovaAS d a p s
  | .movaSA d a p => Sys2Proof.Machine.execMovaSA d a p s
  | .movaAA d a p => Sys2Proof.Machine.execMovaAA d a p s
  | .movaSN d a p => Sys2Proof.Machine.execMovaSN d a p s
  | .br a c off => Sys2Proof.Machine.execBr a c off s
  | .brp a c off => Sys2Proof.Machine.execBrp a c off s
  | .brv a c off => Sys2Proof.Machine.execBrv a c off s
  | .jmp target => Sys2Proof.Machine.execJmp target s
  | .jr a p => Sys2Proof.Machine.execJr a p s
  | .jrLink d a p => Sys2Proof.Machine.execJrLink d a p s
  | .call d target => Sys2Proof.Machine.execCall d target s
  | .ret a p => Sys2Proof.Machine.execRet a p s
  | .loop d a p imm => Sys2Proof.Machine.execLoop d a p imm s
  | .lstr d b p l => Sys2Proof.Machine.execLstr d b p l s
  | .trap p code => Sys2Proof.Machine.execTrap p code s
  | .krd d p k => Sys2Proof.Machine.execKrd d p k s
  | .kwr a p k => Sys2Proof.Machine.execKwr a p k s
  | .mrd d a p => Sys2Proof.Machine.execMrd d a p s
  | .mwr a b p => Sys2Proof.Machine.execMwr a b p s
  | .ldpw d a p imm => Sys2Proof.Machine.execLdpw d a p imm s
  | .eret => Sys2Proof.Machine.execEret s
  | .vadd d a b p sb sat t => Sys2Proof.Machine.execVadd d a b p sb sat t s
  | .vsub d a b p sb sat t => Sys2Proof.Machine.execVsub d a b p sb sat t s
  | .vmul d a b p sb sat t => Sys2Proof.Machine.execVmul d a b p sb sat t s
  | .vfma d a b p neg sb sat t => Sys2Proof.Machine.execVfma d a b p neg sb sat t s
  | .vmin d a b p sb sat t => Sys2Proof.Machine.execVmin d a b p sb sat t s
  | .vmax d a b p sb sat t => Sys2Proof.Machine.execVmax d a b p sb sat t s
  | .vabs d a p sat t => Sys2Proof.Machine.execVabs d a p sat t s
  | .vneg d a p sat t => Sys2Proof.Machine.execVneg d a p sat t s
  | .vand d a b p nb => Sys2Proof.Machine.execVand d a b p nb s
  | .vor d a b p nb => Sys2Proof.Machine.execVor d a b p nb s
  | .vxor d a b p nb => Sys2Proof.Machine.execVxor d a b p nb s
  | .vshl d a b p sb t => Sys2Proof.Machine.execVshl d a b p sb t s
  | .vshr d a b p sb t => Sys2Proof.Machine.execVshr d a b p sb t s
  | .vcmp d a b p cc t => Sys2Proof.Machine.execVcmp d a b p cc t s
  | .vsel d a b p t c => Sys2Proof.Machine.execVsel d a b p t c s
  | .vmovV d a p => Sys2Proof.Machine.execVmovV d a p s
  | .vmovSplat d a p t => Sys2Proof.Machine.execVmovSplat d a p t s
  | .vmovHS d a p => Sys2Proof.Machine.execVmovHS d a p s
  | .vmovSH d a p => Sys2Proof.Machine.execVmovSH d a p s
  | .vmovPS d a p => Sys2Proof.Machine.execVmovPS d a p s
  | .vmovSP d a p => Sys2Proof.Machine.execVmovSP d a p s
  | .vmovIdx d p t => Sys2Proof.Machine.execVmovIdx d p t s
  | .vcvt d a p sat ts part td => Sys2Proof.Machine.execVcvt d a p sat ts part td s
  | .vqdb d a p single db4 => Sys2Proof.Machine.execVqdb d a p single db4 s
  | .vcomp d a p w64 => Sys2Proof.Machine.execVcomp d a p w64 s
  | .vexpd d a p w64 => Sys2Proof.Machine.execVexpd d a p w64 s
  | .vperm d a b p w64 byte => Sys2Proof.Machine.execVperm d a b p w64 byte s
  | .vred d a p op t => Sys2Proof.Machine.execVred d a p op t s
  | .vsfu d a p f => Sys2Proof.Machine.execVsfu d a p f s
  | .vext d a b p t => Sys2Proof.Machine.execVext d a b p t s
  | .vins d a b p t => Sys2Proof.Machine.execVins d a b p t s
  | .vld d a p off => Sys2Proof.Machine.execVld d a p off s
  | .vst d a p off => Sys2Proof.Machine.execVst d a p off s
  | .vldl d a b p sz => Sys2Proof.Machine.execVldl d a b p sz s
  | .vstl d a b p sz => Sys2Proof.Machine.execVstl d a b p sz s
  | .pand d a b p nb => Sys2Proof.Machine.execPand d a b p nb s
  | .por d a b p nb => Sys2Proof.Machine.execPor d a b p nb s
  | .pxor d a b p nb => Sys2Proof.Machine.execPxor d a b p nb s
  | .pcnt d a p => Sys2Proof.Machine.execPcnt d a p s
  | .vjadd d a b p sat rm t => Sys2Proof.Machine.execVjadd d a b p sat rm t s
  | .vjsub d a b p sat rm t => Sys2Proof.Machine.execVjsub d a b p sat rm t s
  | .vjmul d a b p sat rm t => Sys2Proof.Machine.execVjmul d a b p sat rm t s
  | .vjfma d a b p sat rm t => Sys2Proof.Machine.execVjfma d a b p sat rm t s
  | .vjmin d a b p sat rm t => Sys2Proof.Machine.execVjmin d a b p sat rm t s
  | .vjmax d a b p sat rm t => Sys2Proof.Machine.execVjmax d a b p sat rm t s
  | .vjcvt d a p sat ts rm td => Sys2Proof.Machine.execVjcvt d a p sat ts rm td s
  | .vjqdb d a p ts single td => Sys2Proof.Machine.execVjqdb d a p ts single td s
  | .vjred d a p sat rm op t => Sys2Proof.Machine.execVjred d a p sat rm op t s
  | .vjsfu d a p sat rm t f => Sys2Proof.Machine.execVjsfu d a p sat rm t f s
  | .vjcomp d a b p t => Sys2Proof.Machine.execVjcomp d a b p t s
  | .vjexpd d a b p t => Sys2Proof.Machine.execVjexpd d a b p t s
  | .vjsel d a b p sat rm t => Sys2Proof.Machine.execVjsel d a b p sat rm t s
  | .vjcmp d a b p cc t => Sys2Proof.Machine.execVjcmp d a b p cc t s
  | .vjfill d p t => Sys2Proof.Machine.execVjfill d p t s
  | .ld d a sz p off => Sys2Proof.Machine.execLd d a sz p off s
  | .st d a sz p off => Sys2Proof.Machine.execSt d a sz p off s
  | .ldx d a b p sc sz => Sys2Proof.Machine.execLdx d a b p sc sz s
  | .stx d a b p sc sz => Sys2Proof.Machine.execStx d a b p sc sz s
  | .qld d a p ord scope sz => Sys2Proof.Machine.execQld d a p ord scope sz s
  | .qst d a b p ord scope sz => Sys2Proof.Machine.execQst d a b p ord scope sz s
  | .qpop d a p => Sys2Proof.Machine.execQpop d a p s
  | .qpopT d a b p => Sys2Proof.Machine.execQpopT d a b p s
  | .qwait d a p => Sys2Proof.Machine.execQwait d a p s
  | .qwaitAll d a p => Sys2Proof.Machine.execQwaitAll d a p s
  | .fence p scope => Sys2Proof.Machine.execFence p scope s
  | .amoAdd d a b p ord scope sz => Sys2Proof.Machine.execAmoAdd d a b p ord scope sz s
  | .amoSwap d a b p ord scope sz => Sys2Proof.Machine.execAmoSwap d a b p ord scope sz s
  | .amoCas d a b p ord scope sz => Sys2Proof.Machine.execAmoCas d a b p ord scope sz s
  | .amoAnd d a b p ord scope sz => Sys2Proof.Machine.execAmoAnd d a b p ord scope sz s
  | .amoOr d a b p ord scope sz => Sys2Proof.Machine.execAmoOr d a b p ord scope sz s
  | .amoXor d a b p ord scope sz => Sys2Proof.Machine.execAmoXor d a b p ord scope sz s
  | .amoMin d a b p ord scope sz => Sys2Proof.Machine.execAmoMin d a b p ord scope sz s
  | .amoMax d a b p ord scope sz => Sys2Proof.Machine.execAmoMax d a b p ord scope sz s
  | .amoMinu d a b p ord scope sz => Sys2Proof.Machine.execAmoMinu d a b p ord scope sz s
  | .amoMaxu d a b p ord scope sz => Sys2Proof.Machine.execAmoMaxu d a b p ord scope sz s
  | .amoSeq d a b p op => Sys2Proof.Machine.execAmoSeq d a b p op s
  | .copy d a b p e => Sys2Proof.Machine.execCopy d a b p e s
  | .cwait d a b p => Sys2Proof.Machine.execCwait d a b p s
  | .cwaitW d a b p k => Sys2Proof.Machine.execCwaitW d a b p k s
  | .ctest d a b p => Sys2Proof.Machine.execCtest d a b p s
  | .ctestW d a b p => Sys2Proof.Machine.execCtestW d a b p s
  | .ctestRec d a p => Sys2Proof.Machine.execCtestRec d a p s
  | .ctestAddr d a p => Sys2Proof.Machine.execCtestAddr d a p s
  | .mldb k a plane p bt t => Sys2Proof.Machine.execMldb k a plane p bt t s
  | .mjob d a b p t => Sys2Proof.Machine.execMjob d a b p t s
  | .mgang d a b p t => Sys2Proof.Machine.execMgang d a b p t s
  | .mgangJoin d a b p t => Sys2Proof.Machine.execMgangJoin d a b p t s
  | .pub a b p ch => Sys2Proof.Machine.execPub a b p ch s
  | .sub d b p ch => Sys2Proof.Machine.execSub d b p ch s
  | .unsub d b p ch => Sys2Proof.Machine.execUnsub d b p ch s
  | .recv a b p ch => Sys2Proof.Machine.execRecv a b p ch s
  | .recva a b p sat ch => Sys2Proof.Machine.execRecva a b p sat ch s
  | .peek d b p ch => Sys2Proof.Machine.execPeek d b p ch s
  | .halo a b p ch => Sys2Proof.Machine.execHalo a b p ch s
  | .haloR a b p ch => Sys2Proof.Machine.execHaloR a b p ch s
  | .nameq d b p ch => Sys2Proof.Machine.execNameq d b p ch s
  | .nameqN d b p ch => Sys2Proof.Machine.execNameqN d b p ch s
  | .spawn d a b p l => Sys2Proof.Machine.execSpawn d a b p l s
  | .tinst a b p l => Sys2Proof.Machine.execTinst a b p l s
  | .exit p => Sys2Proof.Machine.execExit p s
  | .barr a p => Sys2Proof.Machine.execBarr a p s
  | .bwait d a p => Sys2Proof.Machine.execBwait d a p s
  | .btest d a p => Sys2Proof.Machine.execBtest d a p s
  | .bset a b p => Sys2Proof.Machine.execBset a b p s
  | .migrate a b p => Sys2Proof.Machine.execMigrate a b p s
  | .tsrc d a b p => Sys2Proof.Machine.execTsrc d a b p s
  | .tadd d a p => Sys2Proof.Machine.execTadd d a p s
  | .tarm a b p => Sys2Proof.Machine.execTarm a b p s
  | .tdis a p => Sys2Proof.Machine.execTdis a p s
  | .tget d a p => Sys2Proof.Machine.execTget d a p s
  | .tgetSlot d b p => Sys2Proof.Machine.execTgetSlot d b p s
  | .tgetRes d b p => Sys2Proof.Machine.execTgetRes d b p s
  | .tset d a p => Sys2Proof.Machine.execTset d a p s
  | .coll d a b p ch => Sys2Proof.Machine.execColl d a b p ch s
  | .colw d p ch => Sys2Proof.Machine.execColw d p ch s
  | .colt d p ch => Sys2Proof.Machine.execColt d p ch s
  | .snap a p => Sys2Proof.Machine.execSnap a p s
  | .snrd d p => Sys2Proof.Machine.execSnrd d p s
  | .snrdRb d p => Sys2Proof.Machine.execSnrdRb d p s
  | .exposedResultLand core => Sys2Proof.Machine.execExposedResultLand core s
  | .stalledBundleIssue core => Sys2Proof.Machine.execStalledBundleIssue core s
  | .impreciseFault core => Sys2Proof.Machine.execImpreciseFault core s
  | .xOpAccept core => Sys2Proof.Machine.execXOpAccept core s
  | .queueRequestSend core q => Sys2Proof.Machine.execQueueRequestSend core q s
  | .queueAccessPerform core q k => Sys2Proof.Machine.execQueueAccessPerform core q k s
  | .pageWalk g ctx va => Sys2Proof.Machine.execPageWalk g ctx va s
  | .scoreboardEntryRelease core id => Sys2Proof.Machine.execScoreboardEntryRelease core id s
  | .vectorJobStart core => Sys2Proof.Machine.execVectorJobStart core s
  | .vectorJobComplete core => Sys2Proof.Machine.execVectorJobComplete core s
  | .copyRunPerform core job run => Sys2Proof.Machine.execCopyRunPerform core job run s
  | .copyFinish core job => Sys2Proof.Machine.execCopyFinish core job s
  | .mldbLoadStart core => Sys2Proof.Machine.execMldbLoadStart core s
  | .planeLoaded core => Sys2Proof.Machine.execPlaneLoaded core s
  | .matrixJobStart core => Sys2Proof.Machine.execMatrixJobStart core s
  | .matrixJobComplete core => Sys2Proof.Machine.execMatrixJobComplete core s
  | .governorWindow g => Sys2Proof.Machine.execGovernorWindow g s
  | .planeTransfer g job m => Sys2Proof.Machine.execPlaneTransfer g job m s
  | .gangWindowExpire g job => Sys2Proof.Machine.execGangWindowExpire g job s
  | .gangCompletion g job => Sys2Proof.Machine.execGangCompletion g job s
  | .gangArrivalCount g job => Sys2Proof.Machine.execGangArrivalCount g job s
  | .launchStartTick ctx => Sys2Proof.Machine.execLaunchStartTick ctx s
  | .taskStart g => Sys2Proof.Machine.execTaskStart g s
  | .taskAging g k => Sys2Proof.Machine.execTaskAging g k s
  | .preemptStart g => Sys2Proof.Machine.execPreemptStart g s
  | .spillComplete g k => Sys2Proof.Machine.execSpillComplete g k s
  | .restoreComplete g k => Sys2Proof.Machine.execRestoreComplete g k s
  | .exitDrainEnd g k => Sys2Proof.Machine.execExitDrainEnd g k s
  | .recordFree g k => Sys2Proof.Machine.execRecordFree g k s
  | .containmentComplete g k => Sys2Proof.Machine.execContainmentComplete g k s
  | .tagLeaseRefill g k => Sys2Proof.Machine.execTagLeaseRefill g k s
  | .tagLeaseReturn g k => Sys2Proof.Machine.execTagLeaseReturn g k s
  | .reservedTagGrant g k => Sys2Proof.Machine.execReservedTagGrant g k s
  | .barrierArrival g bar => Sys2Proof.Machine.execBarrierArrival g bar s
  | .migrationArrive k => Sys2Proof.Machine.execMigrationArrive k s
  | .pubAdmit g k => Sys2Proof.Machine.execPubAdmit g k s
  | .admitWindowRoll g => Sys2Proof.Machine.execAdmitWindowRoll g s
  | .packetForward g k => Sys2Proof.Machine.execPacketForward g k s
  | .rootAccept g k => Sys2Proof.Machine.execRootAccept g k s
  | .pubRetry g k => Sys2Proof.Machine.execPubRetry g k s
  | .landingReserve g => Sys2Proof.Machine.execLandingReserve g s
  | .subRegister g k => Sys2Proof.Machine.execSubRegister g k s
  | .subWithdraw g k => Sys2Proof.Machine.execSubWithdraw g k s
  | .chunkLand g k => Sys2Proof.Machine.execChunkLand g k s
  | .recvDeliver core k => Sys2Proof.Machine.execRecvDeliver core k s
  | .deliveryAckTimeout g k => Sys2Proof.Machine.execDeliveryAckTimeout g k s
  | .retentionExpire g k => Sys2Proof.Machine.execRetentionExpire g k s
  | .versionUnpin g k => Sys2Proof.Machine.execVersionUnpin g k s
  | .nameqQuery g k => Sys2Proof.Machine.execNameqQuery g k s
  | .commit g k => Sys2Proof.Machine.execCommit g k s
  | .discard g k => Sys2Proof.Machine.execDiscard g k s
  | .triadVote g k => Sys2Proof.Machine.execTriadVote g k s
  | .keepWriteback rim k => Sys2Proof.Machine.execKeepWriteback rim k s
  | .writebackComplete g k => Sys2Proof.Machine.execWritebackComplete g k s
  | .rimFetch rim k => Sys2Proof.Machine.execRimFetch rim k s
  | .counterEvent g n => Sys2Proof.Machine.execCounterEvent g n s
  | .triggerOpStart g => Sys2Proof.Machine.execTriggerOpStart g s
  | .triggerOpComplete g slot => Sys2Proof.Machine.execTriggerOpComplete g slot s
  | .collActivate core cls => Sys2Proof.Machine.execCollActivate core cls s
  | .collSegmentStart core cls => Sys2Proof.Machine.execCollSegmentStart core cls s
  | .collContribution g k => Sys2Proof.Machine.execCollContribution g k s
  | .collComplete core k => Sys2Proof.Machine.execCollComplete core k s
  | .lanternArrive ctx node chan => Sys2Proof.Machine.execLanternArrive ctx node chan s
  | .chunkWriteout ctx core chunk => Sys2Proof.Machine.execChunkWriteout ctx core chunk s
  | .pageWriteout ctx va => Sys2Proof.Machine.execPageWriteout ctx va s
  | .captureReport ctx node => Sys2Proof.Machine.execCaptureReport ctx node s
  | .remoteRequestArrive slice src seq cls op sz off v w => Sys2Proof.Machine.execRemoteRequestArrive slice src seq cls op sz off v w s
  | .remoteRetransmit core k => Sys2Proof.Machine.execRemoteRetransmit core k s
  | .remoteRequestExpire core k => Sys2Proof.Machine.execRemoteRequestExpire core k s
  | .dupEntryRetire slice k => Sys2Proof.Machine.execDupEntryRetire slice k s
  | .tokenVisit rim => Sys2Proof.Machine.execTokenVisit rim s
  | .tokenRegenerate => Sys2Proof.Machine.execTokenRegenerate s
  | .scrubStep stack => Sys2Proof.Machine.execScrubStep stack s
  | .loadImage qp cmd choice => Sys2Proof.Machine.execLoadImage qp cmd choice s
  | .loadImageFirmware qp cmd => Sys2Proof.Machine.execLoadImageFirmware qp cmd s
  | .loadImageSupervisor qp cmd => Sys2Proof.Machine.execLoadImageSupervisor qp cmd s
  | .launch qp cmd choice => Sys2Proof.Machine.execLaunch qp cmd choice s
  | .launchSupervisor qp cmd => Sys2Proof.Machine.execLaunchSupervisor qp cmd s
  | .migrateCmd qp cmd => Sys2Proof.Machine.execMigrateCmd qp cmd s
  | .snapshot qp cmd => Sys2Proof.Machine.execSnapshot qp cmd s
  | .rollback qp cmd => Sys2Proof.Machine.execRollback qp cmd s
  | .partitionMerge qp cmd choice => Sys2Proof.Machine.execPartitionMerge qp cmd choice s
  | .partitionSplit qp cmd choice => Sys2Proof.Machine.execPartitionSplit qp cmd choice s
  | .summary qp cmd => Sys2Proof.Machine.execSummary qp cmd s
  | .resetContext qp cmd => Sys2Proof.Machine.execResetContext qp cmd s
  | .resetContextClear qp cmd => Sys2Proof.Machine.execResetContextClear qp cmd s
  | .resetContextFree qp cmd => Sys2Proof.Machine.execResetContextFree qp cmd s
  | .unknownCommand qp cmd => Sys2Proof.Machine.execUnknownCommand qp cmd s
  | .rdmaWrite qp rkey addr data => Sys2Proof.Machine.execRdmaWrite qp rkey addr data s
  | .rdmaRead qp rkey addr len => Sys2Proof.Machine.execRdmaRead qp rkey addr len s
  | .rdmaInvalid qp opcode => Sys2Proof.Machine.execRdmaInvalid qp opcode s
  | .faultNotify k => Sys2Proof.Machine.execFaultNotify k s
  | .moduleReset => Sys2Proof.Machine.execModuleReset s
  | .bringupReport kind idx ready info => Sys2Proof.Machine.execBringupReport kind idx ready info s
  | .startTimeout => Sys2Proof.Machine.execStartTimeout s
  | .ptpMessage port time => Sys2Proof.Machine.execPtpMessage port time s
  | .ptpMasterLoss port => Sys2Proof.Machine.execPtpMasterLoss port s
  | .syncSymbol time err => Sys2Proof.Machine.execSyncSymbol time err s
  | .powerMeasure watts => Sys2Proof.Machine.execPowerMeasure watts s
  | .hotGroveEvent g temp => Sys2Proof.Machine.execHotGroveEvent g temp s
  | .hotGroveClear g temp => Sys2Proof.Machine.execHotGroveClear g temp s
  | .groveWithdraw g reason => Sys2Proof.Machine.execGroveWithdraw g reason s
  | .groveReturn g => Sys2Proof.Machine.execGroveReturn g s
  | .forcedFlushMove ctx => Sys2Proof.Machine.execForcedFlushMove ctx s
  | .ctxFlush ctx => Sys2Proof.Machine.execCtxFlush ctx s
  | .flushComplete ctx => Sys2Proof.Machine.execFlushComplete ctx s
  | .seedWrite ctx v => Sys2Proof.Machine.execSeedWrite ctx v s
  | .rootovrWrite ctx k v => Sys2Proof.Machine.execRootovrWrite ctx k v s
  | .sliceSplitWrite slice v => Sys2Proof.Machine.execSliceSplitWrite slice v s
  | .partmapWrite v => Sys2Proof.Machine.execPartmapWrite v s
  | .seamQuiesce seam v => Sys2Proof.Machine.execSeamQuiesce seam v s
  | .seamQuiesced seam => Sys2Proof.Machine.execSeamQuiesced seam s
  | .seamQuiesceTimeout seam => Sys2Proof.Machine.execSeamQuiesceTimeout seam s
  | .seamOpen seam => Sys2Proof.Machine.execSeamOpen seam s
  | .seamClose seam => Sys2Proof.Machine.execSeamClose seam s
  | .ilvWrite part v => Sys2Proof.Machine.execIlvWrite part v s
  | .hbmClearComplete part => Sys2Proof.Machine.execHbmClearComplete part s
  | .shootdown v => Sys2Proof.Machine.execShootdown v s
  | .grantWrite g ctx v => Sys2Proof.Machine.execGrantWrite g ctx v s
  | .registerWrite addr v => Sys2Proof.Machine.execRegisterWrite addr v s
  | .softError addr bit => Sys2Proof.Machine.execSoftError addr bit s
  | .readinessLost kind idx => Sys2Proof.Machine.execReadinessLost kind idx s
  | .readinessRegained kind idx => Sys2Proof.Machine.execReadinessRegained kind idx s
  | .landingAcknowledgement g k => Sys2Proof.Machine.execLandingAcknowledgement g k s
  | .sequenceNumberFree core k => Sys2Proof.Machine.execSequenceNumberFree core k s

end Sys2Proof.Machine
end

