-- ==== Sys2Proof/Machine/Issue.lean ====
section
/-!
DEFINITION. The issue of one bundle on a core: fetch (R66), the checks over all its slots in the order of R76, flags (R74),
execution of the slots in order from the state at the start of the bundle (R67), traps (R159), landing of results (R83)
and the choice of the next bundle (R133). A bundle with a slot that waits only for the job cards of its own earlier slots issues in two
parts: those cards enter first (R21, R22, R147; log entry 15).
-/

namespace Sys2Proof.Machine

/-- The bundle at a core's bundle address; past the image's bundles the buffer holds zero bundles (log entry 6). -/
def State.fetch (s : State) (core : Nat) : BitVec 128 := (s.imageOf core).code[(s.core core).pc.toNat]?.getD 0

/-- The slot word and lent field of a slot. -/
def slotBits (w : BitVec 128) (sl : SlotId) : BitVec 32 × Option (BitVec 7) :=
  let w0 := w.extractLsb' 0 32
  let h := headerOf w0
  let lent := isHeader w0
  match sl with
  | .c => (w0, none)
  | .v => (w.extractLsb' 32 32, if lent then some h.lxv else none)
  | .m => (w.extractLsb' 64 32, if lent then some h.lxm else none)
  | .x => (w.extractLsb' 96 32, if lent then some h.lxx else none)

/-- The ILLEGAL trap of a slot that does not decode, with the register or K-register number it names (R75, R152). -/
def undecodable (w : BitVec 128) (o : SlotOp) (e : Ilc) : Trap :=
  let b := slotBits w o.slot
  match parseSlot o.slot b.1 b.2 with
  | .ok i =>
    (match i.illegal? with
     | some (c, r) => { Trap.illegal c with reg := r, code := if c = .kreg then (b.1.extractLsb' 0 12).toNat else 0 }
     | none => .illegal e)
  | .error _ => .illegal e

/-- The destinations of a slot that count for R67: s0 and p0 are exempt. -/
def destsOf (o : SlotOp) : List Reg :=
  match o.op with
  | .ok i => i.writes.filter fun r => !((decide (r.file = .s) || decide (r.file = .p)) && decide (r.num = 0))
  | .error _ => []

/-- The entry of a core's innermost running level whose body holds its next bundle decides whether a slot's flag pair lets it execute
(R74). -/
def Core.flagsAllow (c : Core) (o : SlotOp) : Bool :=
  if !o.first && !o.last then true
  else
    match (c.running.filter fun e => decide (e.2.start ≤ c.pc) && decide (c.pc ≤ e.2.stop)).getLast? with
    | none => true
    | some e =>
      let k := c.rn e.1
      (o.first && decide (k = 0)) || (o.last && decide (k + 1 = e.2.count))

/-- The ILLEGAL trap of the lowest-numbered offending slot, with its slot (R67, R75, R134): what a slot's encoding, mode, place and
tables give counts for slots that are turned off too (R70, R74), what register values give only for those that execute (log entry 7). -/
def State.bundleIllegal (s : State) (c : Core) (w : BitVec 128) (ops : List SlotOp) : Option (Nat × Trap) :=
  ops.findSome? fun o =>
    match o.op with
    | .error e => some (o.slot.num,
        if isTrunkCore s.cur && decide (o.slot = .x) && decide ((slotBits w .x).1.extractLsb' 25 7 ≠ 0x12) then .illegal .major else undecodable w o e)
    | .ok i =>
      match s.issueTrap c i <|> (if c.flagsAllow o then s.valueTrap c i else none) with
      | some t => some (o.slot.num, t)
      | none =>
        let others := (ops.filter (fun x => decide (x.slot ≠ o.slot))).flatMap destsOf
        (destsOf o).findSome? fun r =>
          if others.contains r then some (o.slot.num, { Trap.illegal .file with reg := some r }) else none

/-- The operations of a bundle that execute, with their slots; those whose job cards have already entered are done. -/
def Core.executing (c : Core) (ops : List SlotOp) : List (Nat × Sys2Proof.Instr) :=
  ops.filterMap fun o => match o.op with
    | .ok i => if c.flagsAllow o && !c.split.contains o.slot.num then some (o.slot.num, i) else none
    | .error _ => none

/-- The interlock of a whole bundle (R84, R85): a HAZARD names the slot of its register. -/
def Core.bundleInterlock (c : Core) (clk : Nat) (run : List (Nat × Sys2Proof.Instr)) : Option (Nat × Eff) :=
  match c.interlock clk (run.flatMap fun e => Instr.uses e.2) with
  | none => none
  | some .stall => some (0, .stall)
  | some (.trap t) =>
    let slot := (run.find? fun e => match t.reg with | some r => (Instr.uses e.2).contains r | none => false).map (·.1)
    some (slot.getD 0, .trap t)
  | some (.ok _) => none

/-- What the slots of a bundle come to: a stop of the model, or the state after them with each slot's outcome. -/
inductive SlotsRun where
  | stopped (o : Host.Outcome State Fault Refusal)
  | ran (s : State) (out : List (Nat × Latch))

/-- Executes slots in order (R67); each starts with no outcome latched, and a slot that traps leaves nothing to the slots
after it. -/
def runSlots (s : State) : List (Nat × Sys2Proof.Instr) → List (Nat × Latch) → SlotsRun
  | [], out => .ran s out
  | (sl, i) :: r, out =>
    let s1 := { s with slot := sl }.updCore s.cur fun c => { c with latch := .none }
    match exec i s1 with
    | .next s2 =>
      let l := (s2.core s2.cur).latch
      runSlots (match l with | .trapped _ _ _ => s1 | _ => s2) r (out ++ [(sl, l)])
    | o => .stopped o

/-- The ILLEGAL trap that the record, descriptor or image of an executing slot raises, as far as it can be read before the bundle issues: it
is one of the checks of R76, and ranks before HAZARD, SCOREFULL and the traps of execution (R218, R241, R269, R331; log entry 7). With its
slot, the KTRAP and KTVAL words and what has been read. -/
def State.recordIllegal (s0 : State) (c : Core) (run : List (Nat × Sys2Proof.Instr)) : Option (Nat × Word × Word × List (Nat × Nat)) :=
  run.findSome? fun e =>
    if !readsRecords e.2 || (c.interlock s0.clk (Instr.uses e.2)).isSome then none
    else
      match runSlots s0 [e] [] with
      | .ran _ [(_, .trapped kt kv reads)] => if kt.extractLsb' 0 4 = 1 then some (e.1, kt, kv, reads) else none
      | _ => none

/-- The ILLEGAL trap of a bundle: that of its lowest-numbered offending slot (R75, R76). -/
def State.firstIllegal (s0 : State) (c : Core) (w : BitVec 128) (ops : List SlotOp) (run : List (Nat × Sys2Proof.Instr)) :
    Option (Word × Word × List (Nat × Nat)) :=
  match s0.bundleIllegal c w ops, s0.recordIllegal c run with
  | some (sl, t), some x => if x.1 < sl then some x.2 else some (t.word sl false, t.tval, t.reads)
  | some (sl, t), none => some (t.word sl false, t.tval, t.reads)
  | none, some x => some x.2
  | none, none => none

/-- The levels' end of a pass, innermost first (R133): post-adds with the strides in force at the bundle's start, then
back to the body's start, or on to the next level out. -/
def Core.endPass (strides : Vector Word 96) : List (Nat × LoopLvl) → Core → Core × Option (BitVec 12)
  | [], c => (c, none)
  | (l, lv) :: r, c =>
    if c.pc ≠ lv.stop then (c, none)
    else
      let a := Vector.ofFn fun (i : Fin 16) => c.a[i] + (strides[l * 16 + i.val]?.getD 0)
      let n1 := c.rn l + 1
      let c := { c with a := a, n := c.n.setIfInBounds l n1 }
      if n1.toNat < lv.count.toNat then (c, some lv.start)
      else Core.endPass strides r { c with loops := c.loops.setIfInBounds l { lv with running := false } }

/-- The next bundle after one that is not the delay bundle of a taken branch (R133). -/
def Core.sequential (c : Core) (strides : Vector Word 96) : Core :=
  let r := Core.endPass strides c.running.reverse c
  { r.1 with pc := r.2.getD (c.pc + 1) }

/-- The next bundle after the delay bundle of a branch taken to `t`: levels whose body does not contain `t` stop (R133). -/
def Core.branchTo (c : Core) (t : BitVec 12) : Core :=
  let keep (l : LoopLvl) : LoopLvl :=
    if l.running && decide (l.start ≤ t) && decide (t ≤ l.stop) then l else { l with running := false }
  { c with pc := t, loops := c.loops.map keep }

/-- Chooses the next bundle (R87, R133): `c0` is the core at the bundle's start, `c` after its results have landed. -/
def Core.advance (c0 c : Core) : Core :=
  if c0.delay then
    let c := { c with delay := false, branch := none }
    match c0.branch with
    | some t => c.branchTo t
    | none => c.sequential c0.strides
  else c.sequential c0.strides

/-- The trunk's part of the issue of a bundle on a trunk core: the answer of a QUIESCE that its `mwr` waited for has been used
(R432), and an image that has stopped has ended (R420). A user-mode trap, after an `eret` with psup 0, leaves the core faulted and the
LAUNCH without an answer (log entry 54: R161 does not say how it ends). -/
def State.trunkIssued (s : State) (core : Nat) : State :=
  if !isTrunkCore core then s
  else
    let s := s.updTrunk fun t => { t with seamAns := Vector.replicate 3 none }
    if (s.core core).mode = .halted then s.endSupervisor core else s

/-- Ends the issue of a bundle that has taken effect: K-register writes and due results land, the next bundle is chosen. -/
def State.commitBundle (s0 s : State) (jumped : Bool) : State :=
  (s.updCore s0.cur fun c =>
    let c := (c.landK).landDue s0.clk
    let c := if jumped then c else Core.advance (s0.core s0.cur) c
    { c with latch := .none, split := [], next := s0.clk + 1, bord := c.ords, atTrap := false }).trunkIssued s0.cur

/-- Takes a trap for a whole bundle from the state at its start, with its KTRAP and KTVAL words (R159); the words that the trapping
operation has read are scrubbed (R51). Where a snapshot has still to record the core's grove, the record takes the state before the
bundle, and the bundle issues and traps after it (R163). -/
def State.retakeTrap (s0 : State) (ktrap ktval : Word) (reads : List (Nat × Nat)) : State :=
  let c := s0.core s0.cur
  if c.midway && !isTrunkCore s0.cur && s0.wanted c.ctxNo (groveOf s0.cur) then
    s0.updCore s0.cur fun c => { c with latch := .none, next := s0.clk + 1, atTrap := true }
  else
    ((s0.scrubs reads).updCore s0.cur fun c =>
      { c.takeTrap ktrap ktval with latch := .none, next := s0.clk + 1, trapTick := s0.tick, atTrap := false }).trunkIssued s0.cur

/-- Takes a trap that a bundle's checks found in a slot (R159). -/
def State.trapBundle (s0 : State) (slot : Nat) (t : Trap) : State := s0.retakeTrap (t.word slot false) t.tval t.reads

/-- Holds a bundle at issue: nothing of it takes effect, and it is tried again at a later clock (R84). -/
def State.holdBundle (s0 : State) : State :=
  s0.updCore s0.cur fun c => { c with latch := .held, next := s0.clk + 1 }

/-- The trap among slot outcomes whose KTRAP word meets a condition: that of the lowest-numbered slot. -/
def trapIn (out : List (Nat × Latch)) (p : Word → Bool) : Option (Word × Word × List (Nat × Nat)) :=
  out.findSome? fun e => match e.2 with
    | .trapped kt kv reads => if p kt then some (kt, kv, reads) else none
    | _ => none

/-- Is a slot of a bundle held? -/
def anyHeld (out : List (Nat × Latch)) : Bool := out.any fun e => decide (e.2 = .held)

/-- The outcome of the executed slots (R76, R159): SCOREFULL first, then a slot that is held, then the trap of the
lowest-numbered slot, else the bundle takes effect. -/
def State.resolveBundle (s0 s : State) (out : List (Nat × Latch)) : State :=
  match trapIn out (fun w => decide (w.extractLsb' 0 4 = 8)) with
  | some t => s0.retakeTrap t.1 t.2.1 t.2.2
  | none =>
    if anyHeld out then s0.holdBundle
    else match trapIn out (fun _ => true) with
      | some t => s0.retakeTrap t.1 t.2.1 t.2.2
      | none => s0.commitBundle s (out.any fun e => decide (e.2 = .jumped))

/-- The scoreboard entries that a slot's operation takes on its own. -/
def State.entriesTaken (s0 : State) (e : Nat × Sys2Proof.Instr) : Nat :=
  match runSlots s0 [e] [] with
  | .ran s _ => (s.core s.cur).board.length - (s0.core s0.cur).board.length
  | .stopped _ => 0

/-- The state after slots that all take effect. -/
def State.afterSlots (s0 : State) (run : List (Nat × Sys2Proof.Instr)) : Option State :=
  match runSlots s0 run [] with
  | .ran s out => if anyHeld out || (trapIn out fun _ => true).isSome then none else some s
  | .stopped _ => none

/-- The job cards that a held bundle enters ahead of its other slots: those before its first held slot, where every slot is held for
them alone and the scoreboard has the entries of all its cards (R21, R22, R147; log entry 15). -/
def State.cardsFirst (s0 : State) (run : List (Nat × Sys2Proof.Instr)) (out : List (Nat × Latch)) :
    Option (State × List Nat) :=
  match out.find? fun e => decide (e.2 = .held) with
  | none => none
  | some h =>
    let early := run.filter fun e => decide (e.1 < h.1) && decide (s0.entriesTaken e ≠ 0)
    let rest := run.filter fun e => !early.any fun x => decide (x.1 = e.1)
    if early.isEmpty ∨ (trapIn out fun _ => true).isSome ∨ (s0.afterSlots rest).isNone ∨
        (s0.core s0.cur).freeEntries < (run.map s0.entriesTaken).sum then none
    else (s0.afterSlots early).map fun s => (s, early.map (·.1))

/-- Ends the issue of a bundle: it resolves, or its first job cards enter and the rest of it is held. -/
def State.endBundle (s0 s : State) (run : List (Nat × Sys2Proof.Instr)) (out : List (Nat × Latch)) : State :=
  match (if anyHeld out then s0.cardsFirst run out else none) with
  | some e => e.1.updCore s0.cur fun c => { c with latch := .held, next := s0.clk + 1, split := c.split ++ e.2 }
  | none => s0.resolveBundle s out

/-- A register form issues in the V slot: the passes that remain of the shape job under way end one clock later (R222). -/
def Core.delayVec (c : Core) (clk : Nat) : Core :=
  let slow (j : Job) : Bool := (match j.kind with | .vec _ _ _ _ => true | _ => false) && j.start.isSome &&
    (match j.accept with | some e => decide (clk ≤ e) | none => false)
  { c with
    vForm := clk + 1,
    vecBusy := if c.jobs.any slow then c.vecBusy + 1 else c.vecBusy,
    jobs := c.jobs.map fun j => if slow j then { j with accept := j.accept.map (· + 1) } else j }

/-- Does a bundle issue a register form in its V slot: a word with one of their major opcodes (R78), whose flags let it execute? -/
def vectorForm (w : BitVec 128) (run : List (Nat × Sys2Proof.Instr)) : Bool :=
  let op := (w.extractLsb' 57 7).toNat
  decide (0x40 ≤ op) && decide (op ≤ 0x60) && run.any fun e => decide (e.1 = 1)

/-- Notes whether a bundle that has issued had a register form in its V slot. -/
def State.noteForm (s : State) (core : Nat) (form : Bool) : State :=
  if form then s.updCore core fun c => c.delayVec s.clk else s

/-- Issues the next bundle of a core. -/
def issueBundle (s : State) (core : Nat) : Host.Outcome State Fault Refusal :=
  let s0 := { s with cur := core, slot := 0, turn := none }.updCore core fun c =>
    { c with latch := .none, bord := c.ords }
  let c := s0.core core
  let w := s0.fetch core
  let ops := decodeBundle w
  let run := c.executing ops
  match s0.firstIllegal c w ops run with
  | some t => .next (s0.retakeTrap t.1 t.2.1 t.2.2)
  | none =>
    match c.bundleInterlock s0.clk run with
    | some (sl, .trap t) => .next (s0.trapBundle sl t)
    | some _ => .next s0.holdBundle
    | none =>
      match runSlots s0 run [] with
      | .stopped o => o
      | .ran s1 out => .next ((s0.endBundle s1 run out).noteForm core
        (vectorForm w run && !anyHeld out && (trapIn out fun _ => true).isNone))

/-- The first core whose next bundle is to issue at this clock and is not being held. -/
def State.dueCore (s : State) : Option Nat :=
  (s.cores.find? fun e => s.mayIssue e.1 && decide (e.2.latch ≠ .held)).map (·.1)

end Sys2Proof.Machine
end

