-- ==== Sys2Proof/Machine/Sched.lean ====
section
/-!
DEFINITION. Which of the machine's own events occurs next when no outside input waits and no core is due to issue (log
entries 4 and 11), and the passing of a clock. A clock has an early phase, in which what is ready starts or is performed, and
a late one, in which what ends with the clock ends.
-/

namespace Sys2Proof.Machine

/-- An event of the machine: the meaning of its row, with the row's operands. -/
abbrev Event := State → Host.Outcome State Fault Refusal

/-- An event when its condition holds. -/
def evIf (c : Bool) (e : Event) : Option Event := if c then some e else none

/-- The first event of a list of candidates. -/
def firstEv (l : List (Option Event)) : Option Event := l.findSome? id

/-- Does an event change the state? -/
def State.moves (s : State) (e : Event) : Bool :=
  match e s with
  | .next t => decide (t ≠ s)
  | _ => true

/-- An event when it changes the state. -/
def State.evMoves (s : State) (e : Event) : Option Event := evIf (s.moves e) e

/-! ### Outside inputs -/

/-- The queue pair of a command (R414). -/
def commandQp : Sys2Proof.Instr → Option Nat
  | .loadImage qp _ _ => some qp
  | .loadImageFirmware qp _ => some qp
  | .loadImageSupervisor qp _ => some qp
  | .launch qp _ _ => some qp
  | .launchSupervisor qp _ => some qp
  | .migrateCmd qp _ => some qp
  | .snapshot qp _ => some qp
  | .rollback qp _ => some qp
  | .partitionMerge qp _ _ => some qp
  | .partitionSplit qp _ _ => some qp
  | .summary qp _ => some qp
  | .resetContext qp _ => some qp
  | .resetContextClear qp _ => some qp
  | .resetContextFree qp _ => some qp
  | .unknownCommand qp _ => some qp
  | _ => none

/-- The grove from which an outside input moves records. -/
def movesFrom : Sys2Proof.Instr → Option Nat
  | .migrateCmd _ b => some (fieldOfBytes b 0x10 2)
  | .hotGroveEvent g _ => some g
  | _ => none

/-- Does a start or a landing of this clock at a grove go before a migration from it (R168)? -/
def State.startsFirst (s : State) (g : Nat) : Bool :=
  (s.nextStart g).isSome ||
  s.net.any fun p => decide (p.at_ = g) && decide (p.dst = g) && decide (p.time < s.clk) &&
    (match p.kind with | .deliver _ _ _ _ => true | _ => false)

/-- Can an outside input come now: its clock has come, a command's queue pair is free (R414), what goes before a migration is over
(R168), and a LAUNCH does not wait for its module to join the gang's time base (R424)? -/
def State.inputReady (s : State) (e : Nat × Sys2Proof.Instr) : Bool :=
  decide (e.1 ≤ s.clk) && (match commandQp e.2 with | some qp => s.qpFree qp || decide (128 ≤ qp) | none => true) &&
  (match movesFrom e.2 with | some g => !s.startsFirst g | none => true) &&
  (match e.2 with | .launch _ b _ => !s.awaitsJoin b | _ => true)

/-- Is the command at place i of the agenda behind an earlier one of its queue pair that has still to be taken (R414)? -/
def State.behindCommand (s : State) (e : Nat × Sys2Proof.Instr) (i : Nat) : Bool :=
  (commandQp e.2).isSome && s.agenda.zipIdx.any fun f =>
    decide (commandQp f.1.2 = commandQp e.2) && (decide (f.1.1 < e.1) || (decide (f.1.1 = e.1) && decide (f.2 < i)))

/-- The outside input that comes next. -/
def State.nextInput (s : State) : Option (Nat × Sys2Proof.Instr) :=
  (s.agenda.zipIdx.find? fun e => s.inputReady e.1 && !s.behindCommand e.1 e.2).map (·.1)

/-! ### Cores, early -/

/-- Does a held request wait for a sequence number that has been used before (R406)? -/
def State.numberUsed (s : State) (core q : Nat) (e : QEntry) : Bool :=
  match s.requestPlace core e with
  | some (.ok (.remote m sl _)) =>
    let t := (s.core core).seqs
    let key := seqKey m sl (queueClass q)
    (Tbl.get? t (key + 1 + Tbl.getD t key 0)).isSome
  | _ => false

/-- The event of one entry of a queue. -/
def State.entryEvent (s : State) (k q : Nat) (e : QEntry) (i : Nat) : Option Event :=
  if !s.mayPerform k e then none
  else
    match s.requestPlace k e with
    | none => some (execPageWalk (groveOf k) (s.core k).ctxNo (e.addr.toNat % 2 ^ 48))
    | some (.ok pl@(.remote _ _ _)) =>
      firstEv [
        evIf (Config.answered k e.ord s.clk && !s.placeHeld (groveOf k) (s.core k).ctxNo pl) (execQueueAccessPerform k q i),
        evIf (s.isRemote k e && decide (e.first + 20000 ≤ s.tick)) (execRemoteRequestExpire k (q * 16 + i)),
        evIf (s.isRemote k e && decide (e.last + 2000 ≤ s.tick)) (execRemoteRetransmit k (q * 16 + i))]
    | some (.ok pl) => evIf (!e.kind.isSeq && !s.placeHeld (groveOf k) (s.core k).ctxNo pl) (execQueueAccessPerform k q i)
    | some (.error _) => some (execQueueAccessPerform k q i)

/-- The queue events of a core. -/
def State.queueEvent (s : State) (k : Nat) : Option Event :=
  (List.range 8).findSome? fun q =>
    let held := match s.sendable k q with
      | some e =>
        if (s.sendEntry k q e).isNone then none
        else some (if s.numberUsed k q e then execSequenceNumberFree k q else execQueueRequestSend k q)
      | none => none
    match held with
    | some i => some i
    | none => ((s.core k).queue q).zipIdx.findSome? fun e => s.entryEvent k q e.1 e.2

/-- The event of a copy: a walk, or a run that may be performed. -/
def State.copyEvent (s : State) (k : Nat) (j : Job) : Option Event :=
  match j.kind, j.copyPlan with
  | .copy _ slot _ _ _ _, some p =>
    (match s.copyWalk k j with
     | some w => some (execPageWalk w.1 w.2.1 w.2.2)
     | none =>
       ((j.candidates p).find? fun r =>
         s.runMay k j p r && !s.runHeld k (s.jobCtx k slot) (slot.isSome || !(s.core k).sup) j p r).map fun r =>
           execCopyRunPerform k j.id r)
  | _, _ => none

/-- Can a receive go on (R293, R298)? -/
def State.recvGoes (s : State) (k : Nat) (j : Job) : Bool :=
  let c := s.core k
  match j.accept with
  | some t => decide (t ≤ s.clk)
  | none =>
    !c.jobWaits j.id && c.jobAccepted j.id &&
    (match j.kind with
     | .recv ch n _ _ _ =>
       (match s.matchFor k ch n with
        | some x => x.ripe.isSome && !s.earlierRecv k j x.id
        | none => false)
     | .haloRecv ch _ => !c.haloOpen ch j.ord && (s.haloRipe k ch).isSome
     | _ => false)

/-- The event of a job that moves data. -/
def State.jobEvent (s : State) (k : Nat) (j : Job) : Option Event :=
  match j.kind with
  | .copy _ _ _ _ _ _ => s.copyEvent k j
  | .recv _ _ _ _ _ => evIf (s.recvGoes k j) (execRecvDeliver k j.id)
  | .haloRecv _ _ => evIf (s.recvGoes k j) (execRecvDeliver k j.id)
  | _ => none

/-- The collective events of a core in a class (R360, R361, R354). -/
def State.collEvents (s : State) (k : Nat) (cls : Bool) : Option Event :=
  let x := (s.grove (groveOf k)).collSet k cls
  let seg : Bool := match s.nextResult k cls with
    | some _ => cls || (s.nextResult k (!cls)).isNone
    | none => (s.nextPart k cls).isSome && (cls || (s.nextPart k (!cls)).isNone)
  let ended : Bool := match x.active with
    | none => false
    | some id =>
      match (s.core k).job? id with
      | some j =>
        (match j.kind with
         | .coll ch _ _ _ _ =>
           let e := (s.ctx (s.core k).ctxNo).image.chan ch
           (chExpress e == cls) && j.collOver e (s.memberOf k e) s.clk
         | _ => false)
      | none => false
  firstEv [
    evIf (x.active.isNone && !x.queue.isEmpty) (execCollActivate k cls),
    evIf seg (execCollSegmentStart k cls),
    evIf ended (execCollComplete k (x.active.getD 0))]

/-- The early events of one core. -/
def State.coreEarly (s : State) (k : Nat) : Option Event :=
  let c := s.core k
  firstEv [
    (match c.mode with
     | .starting t true => evIf (decide (t ≤ s.clk)) (execRestoreComplete (groveOf k) c.task)
     | _ => none),
    (match c.nextVec with | some j => evIf (s.vecMayStart k j) (execVectorJobStart k) | none => none),
    (match c.nextLoad with | some j => evIf (s.loadMayStart k j) (execMldbLoadStart k) | none => none),
    (match c.nextMat with | some j => evIf (s.matMayStart k j) (execMatrixJobStart k) | none => none),
    s.queueEvent k,
    c.jobs.findSome? (s.jobEvent k),
    if (s.grove (groveOf k)).collSets.isEmpty then none else firstEv [s.collEvents k true, s.collEvents k false]]

/-! ### Groves, early -/

/-- The event of a gang job (R279 to R281). -/
def State.gangEvent (s : State) (g : Nat) (G : GangJob) : Option Event :=
  firstEv [
    (G.members.find? fun m => s.mayTransfer G m).map fun m => execPlaneTransfer g G.id m.index,
    evIf (!G.closed && G.completed.isNone && decide (G.opened + 65536 ≤ s.clk) && G.onCores) (execGangWindowExpire g G.id),
    evIf (G.over s.clk) (execGangCompletion g G.id)]

/-- The event of a task record. -/
def State.recordEvent (s : State) (g : Nat) (i : Nat) (t : TaskRec) : Option Event :=
  firstEv [
    evIf (t.ages s.tick) (execTaskAging g i),
    evIf (s.spillGoes g i) (execSpillComplete g i),
    evIf (match s.exitingCore g i with | some e => s.exitOver e.1 | none => false) (execExitDrainEnd g i),
    evIf (decide (t.state = .done) && s.committed t.uid) (execRecordFree g i),
    evIf (s.faultedCore g i).isSome (execContainmentComplete g i)]

/-- The event of a tag lease or pool (R178, R179). -/
def State.tagEvent (s : State) (g : Nat) (gr : Grove) : Option Event :=
  firstEv [
    gr.leases.zipIdx.findSome? fun e => evIf ((s.refills g e.2).isSome ||
      (Config.answered (65536 + g) e.2 s.clk && (s.farRefills g e.2).isSome)) (execTagLeaseRefill g e.2),
    gr.leases.zipIdx.findSome? fun e => evIf (!(s.returns g e.1).isEmpty) (execTagLeaseReturn g e.2),
    gr.pools.zipIdx.findSome? fun e => evIf (s.grants g e.1).isSome (execReservedTagGrant g e.2),
    gr.leases.zipIdx.findSome? fun e => evIf (Config.answered (98304 + g) e.2 s.clk && (s.farWaiter g e.2).isSome)
      (execReservedTagGrant g (gr.pools.length + e.2))]

/-- Does something of a grove wait for admission (R312)? -/
def Grove.admitting (gr : Grove) : Bool :=
  gr.pubs.any (fun p => decide (p.sent = 0) || p.retryAt.isSome) || !gr.legs.isEmpty || gr.collSets.any fun e => e.2.active.isSome

/-- The event of a publication that waits (R312, R307). -/
def State.pubEvent (s : State) (g : Nat) (p : PubOp) (k : Nat) : Option Event :=
  if (s.admitNow g k).isNone then none else if p.retryAt.isSome then some (execPubRetry g k) else some (execPubAdmit g k)

/-- The event of a version at its root (R306, R314, R316). -/
def State.versionEvent (s : State) (g : Nat) (gr : Grove) (v : Version) (k : Nat) : Option Event :=
  firstEv [
    evIf (v.decidable.isSome || (!v.vote.isEmpty && (v.resolved || s.voteOver v))) (execTriadVote g k),
    evIf (s.overdue v).isSome (execDeliveryAckTimeout g k),
    evIf (gr.dropsNow v s.tick) (execRetentionExpire g k)]

/-- The event of a trigger slot that is on its way to another module or to be walked for (R41, R407). -/
def State.slotEvent (s : State) (g k : Nat) (t : Slot) : Option Event :=
  if t.state ≠ .active ∨ t.fin.isSome ∨ slKind t.image ≠ 5 then none
  else
    match s.amoPlace g t with
    | none => some (execPageWalk g t.ctx (t.amo.2.2.1.toNat % 2 ^ 48))
    | some (.ok (.remote _ _ _)) =>
      if t.first = 0 then none
      else
        firstEv [
          evIf (decide (t.first + 20000 ≤ s.tick + 1)) (execRemoteRequestExpire (32768 + g) k),
          evIf (decide (t.last + 2000 ≤ s.tick + 1)) (execRemoteRetransmit (32768 + g) k)]
    | _ => none

/-- The early events of one grove. -/
def State.groveEarly (s : State) (e : Nat × Grove) : Option Event :=
  let g := e.1
  let gr := e.2
  firstEv [
    evIf ((List.range 4).any (fun k => (s.core (4 * g + k)).activeMat.isSome) && decide (gr.govWindow ≠ s.clk / 64))
      (execGovernorWindow g),
    gr.gangs.findSome? (s.gangEvent g),
    gr.tasks.findSome? fun x => s.recordEvent g x.1 x.2,
    evIf (s.nextStart g).isSome (execTaskStart g),
    evIf (((s.toStop g).isSome && gr.freeFrame.isSome) || (s.victim g).isSome) (execPreemptStart g),
    s.tagEvent g gr,
    evIf (s.trigStart g).isSome (execTriggerOpStart g),
    gr.slots.findSome? fun x => s.slotEvent g x.1 x.2,
    evIf (gr.admitting && decide (gr.window ≠ s.tick / 4096)) (execAdmitWindowRoll g),
    gr.pubs.zipIdx.findSome? fun x => s.pubEvent g x.1 x.2,
    gr.legs.zipIdx.findSome? fun x => evIf (s.legNow g x.2).isSome (execPubAdmit g (gr.pubs.length + x.2)),
    if gr.subs.any fun x => decide (x.state = .waiting) then s.evMoves (execLandingReserve g) else none,
    gr.versions.zipIdx.findSome? fun x => s.versionEvent g gr x.1 x.2,
    gr.rounds.zipIdx.findSome? fun x => evIf (gr.roundExpired x.1 s.tick) (execRetentionExpire g (gr.versions.length + x.2)),
    if gr.hot && s.hotTarget g then s.evMoves (execHotGroveEvent g (Tbl.getD s.trunk.temps g 0)) else none,
    evIf (s.tooHot g) (execGroveWithdraw g 3),
    if gr.cool.isSome then s.evMoves (execGroveReturn g) else none]

/-! ### The fabric -/

/-- Can its destination take a packet now, the order among packets apart? -/
def State.takeable (s : State) (p : Pkt) (k : Nat) : Bool :=
  match p.kind with
  | .pubChunk _ _ _ _ _ _ _ _ => decide (s.rootNext p.at_ = some k)
  | .sub r => s.subFits p.at_ r
  | .collPart _ _ _ _ _ _ _ _ _ => s.partFirst p.at_ p
  | .collRes _ _ _ _ _ _ _ => false
  | _ => true

/-- Is a packet the next that its destination takes: none that can be taken there goes before it (R311)? -/
def State.takenNext (s : State) (p : Pkt) (k : Nat) : Bool :=
  s.takeable p k &&
  !s.net.zipIdx.any fun e => decide (e.1.at_ = p.at_) && decide (e.1.dst = p.at_) && decide (e.1.time < s.clk) && e.1.sooner p &&
    s.takeable e.1 e.2

/-- What a packet that has come to its destination brings about. -/
def packetTaken (p : Pkt) (k : Nat) : Option Event :=
  match p.kind with
  | .pubChunk _ _ _ _ _ _ _ _ => some (execRootAccept p.at_ k)
  | .sub _ => some (execSubRegister p.at_ k)
  | .unsub _ => some (execSubWithdraw p.at_ k)
  | .deliver _ _ _ _ => some (execChunkLand p.at_ k)
  | .ack _ _ _ => some (execLandingAcknowledgement p.at_ k)
  | .unpin _ _ => some (execVersionUnpin p.at_ k)
  | .commit _ => some (execCommit p.at_ k)
  | .discard _ _ _ => some (execDiscard p.at_ k)
  | .nameq _ _ => some (execNameqQuery p.at_ k)
  | .wbDone _ => some (execWritebackComplete p.at_ k)
  | .migrate _ _ _ _ _ => some (execMigrationArrive k)
  | .request _ _ _ _ _ _ _ _ _ _ => some fun s => .next (s.requestTaken k p)
  | .collPart _ _ _ _ _ _ _ _ _ => some (execCollContribution p.at_ k)
  | .collRes _ _ _ _ _ _ _ => none
  | _ => some (execPacketForward p.at_ k)

/-- The event of a packet: it came in an earlier clock, and is taken, withdrawn or moved (R303, R304, R311). -/
def State.packetEvent (s : State) (p : Pkt) (k : Nat) : Option Event :=
  if s.clk ≤ p.time then none
  else if p.at_ = p.dst then (if s.takenNext p k then packetTaken p k else none)
  else
    evIf (s.outputs p) (match p.kind with
      | .unsub _ => execSubWithdraw p.at_ k
      | _ => execPacketForward p.at_ k)

/-! ### Snapshots -/

/-- The channels by which a node's lanterns leave: the nodes next to it with the channels there. -/
def channelsFrom (f : Nat) : List (Nat × Nat) :=
  let four (h c : Nat) : List (Nat × Nat) := (List.range 4).map fun v => (h, 4 * c + v)
  if f = 0xFFF then (List.range 2592).flatMap fun h => four h 4
  else
    (if 0 < groveY f then four (f - 48) 0 else []) ++ (if 0 < groveX f then four (f - 1) 1 else []) ++
    (if groveY f < 53 then four (f + 48) 2 else []) ++ (if groveX f < 47 then four (f + 1) 3 else []) ++
    (List.range 4).map fun v => (0xFFF, 256 + 4 * f + v)

/-- The events of a running snapshot (R372, R379 to R384). -/
def State.snapEvent (s : State) (sn : Snap) : Option Event :=
  if sn.done.isSome then none
  else firstEv [
    sn.nodes.findSome? fun n => (channelsFrom n.node).findSome? fun e =>
      evIf (s.lanternGoes sn.ctx e.1 e.2) (execLanternArrive sn.ctx e.1 e.2),
    sn.nodes.findSome? fun n => n.pending.head?.map fun p => execChunkWriteout sn.ctx p.1 p.2,
    if s.recorded sn.ctx 0xFFF then (match s.nextWriteout sn.ctx with
      | some va => s.evMoves (execPageWriteout sn.ctx va) | none => none) else none,
    sn.nodes.findSome? fun n => evIf (s.captured sn.ctx n.node) (execCaptureReport sn.ctx n.node)]

/-! ### Rim, contexts and trunk, early -/

/-- The events of a rim field's agents (R403, R404). -/
def State.rimEvent (s : State) (e : Nat × Rim) : Option Event :=
  e.2.ops.zipIdx.findSome? fun o =>
    firstEv [evIf (s.fetchGoes e.1 o.2) (execRimFetch e.1 o.2), evIf (s.writebackGoes e.1 o.2) (execKeepWriteback e.1 o.2)]

/-- The events of a context (R19, R48, R49). -/
def State.ctxEvent (s : State) (e : Nat × Context) : Option Event :=
  firstEv [
    evIf (decide (e.2.state = .launched) && decide (e.2.start ≤ s.tick)) (execLaunchStartTick e.1),
    evIf (e.2.flushing && s.flushIdle e.1) (execFlushComplete e.1),
    evIf (decide (e.2.hold = .holding) && s.holdQuiet e.1) (execForcedFlushMove e.1)]

/-- A QUIESCE that a trunk core's bundle asks for and waits for (R432): the seam and the value. -/
def State.seamAsked (s : State) (k : Nat) : Option (Nat × Word) :=
  let c := s.core k
  if !isTrunkCore k ∨ c.mode ≠ .running ∨ c.latch ≠ .held then none
  else
    let w := (s.imageOf k).code[c.pc.toNat]?.getD 0
    (decodeBundle w).findSome? fun o => match o.op with
      | .ok (.mwr a b p) =>
        let v := c.rs b.toNat
        let off := (c.rs a.toNat).toNat
        let n := (off - 0x20) / 8
        if c.guardOn (.mwr a b p) ∧ s.released k 2 c.ords ∧ off ∈ [0x20, 0x28, 0x30] ∧ v.extractLsb' 0 2 = 1 ∧
            s.trunk.seamAns[n]?.getD none = none then some (n, v) else none
      | _ => none

/-- The events of the trunk. -/
def State.trunkEvent (s : State) : Option Event :=
  let t := s.trunk
  firstEv [
    s.cores.findSome? fun e => match s.seamAsked e.1 with
      | some (n, v) => s.evMoves (execSeamQuiesce n v)
      | none => none,
    (List.range 3).findSome? fun n => match t.seamBusy[n]?.getD none with
      | some (e, dead) => if dead ≤ s.tick then some (execSeamQuiesceTimeout n) else evIf (decide (e / 4 ≤ s.tick)) (execSeamQuiesced n)
      | none => none,
    s.cores.findSome? fun e => evIf (isTrunkCore e.1 && decide (e.2.mode = .exiting) && s.exitOver e.1)
      (execExitDrainEnd 2592 (e.1 - trunkCore0)),
    (List.range 4).findSome? fun p => evIf (t.clearing.getLsbD p) (execHbmClearComplete p),
    t.rollbacks.findSome? fun e => evIf (s.rollbackReady e.2.1 && Config.answered (196608 + e.2.1) e.2.2.1 s.clk) (execRollback e.1 e.2.2.2),
    (match t.parting with
     | some p => evIf s.partitionGoes.isSome (if parts0 p.cmd then execPartitionMerge p.qp p.cmd [] else execPartitionSplit p.qp p.cmd [])
     | none => none),
    evIf (t.notifyQp.isSome && !t.tiles.isEmpty) (execFaultNotify 0),
    evIf (t.tokenLost && decide (t.tokenZero + 1000 ≤ s.tick)) execTokenRegenerate,
    evIf (!t.tokenLost && s.rimReady t.token && decide (t.tokenAt ≤ s.clk)) (execTokenVisit t.token),
    (List.range 24).findSome? fun k => evIf (s.scrubDue k) (execScrubStep k),
    s.slices.findSome? fun e => e.2.dups.zipIdx.findSome? fun d => evIf (decide (d.1.made + 40000 ≤ s.tick)) (execDupEntryRetire e.1 d.2),
    evIf (!t.started && !t.minimal && !t.failed && decide (60000000000 ≤ (s.clk - t.startedAt) * 5 / 9)) execStartTimeout]

/-- The first event of a running snapshot: it goes before the issue of bundles (R163). -/
def snapFirst (s : State) : Option Event := s.snaps.findSome? s.snapEvent

/-- The first event of the early phase, in a fixed order (log entry 11): held bundles are tried again before a fired job enters (R23). -/
def earlyEvent (s : State) : Option Event :=
  firstEv [
    (s.cores.find? fun e => s.heldNow e.1).map fun e => execStalledBundleIssue e.1,
    s.contexts.findSome? s.ctxEvent,
    s.net.zipIdx.findSome? fun e => s.packetEvent e.1 e.2,
    s.groves.findSome? s.groveEarly,
    s.rims.findSome? s.rimEvent,
    s.trunkEvent,
    s.cores.findSome? fun e => s.coreEarly e.1]

/-! ### The late phase -/

/-- The late events of one core. -/
def State.coreLate (s : State) (k : Nat) : Option Event :=
  let c := s.core k
  firstEv [
    evIf (s.xNext k).isSome (execXOpAccept k),
    evIf (s.landDueNow k) (execExposedResultLand k),
    (c.board.find? (s.entryDone k)).map fun e => execScoreboardEntryRelease k e.id,
    (match c.activeVec with
     | some j => evIf (match j.accept with | some e => decide (e + 4 ≤ s.clk) | none => false) (execVectorJobComplete k)
     | none => none),
    (match c.endingMat with
     | some j => evIf (match j.accept with | some e => decide (e + 4 ≤ s.clk) | none => false) (execMatrixJobComplete k)
     | none => none),
    evIf (s.loadEnds k) (execPlaneLoaded k),
    c.jobs.findSome? fun j => (match j.kind with
      | .copy _ _ _ _ _ _ => evIf j.copyOver (execCopyFinish k j.id)
      | _ => none)]

/-- The barriers of a grove that have something to do. -/
def Grove.actingBar (gr : Grove) (clk : Nat) : Option Nat :=
  ((gr.arrivals.map fun (a : Arrival) => a.ctx * 16 + a.bar) ++ gr.bars.map (·.1)).find? fun b => gr.barrierActs b clk

/-- Can an active slot's operation complete, or its AMO be sent, performed or answered? -/
def State.slotEnds (s : State) (g k : Nat) (t : Slot) : Bool :=
  s.slotGoes g k && ((s.slotRemote g k).isNone || Config.answered (32768 + g) k s.clk || t.fin.isSome)

/-- The late events of one grove. -/
def State.groveLate (s : State) (e : Nat × Grove) : Option Event :=
  firstEv [
    (e.2.gangs.find? fun G => match G.completed with | some t => decide (t + 4 ≤ s.clk) | none => false).map
      fun G => execGangArrivalCount e.1 G.id,
    (e.2.actingBar s.clk).map (execBarrierArrival e.1),
    (e.2.slots.find? fun x => s.slotEnds e.1 x.1 x.2).map fun x => execTriggerOpComplete e.1 x.1]

/-- A counter that has something to do. -/
def Grove.dueCounter (gr : Grove) : Option Nat :=
  (gr.counters.map (·.1) ++ gr.slots.map fun (x : Nat × Slot) => slCtr x.2.image).find? gr.counterDue

/-- The first event of the late phase; faults are taken, and counters count, when the rest is done. -/
def lateEvent (s : State) : Option Event :=
  firstEv [
    s.cores.findSome? fun e => s.coreLate e.1,
    s.groves.findSome? s.groveLate,
    (s.cores.find? fun e => s.impreciseNow e.1).map fun e => execImpreciseFault e.1,
    s.groves.findSome? fun e => (e.2.dueCounter).map (execCounterEvent e.1)]

/-- The early phase ends with what the matrix and copy engines do in the clock (R249, R264, R270, R275). -/
def State.midClock (s : State) : State := { s.matrixClock.copyClock with late := true }

/-- The snapshot buffers whose bytes have been written out are empty again (R373; log entry 14). -/
def State.drainBuffers (s : State) : State :=
  { s with snaps := s.snaps.map fun sn => sn.mapNodes fun n =>
      if n.buf ≠ 0 ∧ Config.answered (131072 + n.node) sn.id s.clk then { n with buf := 0 } else n }

/-- One clock passes (R5). -/
def State.tickClock (s : State) : State :=
  let s := { s.drainBuffers with clk := s.clk + 1, late := false }
  s.watchStarts ((s.clk * 5 / 9) - ((s.clk - 1) * 5 / 9))

end Sys2Proof.Machine
end

