-- ==== Sys2Proof/Machine/Step.lean ====
section
/-!
DEFINITION. One step of the module (log entry 4): a message of another member or an outside input whose time has come, else the bundle
of a core whose turn it is, an event of a running snapshot, the bundle of a core that is due, else an event of the machine, else the
clock goes on. And the placing of one instruction where the next step fetches it.
-/

namespace Sys2Proof.Machine

/-- What the module does of itself in the early phase of a clock. -/
def stepEarly (s : State) : Host.Outcome State Fault Refusal :=
  match snapFirst s with
  | some e => e s
  | none =>
    match s.dueCore with
    | some k => issueBundle s k
    | none =>
      match earlyEvent s with
      | some e => e s
      | none => .next s.midClock

/-- What the module does of itself in the late phase of a clock. -/
def stepLate (s : State) : Host.Outcome State Fault Refusal :=
  match lateEvent s with
  | some e => e s
  | none => .next s.tickClock

/-- The message of another member that comes next: its clock has come. -/
def State.nextMessage (s : State) : Option Inbound := s.inbox.find? fun m => decide (m.clk ≤ s.clk)

/-- One step of the module. -/
def step (s : State) : Host.Outcome State Fault Refusal :=
  match s.nextMessage with
  | some m => .next (({ s with inbox := s.inbox.erase m }).arrive m)
  | none =>
    match s.nextInput with
    | some e => exec e.2 { s with agenda := s.agenda.erase e }
    | none =>
      match s.turn with
      | some k => issueBundle s k
      | none => if s.late then stepLate s else stepEarly s

/-- Stores a slot word, in the slot in which it decodes, as the bundle that core 0 issues next; core 0 runs a task of the
context that its KCTX names, at bundle address 0, and its turn has come (log entries 3 and 5). -/
def State.withFetchWord (s : State) (nbits w : Nat) : State :=
  let word := BitVec.ofNat 32 (if nbits ≤ 32 then w else 0)
  let sl := match slotOfWord word with | some e => e.1 | none => .c
  let c := { s.core 0 with mode := .running, pc := 0, branch := none, delay := false, split := [], latch := .none }
  let s := { s with agenda := [], inbox := [], turn := some 0 }.setCore 0 c
  s.updCtx c.ctxNo fun x => { x with image := { x.image with code := encodeBundle sl word none :: x.image.code.drop 1 } }

end Sys2Proof.Machine
end

