-- ==== Sys2Proof/Safety.lean ====
section
/-!
DEFINITION. The terms in which claims about the machine are made: when a slot operation may take effect, what an operation of the
issuing core may change, when a result can be read, and the invariants of a state.
-/

namespace Sys2Proof.Machine

/-- The issuing core. -/
abbrev State.me (s : State) : Core := s.core s.cur

/-- Nothing stops or holds a slot operation at issue on the issuing core: no check raises ILLEGAL (R75, R134, R143, R150, R320) and no
register that it names has a write pending from an earlier bundle (R84, R85). -/
def State.clear (s : State) (i : Sys2Proof.Instr) : Bool :=
  (s.issueTrap s.me i).isNone && (s.valueTrap s.me i).isNone && (s.me.interlock s.clk (Instr.uses i)).isNone

/-- A slot operation takes effect: nothing stops or holds it, and lane 0 of its guard is set (R70). -/
def State.opens (s : State) (i : Sys2Proof.Instr) : Bool := s.clear i && s.me.guardOn i

/-- An architectural register as its number, s0 and p0 reading as constants (R81). -/
def Core.readReg (c : Core) (r : Reg) : Nat :=
  match r.file with
  | .s => (c.rs r.num).toNat
  | .a => (c.ra r.num).toNat
  | .p => (c.rp r.num).toNat
  | .v => (c.rv r.num).toNat
  | .h => (c.rh r.num).toNat
  | .n => (c.rn r.num).toNat
  | _ => 0

/-- The value that a register holds after a write (R81): s0 and p0 discard it, an h register keeps its defined bits, every other
register keeps the bits of its width. -/
def regHolds (r : Reg) (v : Nat) : Nat :=
  match r.file with
  | .s => if r.num = 0 then 0 else v % 2 ^ 64
  | .a => v % 2 ^ 64
  | .p => if r.num = 0 then 0xFFFFFFFF else v % 2 ^ 32
  | .v => (BitVec.ofNat 1024 v).toNat
  | .h => (BitVec.ofNat 64 v &&& hMask).toNat
  | .n => v % 2 ^ 32
  | _ => 0

/-- Every part of two states but the cores is the same. -/
def State.sameButCores (s t : State) : Prop := t = { s with cores := t.cores }

/-- Every core but one is the same. -/
def State.sameOtherCores (s t : State) (k : Nat) : Prop := ∀ j, j ≠ k → t.core j = s.core j

/-- The architectural registers of a core: register files, loop nest, strides and K-registers. -/
def Core.sameArch (c d : Core) : Prop :=
  d.s = c.s ∧ d.a = c.a ∧ d.p = c.p ∧ d.v = c.v ∧ d.h = c.h ∧ d.n = c.n ∧ d.loops = c.loops ∧ d.strides = c.strides ∧
  d.kstat = c.kstat ∧ d.ktrap = c.ktrap ∧ d.kepc = c.kepc ∧ d.ktval = c.ktval ∧ d.kctx = c.kctx ∧ d.kpwin = c.kpwin ∧
  d.kbank = c.kbank ∧ d.kptroot = c.kptroot ∧ d.kwid = c.kwid ∧ d.kfpx = c.kfpx ∧ d.ktvec = c.ktvec ∧ d.kscr = c.kscr ∧
  d.kmjob = c.kmjob

/-- Every byte of memory reads the same, correction and poison included (R51), but those from `lo`, `len` of them. Addresses are
the keys under which memory holds the bytes of the module; those from 2^60 up hold check syndromes. -/
def State.sameMemoryBut (s t : State) (lo len : Nat) : Prop :=
  ∀ a, a < 2 ^ 60 → (a < lo ∨ lo + len ≤ a) → readByte? t.mem a = readByte? s.mem a

/-- Every byte of memory reads the same, correction and poison included (R51). -/
def State.sameMemory (s t : State) : Prop := ∀ a, a < 2 ^ 60 → readByte? t.mem a = readByte? s.mem a

/-- Every earlier access of the issuing core that a scope covers is performed and every earlier publication that it covers accepted
(R55, R64, R147): the queue requests, the scoreboard entries on banks 6 and 7 but for those of collectives (R366), and the
publications. -/
def State.fenceMet (s : State) (scope bound : Nat) : Prop :=
  (∀ l ∈ s.me.queues.toList, ∀ e ∈ l, e.ord < bound → s.scopeOf s.cur e.addr ≤ scope → e.state = .done ∨ e.state = .failed) ∧
  (∀ e ∈ s.me.board, e.ord < bound → e.lo ≤ e.hi → s.me.ofColl e = false → e.hi < 0x48000 / 512) ∧
  s.pubsOpen s.cur scope bound = false

/-- A state reached by steps from another. -/
inductive Reaches : State → State → Prop where
  | refl (s : State) : Reaches s s
  | step {s t u : State} (h : Reaches s t) (n : step t = .next u) : Reaches s u

/-- The memory of a state is in canonical form: addresses strictly rising, no byte listed at its reset value. -/
def State.memoryCanonical (s : State) : Prop := Memory.wf s.mem = true

end Sys2Proof.Machine
end

