-- ==== Sys2Proof/Certificates/Slice0/Obligations.lean ====
section
/-!
DEFINITION. The statements about the model, for the provers: each formalises rules of the spec, which its docstring names.
-/

open Sys2Proof Sys2Proof.Machine

/-- R122: When nothing stops or holds it and its guard is set, each of add, isub, and, or, xor, andn, shl, shr, sar, min, max,
minu and maxu answers the state in which the write of its result to s[D], computed from s[A] and s[B] as R122 says, has been
issued with latency 1, and nothing else has changed. -/
def Obligations.ScalarArithmeticResults : Prop :=
  ∀ (s : State) (d a b : BitVec 7) (p : BitVec 3),
    let x := s.me.rs a.toNat
    let y := s.me.rs b.toNat
    let gives (i : Sys2Proof.Instr) (v : Nat) : Prop := s.opens i = true → exec i s = .next (s.writeReg 1 (sReg d) v 0)
    gives (.add d a b p) ((x.toNat + y.toNat) % 2 ^ 64) ∧
    gives (.isub d a b p) ((x.toNat + (2 ^ 64 - y.toNat)) % 2 ^ 64) ∧
    gives (.and d a b p) (x &&& y).toNat ∧
    gives (.or d a b p) (x ||| y).toNat ∧
    gives (.xor d a b p) (x ^^^ y).toNat ∧
    gives (.andn d a b p) (x &&& ~~~y).toNat ∧
    gives (.shl d a b p) (x.toNat * 2 ^ (y.toNat % 64) % 2 ^ 64) ∧
    gives (.shr d a b p) (x.toNat / 2 ^ (y.toNat % 64)) ∧
    gives (.sar d a b p) (BitVec.ofInt 64 (x.toInt / 2 ^ (y.toNat % 64))).toNat ∧
    gives (.min d a b p) (if x.toInt ≤ y.toInt then x else y).toNat ∧
    gives (.max d a b p) (if y.toInt ≤ x.toInt then x else y).toNat ∧
    gives (.minu d a b p) (if x.toNat ≤ y.toNat then x.toNat else y.toNat) ∧
    gives (.maxu d a b p) (if y.toNat ≤ x.toNat then x.toNat else y.toNat)

/-- R123, R124: When it takes effect, each bit count writes the number of set bits, or the number of zero bits above or below
the highest or lowest set bit with 64 for zero, with latency 1; mul, mulh and mulhu write the low or high half of the exact
product with latency 3; div, divu, rem and remu write the truncated quotient and the remainder with latency 18, a zero
divisor giving all ones and s[A], and -2^63 by -1 giving -2^63 and 0. -/
def Obligations.CountsMultiplyDivideResults : Prop :=
  ∀ (s : State) (d a b : BitVec 7) (p : BitVec 3),
    let x := s.me.rs a.toNat
    let y := s.me.rs b.toNat
    let gives (i : Sys2Proof.Instr) (lat : Nat) (v : Word) : Prop :=
      s.opens i = true → exec i s = .next (s.writeReg lat (sReg d) v.toNat 0)
    gives (.bcntPop d a p) 1 (BitVec.ofNat 64 ((List.range 64).filter x.getLsbD).length) ∧
    (∀ n, n ≤ 64 → (∀ k, 64 - n ≤ k → x.getLsbD k = false) → (n < 64 → x.getLsbD (63 - n) = true) →
      gives (.bcntLz d a p) 1 (BitVec.ofNat 64 n)) ∧
    (∀ n, n ≤ 64 → (∀ k, k < n → x.getLsbD k = false) → (n < 64 → x.getLsbD n = true) →
      gives (.bcntTz d a p) 1 (BitVec.ofNat 64 n)) ∧
    gives (.mul d a b p) 3 (BitVec.ofNat 64 (x.toNat * y.toNat)) ∧
    gives (.mulh d a b p) 3 (BitVec.ofInt 64 (x.toInt * y.toInt / 2 ^ 64)) ∧
    gives (.mulhu d a b p) 3 (BitVec.ofNat 64 (x.toNat * y.toNat / 2 ^ 64)) ∧
    gives (.div d a b p) 18 (if y = 0 then BitVec.allOnes 64 else BitVec.ofInt 64 (x.toInt.tdiv y.toInt)) ∧
    gives (.divu d a b p) 18 (if y = 0 then BitVec.allOnes 64 else BitVec.ofNat 64 (x.toNat / y.toNat)) ∧
    gives (.rem d a b p) 18 (if y = 0 then x else BitVec.ofInt 64 (x.toInt.tmod y.toInt)) ∧
    gives (.remu d a b p) 18 (if y = 0 then x else BitVec.ofNat 64 (x.toNat % y.toNat)) ∧
    (x = BitVec.intMin 64 → y = BitVec.allOnes 64 →
      gives (.div d a b p) 18 (BitVec.intMin 64) ∧ gives (.rem d a b p) 18 0)

/-- R125, R126, R127, R128, R129: When it takes effect, each immediate form combines s[A] with its sign-extended immediate or
shifts by its count, li and lsh build constants, cmp and cmpp write 1 or 0 and all ones or all zeros by their condition, sel
picks by bit 0 of its predicate, and adda and the four mova forms write the a or s register, each with latency 1. -/
def Obligations.ImmediatesComparesAndMovesResults : Prop :=
  (∀ (s : State) (d a : BitVec 5) (p : BitVec 3) (imm : BitVec 19) (n : BitVec 12) (k : BitVec 20),
    let x := s.me.rs a.toNat
    let gives (i : Sys2Proof.Instr) (v : Word) : Prop := s.opens i = true → exec i s = .next (s.writeReg 1 (sReg5 d) v.toNat 0)
    gives (.addi d a p imm) (x + imm.signExtend 64) ∧
    gives (.andi d a p imm) (x &&& imm.signExtend 64) ∧
    gives (.ori d a p imm) (x ||| imm.signExtend 64) ∧
    gives (.xori d a p imm) (x ^^^ imm.signExtend 64) ∧
    gives (.shli d a p n) (BitVec.ofNat 64 (x.toNat * 2 ^ n.toNat)) ∧
    gives (.shri d a p n) (BitVec.ofNat 64 (x.toNat / 2 ^ n.toNat)) ∧
    gives (.sari d a p n) (BitVec.ofInt 64 (x.toInt / 2 ^ n.toNat)) ∧
    gives (.li d k) (k.signExtend 64) ∧
    gives (.lsh d k) (BitVec.ofNat 64 ((s.me.rs d.toNat).toNat * 2 ^ 20 + k.toNat))) ∧
  (∀ (s : State) (d a b : BitVec 7) (p q : BitVec 3) (cc : BitVec 7),
    let x := s.me.rs a.toNat
    let y := s.me.rs b.toNat
    let holds : Prop := (cc = 0 ∧ x = y) ∨ (cc = 1 ∧ x ≠ y) ∨ (cc = 2 ∧ x.toInt < y.toInt) ∨ (cc = 3 ∧ y.toInt ≤ x.toInt) ∨
      (cc = 4 ∧ x.toNat < y.toNat) ∨ (cc = 5 ∧ y.toNat ≤ x.toNat)
    let gives (i : Sys2Proof.Instr) (r : Reg) (v : Nat) : Prop := s.opens i = true → exec i s = .next (s.writeReg 1 r v 0)
    (holds → gives (.cmp d a b p cc) (sReg d) 1) ∧ (¬ holds → gives (.cmp d a b p cc) (sReg d) 0) ∧
    (holds → gives (.cmpp d a b p cc) (pReg d) 0xFFFFFFFF) ∧ (¬ holds → gives (.cmpp d a b p cc) (pReg d) 0) ∧
    gives (.sel d a b p q) (sReg d) (if (s.me.rp q.toNat).getLsbD 0 then x else y).toNat ∧
    gives (.adda d a b p) (aReg d) (s.me.ra a.toNat + y).toNat ∧
    gives (.movaAS d a p) (aReg d) x.toNat ∧
    gives (.movaSA d a p) (sReg d) (s.me.ra a.toNat).toNat ∧
    gives (.movaAA d a p) (aReg d) (s.me.ra a.toNat).toNat ∧
    gives (.movaSN d a p) (sReg d) (s.me.rn a.toNat).toNat)

/-- R130, R131, R132, R136: When it takes effect, br and brp take their relative target exactly when their condition holds, brv
branches on a uniform predicate and traps NONUNIFORM otherwise, jmp, jr and ret take their target, call and jr.link also
write the address after the delay bundle, and jr, jr.link and ret with a clear guard are not taken and write no link; a
branch, taken or not, makes the next bundle its delay bundle; loop arms its level, or stands at the end of the body when the
count is zero, and lstr writes one stride. -/
def Obligations.BranchesAndLoops : Prop :=
  (∀ (s : State) (a : BitVec 5) (c : BitVec 3) (off : BitVec 13),
    let t : BitVec 12 := BitVec.ofInt 12 ((s.me.pc.toNat : Int) + off.toInt)
    let taken (s : State) (t : BitVec 12) : State := s.updCore s.cur fun k => { k with branch := some t, delay := true }
    let passed : State := s.updCore s.cur fun k => { k with branch := none, delay := true }
    let x := s.me.rs a.toNat
    let q := s.me.rp a.toNat
    let on : Prop := (c = 0 ∧ x.toInt = 0) ∨ (c = 1 ∧ x.toInt ≠ 0) ∨ (c = 2 ∧ x.toInt < 0) ∨ (c = 3 ∧ 0 ≤ x.toInt) ∨
      (c = 4 ∧ 0 < x.toInt) ∨ (c = 5 ∧ x.toInt ≤ 0)
    let onp : Prop := (c = 0 ∧ q.getLsbD 0) ∨ (c = 1 ∧ ¬ q.getLsbD 0) ∨ (c = 2 ∧ ∃ j, q.getLsbD j) ∨ (c = 3 ∧ ∀ j, ¬ q.getLsbD j) ∨
      (c = 4 ∧ ∀ j, j < 32 → q.getLsbD j) ∨ (c = 5 ∧ ∃ j, j < 32 ∧ ¬ q.getLsbD j)
    let active := s.me.rp c.toNat
    (s.opens (.br a c off) = true → on → exec (.br a c off) s = .next (taken s t)) ∧
    (s.opens (.br a c off) = true → ¬ on → exec (.br a c off) s = .next passed) ∧
    (s.opens (.brp a c off) = true → onp → exec (.brp a c off) s = .next (taken s t)) ∧
    (s.opens (.brp a c off) = true → ¬ onp → exec (.brp a c off) s = .next passed) ∧
    (s.opens (.brv a c off) = true → active ≠ 0 → q &&& active = active → exec (.brv a c off) s = .next (taken s t)) ∧
    (s.opens (.brv a c off) = true → q &&& active = 0 → exec (.brv a c off) s = .next passed) ∧
    (s.opens (.brv a c off) = true → q &&& active ≠ 0 → q &&& active ≠ active →
      exec (.brv a c off) s = .next (s.takeTrap { Trap.of .nonuniform with reg := some ⟨.p, a.toNat⟩ }))) ∧
  (∀ (s : State) (d a : BitVec 7) (e : BitVec 5) (p : BitVec 3) (t : BitVec 12),
    let taken (s : State) (t : BitVec 12) : State := s.updCore s.cur fun k => { k with branch := some t, delay := true }
    let link : Nat := (s.me.pc.toNat + 2) % 4096
    let target : BitVec 12 := (s.me.rs a.toNat).extractLsb' 0 12
    (s.opens (.jmp t) = true → exec (.jmp t) s = .next (taken s t)) ∧
    (s.opens (.call e t) = true → exec (.call e t) s = .next (taken (s.writeReg 1 (sReg5 e) link 0) t)) ∧
    (s.opens (.jr a p) = true → exec (.jr a p) s = .next (taken s target)) ∧
    (s.opens (.jrLink d a p) = true → exec (.jrLink d a p) s = .next (taken (s.writeReg 1 (sReg d) link 0) target)) ∧
    (s.opens (.ret a p) = true → exec (.ret a p) s = .next (taken s target)) ∧
    (∀ i, i = Sys2Proof.Instr.jr a p ∨ i = Sys2Proof.Instr.jrLink d a p ∨ i = Sys2Proof.Instr.ret a p →
      s.clear i = true → s.me.guardOn i = false →
      exec i s = .next (s.updCore s.cur fun k => { k with branch := none, delay := true }))) ∧
  (∀ (s : State) (d a : BitVec 5) (p : BitVec 3) (imm : BitVec 12),
    let n : BitVec 32 := (s.me.rs a.toNat).extractLsb' 0 32
    s.opens (.loop d a p imm) = true → ∃ t, exec (.loop d a p imm) s = .next t ∧ s.sameButCores t ∧ s.sameOtherCores t s.cur ∧
      t.me.n[d.toNat]? = some 0 ∧
      t.me.loops[d.toNat]? = some ⟨decide (n ≠ 0), s.me.pc + 1, s.me.pc + imm, n⟩ ∧
      t.me.pc = (if n = 0 then s.me.pc + imm else s.me.pc)) ∧
  (∀ (s : State) (d b : BitVec 7) (p l : BitVec 3), s.opens (.lstr d b p l) = true →
    ∃ t, exec (.lstr d b p l) s = .next t ∧ s.sameButCores t ∧ s.sameOtherCores t s.cur ∧
      t.me.strides[l.toNat * 16 + d.toNat]? = some (s.me.rs b.toNat) ∧
      ∀ k, k ≠ l.toNat * 16 + d.toNat → t.me.strides[k]? = s.me.strides[k]?)

/-- R149, R150, R155, R156, R157, R31, R428, R429: When its guard is set and nothing stops or holds it, each of trap, krd, kwr,
mrd, mwr, eret and ldpw answers a next state: trap takes SWTRAP with its code; krd issues the write of the K-register of the
issue clock with latency 2; kwr enters its write, but one of KBANK with a scoreboard entry on a bank whose format or flush
bit changes holds the bundle, and under KSTAT.dbg traps SCOREFULL; mrd and mwr hold the bundle while a fence.k would, and
otherwise at an address that names no register trap XLATE RANGE, but for mwr at an aligned offset of the module block that
R429 does not list, which traps BUSY; mrd issues the write of the register's value with latency 1; mwr does the register's
write, which sets the low 24 bits of TK_THERM, changes nothing at TK_ID, traps BUSY where the register refuses it, and holds
the bundle until a SEAMCTL answers; eret restores sup from psup, clears inh and makes the bundle at KEPC.PC next, as delay
bundle of a branch to KEPC.TGT when DLY is set; ldpw traps PWUNBOUND without a bound window and ALIGN off an 8-byte offset,
and else issues the write of the window's eight bytes with latency 4, setting pwb when one lies past SIZE; byte j of the
word at offset o is byte o + j of the window when o + j lies below KPWIN.SIZE, and zero otherwise. -/
def Obligations.SystemOperations : Prop :=
  (∀ (s : State) (p : BitVec 3) (code : BitVec 12), s.opens (.trap p code) = true →
    exec (.trap p code) s = .next (s.takeTrap { Trap.of .swtrap with code := code.toNat })) ∧
  (∀ (s : State) (d : BitVec 5) (p : BitVec 3) (k : BitVec 12), s.opens (.krd d p k) = true →
    exec (.krd d p k) s = .next (s.writeReg 2 (sReg5 d) (s.me.getK k.toNat s.tick).toNat 0)) ∧
  (∀ (s : State) (a : BitVec 5) (p : BitVec 3) (k : BitVec 12), s.opens (.kwr a p k) = true →
    let v := s.me.rs a.toNat
    let waits : Prop := k = 6 ∧ ∃ n < 8, (bankCode s.me.kbank n ≠ bankCode v n ∨ bankFtz s.me.kbank n ≠ bankFtz v n) ∧
      ∃ e ∈ s.me.board, e.lo ≤ e.hi ∧ e.lo ≤ 96 * n + 95 ∧ 96 * n ≤ e.hi
    (¬ waits → exec (.kwr a p k) s = .next (s.updCore s.cur fun x => { x with kpend := x.kpend ++ [(k.toNat, v)] })) ∧
    (waits → s.me.dbg = false → exec (.kwr a p k) s = .next (s.updCore s.cur fun c => { c with latch := .held })) ∧
    (waits → s.me.dbg = true → exec (.kwr a p k) s = .next (s.takeTrap (.of .scorefull)))) ∧
  (∀ (s : State) (d a : BitVec 7) (p : BitVec 3), s.opens (.mrd d a p) = true →
    let x := s.me.rs a.toNat
    (¬ s.fenceMet 2 s.me.ords → exec (.mrd d a p) s = .next (s.updCore s.cur fun c => { c with latch := .held })) ∧
    (s.fenceMet 2 s.me.ords → s.mgmtRead x.toNat = none → exec (.mrd d a p) s = .next (s.takeTrap (.xlate xcRange x))) ∧
    (∀ v, s.fenceMet 2 s.me.ords → s.mgmtRead x.toNat = some v → exec (.mrd d a p) s = .next (s.writeReg 1 (sReg d) v 0))) ∧
  (∀ (s : State) (a b : BitVec 7) (p : BitVec 3), s.opens (.mwr a b p) = true →
    let x := s.me.rs a.toNat
    let y := s.me.rs b.toNat
    (¬ s.fenceMet 2 s.me.ords → exec (.mwr a b p) s = .next (s.updCore s.cur fun c => { c with latch := .held })) ∧
    (s.fenceMet 2 s.me.ords →
      (s.mgmtRead x.toNat = none → (x.toNat % 8 ≠ 0 ∨ 0x100000 ≤ x.toNat) → exec (.mwr a b p) s = .next (s.takeTrap (.xlate xcRange x))) ∧
      (s.mgmtRead x.toNat = none → x.toNat % 8 = 0 → x.toNat < 0x100000 → exec (.mwr a b p) s = .next (s.takeTrap (.at_ .busy x))) ∧
      (s.mgmtRead x.toNat ≠ none → x = 0x90 →
        exec (.mwr a b p) s = .next (s.updTrunk fun t => { t with therm := y &&& 0xFFFFFF })) ∧
      (s.mgmtRead x.toNat ≠ none → x = 0 → exec (.mwr a b p) s = .next s) ∧
      (∀ t, s.mgmtWrite x.toNat y = .done t → exec (.mwr a b p) s = .next t) ∧
      (s.mgmtWrite x.toNat y = .busy → exec (.mwr a b p) s = .next (s.takeTrap (.at_ .busy x))) ∧
      (s.mgmtWrite x.toNat y = .waits → exec (.mwr a b p) s = .next (s.updCore s.cur fun c => { c with latch := .held })))) ∧
  (∀ (s : State), s.opens .eret = true → ∃ t, exec .eret s = .next t ∧ s.sameButCores t ∧ s.sameOtherCores t s.cur ∧
    t.me.sup = s.me.psup ∧ t.me.inh = false ∧ t.me.pc = s.me.kepc.extractLsb' 0 12 ∧
    t.me.delay = s.me.kepc.getLsbD 28 ∧
    t.me.branch = (if s.me.kepc.getLsbD 28 then some (s.me.kepc.extractLsb' 16 12) else none)) ∧
  (∀ (s : State) (d a : BitVec 5) (p : BitVec 3) (imm : BitVec 12), s.opens (.ldpw d a p imm) = true →
    let o := s.me.rs a.toNat + imm.signExtend 64
    (s.me.kpwin.getLsbD 16 = false → exec (.ldpw d a p imm) s = .next (s.takeTrap (.at_ .pwunbound o))) ∧
    (s.me.kpwin.getLsbD 16 = true → o.toNat % 8 ≠ 0 → exec (.ldpw d a p imm) s = .next (s.takeTrap (.at_ .align o))) ∧
    (s.me.kpwin.getLsbD 16 = true → o.toNat % 8 = 0 → o.toNat + 8 ≤ s.me.kpwin.toNat % 2 ^ 13 →
      exec (.ldpw d a p imm) s = .next (s.writeReg 4 (sReg5 d) (s.me.paramWord o.toNat).toNat 0)) ∧
    (s.me.kpwin.getLsbD 16 = true → o.toNat % 8 = 0 → s.me.kpwin.toNat % 2 ^ 13 < o.toNat + 8 →
      exec (.ldpw d a p imm) s = .next ((s.writeReg 4 (sReg5 d) (s.me.paramWord o.toNat).toNat 0).updCore s.cur
        fun c => { c with kstat := setBit c.kstat 4 true }))) ∧
  (∀ (c : Core) (o j : Nat), j < 8 →
    (c.paramWord o).extractLsb' (8 * j) 8 = if o + j < c.kpwin.toNat % 2 ^ 13 then c.window.getD (o + j) 0 else 0)

/-- R100, R103, R104, R109, R110, R111, R200, R201: For each of the nine float formats and every finite nonzero exact value x =
(-1)^neg m 2^e, all values counted in a unit 2^z that divides them: where the conversion raises no OF, its pattern has the
sign of x and a finite value y, NX is set exactly when y differs from x, and no pattern has a value nearer to x under RNE,
which on a tie between two gives an even pattern; one of greater magnitude up to that of x under RTZ; a greater one up to x
under RDN; a smaller one from x up under RUP. OF is raised only where every value of the format is smaller than x in
magnitude; the result is then the largest value with SX under SAT and in the formats without specials, a NaN in E4M3, and
elsewhere an infinity or the largest value by mode and sign. An element addition, subtraction, multiplication or multiply-
add of finite elements is the conversion of the exact result. -/
def Obligations.FloatResultsRoundOnce : Prop :=
  let units (neg : Bool) (m : Nat) (e z : Int) : Int := (if neg then -1 else 1) * (m * 2 ^ (e - z).toNat : Nat)
  (∀ (f : Fmt) (ff : FloatFmt) (rm : Rm) (sat neg : Bool) (m : Nat) (e z : Int), f.float? = some ff → 0 < m → z ≤ e → z ≤ ff.emin →
    let x := units neg m e z
    let val (b : Nat) : Option Int := match ff.decode b with
      | .fin s k q => some (units s k q z)
      | _ => none
    let r := ff.encode rm sat (.fin neg m e)
    (r.2.getLsbD 1 = false → ∃ y, val r.1 = some y ∧ r.1.testBit (f.width - 1) = neg ∧ (r.2.getLsbD 3 = true ↔ y ≠ x) ∧
      ∀ b w, val b = some w →
        (rm = .rne → (x - y).natAbs ≤ (x - w).natAbs ∧ (w ≠ y → (x - y).natAbs = (x - w).natAbs → r.1 % 2 = 0)) ∧
        (rm = .rtz → y.natAbs ≤ x.natAbs ∧ (w.natAbs ≤ x.natAbs → w.natAbs ≤ y.natAbs)) ∧
        (rm = .rdn → y ≤ x ∧ (w ≤ x → w ≤ y)) ∧ (rm = .rup → x ≤ y ∧ (x ≤ w → y ≤ w))) ∧
    (r.2.getLsbD 1 = true → r.2.getLsbD 3 = true ∧ r.1.testBit (f.width - 1) = neg ∧ (∀ b w, val b = some w → w.natAbs < x.natAbs) ∧
      let largest : Prop := ∃ y, val r.1 = some y ∧ ∀ b w, val b = some w → w.natAbs ≤ y.natAbs
      let away : Prop := rm = .rne ∨ (rm = .rdn ∧ neg = true) ∨ (rm = .rup ∧ neg = false)
      (sat = true ∨ f = .e2m3 ∨ f = .e3m2 ∨ f = .e2m1 → largest ∧ r.2.getLsbD 4 = true) ∧
      (sat = false → f = .e4m3 → ff.decode r.1 = .nan false ∧ r.2.getLsbD 4 = false) ∧
      (sat = false → f ∈ [Fmt.f64, .f32, .bf16, .f16, .e5m2] → (away → ff.decode r.1 = .inf neg) ∧ (¬ away → largest) ∧
        r.2.getLsbD 4 = false))) ∧
  (∀ (f : Fmt) (ff : FloatFmt) (rm : Rm) (sat neg sd sa sb : Bool) (d a b md ma mb : Nat) (ed ea eb : Int) (op : VOp), f.float? = some ff →
    ff.decode d = .fin sd md ed → ff.decode a = .fin sa ma ea → ff.decode b = .fin sb mb eb → op ≠ .min → op ≠ .max →
    ∃ s n e, op.apply f rm sat neg d a b = ff.encode rm sat (.fin s n e) ∧
      ∀ z, z ≤ e → z ≤ ed → z ≤ ea → z ≤ eb → z ≤ ea + eb → units s n e z = match op with
        | .add => units sa ma ea z + units sb mb eb z
        | .sub => units sa ma ea z - units sb mb eb z
        | .mul => units (sa != sb) (ma * mb) (ea + eb) z
        | _ => units sd md ed z + (if neg then -1 else 1) * units (sa != sb) (ma * mb) (ea + eb) z)

/-- R162: A trap in supervisor mode with inh = 0 writes KTRAP, KTVAL and KEPC, sets psup to sup, sup to 1 and inh to 1, and
makes the bundle at KTVEC.VEC next, with no delay bundle; one with inh = 1 stops the core, and on a trunk core is recorded
as a trunk fault with its KTRAP and KEPC. -/
def Obligations.SupervisorTrapEntry : Prop :=
  (∀ (s : State) (t : Trap), s.me.sup = true → s.me.inh = false →
    let u := s.takeTrap t
    u.me.ktrap = t.word s.slot false ∧ u.me.ktval = t.tval ∧ u.me.kepc = s.me.returnPoint ∧
    u.me.psup = true ∧ u.me.sup = true ∧ u.me.inh = true ∧
    (∀ k, k ≠ 0 → k ≠ 6 → k ≠ 7 → u.me.kstat.getLsbD k = s.me.kstat.getLsbD k) ∧
    u.me.pc = s.me.ktvec.extractLsb' 0 12 ∧ u.me.branch = none ∧ u.me.delay = false ∧ u.me.mode = s.me.mode) ∧
  (∀ (s : State) (t : Trap), s.me.sup = true → s.me.inh = true →
    let u := s.takeTrap t
    u.me.mode = .halted ∧ u.me.ktrap = t.word s.slot false ∧ u.me.ktval = t.tval ∧ u.me.kepc = s.me.returnPoint ∧
    (isTrunkCore s.cur = true → u.trunk.trunkFlt = some (t.word s.slot false, s.me.returnPoint)))

/-- R161, R159, R153: A trap in user mode fills KTRAP, KEPC and KTVAL, leaves KSTAT as it is, and leaves the core in the state
from which it issues no bundle, while its scoreboard, jobs and queues stay as they are; outside its core only what the
operation has read is scrubbed. -/
def Obligations.UserTrapEndsTask : Prop :=
  ∀ (s : State) (t : Trap), s.me.sup = false →
    let u := s.takeTrap t
    u.me.mode = .faulted ∧ u.mayIssue s.cur = false ∧ u.me.ktrap = t.word s.slot false ∧ u.me.ktval = t.tval ∧
    u.me.kepc = s.me.returnPoint ∧ u.me.kepc.extractLsb' 0 12 = s.me.pc ∧
    (∀ b, s.me.branch = some b → u.me.kepc.getLsbD 28 = true ∧ u.me.kepc.extractLsb' 16 12 = b) ∧
    (s.me.branch = none → u.me.kepc.getLsbD 28 = false) ∧
    u.me.kstat = s.me.kstat ∧ u.me.board = s.me.board ∧ u.me.jobs = s.me.jobs ∧ u.me.queues = s.me.queues ∧
    (s.scrubs t.reads).sameButCores u ∧ s.sameOtherCores u s.cur

/-- R152, R158: The KTRAP word of a trap has its kind code in KIND, the slot in SLOT, IMP, the XLATE and ILLEGAL causes, the
register number and file, the missing clocks and the code, each in its field. -/
def Obligations.TrapWordFields : Prop :=
  ∀ (t : Trap) (slot : Nat) (imp : Bool), slot < 4 → t.xc < 8 → t.ilc < 8 → t.miss < 32 → t.code < 4096 →
    (∀ r, t.reg = some r → r.num < 128) →
    let w := t.word slot imp
    (w.extractLsb' 0 4).toNat = t.kind.code ∧ (w.extractLsb' 4 2).toNat = slot ∧ w.getLsbD 6 = imp ∧
    (w.extractLsb' 8 3).toNat = t.xc ∧ (w.extractLsb' 11 3).toNat = t.ilc ∧
    (∀ r, t.reg = some r → (w.extractLsb' 16 7).toNat = r.num ∧ (w.extractLsb' 23 4).toNat = r.file.code) ∧
    (w.extractLsb' 27 5).toNat = t.miss ∧ (w.extractLsb' 32 12).toNat = t.code

/-- R75, R150, R155: In user mode on a grove core, mrd, mwr, eret, migrate and snap, and krd and kwr of KEPC, KPTROOT, KTVEC and
KSCR0 to KSCR3, that are well formed take an ILLEGAL trap with ILC 5, and KTRAP.CODE holds the number of the K-register. -/
def Obligations.PrivilegedOperationsTrapInUserMode : Prop :=
  ∀ (s : State), s.me.sup = false → isTrunkCore s.cur = false →
    let traps (i : Sys2Proof.Instr) (code : Nat) : Prop :=
      i.wf = true → exec i s = .next (s.takeTrap { Trap.illegal .supOnly with code := code })
    (∀ d a p, traps (.mrd d a p) 0) ∧ (∀ a b p, traps (.mwr a b p) 0) ∧ traps .eret 0 ∧ (∀ a b p, traps (.migrate a b p) 0) ∧
    (∀ a p, traps (.snap a p) 0) ∧
    (∀ (d : BitVec 5) (p : BitVec 3) (k : BitVec 12), k.toNat ∈ [0x2, 0x7, 0xB, 0xC, 0xD, 0xE, 0xF] →
      traps (.krd d p k) k.toNat ∧ traps (.kwr d p k) k.toNat)

/-- R150, R151, R152, R153, R154, R4: A K-register write sets the RW fields of KEPC, KBANK, KPTROOT, KTVEC, KFPX and KSCR0 to
KSCR3 from the source, clears the W1C bits pwb and rb of KSTAT and the flags of KFPX where the source holds ones, and leaves
every other bit and every other K-register as it is. -/
def Obligations.KRegisterWritesFieldByField : Prop :=
  ∀ (c : Core) (v : Word) (t : Nat),
    let at_ (k j : Nat) : Word := (c.putK k v).getK j t
    (∀ k j, j ≠ k → at_ k j = c.getK j t) ∧
    (at_ 0x0 0x0 = c.kstat &&& ~~~(v &&& 0x30)) ∧
    (at_ 0x2 0x2 = (c.kepc &&& ~~~0x1FFF0FFF) ||| (v &&& 0x1FFF0FFF)) ∧
    (at_ 0x6 0x6 = (c.kbank &&& ~~~0xFFFFFFFFFF) ||| (v &&& 0xFFFFFFFFFF)) ∧
    (at_ 0x7 0x7 = (c.kptroot &&& ~~~0x000FFFFFFFFFF000) ||| (v &&& 0x000FFFFFFFFFF000)) ∧
    (at_ 0x9 0x9 = ((c.kfpx &&& ~~~0x300) ||| (v &&& 0x300)) &&& ~~~(v &&& 0x1F)) ∧
    (at_ 0xB 0xB = (c.ktvec &&& ~~~0xFFF) ||| (v &&& 0xFFF)) ∧
    (∀ k, k ∈ [0xC, 0xD, 0xE, 0xF] → at_ k k = v) ∧
    (∀ k, k ∈ [0x1, 0x3, 0x4, 0x5, 0x8, 0xA, 0x10] → at_ k k = c.getK k t) ∧
    (∀ r, (c.putK 0 v).readReg r = c.readReg r)

/-- R133: After a delay bundle of a branch taken to t the next bundle is t, running levels whose body does not hold t stop, and
no counter or address register changes; after any other bundle, the delay bundle of a branch not taken among them, each
running level from the innermost whose end the bundle is adds its strides to the address registers and one to its counter,
loops back to its start while the counter is below its count, and otherwise stops and passes on to the next level; when no
level loops back the next bundle is the following address; all this applies to the core after the writes due in the clock of
the bundle have landed. -/
def Obligations.NextBundleChoice : Prop :=
  (∀ (c0 c : Core) (t : BitVec 12), c0.delay = true → c0.branch = some t →
    let n := Core.advance c0 c
    n.pc = t ∧ n.a = c.a ∧ n.n = c.n ∧ n.branch = none ∧ n.delay = false ∧
    (∀ (l : Nat) (v : LoopLvl), c.loops[l]? = some v →
      n.loops[l]? = some { v with running := v.running && decide (v.start ≤ t) && decide (t ≤ v.stop) })) ∧
  (∀ (c0 c : Core), c0.delay = true → c0.branch = none →
    Core.advance c0 c = Core.advance { c0 with delay := false } { c with delay := false, branch := none }) ∧
  (∀ (c0 c : Core), c0.delay = false → (∀ e ∈ c.running, c.pc ≠ e.2.stop) →
    Core.advance c0 c = { c with pc := c.pc + 1 }) ∧
  (∀ (c0 c : Core) (l : Nat) (v : LoopLvl) (rest : List (Nat × LoopLvl)), c0.delay = false →
    c.running.reverse = (l, v) :: rest → c.pc = v.stop → (c.rn l + 1).toNat < v.count.toNat →
    let n := Core.advance c0 c
    n.pc = v.start ∧ n.rn l = c.rn l + 1 ∧ n.loops = c.loops ∧
    (∀ r, r < 16 → n.ra r = c.ra r + (c0.strides[l * 16 + r]?.getD 0))) ∧
  (∀ (c0 c : Core) (l : Nat) (v : LoopLvl) (rest : List (Nat × LoopLvl)), c0.delay = false →
    c.running.reverse = (l, v) :: rest → c.pc = v.stop → ¬ (c.rn l + 1).toNat < v.count.toNat →
    Core.advance c0 c =
      Core.sequential { c with a := Vector.ofFn fun (r : Fin 16) => c.a[r] + (c0.strides[l * 16 + r.val]?.getD 0),
                               n := c.n.setIfInBounds l (c.rn l + 1),
                               loops := c.loops.setIfInBounds l { v with running := false } } c0.strides) ∧
  (∀ s0 s : State, isTrunkCore s0.cur = false →
    let n := Core.advance s0.me (((s.core s0.cur).landK).landDue s0.clk)
    (s0.commitBundle s false).core s0.cur = { n with latch := .none, split := [], next := s0.clk + 1, bord := n.ords })

/-- R83, R81, R112: A register write issued at clock t with latency L stays pending at every earlier clock, and when clock t + L
- 1 ends the register holds it, a write to s0 or p0 being discarded and an h register keeping its defined bits; its flags
enter KFPX; every other register not named by a due write keeps its value. -/
def Obligations.PendingWriteLands : Prop :=
  ∀ (c : Core) (clk lat : Nat) (r : Reg) (v : Nat) (f : Flags), r.num < r.file.size → 1 ≤ lat →
    let w := c.issueWrite clk lat r v f
    (∀ t, t + 1 < clk + lat → ∃ p ∈ (w.landDue t).pend, p.reg = r ∧ p.wait = .timed (clk + lat - 1)) ∧
    (w.landDue (clk + lat - 1)).readReg r = regHolds r v ∧
    (∀ k, f.getLsbD k = true → (w.landDue (clk + lat - 1)).kfpx.getLsbD k = true) ∧
    (∀ q t, (∀ p ∈ w.pend, p.due t = true → p.reg ≠ q) → (w.landDue t).readReg q = c.readReg q)

/-- R84, R85: When a register of the list other than s0 and p0 has a write pending that an earlier bundle issued, then without
KSTAT.dbg the bundle is held; with KSTAT.dbg and such a write of exposed latency it traps HAZARD, naming a register of the
list whose write misses the most clocks, and those clocks; with KSTAT.dbg and none of exposed latency it is held. When none
has, nothing holds it. -/
def Obligations.InterlockHoldsOrTraps : Prop :=
  ∀ (c : Core) (clk : Nat) (regs : List Reg),
    ((∀ r ∈ regs, ∀ p ∈ c.pend, p.reg = r → p.issued ≠ clk → (r.file = .s ∨ r.file = .p) ∧ r.num = 0) →
      c.interlock clk regs = none) ∧
    let holds (p : Pend) : Prop := p ∈ c.pend ∧ p.reg ∈ regs ∧ p.issued ≠ clk ∧ ¬ ((p.reg.file = .s ∨ p.reg.file = .p) ∧ p.reg.num = 0)
    (∀ p, holds p → c.dbg = false ∨ (∀ q, holds q → q.missing clk = none) → c.interlock clk regs = some .stall) ∧
    (c.dbg = true → ∀ p n, holds p → p.missing clk = some n →
      ∃ q m, holds q ∧ q.missing clk = some m ∧ (∀ p n, holds p → p.missing clk = some n → n ≤ m) ∧
        c.interlock clk regs = some (.trap { Trap.of .hazard with reg := some q.reg, miss := m }))

/-- R137, R138, R69, R83: When it takes effect, its address is below 0x60000 and aligned, nothing makes it wait and its bytes
carry no poison, ld and ldx answer the state in which the write of the little-endian bytes, extended per the size code, is
pending for the end of clock t + 3, every register, K-register and byte of memory being as before. -/
def Obligations.ScalarLoadsComplete : Prop :=
  ∀ (s : State) (d : BitVec 5) (e a b : BitVec 7) (aa : BitVec 4) (sz p : BitVec 3) (off : BitVec 17) (sc : Bool) (bytes : List Byte),
    let size : Nat := 2 ^ (sz.toNat / 2)
    let value : Nat := bytes.foldr (fun x n => n * 256 + x.toNat) 0
    let extended := if sz.getLsbD 0 ∧ 2 ^ (8 * size - 1) ≤ value then value + 2 ^ 64 - 2 ^ (8 * size) else value
    let loads (i : Sys2Proof.Instr) (r : Nat) (ea : Word) : Prop :=
      s.opens i = true → s.memoryCanonical → s.me.scalarCheck ea size false = none → bytes.length = size →
      (∀ k (h : k < bytes.length), readByte? s.mem (spKey s.cur (ea.toNat + k)) = some bytes[k]) →
      ∃ t, exec i s = .next t ∧
        t.me.pend = s.me.pend ++ [⟨⟨.s, r⟩, if r = 0 then 0 else extended, 0, .timed (s.clk + 3), s.clk⟩] ∧
        s.me.sameArch t.me ∧ s.sameMemory t ∧ s.sameOtherCores t s.cur
    loads (.ld d aa sz p off) d.toNat (s.me.ra aa.toNat + off.signExtend 64 * BitVec.ofNat 64 size) ∧
    loads (.ldx e a b p sc sz) e.toNat (s.me.ra a.toNat + (if sc then s.me.rs b.toNat * BitVec.ofNat 64 size else s.me.rs b.toNat))

/-- R137, R138, R53, R69: When it takes effect, its address is below 0x60000 and aligned, nothing makes it wait and it does not
write a part of a poison word, st and stx answer a state in which the bytes stored to read as the low bytes of s[D], every
other byte of memory and every register reads as before. -/
def Obligations.ScalarStoresComplete : Prop :=
  ∀ (s : State) (d : BitVec 5) (e a b : BitVec 7) (aa : BitVec 4) (sz p : BitVec 3) (off : BitVec 17) (sc : Bool),
    let size : Nat := 2 ^ (sz.toNat / 2)
    let stores (i : Sys2Proof.Instr) (x : Word) (ea : Word) : Prop :=
      s.opens i = true → s.memoryCanonical → s.cur < 10372 → s.me.scalarCheck ea size true = none →
      (size = 8 ∨ isPoison s.mem (spKey s.cur ea.toNat) = false) →
      ∃ t, exec i s = .next t ∧
        (∀ k, k < size → readByte? t.mem (spKey s.cur ea.toNat + k) = some (x.extractLsb' (8 * k) 8)) ∧
        s.sameMemoryBut t (spKey s.cur ea.toNat) size ∧ s.me.sameArch t.me ∧ s.sameOtherCores t s.cur
    stores (.st d aa sz p off) (s.me.rs d.toNat) (s.me.ra aa.toNat + off.signExtend 64 * BitVec.ofNat 64 size) ∧
    stores (.stx e a b p sc sz) (s.me.rs e.toNat)
      (s.me.ra a.toNat + (if sc then s.me.rs b.toNat * BitVec.ofNat 64 size else s.me.rs b.toNat))

/-- R137, R138, R53: When it takes effect, ld, st, ldx or stx at an address from 0x60000 up traps XLATE with cause RANGE; below
that and off its alignment it traps ALIGN; a load of a poison word and a store into a part of one that nothing makes wait
trap POISON, as a read of the word (R51); KTVAL is the address. -/
def Obligations.ScalarAccessTraps : Prop :=
  ∀ (s : State) (d : BitVec 5) (e a b : BitVec 7) (aa : BitVec 4) (sz p : BitVec 3) (off : BitVec 17) (sc : Bool),
    let size : Nat := 2 ^ (sz.toNat / 2)
    let traps (i : Sys2Proof.Instr) (ea : Word) (store : Bool) : Prop := s.opens i = true →
      (0x60000 ≤ ea.toNat → exec i s = .next (s.takeTrap (.xlate xcRange ea))) ∧
      (ea.toNat < 0x60000 → ea.toNat % size ≠ 0 → exec i s = .next (s.takeTrap (.at_ .align ea))) ∧
      (s.me.scalarCheck ea size store = none → isPoison s.mem (spKey s.cur ea.toNat) = true → (store = false ∨ size < 8) →
        exec i s = .next (s.takeTrap (.poisonRead ea (spKey s.cur ea.toNat) size)))
    let direct := s.me.ra aa.toNat + off.signExtend 64 * BitVec.ofNat 64 size
    let indexed := s.me.ra a.toNat + (if sc then s.me.rs b.toNat * BitVec.ofNat 64 size else s.me.rs b.toNat)
    traps (.ld d aa sz p off) direct false ∧ traps (.st d aa sz p off) direct true ∧ traps (.ldx e a b p sc sz) indexed false ∧
    traps (.stx e a b p sc sz) indexed true

/-- R139, R140, R141, R145, R146: When it takes effect, each queue request appends an unsent entry with its kind, size, ordering
suffix, scope, address and operands to its queue, numbered in issue order, and holds the bundle when the queue has sixteen
entries; amo.cas and the cas of amo.seq take their new value from s[B+1], and a sequential atomic is an acquire and a
release of scope W. -/
def Obligations.QueueRequestsEnter : Prop :=
  ∀ (s : State) (d a b : BitVec 7) (p sz : BitVec 3) (ord scope : BitVec 2) (op : BitVec 4),
    let addr := s.me.ra a.toNat
    let x := s.me.rs b.toNat
    let y := s.me.rs (b.toNat + 1)
    let q := s.me.queue d.toNat
    let n := s.me.ords
    let enters (i : Sys2Proof.Instr) (e : QEntry) : Prop := s.opens i = true →
      (q.length < 16 → exec i s = .next (s.updCore s.cur fun c => { c.setQueue d.toNat (q ++ [e]) with ords := n + 1 })) ∧
      (16 ≤ q.length → exec i s = .next (s.updCore s.cur fun c => { c with latch := .held }))
    let amo (k : Nat) (z : Word) : QEntry :=
      .fresh (.amo k) sz (ord.getLsbD 1) (ord.getLsbD 0) scope.toNat addr x z n
    enters (.qld d a p ord scope sz) (.fresh .load sz false (decide (ord = 1)) scope.toNat addr 0 0 n) ∧
    enters (.qst d a b p ord scope sz) (.fresh .store sz (decide (ord = 2)) false scope.toNat addr x 0 n) ∧
    enters (.amoAdd d a b p ord scope sz) (amo 0 0) ∧ enters (.amoSwap d a b p ord scope sz) (amo 1 0) ∧
    enters (.amoCas d a b p ord scope sz) (amo 2 y) ∧ enters (.amoAnd d a b p ord scope sz) (amo 3 0) ∧
    enters (.amoOr d a b p ord scope sz) (amo 4 0) ∧ enters (.amoXor d a b p ord scope sz) (amo 5 0) ∧
    enters (.amoMin d a b p ord scope sz) (amo 6 0) ∧ enters (.amoMax d a b p ord scope sz) (amo 7 0) ∧
    enters (.amoMinu d a b p ord scope sz) (amo 8 0) ∧ enters (.amoMaxu d a b p ord scope sz) (amo 9 0) ∧
    enters (.amoSeq d a b p op) (.fresh (.seq op.toNat) 6 true true 1 addr x (if op = 2 then y else 0) n)

/-- R143, R144: A qpop of an empty queue whose guard is set and known traps ILLEGAL at issue. When it takes effect: with a head
entry not complete it holds the bundle; a complete head is removed, its result is written to s[D], or without .t a failed
entry traps with its kind, cause and address, and with .t the predicate says success and s[D] of a failed entry is the fault
word; qwait and qwait.all hold until the head, or every entry, is complete, and write all ones or zero by their success, all
ones at once on an empty queue; nothing else changes. -/
def Obligations.QueuePopsAndWaits : Prop :=
  ∀ (s : State) (d a b : BitVec 7) (p : BitVec 3),
    let q := s.me.queue a.toNat
    let held := s.updCore s.cur fun c => { c with latch := .held }
    let done (e : QEntry) : Prop := e.state = .done ∨ e.state = .failed
    let pop (t : State) (r : List QEntry) : State := t.updCore s.cur fun c => c.setQueue a.toNat r
    (∀ i, i = Sys2Proof.Instr.qpop d a p ∨ i = Sys2Proof.Instr.qpopT d a b p →
      (s.issueTrap s.me i = none → s.me.pendingOn s.clk ⟨.p, p.toNat⟩ = none → (s.me.rp p.toNat).getLsbD 0 = true → q = [] →
        exec i s = .next (s.takeTrap { Trap.illegal .emptyPop with reg := some ⟨.q, a.toNat⟩ })) ∧
      (∀ e r, s.opens i = true → q = e :: r → ¬ done e → exec i s = .next held)) ∧
    (∀ e r, q = e :: r → s.opens (.qpop d a p) = true →
      (e.state = .done → exec (.qpop d a p) s = .next (pop (s.writeReg 1 (sReg d) e.result.toNat 0) r)) ∧
      (e.state = .failed → exec (.qpop d a p) s = .next (s.takeTrap
        { Trap.of (if e.fkind = 4 then .poison else if e.fkind = 6 then .align else .xlate) with
          xc := e.fxc, reg := some ⟨.q, a.toNat⟩, tval := e.addr }))) ∧
    (∀ e r, q = e :: r → s.opens (.qpopT d a b p) = true →
      (e.state = .done → exec (.qpopT d a b p) s =
        .next (pop ((s.writeReg 1 (sReg d) e.result.toNat 0).writeReg 1 (pReg b) 0xFFFFFFFF 0) r)) ∧
      (e.state = .failed → exec (.qpopT d a b p) s =
        .next (pop ((s.writeReg 1 (sReg d) (e.fkind % 16 + e.fxc % 8 * 16) 0).writeReg 1 (pReg b) 0 0) r))) ∧
    (∀ i l, (i = Sys2Proof.Instr.qwait d a p ∧ l = q.take 1) ∨ (i = Sys2Proof.Instr.qwaitAll d a p ∧ l = q) → s.opens i = true →
      ((∀ e ∈ l, e.state = .done) → exec i s = .next (s.writeReg 1 (pReg d) 0xFFFFFFFF 0)) ∧
      ((∀ e ∈ l, done e) → (∃ e ∈ l, e.state = .failed) → exec i s = .next (s.writeReg 1 (pReg d) 0 0)) ∧
      ((∃ e ∈ l, ¬ done e) → exec i s = .next held))

/-- R147, R55, R366: When it takes effect, a fence changes nothing when every earlier queue request that its scope covers is
complete, every earlier scoreboard entry on banks 6 and 7 but those of collectives is released, and the earlier publications
that it covers are accepted; the S1 job of its own bundle counts as earlier; otherwise it holds the bundle. -/
def Obligations.FenceHoldsUntilReleased : Prop :=
  ∀ (s : State) (p : BitVec 3) (scope : BitVec 2), s.opens (.fence p scope) = true →
    (s.fenceMet scope.toNat s.me.ords → exec (.fence p scope) s = .next s) ∧
    (¬ s.fenceMet scope.toNat s.me.ords → exec (.fence p scope) s = .next (s.updCore s.cur fun c => { c with latch := .held }))

/-- R54, R56, R139, R142, R41, R42, R406: The oldest request of a queue that the acquire and release rules and its turn let go
is sent, one to another module as a packet to the rim field of its slice, a store or atomic with the next sequence number
unless that was used within 40,000 ticks; a sent request that no earlier open request of the core touches is performed in
one event at its home when its address leads to a place of the module, and its entry becomes done with the result; one whose
address fails completes as failed with its kind and cause; one to another module completes with an answer; finding a place
renews a cached translation and reads the entries of a failed walk; a page walk reads its entries, and one that succeeds
sets A in the leaf and fills the caches. -/
def Obligations.QueueRequestsPerform : Prop :=
  (∀ (s : State) (core q : Nat) (e : QEntry), s.sendable core q = some e →
    (∀ m sl off, s.requestPlace core e ≠ some (.ok (.remote m sl off))) →
    exec (.queueRequestSend core q) s =
      .next (s.updCore core fun c => c.putEntry q { e with state := .sent, first := s.tick, last := s.tick })) ∧
  (∀ (s : State) (core q m sl off : Nat) (e : QEntry), s.sendable core q = some e → e.kind ≠ .load →
    s.requestPlace core e = some (.ok (.remote m sl off)) →
    let x := s.core core
    let key := seqKey m sl (queueClass q)
    let n := Tbl.getD x.seqs key 0
    (∀ last, Tbl.get? x.seqs (key + 1 + n) = some last → last + 40000 ≤ s.tick) →
    ∃ t, exec (.sequenceNumberFree core q) s = .next t ∧ exec (.queueRequestSend core q) s = .next t ∧
      (t.core core).queue q = (x.queue q).map (fun f => if f.ord = e.ord then
        { e with state := .sent, seq := n, first := s.tick, last := s.tick } else f) ∧
      ∃ p, t.net = s.net ++ [p] ∧ p.dst = farCode m (2592 + sl / 8) ∧ p.kind = .request sl (remoteSource (s.ctx x.ctxNo).member core) n
        (queueClass q) e.kind.code e.sz.toNat off e.data e.data2 s.tick) ∧
  (∀ (s : State) (core q m sl off : Nat) (e : QEntry), s.sendable core q = some e → e.kind = .load →
    s.requestPlace core e = some (.ok (.remote m sl off)) →
    ∃ t, exec (.queueRequestSend core q) s = .next t ∧ (t.core core).queue q = ((s.core core).queue q).map (fun f =>
      if f.ord = e.ord then { e with state := .sent, first := s.tick, last := s.tick } else f) ∧ t.net.length = s.net.length + 1) ∧
  (∀ (s : State) (core q k : Nat) (e : QEntry) (pl : Place), ((s.core core).queue q)[k]? = some e →
    s.mayPerform core e = true → s.requestPlace core e = some (.ok pl) → (∀ m sl off, pl ≠ .remote m sl off) →
    e.kind.isSeq = false → s.placeHeld (groveOf core) (s.core core).ctxNo pl = false →
    let r := (s.lookedUp (groveOf core) (s.core core).ctxNo e.addr (.ok pl)).performAt pl e.kind e.sz e.data e.data2 (s.core core).ctxNo
    exec (.queueAccessPerform core q k) s = .next (r.2.updCore core fun c => c.putEntry q (e.finish r.1))) ∧
  (∀ (s : State) (core q k kind xc : Nat) (e : QEntry), ((s.core core).queue q)[k]? = some e →
    s.mayPerform core e = true → s.requestPlace core e = some (.error (kind, xc)) →
    exec (.queueAccessPerform core q k) s =
      .next ((s.lookedUp (groveOf core) (s.core core).ctxNo e.addr (.error (kind, xc))).updCore core fun c =>
        c.putEntry q { e with state := .failed, fkind := kind, fxc := xc })) ∧
  (∀ (s : State) (core q k m sl off : Nat) (e : QEntry), ((s.core core).queue q)[k]? = some e →
    s.mayPerform core e = true → s.requestPlace core e = some (.ok (.remote m sl off)) →
    s.placeHeld (groveOf core) (s.core core).ctxNo (.remote m sl off) = false →
    ∃ t r, exec (.queueAccessPerform core q k) s = .next t ∧
      (t.core core).queue q = ((s.core core).queue q).map (fun f => if f.ord = e.ord then e.finish r else f)) ∧
  (∀ (s : State) (g ctx va : Nat),
    (∀ l, s.walk g ctx va = .ok l → exec (.pageWalk g ctx va) s = .next ((s.walked g ctx va true).tlbFill g (l.toTlb ctx va))) ∧
    (∀ c, s.walk g ctx va = .error c → exec (.pageWalk g ctx va) s = .next (s.walked g ctx va false)))

/-- R145, R58: An atomic performed at an aligned good word of grove memory writes the value that R145 computes from the old
bytes and the operands at its width, returns the old value extended per its size, and leaves every other byte; a failed
compare writes nothing. -/
def Obligations.AtomicsAtTheirHome : Prop :=
  ∀ (s : State) (core a ctx op : Nat) (sz : BitVec 3) (v w : Word) (old : Word), s.memoryCanonical → core < 10372 → a < 0x60000 → op < 10 →
    sz = 4 ∨ sz = 5 ∨ sz = 6 → a % 2 ^ (sz.toNat / 2) = 0 →
    synOf s.mem (spKey core a) = 0 →
    let n : Nat := 8 * 2 ^ (sz.toNat / 2)
    payloadNat (readBytes s.mem (spKey core a) (2 ^ (sz.toNat / 2))) = old.toNat → old.toNat < 2 ^ n →
    let x := v.toNat % 2 ^ n
    let sgn (z : Nat) : Int := if z < 2 ^ (n - 1) then z else (z : Int) - 2 ^ n
    let new : Nat := match op with
      | 0 => (old.toNat + x) % 2 ^ n
      | 1 => x
      | 2 => if old.toNat = x then w.toNat % 2 ^ n else old.toNat
      | 3 => old.toNat &&& x
      | 4 => old.toNat ||| x
      | 5 => old.toNat ^^^ x
      | 6 => if sgn old.toNat ≤ sgn x then old.toNat else x
      | 7 => if sgn x ≤ sgn old.toNat then old.toNat else x
      | 8 => if old.toNat ≤ x then old.toNat else x
      | _ => if x ≤ old.toNat then old.toNat else x
    let r := s.performAt (.sp core a) (.amo op) sz v w ctx
    (∃ z : Word, r.1 = .ok z ∧ z.toNat = if sz = 5 ∧ 2 ^ 31 ≤ old.toNat then old.toNat + 2 ^ 64 - 2 ^ 32 else old.toNat) ∧
    payloadNat (readBytes r.2.mem (spKey core a) (2 ^ (sz.toNat / 2))) = new ∧
    s.sameMemoryBut r.2 (spKey core a) (2 ^ (sz.toNat / 2))

/-- R198, R200, R201, R202, R204, R205, R209, R211, R212, R83: When nothing stops or holds it, each of vadd, vsub, vmul, vfma,
vmin, vmax, vabs, vneg, vand, vor, vxor, vshl, vshr, vsel, vmov in its vector, splat and index forms, vperm, vins and vsfu
issues the write of v[D] with its latency in which every element whose guard lane is set is the form's result for it, every
other element keeps its value, and the flags are those that the active elements raise. -/
def Obligations.VectorElementForms : Prop :=
  ∀ (s : State) (d a b : BitVec 7) (p q : BitVec 3) (t : BitVec 4) (f : BitVec 3) (neg sb sat nb w64 : Bool),
    let lat : Nat := if 1 ≤ t.toNat ∧ t.toNat ≤ 6 then 4 else 3
    let w := typeWidth t
    let sg : Bool := decide (9 ≤ t.toNat) && decide (t.toNat ≤ 12)
    let vd := s.me.rv d.toNat
    let va := s.me.rv a.toNat
    let vb := s.me.rv b.toNat
    let y (w j : Nat) : Nat := if sb then (s.me.rs b.toNat).toNat % 2 ^ w else elemAt vb w j
    let nvb : BitVec 1024 := if nb then ~~~vb else vb
    let count (j : Nat) : Nat := if sb then (s.me.rs b.toNat).toNat else elemAt vb w j
    let gives (i : Sys2Proof.Instr) (lat w : Nat) (val : Nat → Nat × Flags) : Prop := s.clear i = true →
      let active (j : Nat) : Bool := (s.me.rp p.toNat).getLsbD (w * j / 32)
      ∃ (r : Nat) (fl : Flags), exec i s = .next (s.writeReg lat (vReg d) r fl) ∧
        (∀ j, j < 1024 / w → r / 2 ^ (w * j) % 2 ^ w = if active j then (val j).1 % 2 ^ w else vd.toNat / 2 ^ (w * j) % 2 ^ w) ∧
        (∀ k, fl.getLsbD k = true ↔ ∃ j, j < 1024 / w ∧ active j = true ∧ (val j).2.getLsbD k = true)
    let arith (op : VOp) (neg : Bool) (j : Nat) : Nat × Flags :=
      op.apply (Fmt.ofType t) s.me.rm sat neg (elemAt vd w j) (elemAt va w j) (y w j)
    gives (.vadd d a b p sb sat t) lat w (arith .add false) ∧ gives (.vsub d a b p sb sat t) lat w (arith .sub false) ∧
    gives (.vmul d a b p sb sat t) 4 w (arith .mul false) ∧ gives (.vfma d a b p neg sb sat t) 4 w (arith .fma neg) ∧
    gives (.vmin d a b p sb sat t) lat w (arith .min false) ∧ gives (.vmax d a b p sb sat t) lat w (arith .max false) ∧
    gives (.vabs d a p sat t) lat w (fun j => signOp false (Fmt.ofType t) sat (elemAt va w j)) ∧
    gives (.vneg d a p sat t) lat w (fun j => signOp true (Fmt.ofType t) sat (elemAt va w j)) ∧
    gives (.vand d a b p nb) 2 32 (fun j => (elemAt (va &&& nvb) 32 j, 0)) ∧
    gives (.vor d a b p nb) 2 32 (fun j => (elemAt (va ||| nvb) 32 j, 0)) ∧
    gives (.vxor d a b p nb) 2 32 (fun j => (elemAt (va ^^^ nvb) 32 j, 0)) ∧
    gives (.vshl d a b p sb t) 2 w (fun j => (if w ≤ count j then 0 else elemAt va w j * 2 ^ count j % 2 ^ w, 0)) ∧
    (sg = false → gives (.vshr d a b p sb t) 2 w (fun j => (if w ≤ count j then 0 else elemAt va w j / 2 ^ count j, 0))) ∧
    (sg = true → gives (.vshr d a b p sb t) 2 w (fun j =>
      let n := if w ≤ count j then w else count j
      (elemAt va w j / 2 ^ n + (if 2 ^ (w - 1) ≤ elemAt va w j then 2 ^ w - 2 ^ (w - n) else 0), 0))) ∧
    gives (.vsel d a b p t q) lat w (fun j => (elemAt (if (s.me.rp q.toNat).getLsbD (w * j / 32) then va else vb) w j, 0)) ∧
    gives (.vmovV d a p) 2 32 (fun j => (elemAt va 32 j, 0)) ∧
    gives (.vmovSplat d a p t) 2 w (fun _ => ((s.me.rs a.toNat).toNat, 0)) ∧
    (9 ≤ t.toNat → gives (.vmovIdx d p t) 2 w (fun j => (j, 0))) ∧
    (∀ ff, (Fmt.ofType t).float? = some ff → gives (.vmovIdx d p t) 2 w (fun j => ((ff.encode .rne false (.ofInt j)).1, 0))) ∧
    (∀ byte, (byte = true → gives (.vperm d a b p w64 byte) 5 8 (fun k => (elemAt va 8 (elemAt vb 8 k % 128), 0))) ∧
      (byte = false → w64 = true → gives (.vperm d a b p w64 byte) 5 64 (fun j => (elemAt va 64 (elemAt vb 32 (2 * j) % 16), 0))) ∧
      (byte = false → w64 = false → gives (.vperm d a b p w64 byte) 5 32 (fun i => (elemAt va 32 (elemAt vb 32 i % 32), 0)))) ∧
    gives (.vins d a b p t) 2 w (fun j =>
      (if j = (s.me.rs b.toNat).toNat % (1024 / w) then (s.me.rs a.toNat).toNat else elemAt vd w j, 0)) ∧
    gives (.vsfu d a p f) 6 32 (fun j => (Sfu.ofBits f).apply s.me.rm (elemAt va 32 j))

/-- R200, R201, R108: For every integer type of width w, the element result of add, subtract, multiply and multiply-add is the
exact result reduced modulo 2^w without SAT, and with SAT the nearest value of the type, SX being set exactly when that
differs from the exact result; the smaller and the larger compare by the type's sign and raise nothing. -/
def Obligations.IntegerElementArithmetic : Prop :=
  ∀ (t : BitVec 4) (rm : Rm) (neg : Bool) (d a b : Nat), 9 ≤ t.toNat →
    let w := typeWidth t
    let sg : Bool := decide (t.toNat ≤ 12)
    let f := Fmt.ofType t
    let val (x : Nat) : Int := if sg = true ∧ 2 ^ (w - 1) ≤ x % 2 ^ w then ((x % 2 ^ w : Nat) : Int) - 2 ^ w else ((x % 2 ^ w : Nat) : Int)
    let lo : Int := if sg then -(2 ^ (w - 1) : Int) else 0
    let hi : Int := if sg then 2 ^ (w - 1) - 1 else 2 ^ w - 1
    let bits (x : Int) : Nat := (x % (2 ^ w : Int)).toNat
    let exact (op : VOp) : Int := match op with
      | .add => val a + val b
      | .sub => val a - val b
      | .mul => val a * val b
      | .fma => if neg then val d - val a * val b else val d + val a * val b
      | .min => if val a ≤ val b then val a else val b
      | .max => if val a ≤ val b then val b else val a
    (∀ op, op.apply f rm false neg d a b = (bits (exact op), 0)) ∧
    (∀ op, (op = .min ∨ op = .max) → op.apply f rm true neg d a b = (bits (exact op), 0)) ∧
    (∀ op, op ≠ .min → op ≠ .max →
      (lo ≤ exact op → exact op ≤ hi → op.apply f rm true neg d a b = (bits (exact op), 0)) ∧
      (exact op < lo → op.apply f rm true neg d a b = (bits lo, flagSX)) ∧
      (hi < exact op → op.apply f rm true neg d a b = (bits hi, flagSX)))

/-- R203, R205, R206, R207, R208, R210, R211, R215, R83: When nothing stops or holds it: vcmp writes the condition in the bits
of active elements and keeps the others, and raises NV for a signalling NaN among the active elements alone; the scalar vmov
forms move between h, s and p registers; vcomp packs the active elements and vexpd spreads the leading ones, with zeros
elsewhere; vred reduces the active elements; vext writes the indexed element when it is active and nothing otherwise; vqdb
writes the block of R115 and zeros after it; vcvt converts each active pair, keeps the other destination elements and raises
the flags of those conversions; pand, por and pxor combine predicates under the guard and pcnt counts; each with its
latency. -/
def Obligations.VectorScalarResults : Prop :=
  ∀ (s : State) (d a b : BitVec 7) (p : BitVec 3) (t ts : BitVec 4) (cc op part : BitVec 3) (sat nb w64 single db4 : Bool),
    let w := typeWidth t
    let g := s.me.rp p.toNat
    let va := s.me.rv a.toNat
    let vb := s.me.rv b.toNat
    let active (w j : Nat) : Bool := g.getLsbD (w * j / 32)
    let pb : BitVec 32 := if nb then ~~~(s.me.rp b.toNat) else s.me.rp b.toNat
    let pa := s.me.rp a.toNat
    let pw : Nat := if w64 then 64 else 32
    let packed (w : Nat) : List Nat := ((List.range (1024 / w)).filter (active w)).map (elemAt va w)
    let place (r w j : Nat) : Nat := r / 2 ^ (w * j) % 2 ^ w
    (s.clear (.vcmp d a b p cc t) = true → ∃ (r : Nat) (fl : Flags),
      exec (.vcmp d a b p cc t) s = .next (s.writeReg (if 1 ≤ t.toNat ∧ t.toNat ≤ 6 then 4 else 3) (pReg d) r fl) ∧
      (∀ k, k < 32 → r.testBit k = if active w (k * 32 / w) then
        vCond cc.toNat ((Fmt.ofType t).decode (elemAt va w (k * 32 / w)) 0 0) ((Fmt.ofType t).decode (elemAt vb w (k * 32 / w)) 0 0)
        else (s.me.rp d.toNat).getLsbD k) ∧
      ∀ k, fl.getLsbD k = true ↔ k = 0 ∧ ∃ j, j < 1024 / w ∧ active w j = true ∧
        ((Fmt.ofType t).decode (elemAt va w j) 0 0 = .nan true ∨ (Fmt.ofType t).decode (elemAt vb w j) 0 0 = .nan true)) ∧
    (s.opens (.vmovHS d a p) = true →
      exec (.vmovHS d a p) s = .next (s.writeReg 2 (hReg d) (s.me.rs a.toNat &&& 0x7FFE0).toNat 0)) ∧
    (s.opens (.vmovSH d a p) = true → exec (.vmovSH d a p) s = .next (s.writeReg 2 (sReg d) (s.me.rh a.toNat).toNat 0)) ∧
    (s.opens (.vmovPS d a p) = true →
      exec (.vmovPS d a p) s = .next (s.writeReg 2 (pReg d) ((s.me.rs a.toNat).toNat % 2 ^ 32) 0)) ∧
    (s.opens (.vmovSP d a p) = true → exec (.vmovSP d a p) s = .next (s.writeReg 2 (sReg d) pa.toNat 0)) ∧
    (s.clear (.vcomp d a p w64) = true → ∃ r, exec (.vcomp d a p w64) s = .next (s.writeReg 5 (vReg d) r 0) ∧
      ∀ j, j < 1024 / pw → place r pw j = ((packed pw)[j]?.getD 0)) ∧
    (s.clear (.vexpd d a p w64) = true → ∃ r, exec (.vexpd d a p w64) s = .next (s.writeReg 5 (vReg d) r 0) ∧
      ∀ j, j < 1024 / pw → place r pw j =
        if active pw j then elemAt va pw ((List.range j).filter (active pw)).length else 0) ∧
    (s.clear (.vred d a p op t) = true →
      let r := reduceBits op.toNat t s.me.rm (packed w)
      exec (.vred d a p op t) s = .next (s.writeReg 5 (sReg d) r.1 r.2)) ∧
    (s.clear (.vext d a b p t) = true →
      let j := (s.me.rs b.toNat).toNat % (1024 / w)
      let x := elemAt va w j
      (active w j = false → exec (.vext d a b p t) s = .next s) ∧
      (active w j = true → exec (.vext d a b p t) s = .next (s.writeReg 2 (sReg d)
        (if 9 ≤ t.toNat ∧ t.toNat ≤ 12 ∧ 2 ^ (w - 1) ≤ x then x + 2 ^ 64 - 2 ^ w else x) 0))) ∧
    (s.clear (.vqdb d a p single db4) = true →
      let f : Fmt := if db4 then .db4 else .db8
      let blk := quantise f single ((List.range 32).map fun j => if g.getLsbD j then ffF32.decode (elemAt va 32 j) else .zero false)
      exec (.vqdb d a p single db4) s = .next (s.writeReg 4 (vReg d) (ofElems 8 (DbBlock.bytes f blk)) blk.flags)) ∧
    (s.clear (.vcvt d a p sat ts part t) = true →
      let ws := typeWidth ts
      let e := 1024 / (if ws ≤ w then w else ws)
      let conv (x : Nat) : Res Nat := cvtElem (Fmt.ofType ts) (Fmt.ofType t) s.me.rm sat x
      let cvt (x : Nat) : Nat := (conv x).1
      let act (j : Nat) : Bool := active (if ws ≤ w then w else ws) j
      ∃ (r : Nat) (fl : Flags), exec (.vcvt d a p sat ts part t) s = .next (s.writeReg 4 (vReg d) r fl) ∧
        (w < ws → ∀ k, k < 1024 / w → place r w k =
          if part.toNat * e ≤ k ∧ k < part.toNat * e + e ∧ act (k - part.toNat * e) = true
          then cvt (elemAt va ws (k - part.toNat * e)) % 2 ^ w else elemAt (s.me.rv d.toNat) w k) ∧
        (ws < w → ∀ j, j < e → place r w j =
          if act j then cvt (elemAt va ws (part.toNat * e + j)) % 2 ^ w else elemAt (s.me.rv d.toNat) w j) ∧
        (ws = w → ∀ j, j < e → place r w j = if act j then cvt (elemAt va ws j) % 2 ^ w else elemAt (s.me.rv d.toNat) w j) ∧
        ∀ k, fl.getLsbD k = true ↔ ∃ j, j < e ∧ act j = true ∧
          (conv (elemAt va ws (if ws < w then part.toNat * e + j else j))).2.getLsbD k = true) ∧
    (s.clear (.pand d a b p nb) = true →
      exec (.pand d a b p nb) s = .next (s.writeReg 2 (pReg d) ((pa &&& pb &&& g) ||| (s.me.rp d.toNat &&& ~~~g)).toNat 0)) ∧
    (s.clear (.por d a b p nb) = true →
      exec (.por d a b p nb) s = .next (s.writeReg 2 (pReg d) (((pa ||| pb) &&& g) ||| (s.me.rp d.toNat &&& ~~~g)).toNat 0)) ∧
    (s.clear (.pxor d a b p nb) = true →
      exec (.pxor d a b p nb) s = .next (s.writeReg 2 (pReg d) (((pa ^^^ pb) &&& g) ||| (s.me.rp d.toNat &&& ~~~g)).toNat 0)) ∧
    (s.clear (.pcnt d a p) = true →
      exec (.pcnt d a p) s = .next (s.writeReg 3 (sReg d) ((List.range 32).filter (pa &&& g).getLsbD).length 0))

/-- R213, R214, R27: When nothing stops or holds it and its checks let it go on: vld issues the write of v[D] whose active lanes
are the stored words at its address and whose other lanes keep their values; vst stores exactly the active lanes; vldl loads
each active lane from its lane slice, extended per its size, and vstl stores the low bytes of each active lane there; every
other byte of memory reads as before. -/
def Obligations.VectorLoadsAndStores : Prop :=
  (∀ (s : State) (d a : BitVec 5) (p : BitVec 3) (off : BitVec 19), s.clear (.vld d a p off) = true →
    let ea := s.me.ra a.toNat + off.signExtend 64 * 16
    let g := s.me.rp p.toNat
    let at_ (j : Nat) : Nat := spKey s.cur (ea.toNat + 4 * j)
    s.me.vecCheck ea false = none → (∀ j, j < 32 → synOf s.mem (at_ j) = 0) →
    ∃ r, exec (.vld d a p off) s = .next (s.writeReg 4 ⟨.v, d.toNat⟩ r 0) ∧
      ∀ j, j < 32 → r / 2 ^ (32 * j) % 2 ^ 32 =
        if g.getLsbD j then payloadNat (readBytes s.mem (at_ j) 4) else elemAt (s.me.rv d.toNat) 32 j) ∧
  (∀ (s : State) (d a : BitVec 5) (p : BitVec 3) (off : BitVec 19), s.clear (.vst d a p off) = true → s.memoryCanonical →
    s.cur < 10372 →
    let ea := s.me.ra a.toNat + off.signExtend 64 * 16
    let g := s.me.rp p.toNat
    let at_ (j : Nat) : Nat := spKey s.cur (ea.toNat + 4 * j)
    s.me.vecCheck ea true = none →
    (∀ k, k < 16 → g.getLsbD (2 * k) ≠ g.getLsbD (2 * k + 1) → isPoison s.mem (at_ (2 * k)) = false) →
    ∃ t, exec (.vst d a p off) s = .next t ∧ s.me.sameArch t.me ∧ s.sameOtherCores t s.cur ∧
      (∀ j k, j < 32 → k < 4 → g.getLsbD j = true →
        readByte? t.mem (at_ j + k) = some ((s.me.rv d.toNat).extractLsb' (32 * j + 8 * k) 8)) ∧
      (∀ x, x < 2 ^ 60 → (∀ j, j < 32 → g.getLsbD j = true → x < at_ j ∨ at_ j + 4 ≤ x) →
        readByte? t.mem x = readByte? s.mem x)) ∧
  (∀ (s : State) (d a b : BitVec 7) (p sz : BitVec 3),
    let size : Nat := 2 ^ (sz.toNat / 2)
    let g := s.me.rp p.toNat
    let off (j : Nat) : Nat := (elemAt (s.me.rv a.toNat) 32 j + (s.me.rs b.toNat).toNat) % 1024
    (∀ j, j < 32 → g.getLsbD j = true → off j % size = 0 ∧ isPoison s.mem (laneKey s.cur j (off j)) = false) →
    (s.clear (.vldl d a b p sz) = true → s.memoryCanonical → s.cur < 10372 →
      ∃ t r, exec (.vldl d a b p sz) s = .next t ∧ t.me.pend = (s.writeReg 4 (vReg d) r 0).me.pend ∧ s.me.sameArch t.me ∧
      s.sameOtherCores t s.cur ∧ s.sameMemory t ∧
      ∀ j, j < 32 → r / 2 ^ (32 * j) % 2 ^ 32 =
        if g.getLsbD j then extendSize sz (payloadNat (readBytes s.mem (laneKey s.cur j (off j)) size)) % 2 ^ 32
        else elemAt (s.me.rv d.toNat) 32 j) ∧
    (s.clear (.vstl d a b p sz) = true → s.memoryCanonical → s.cur < 10372 →
      ∃ t, exec (.vstl d a b p sz) s = .next t ∧ t = { s with mem := t.mem } ∧
        (∀ j k, j < 32 → k < size → g.getLsbD j = true →
          readByte? t.mem (laneKey s.cur j (off j) + k) = some ((s.me.rv d.toNat).extractLsb' (32 * j + 8 * k) 8)) ∧
        (∀ x, x < 2 ^ 60 → (∀ j, j < 32 → g.getLsbD j = true → x < laneKey s.cur j (off j) ∨ laneKey s.cur j (off j) + size ≤ x) →
          readByte? t.mem x = readByte? s.mem x)))

/-- R218, R220, R221, R223, R224, R225, R226, R227, R228, R229, R230: When it takes effect, its records can be read, every
region passes its checks, the extents and formats fit and nothing makes the card wait, each shape-job instruction appends
one job that holds the copied records and the bank formats in force, not started, and one scoreboard entry per region,
numbered in issue order; no register and no byte of memory changes. -/
def Obligations.ShapeJobsEnter : Prop :=
  ∀ (s : State) (d a b : BitVec 7) (p : BitVec 3) (sat single : Bool) (rm : BitVec 2) (t ts : BitVec 4) (op f cc : BitVec 3),
    let enters (i : Sys2Proof.Instr) (td ts : BitVec 4) (srcs : List Word) : Prop := s.opens i = true →
      ∀ (rd : ShapeRec) (rs : List ShapeRec) (s1 : State) (g : JRegion × Region) (rest : List (JRegion × Region)),
        readRecords s s.cur s.me (s.me.rh d.toNat :: srcs) = .ok (rd :: rs, s1) →
        checkRegions s.me.kbank ((td, rd, true) :: rs.map fun r => (ts, r, false)) = .ok (g :: rest) →
        let ga := (rest.headD g).1
        let gb := ((rest.drop 1).headD (rest.headD g)).1
        let regions := (g :: rest).map (·.2)
        jobRule i g.1 ga gb = true → s.me.cardWaits regions = none →
        ∃ u j, exec i s = .next u ∧ u.me.jobs = s.me.jobs ++ [j] ∧ j.kind = .vec i g.1.r ga.r gb.r ∧ j.kbank = s.me.kbank ∧
          j.entered = s.clk ∧ j.start = none ∧ j.owner = s.me.task ∧ j.id = s.me.ords ∧ u.me.ords = s.me.ords + 1 ∧
          u.me.board = s.me.board ++ regions.zipIdx.map (fun e => e.1.entry (s.me.ords * 8 + e.2) s.me.ords s.me.ords) ∧
          s.me.sameArch u.me ∧ s.sameMemory u
    let x := s.me.rh a.toNat
    let y := s.me.rh b.toNat
    enters (.vjadd d a b p sat rm t) t t [x, y] ∧ enters (.vjsub d a b p sat rm t) t t [x, y] ∧
    enters (.vjmul d a b p sat rm t) t t [x, y] ∧ enters (.vjfma d a b p sat rm t) t t [x, y] ∧
    enters (.vjmin d a b p sat rm t) t t [x, y] ∧ enters (.vjmax d a b p sat rm t) t t [x, y] ∧
    enters (.vjsel d a b p sat rm t) t t [x, y] ∧ enters (.vjcmp d a b p cc t) t t [x, y] ∧
    enters (.vjcomp d a b p t) t t [x, y] ∧ enters (.vjexpd d a b p t) t t [x, y] ∧
    enters (.vjcvt d a p sat ts rm t) t ts [x] ∧ enters (.vjqdb d a p ts single t) t ts [x] ∧
    enters (.vjred d a p sat rm op t) t t [x] ∧ enters (.vjsfu d a p sat rm t f) t t [x] ∧ enters (.vjfill d p t) t t []

/-- R222, R231, R232, R221: The earliest shape job that has not started, once it waits for no earlier entry and the engine is
free, reads its sources and occupies the engine for one clock per 1,024 bits, and for one more when a register form in the V
slot issues in that clock; four clocks after its last pass its rows are written, the poison words they cover whole replaced,
its entries released, the job gone, its flags in KFPX, one event counted on KIND 4 counters of its task, and poison it met
reported as the task's imprecise fault. -/
def Obligations.ShapeJobsRun : Prop :=
  (∀ (s : State) (core : Nat) (j : Job) (i : Sys2Proof.Instr) (d a b : ShapeRec), (s.core core).nextVec = some j →
    j.kind = .vec i d a b → s.vecMayStart core j = true →
    let gd := jobRegion j.kbank (jobFields i).td d
    let ga := jobRegion j.kbank (jobFields i).ts a
    let gb := jobRegion j.kbank (jobFields i).ts b
    let spans := [gd.span, ga.span, gb.span]
    let w := (Work.start s.mem core spans).run j.kbank i gd ga gb
    let ends := s.clk + (jobElements i d a * max gd.f.width (max ga.f.width gb.f.width) + 1023) / 1024 +
      (if (s.core core).vForm = s.clk + 1 then 1 else 0)
    ∃ t y, exec (.vectorJobStart core) s = .next t ∧ y.start = some s.clk ∧ y.accept = some (ends - 1) ∧
      y.buf = w.rows gd ∧ y.flags = w.flags ∧ y.kind = j.kind ∧
      (t.core core).jobs = (s.core core).jobs.map (fun k => if k.id = j.id then y else k) ∧
      (t.core core).vecBusy = ends ∧ (t.core core).board = (s.core core).board ∧ (s.core core).sameArch (t.core core)) ∧
  (∀ (s : State) (core e : Nat) (j : Job), (s.core core).activeVec = some j → j.accept = some e → e + 4 ≤ s.clk →
    let done := (((s.replaceCovered core j.buf).writeRows core j.buf).updCore core fun x => ((x.raise j.flags).release j.id false).dropJob j.id).updGrove
      (groveOf core) fun g => g.vecEvent j.owner
    (j.poison = none → exec (.vectorJobComplete core) s = .next done) ∧
    (∀ addr, j.poison = some addr → exec (.vectorJobComplete core) s =
      .next (done.updCore core fun c => { c with imprecise := c.imprecise ++
        [⟨4, 1, ((4 + 16 + 64 : Nat) : Word), 0, BitVec.ofNat 64 addr, false, s.tick, none, []⟩] })))

/-- R230, R216: On a region of one row or of several rows along x1 that do not overlap, within one bank, with x2 = x3 = 0, byte-
sized or wider elements of no block format and no word to correct or poison, the rows that a fill job writes hold, for every
element, the record's FILL value converted to the bank's format. -/
def Obligations.FillJobFillsItsRegion : Prop :=
  ∀ (s : State) (core bank : Nat) (kbank : Word) (p : BitVec 3) (t : BitVec 4) (r : ShapeRec),
    let g := jobRegion kbank t r
    let n := g.f.width / 8
    let code := (g.f.storeFlush (ftzAt kbank r.base 0) (g.f.encode .rne true g.f.isInt (fillValue g))).1
    let step := r.s1.toNat
    let len := (r.x0 + 1) * n
    g.f.isDb = false → g.f.width % 8 = 0 → 0 < n → r.x2 = 0 → r.x3 = 0 → (r.x1 = 0 ∨ (len : Int) ≤ r.s1) → bank < 8 →
    0xC000 * bank ≤ r.base → r.base + r.x1 * step + len ≤ 0xC000 * (bank + 1) →
    s.memoryCanonical → syndromesIn s.mem (spKey core r.base) (r.x1 * step + len) = [] →
    let w := (Work.start s.mem core [g.span, g.span, g.span]).run kbank (.vjfill 0 p t) g g g
    (w.rows g).length = r.x1 + 1 ∧ ∀ m, m ≤ r.x1 → ∃ bytes, (w.rows g)[m]? = some (r.base + m * step, bytes) ∧
      ∀ i k, i ≤ r.x0 → k < n → bytes[i * n + k]? = some (some (BitVec.ofNat 8 (code / 256 ^ k)))

/-- R83, R84, R20, R160, R161, R112: At an exposed landing every write of the core that is due is performed in order and its
flags enter KFPX, the others stay; a held bundle of a running core gets its turn; an entry whose job is over or has done its
reads is released; the imprecise fault of a running user-mode core at a boundary stops the core and hands its task to
containment. -/
def Obligations.PipelineEvents : Prop :=
  (∀ (s : State) (core : Nat), (∃ p ∈ (s.core core).pend, p.due s.clk = true) →
    (∀ p ∈ (s.core core).pend, s.waitValue core p = none) →
    ∃ t, exec (.exposedResultLand core) s = .next t ∧
      (t.core core).pend = (s.core core).pend.filter (fun p => !p.due s.clk) ∧
      (∀ p, (s.core core).pend.filter (fun q => q.due s.clk) = [p] →
        (t.core core) = { ((s.core core).wr p.reg p.val).raise p.flags with pend := (t.core core).pend })) ∧
  (∀ (s : State) (core : Nat), s.mayIssue core = true → (s.core core).latch = .held →
    exec (.stalledBundleIssue core) s = .next { s.updCore core fun c => { c with latch := .none } with turn := some core }) ∧
  (∀ (s : State) (core id : Nat) (e : SbEntry), (s.core core).board.find? (fun e => decide (e.id = id)) = some e →
    s.entryDone core e = true → ∃ t, exec (.scoreboardEntryRelease core id) s = .next t ∧
      (t.core core).board = (s.core core).board.filter (fun e => !decide (e.id = id)) ∧
      (s.core core).sameArch (t.core core)) ∧
  (∀ (s : State) (core : Nat) (f : FaultInfo) (r : List FaultInfo), (s.core core).imprecise = f :: r →
    (s.core core).midway = false → (s.core core).mode = .running → (s.core core).sup = false →
    ∃ t, exec (.impreciseFault core) s = .next t ∧ (t.core core).mode = .faulted ∧ (t.core core).ktrap = f.ktrap ∧
      (t.core core).ktval = f.ktval ∧ (t.core core).kepc = (s.core core).returnPoint ∧
      (t.core core).imprecise = { f with kepc := (s.core core).returnPoint } :: r ∧ (t.core core).board = (s.core core).board)

/-- R240, R241, R248, R252, R256: When it takes effect with a tracker that is not BUSY and holds no unacknowledged fault, a
descriptor that can be read and passes R241, and nothing to wait for, copy enters a job card with the descriptor, the
displacements of s[B] and s[E] and one entry per scratchpad end, and its tracker becomes BUSY with NCH and with the chunks
that no run writes set, no byte of memory changing; a BUSY tracker holds the bundle; an unacknowledged fault traps XLATE
with the cause and address of the tracker. -/
def Obligations.CopyEnters : Prop :=
  ∀ (s : State) (d a b : BitVec 7) (p : BitVec 3) (e : BitVec 5), s.opens (.copy d a b p e) = true →
    let k := s.me.tracker d.toNat
    (k.state = 1 → exec (.copy d a b p e) s = .next (s.updCore s.cur fun c => { c with latch := .held })) ∧
    (s.me.waitHolds = false → k.state ≠ 1 → k.fault = true → k.ack = false → exec (.copy d a b p e) s = .next (s.takeTrap (.xlate k.xc k.addr))) ∧
    (k.state ≠ 1 → (k.fault = false ∨ k.ack = true) → ∀ (desc : CopyDesc) (bytes map : List Byte) (s1 : State) (m : Option WinMap),
      s.readCopy s.me (s.me.ra a.toNat) = .ok (desc, bytes, map, s1) → copyReserved desc bytes = false →
      (desc.win = false ∧ desc.wmap = 0 ∧ m = none ∨
        desc.win = true ∧ desc.wmap ≠ 0 ∧ mapError desc map = none ∧ m = some (parseMap map)) →
      let plan : CopyPlan := ⟨desc, m, (s.me.rs b.toNat).toInt, (s.me.rs e.toNat).toInt, s.me.kbank⟩
      plan.check = none → s.me.cardWaits plan.regions = none → s.copyAcquires s.me desc = false →
      ∃ t j, exec (.copy d a b p e) s = .next t ∧ t.me.jobs = s.me.jobs ++ [j] ∧
        j.kind = .copy (some d.toNat) none desc m (s.me.rs b.toNat).toInt (s.me.rs e.toNat).toInt ∧ j.id = s.me.ords ∧
        t.me.board = s.me.board ++ plan.regions.zipIdx.map (fun e => e.1.entry (s.me.ords * 8 + e.2) s.me.ords s.me.ords) ∧
        (d.toNat < 16 → (t.me.tracker d.toNat).state = 1 ∧ (t.me.tracker d.toNat).nch = plan.nch ∧
          (t.me.tracker d.toNat).fault = false ∧ (t.me.tracker d.toNat).bits = setBits 0 plan.freeChunks) ∧
        (∀ j, j ≠ d.toNat → t.me.tracker j = s.me.tracker j) ∧ s.me.sameArch t.me ∧ s.sameMemory t)

/-- R254, R255, R253, R256: When it takes effect: cwait waits in its predicate for the chunks LO to HI of s[B], cwait.w for
those that the 64-bit mask selects in its group, without those from NCH up; ctest and ctest.w answer 32 and 64 chunk bits of
a group with latency 2; ctest.rec and ctest.addr answer the record and the fault address, zero without a fault, and
acknowledge a fault. -/
def Obligations.CopyWaitsAndTests : Prop :=
  ∀ (s : State) (d a b : BitVec 7) (p : BitVec 3) (k : BitVec 4),
    let tr := s.me.tracker a.toNat
    let x := s.me.rs b.toNat
    let waits (i : Sys2Proof.Instr) (set : List Nat) : Prop := s.opens i = true →
      exec i s = .next (s.updCore s.cur fun c => { c with
        ords := c.ords + 1,
        pend := c.pend ++ [⟨pReg d, 0, 0, .chunks a.toNat (set.filter fun n => decide (n < tr.nch)) c.ords, s.clk⟩] })
    let acks (i : Sys2Proof.Instr) (v : Word) : Prop := s.opens i = true → a.toNat < 16 →
      ∃ t, exec i s = .next t ∧ t.me.pend = (s.writeReg 2 (sReg d) v.toNat 0).me.pend ∧
        (t.me.tracker a.toNat).ack = (tr.ack || tr.fault) ∧ { t.me.tracker a.toNat with ack := tr.ack } = tr ∧
        s.me.sameArch t.me
    waits (.cwait d a b p) ((List.range ((x.extractLsb' 16 11).toNat + 1 - (x.extractLsb' 0 11).toNat)).map
      ((x.extractLsb' 0 11).toNat + ·)) ∧
    waits (.cwaitW d a b p k) (((List.range 64).filter fun j => x.getLsbD j).map (64 * k.toNat + ·)) ∧
    (s.opens (.ctest d a b p) = true → exec (.ctest d a b p) s =
      .next (s.writeReg 2 (pReg d) ((tr.bits.extractLsb' (32 * (x.toNat % 32)) 32).toNat) 0)) ∧
    (s.opens (.ctestW d a b p) = true → exec (.ctestW d a b p) s =
      .next (s.writeReg 2 (sReg d) ((tr.bits.extractLsb' (64 * (x.toNat % 16)) 64).toNat) 0)) ∧
    acks (.ctestRec d a p) tr.record ∧ acks (.ctestAddr d a p) (if tr.fault then tr.addr else 0)

/-- R253: Of the record of a tracker, bits 15:0 are the number of failed runs up to 0xFFFF, 17:16 the state, 18 DROP, 19 FAULT,
22:20 the cause, 23 ACK, 24 the failing end and 42:32 NCH. -/
def Obligations.CompletionRecordFields : Prop :=
  ∀ (t : Tracker), t.nch ≤ 1024 →
    let w := t.record
    (w.extractLsb' 0 16).toNat = min t.fruns 0xFFFF ∧ (w.extractLsb' 16 2).toNat = t.state % 4 ∧ w.getLsbD 18 = t.drop ∧
    w.getLsbD 19 = t.fault ∧ (w.extractLsb' 20 3).toNat = t.xc % 8 ∧ w.getLsbD 23 = t.ack ∧ w.getLsbD 24 = t.endDst ∧
    (w.extractLsb' 32 11).toNat = t.nch ∧ w.extractLsb' 25 7 = 0 ∧ w.extractLsb' 43 21 = 0

/-- R242, R243, R249, R252, R253, R256, R258: A run whose time has come begins: both its ends are resolved; one whose end fails
reads and writes nothing and is recorded as failed; one between two ends outside the scratchpad is read and written at once;
a source in the scratchpad is read as far as its port carries in the clock, and goes on in the clocks that follow; another
source is read at once, or the window map fills it. Bytes for a place outside the scratchpad are written, where the run led
when it began, when all are present; into the scratchpad the first run writes in each clock up to 128 bytes of those
present, up to a whole granule of 16 bytes unless it ends, once its entry waits for nothing. That the data of a read are
present one clock later, and those from outside at once, is the model's reading, log entry 19. With the last bytes of a
chunk that any run writes, its bit is set in the tracker. A copy whose runs are over releases its entries and, without
failure, makes its tracker DONE, else DONE with fault, cause, failing end, count and address of the first failed run in nest
order. -/
def Obligations.CopyRunsAndEnd : Prop :=
  (∀ (s : State) (core run : Nat) (j : Job) (p : CopyPlan) (tr : Nat) (d : CopyDesc) (m : Option WinMap) (x y : Int),
    (s.core core).job? j.id = some j → j.kind = .copy (some tr) none d m x y → j.copyPlan = some p → tr < 16 →
    s.runMay core j p run = true → s.runHeld core (s.core core).ctxNo (!(s.core core).sup) j p run = false →
    let ctx := (s.core core).ctxNo
    let user := !(s.core core).sup
    let src := remoteSource (s.ctx ctx).member core
    let looked := s.endsLooked core ctx user p run
    let writes (u : State) : Prop := ∃ t, exec (.copyRunPerform core j.id run) s = .next t ∧ t.mem = u.mem ∧
      ∃ l, (∀ c, c ∈ l ↔ c ∈ p.runChunks run ∧ ∀ q, q < p.d.runs → c ∈ p.runChunks q → p.wrote (j.endRun run) q c = true) ∧
        ((t.core core).tracker tr).bits = setBits ((u.core core).tracker tr).bits l
    (∀ f, j.moved run = none → s.resolveRun core ctx user p run = some (.error f) →
      exec (.copyRunPerform core j.id run) s = .next (looked.updCore core fun k => k.updJob j.id fun _ => j.failRun run f)) ∧
    (∀ sl dl, j.moved run = none → s.resolveRun core ctx user p run = some (.ok (sl, dl)) →
      let e0 : Moving := ⟨run, if p.d.dk then dl else [], 0, [], [], 0, s.clk, 0⟩
      (p.d.sk = true → p.d.dk = true → p.filled run = false →
        writes ((looked.readRun ctx sl).2.writeRunAt ctx src dl (looked.readRun ctx sl).1)) ∧
      (p.d.sk = true → p.d.dk = false → p.filled run = false → ∃ t k, exec (.copyRunPerform core j.id run) s = .next t ∧
        (t.core core).job? j.id = some k ∧ t.mem = (looked.readRun ctx sl).2.mem ∧
        k.moved run = some { e0 with data := (looked.readRun ctx sl).1, seen := (looked.readRun ctx sl).1.length }) ∧
      (p.d.sk = false → p.filled run = false → ∃ t k, exec (.copyRunPerform core j.id run) s = .next t ∧
        (t.core core).job? j.id = some k ∧ k.accept = some s.clk ∧ k.moved run = some (looked.readPiece core j p e0).1) ∧
      (∀ wm, p.map = some wm → p.filled run = true → p.d.sk = false ∨ p.d.dk = false → ∃ t k,
        exec (.copyRunPerform core j.id run) s = .next t ∧ (t.core core).job? j.id = some k ∧
        k.moved run = some { e0 with data := wm.fillBytes p.d.len, seen := (wm.fillBytes p.d.len).length })) ∧
    (∀ e, j.moved run = some e → p.readUp e = false → ∃ t k, exec (.copyRunPerform core j.id run) s = .next t ∧
      (t.core core).job? j.id = some k ∧ k.accept = some s.clk ∧ k.moved run = some (s.readPiece core j p e).1) ∧
    (∀ e, j.moved run = some e → p.readUp e = true → p.d.dk = true → writes (s.writeRunAt ctx src e.dst e.data))) ∧
  (∀ (s : State) (core : Nat) (j : Job) (p : CopyPlan) (e : Moving),
    let a := (p.srcAt e.run).toNat + e.got
    let n := portBytes a (p.srcLen - e.got)
    let b := readBytes (s.ahead core j p e.run).mem (spKey core a) n
    (n ≤ 128 ∧ (n < p.srcLen - e.got → (a + n) % 16 = 0)) ∧ (s.readPiece core j p e).1.got = e.got + n ∧
    (p.converting = false → (s.readPiece core j p e).1.data = e.data ++ b)) ∧
  (∀ (s : State) (core tr : Nat) (j : Job) (p : CopyPlan) (d : CopyDesc) (m : Option WinMap) (x y : Int) (e : Moving) (rest : List Moving),
    (s.core core).writePort = some (j, p) → j.kind = .copy (some tr) none d m x y → j.moving = e :: rest →
    let n := p.writeNow e s.clk
    (n ≤ 128 ∧ (n ≠ 0 → n < p.dstLen - e.wrote → ((p.dstAt e.run).toNat + e.wrote + n) % 16 = 0)) ∧
    (n = 0 ∨ (s.core core).sideWaits j.id true = true → s.copyWrite core = s) ∧
    (n ≠ 0 → (s.core core).sideWaits j.id true = false →
      (s.copyWrite core).mem = (s.writeSp core (p.dstAt e.run + e.wrote).toNat (e.data.take n) (s.core core).ctxNo true).1.mem)) ∧
  (∀ (s : State) (core tr : Nat) (j : Job) (p : CopyPlan) (d : CopyDesc) (m : Option WinMap) (x y : Int),
    (s.core core).job? j.id = some j → j.kind = .copy (some tr) none d m x y → j.copyPlan = some p → p.d.runs ≤ j.steps →
    tr < 16 →
    ∃ t, exec (.copyFinish core j.id) s = .next t ∧
      (t.core core).board = (s.core core).board.filter (fun e => !decide (e.job = j.id)) ∧
      (t.core core).jobs = (s.core core).jobs.filter (fun k => !decide (k.id = j.id)) ∧
      (j.firstFailure = none → ((t.core core).tracker tr).state = 2) ∧
      (∀ n c a e, j.firstFailure = some (n, c, a, e) →
        ((t.core core).tracker tr).state = 3 ∧ ((t.core core).tracker tr).fault = true ∧ ((t.core core).tracker tr).xc = c ∧
        ((t.core core).tracker tr).endDst = e ∧ ((t.core core).tracker tr).fruns = j.failed.length ∧
        ((t.core core).tracker tr).addr = BitVec.ofNat 64 a))

/-- R263, R268, R269, R273, R277, R278: When it takes effect, its records can be read and pass their checks, its reserved
control bits are zero and nothing makes it wait: mldb enters a plane load with its read entry, and the tag and record of its
plane change at issue; mjob enters a job with a read entry on A and a write entry on C; mgang and mgang.join enter such a
share when the task's index lies in MASK, and in every case send their control word and index to the task engine, which they
reach 6 clk after issue; no byte of memory changes. -/
def Obligations.MatrixOperationsEnter : Prop :=
  ∀ (s : State) (k d a b : BitVec 7) (plane bt : Bool) (p : BitVec 3) (t : BitVec 4),
    (s.opens (.mldb k a plane p bt t) = true → k.toNat < 4 →
      ∀ r s1 f g, s.readRecord s.cur s.me (s.me.rh a.toNat) = .ok r s1 → checkPlane s.me.kbank t bt r = .ok (f, g) →
        s.me.cardWaits [g] = none →
        let kp := 2 * k.toNat + (if plane then 1 else 0)
        ∃ u j, exec (.mldb k a plane p bt t) s = .next u ∧ u.me.jobs = s.me.jobs ++ [j] ∧
          j.kind = .mldb k.toNat (if plane then 1 else 0) t bt r ∧
          u.me.board = s.me.board ++ [g.entry (s.me.ords * 8) s.me.ords s.me.ords] ∧
          (u.me.plane kp).tag = fmtCode f ∧ (u.me.plane kp).record = some (r, t, bt) ∧
          (u.me.plane kp).elems = (s.me.plane kp).elems ∧ (∀ n, n ≠ kp → u.me.plane n = s.me.plane n) ∧ s.me.sameArch u.me ∧ s.sameMemory u) ∧
    ∀ rc ra s1 (m : MatCard),
      let w := s.me.rs b.toNat
      readRecords s s.cur s.me [s.me.rh d.toNat, s.me.rh a.toNat] = .ok ([rc, ra], s1) →
      (s.opens (.mjob d a b p t) = true → w &&& 0xFFFFFFFFFFFF0000 = 0 → checkMat s.me t w true rc ra = .ok m →
        s.me.cardWaits [m.ra, m.rc] = none →
        ∃ u j, exec (.mjob d a b p t) s = .next u ∧ u.me.jobs = s.me.jobs ++ [j] ∧ j.kind = .mat t w m.a m.c none ∧
          u.me.board = s.me.board ++ [m.ra.entry (s.me.ords * 8) s.me.ords s.me.ords,
            m.rc.entry (s.me.ords * 8 + 1) s.me.ords s.me.ords] ∧ s.me.sameArch u.me ∧ s.sameMemory u) ∧
      ∀ i join, (i = Sys2Proof.Instr.mgang d a b p t ∧ join = false) ∨ (i = Sys2Proof.Instr.mgangJoin d a b p t ∧ join = true) →
        s.opens i = true → w &&& 0xFFFF000000FFF800 = 0 → checkMat s.me t w (!join) rc ra = .ok m → s.gangRule s.me w join = true →
        let n := gangIndex (s.imageOf s.cur).widths (ctlLevel w) s.me.kwid
        let share : Bool := decide (n ≤ 3) && (ctlMask w).testBit n
        s.me.cardWaits (if share then [m.ra, m.rc] else []) = none →
        ∃ u x, exec i s = .next u ∧ u.me.xops = s.me.xops ++ [x] ∧ x.op = i ∧ x.va = w ∧ x.vb = BitVec.ofNat 64 n ∧
          x.at_ = s.clk + 5 ∧ x.wid = s.me.kwid ∧ s.me.sameArch u.me ∧ s.sameMemory u ∧
          (share = false → u.me.jobs = s.me.jobs ∧ u.me.board = s.me.board) ∧
          (share = true → x.job = s.me.ords ∧ (∃ j, u.me.jobs = s.me.jobs ++ [j] ∧ j.id = s.me.ords ∧
            j.kind = .mat t w m.a m.c (some n)) ∧ u.me.board = s.me.board ++ [m.ra.entry (s.me.ords * 8) s.me.ords s.me.ords,
            m.rc.entry (s.me.ords * 8 + 1) s.me.ords s.me.ords])

/-- R264, R270, R271, R275: The next plane load starts when it may and occupies its engine for L clocks, at whose end its plane
takes the loaded elements and its entry goes; the next matrix job starts when it may; four clocks after its last digit clock
its rows are written, its entries released and its flags set, and with BEN and no fault it arrives at its barrier; a new
window of 64 clocks renews the digit-steps of a grove. -/
def Obligations.MatrixEngineRuns : Prop :=
  (∀ (s : State) (core k pl : Nat) (j : Job) (t : BitVec 4) (bt : Bool) (r : ShapeRec), (s.core core).nextLoad = some j →
    j.kind = .mldb k pl t bt r → s.loadMayStart core j = true →
    ∃ u, exec (.mldbLoadStart core) s = .next u ∧ (u.core core).ldBusy = s.clk + (if bt then max 32 (r.x1 + 1) else 32) ∧
      (u.core core).jobs = (s.core core).jobs.map fun i => if i.id = j.id then { i with start := some s.clk } else i) ∧
  (∀ (s : State) (core k pl b : Nat) (j : Job) (t : BitVec 4) (bt : Bool) (r : ShapeRec), (s.core core).activeLoad = some j →
    j.kind = .mldb k pl t bt r → j.start = some b → j.accept.isSome = true →
    b + (if bt then max 32 (r.x1 + 1) else 32) ≤ s.clk + 1 → 2 * k + pl < 8 →
    ∃ u, exec (.planeLoaded core) s = .next u ∧
      ((u.core core).plane (2 * k + pl)).elems = ((s.core core).plane (2 * k + pl)).next ∧
      ((u.core core).plane (2 * k + pl)).tag = ((s.core core).plane (2 * k + pl)).tag ∧
      (u.core core).jobs = (s.core core).jobs.filter (fun i => !decide (i.id = j.id)) ∧
      (u.core core).board = (s.core core).board.filter (fun e => !decide (e.job = j.id))) ∧
  (∀ (s : State) (core : Nat) (j : Job), (s.core core).nextMat = some j → s.matMayStart core j = true →
    ∃ u, exec (.matrixJobStart core) s = .next u ∧
      (u.core core).jobs = (s.core core).jobs.map fun i => if i.id = j.id then { i with start := some s.clk } else i) ∧
  (∀ (s : State) (core last : Nat) (j : Job) (t : BitVec 4) (ctl : Word) (ra rc : ShapeRec), (s.core core).endingMat = some j →
    j.kind = .mat t ctl ra rc none → j.accept = some last → last + 4 ≤ s.clk → j.failed = [] →
    (s.grove (groveOf core)).gangOf core j.id = none →
    ∃ u, exec (.matrixJobComplete core) s = .next u ∧ u.mem = (s.writeRows core j.buf).mem ∧
      (u.core core).jobs = (s.core core).jobs.filter (fun i => !decide (i.id = j.id)) ∧
      (u.core core).board = (s.core core).board.filter (fun e => !decide (e.job = j.id)) ∧
      (u.core core).kfpx = (s.core core).kfpx ||| j.flags.setWidth 64 ∧
      (u.grove (groveOf core)).arrivals = (s.grove (groveOf core)).arrivals ++
        (if ctl.getLsbD 11 then [⟨(s.core core).ctxNo, (ctl.extractLsb' 12 4).toNat, s.clk + 1, none, none⟩] else [])) ∧
  (∀ (s : State) (g : Nat), (s.grove g).govWindow ≠ s.clk / 64 →
    exec (.governorWindow g) s = .next (s.updGrove g fun x => { x with govWindow := s.clk / 64, govUsed := 0 }))

/-- R279, R280, R281, R282: A member whose share fits gets the elements and formats of the leader's planes as they stood before
any load issued after its mgang, 8 clk for each; at the end of 65,536 clk the members of MASK not accepted become late; in a
clock after every share has ended, the KMJOB of each member whose core still holds its task holds V, the fault mark, MASK,
the done-mask and the late-mask; 4 clk later one arrival reaches the barrier GBAR of each member of MASK, with the done-mask
and a mark when the job failed. -/
def Obligations.GangJobEvents : Prop :=
  (∀ (s : State) (g m : Nat) (G : GangJob) (x l : GangMember) (id : Nat) (j : Job) (t : BitVec 4) (ctl : Word)
    (ra rc : ShapeRec) (cls : MatClass),
    (s.grove g).gangs.find? (fun H => decide (H.id = G.id)) = some G →
    G.members.find? (fun y => decide (y.index = m) && y.job.isSome) = some x → G.members.find? (·.leader) = some l →
    s.mayTransfer G x = true → x.job = some id → (s.core x.core).job? id = some j → j.kind = .mat t ctl ra rc (some m) →
    classA (jobRegion j.kbank t ra).f = some cls →
    let held (k : Nat) : Plane := match G.kept.find? fun e => decide (e.1 = k) with
      | some e => e.2
      | none => (s.core l.core).plane k
    planesFit ((ctlPlanes ctl).map fun k => (held k).fmt) cls (rc.x0 + 1) (ctlN ctl) = true →
    ∃ u, exec (.planeTransfer g G.id m) s = .next u ∧ ∀ k ∈ ctlPlanes ctl, k < 8 →
      ((u.core x.core).plane k).elems = (held k).elems ∧ ((u.core x.core).plane k).fmt = (held k).fmt) ∧
  (∀ (s : State) (g : Nat) (G : GangJob), (s.grove g).gangs.find? (fun H => decide (H.id = G.id)) = some G →
    G.closed = false → G.completed = none → G.opened + 65536 ≤ s.clk → G.onCores = true → (∃ l ∈ G.members, l.leader = true) →
    ∃ u late, exec (.gangWindowExpire g G.id) s = .next u ∧
      (∀ i, i < 4 → (BitVec.getLsbD late i = true ↔ (ctlMask G.ctl).testBit i = true ∧ ∀ m ∈ G.members, m.index ≠ i)) ∧
      (u.grove g).gangs = (s.grove g).gangs.map (fun H => if H.id = G.id then { H with closed := true, late := late, last := s.clk } else H) ∧
      (u.grove g).gangLate = (s.grove g).gangLate ++ (if late = 0 then [] else [(G.ctx, G.level, G.key, late, false)])) ∧
  (∀ (s : State) (g : Nat) (G : GangJob) (m : GangMember), (s.grove g).gangs.find? (fun H => decide (H.id = G.id)) = some G →
    G.over s.clk = true → m ∈ G.members → s.holds m.core m.uid = true →
    (∀ n ∈ G.members, n.core = m.core → n = m) →
    ∃ u, exec (.gangCompletion g G.id) s = .next u ∧
      let k := (u.core m.core).kmjob
      k.getLsbD 0 = true ∧ (k.getLsbD 3 = true ↔ G.doneMask ≠ ctlMask G.ctl) ∧ (k.extractLsb' 4 4).toNat = ctlMask G.ctl ∧
      (k.extractLsb' 8 4).toNat = G.doneMask ∧ k.extractLsb' 12 4 = G.late) ∧
  (∀ (s : State) (g t : Nat) (G : GangJob), (s.grove g).gangs.find? (fun H => decide (H.id = G.id)) = some G →
    G.completed = some t → t + 4 ≤ s.clk →
    ∃ u, exec (.gangArrivalCount g G.id) s = .next u ∧
      (u.grove g).arrivals = (s.grove g).arrivals ++ ((List.range 4).filter fun i => (ctlMask G.ctl).testBit i).map (fun i =>
        ⟨G.ctx, ctlGbar G.ctl i, s.clk, some (decide (G.doneMask ≠ ctlMask G.ctl), G.doneMask), none⟩) ∧
      (u.grove g).gangs = (s.grove g).gangs.filter (fun H => !decide (H.id = G.id)))

/-- R289, R83, R180, R181, R185, R186, R292, R328, R352, R389, R392: When it takes effect, its issue checks pass and no wait
holds it, each of sub, unsub, peek, nameq, spawn, tinst, barr, bwait, btest, bset, migrate, tsrc, tadd, tset, tdis, tget,
tget.slot, tget.res, colt, snap, snrd and snrd.rb appends one operation to those on their way, with the values its registers
hold, its name where it has one, the next order number and the clock of its acceptance; barr, tadd and tset are releases;
the registers it answers are expected after 6 clk, but for bwait and nameq, whose answers are waited for. -/
def Obligations.XOperationsSend : Prop :=
  ∀ (s : State) (d a b : BitVec 7) (p l : BitVec 3) (ch : BitVec 6), s.me.waitHolds = false →
    let n := s.me.ords
    let entry := s.chanOf s.cur ch.toNat
    let name := s.chanName s.cur ch.toNat (s.me.rs b.toNat)
    let mask := s.me.rs d.toNat &&& 0x00FFFFFFFFFFFFFF
    let sends (i : Sys2Proof.Instr) (va vb : Word) (name : Option Name) (rel : Bool) (answers : List (Reg × Wait)) : Prop :=
      s.opens i = true →
      ∃ t x, exec i s = .next t ∧ t.me.xops = s.me.xops ++ [x] ∧ x.op = i ∧ x.at_ = s.clk + 5 ∧ x.va = va ∧ x.vb = vb ∧
        x.name = name ∧ x.rel = rel ∧ x.ord = n ∧ x.wid = s.me.kwid ∧ t.me.ords = n + 1 ∧
        t.me.pend = s.me.pend ++ answers.map (fun e => (⟨e.1, 0, 0, e.2, s.clk⟩ : Pend)) ∧
        s.me.sameArch t.me ∧ t.me.board = s.me.board ∧ t.me.jobs = s.me.jobs ∧ s.sameButCores t
    let soon (r : Reg) : Reg × Wait := (r, .posted (s.clk + 5) n)
    (chKind entry = 1 → chHw entry = 0 →
      sends (.sub d b p ch) (s.me.rs b.toNat) mask (some name) false [] ∧
      sends (.unsub d b p ch) (s.me.rs b.toNat) mask (some name) false [] ∧
      sends (.peek d b p ch) (s.me.rs b.toNat) 0 (some name) false [soon (pReg d)] ∧
      sends (.nameq d b p ch) (s.me.rs b.toNat) 0 (some name) false [(sReg d, .reply (s.cur * 2 ^ 32 + n))]) ∧
    (widWidth (s.imageOf s.cur).widths (l.toNat + 1) ≠ 0 →
      sends (.spawn d a b p l) (s.me.rs a.toNat) 0 none false [soon (sReg d), soon (pReg b)]) ∧
    sends (.tinst a b p l) (s.me.rs a.toNat) (s.me.rs b.toNat) none false [] ∧
    sends (.barr a p) 0 0 none true [] ∧
    sends (.bwait d a p) 0 0 none false [(pReg d, .phase a.toNat 65536 n)] ∧
    sends (.btest d a p) 0 0 none false [soon (pReg d)] ∧
    sends (.bset a b p) (s.me.rs b.toNat) 0 none false [] ∧
    sends (.migrate a b p) (s.me.rs a.toNat) (s.me.rs b.toNat) none false [] ∧
    (s.counterTrap s.me d.toNat = none →
      (sourceTrap (s.me.rs a.toNat) (s.me.rs b.toNat) = none →
        sends (.tsrc d a b p) (s.me.rs a.toNat) (s.me.rs b.toNat) none false []) ∧
      sends (.tadd d a p) (s.me.rs a.toNat) 0 none true [] ∧ sends (.tset d a p) (s.me.rs a.toNat) 0 none true []) ∧
    (s.counterTrap s.me a.toNat = none → sends (.tget d a p) 0 0 none false [soon (sReg d)]) ∧
    (s.slotTrap s.me ((s.me.rs a.toNat).extractLsb' 0 9).toNat = none → sends (.tdis a p) (s.me.rs a.toNat) 0 none false []) ∧
    (s.slotTrap s.me ((s.me.rs b.toNat).extractLsb' 0 9).toNat = none →
      sends (.tgetSlot d b p) (s.me.rs b.toNat) 0 none false [soon (sReg d)] ∧
      sends (.tgetRes d b p) (s.me.rs b.toNat) 0 none false [soon (sReg d)]) ∧
    (chKind entry = 2 → sends (.colt d p ch) 0 0 none false [soon (sReg d)]) ∧
    sends (.snap a p) (s.me.rs a.toNat) 0 none false [] ∧
    sends (.snrd d p) 0 0 none false [soon (sReg d)] ∧ sends (.snrdRb d p) 0 0 none false [soon (sReg d)]

/-- R142, R289, R291, R293, R294, R297, R298, R350, R351, R360: When it takes effect, its channel entry has the right kind, its
region passes its checks and nothing makes it wait (for pub and halo, no open acquire of scope W or K, which holds the
bundle), each of pub, recv, recva, halo and halo.r enters one job and one entry, and sends an operation with the
instantiated name and the job's number; coll enters its source and destination regions, takes the next round of its channel
and sends the operation to the collective engine, and holds the bundle while five of its class are outstanding. -/
def Obligations.XOperationsWithRegions : Prop :=
  ∀ (s : State) (d a b : BitVec 7) (p : BitVec 3) (ch : BitVec 6) (sat : Bool),
    let entry := s.chanOf s.cur ch.toNat
    let n := s.me.ords
    let base := (s.me.ra a.toNat).toNat
    let name := s.chanName s.cur ch.toNat (s.me.rs b.toNat)
    let cards (i : Sys2Proof.Instr) (regions : List Region) (name : Name) (kind : JobKind) : Prop := s.opens i = true →
      s.me.cardWaits regions = none →
      ∃ t x j, exec i s = .next t ∧ t.me.xops = s.me.xops ++ [x] ∧ x.op = i ∧ x.at_ = s.clk + 5 ∧ x.job = n ∧ x.name = some name ∧
        t.me.jobs = s.me.jobs ++ [j] ∧ j.id = n ∧ j.kind = kind ∧
        t.me.board = s.me.board ++ regions.zipIdx.map (fun e => e.1.entry (n * 8 + e.2) n n) ∧ s.me.sameArch t.me ∧ s.sameButCores t
    let accepts : Prop := s.me.acquireHolds 1 s.me.bord = false
    let stalls (i : Sys2Proof.Instr) (reg : Region) : Prop := s.opens i = true → s.me.cardWaits [reg] = none → s.me.acquireHolds 1 s.me.bord = true →
      exec i s = .next (s.updCore s.cur fun c => { c with latch := .held })
    let tent := tentative (s.taskOf s.cur) ((s.ctx s.me.ctxNo).image.chan ch.toNat)
    (chKind entry = 1 → chHw entry = 0 → ∀ r reg,
      (chanRegion entry base false = .ok (r, reg) → accepts → cards (.pub a b p ch) [reg] name (.pub ch.toNat name r none tent)) ∧
      (chanRegion entry base false = .ok (r, reg) → stalls (.pub a b p ch) reg) ∧
      (chanRegion entry base true = .ok (r, reg) → cards (.recv a b p ch) [reg] name (.recv ch.toNat name r false false)) ∧
      (chanRegion entry base true = .ok (r, reg) → cards (.recva a b p sat ch) [reg] name (.recv ch.toNat name r true sat))) ∧
    (chKind entry = 1 → chHw entry ≠ 0 → ∀ r reg,
      (chanRegion entry base false = .ok (r, reg) → accepts → cards (.halo a b p ch) [reg] name (.pub ch.toNat name r none tent)) ∧
      (chanRegion entry base false = .ok (r, reg) → stalls (.halo a b p ch) reg) ∧
      (haloRegion entry base = .ok (r, reg) → cards (.haloR a b p ch) [reg] name (.haloRecv ch.toNat r.base))) ∧
    (let i := s.memberOf s.cur entry
     let dst := (s.me.ra d.toNat).toNat
     collTrap entry i dst base = none →
       ((s.collsOf s.cur (chExpress entry)).length < 5 →
         cards (.coll d a b p ch) (collRegions entry i dst base) (s.collName s.cur entry (s.me.rs b.toNat))
           (.coll ch.toNat (s.collName s.cur entry (s.me.rs b.toNat)) base dst (Tbl.getD s.me.rounds ch.toNat 0 % 65536))) ∧
       (5 ≤ (s.collsOf s.cur (chExpress entry)).length → s.opens (.coll d a b p ch) = true →
         exec (.coll d a b p ch) s = .next (s.updCore s.cur fun c => { c with latch := .held })))

/-- R182, R296, R331, R352, R81: nop changes nothing; when it takes effect, exit makes the core exit with no branch taken;
nameq.n writes the instantiated name, high word then low word, to s[D] and s[D+1] with latency 6; tarm of an aligned image
in range that can be read and passes its checks sends the 256 bytes to the trigger engine, no byte of memory changing; colw
waits in s[D] for the earlier collectives of its channel. -/
def Obligations.ExitArmNameAndWait : Prop :=
  (∀ (s : State), exec .nop s = .next s) ∧
  ∀ (s : State) (d a b : BitVec 7) (p : BitVec 3) (ch : BitVec 6),
    (s.opens (.exit p) = true → exec (.exit p) s = .next (s.updCore s.cur fun c =>
      { c with mode := .exiting, branch := none, delay := false, latch := .jumped })) ∧
    (s.me.waitHolds = false → s.opens (.nameqN d b p ch) = true → chKind (s.chanOf s.cur ch.toNat) = 1 →
      chHw (s.chanOf s.cur ch.toNat) = 0 →
      let n := (s.chanName s.cur ch.toNat (s.me.rs b.toNat)).bits
      exec (.nameqN d b p ch) s = .next ((s.writeReg 6 (sReg d) (n / 2 ^ 32) 0).writeReg 6 ⟨.s, d.toNat + 1⟩ (n % 2 ^ 32) 0)) ∧
    (let ad := (s.me.ra a.toNat).toNat
     let bytes := readBytes s.mem (spKey s.cur ad) 256
     s.opens (.tarm a b p) = true → ad % 64 = 0 → ad + 256 ≤ 0x60000 → s.me.accessWaits ad 256 false = false →
       (∀ x ∈ bytes, x ≠ none) →
       (s.grove (groveOf s.cur)).imageTrap s.me.ctxNo ((s.me.rs b.toNat).extractLsb' 0 9).toNat (bytes.map (·.getD 0)) = none →
       ∃ t x, exec (.tarm a b p) s = .next t ∧ t.me.xops = s.me.xops ++ [x] ∧ x.op = .tarm a b p ∧ x.va = s.me.rs b.toNat ∧
         x.image = bytes.map (·.getD 0) ∧ x.at_ = s.clk + 5 ∧ s.me.sameArch t.me ∧ s.sameMemory t) ∧
    (s.opens (.colw d p ch) = true → chKind (s.chanOf s.cur ch.toNat) = 2 → s.me.waitHolds = false →
      exec (.colw d p ch) s = .next (s.updCore s.cur fun c => { c with
        pend := c.pend ++ [⟨sReg d, 0, 0, .colls ch.toNat c.ords, s.clk⟩], ords := c.ords + 1 }))

/-- R289, R184, R185, R187, R188, R330, R332, R333, R293: The first operation of a core that may take effect does, and is no
longer on its way. Then: barr records the barrier's phase and sends one arrival; btest answers whether the recorded phase
has ended; tadd adds to its counter; tset sets it; tget answers the counter word; tdis empties an ARMED slot; bset sets
COUNT at once on a barrier with no arrivals; recv without a matching subscription releases its entry and faults. A barrier
counts the arrivals of a clock together, then completes one phase when COUNT are there: PHASE rises by one and COUNT is
subtracted. -/
def Obligations.XOperationsAccepted : Prop :=
  (∀ (s : State) (core : Nat) (x : XOp), s.xNext core = some x →
    let g := groveOf core
    let ctx := (s.core core).ctxNo
    let kept := (s.core core).xops.filter fun y => !decide (y.ord = x.ord)
    ∃ t, exec (.xOpAccept core) s = .next t ∧
      (∀ a p, x.op = .barr a p → a.toNat < 16 → ((s.grove g).barrier ctx a.toNat).lvl = false →
        (t.core core).arrivals[a.toNat]? = some (some ((s.grove g).barrier ctx a.toNat).phase) ∧
        (t.grove g).arrivals = (s.grove g).arrivals ++ [⟨ctx, a.toNat, s.clk, none, none⟩]) ∧
      (∀ d a p q c, x.op = .btest d a p → a.toNat < 16 → (s.core core).pend = [q] → q.wait = .posted c x.ord →
        (∀ ph, (s.core core).arrivals[a.toNat]? = some (some ph) → (t.core core).pend =
          [{ q with val := if ((s.grove g).barrier ctx a.toNat).phase = ph then 0 else 0xFFFFFFFF, wait := .timed c }])) ∧
      (∀ d a p q c, x.op = .tget d a p → (s.core core).pend = [q] → q.wait = .posted c x.ord → (t.core core).pend =
        [{ q with val := (((s.grove g).counter a.toNat).word).toNat, wait := .timed c }]) ∧
      (∀ d a p, x.op = .tadd d a p → (t.core core).xops = kept ∧
        ((t.grove g).counter d.toNat).adds = ((s.grove g).counter d.toNat).adds + (x.va.extractLsb' 0 48).toNat) ∧
      (∀ d a p, x.op = .tset d a p → (t.core core).xops = kept ∧ ((t.grove g).counter d.toNat).set = some (x.va.extractLsb' 0 48).toNat) ∧
      (∀ a p, x.op = .tdis a p → ((s.grove g).slot (x.va.extractLsb' 0 9).toNat).state = .armed →
        ((t.grove g).slot (x.va.extractLsb' 0 9).toNat).state = .empty) ∧
      (∀ a b p, x.op = .bset a b p → ((s.grove g).barrier ctx a.toNat).arrived = 0 → ((s.grove g).barrier ctx a.toNat).npend = false →
        ((t.grove g).barrier ctx a.toNat).count = max (x.va.extractLsb' 0 12).toNat 1 ∧
        ((t.grove g).barrier ctx a.toNat).phase = ((s.grove g).barrier ctx a.toNat).phase) ∧
      (∀ a b p ch n, x.op = .recv a b p ch → x.name = some n → s.matchFor core ch.toNat n = none →
        (t.core core).board = (s.core core).board.filter (fun e => !decide (e.job = x.job)) ∧
        (t.core core).imprecise.length = (s.core core).imprecise.length + 1)) ∧
  (∀ (s : State) (g bar : Nat), (s.grove g).barrierActs bar s.clk = true →
    let due := (s.grove g).arrivalsDue bar s.clk
    let b := (s.grove g).barrier (bar / 16) (bar % 16)
    let n := b.arrived + due.length
    ∃ t, exec (.barrierArrival g bar) s = .next t ∧
      let c := (t.grove g).barrier (bar / 16) (bar % 16)
      (n < b.count ∨ s.clk < b.free → c.arrived = n ∧ c.phase = b.phase ∧ c.count = b.count) ∧
      (b.count ≤ n → b.free ≤ s.clk → c.arrived = n - b.count ∧ c.phase = b.phase + 1 ∧ c.free = s.clk + 1 ∧
        c.count = (if b.npend then b.ncount else b.count)) ∧
      (∀ a, a ∈ (t.grove g).arrivals ↔ a ∈ (s.grove g).arrivals ∧ a ∉ due))

/-- R320, R322, R334, R335, R336, R338: A counter with something to do becomes its set value, or else keeps its value, plus the
clock's events, saturating at 2^48 − 1 with OVF, and the slots armed on it that it has reached become eligible; a HELD
operation whose owner runs enters its core when that has the entries (that it and an eligible one wait for free entries is
the model's choice, log entry 60); else the first eligible operation of a grove starts: an ADD raises its counter and ends,
a BAR sends an arrival, a bound operation whose owner has ended fails; an operation that ended without failure becomes DONE,
or with REARM ARMED with THR + INC, and its done counter rises by one. -/
def Obligations.TriggerEngineRuns : Prop :=
  (∀ (s : State) (g n : Nat), (s.grove g).counterDue n = true →
    let c := (s.grove g).counter n
    let sum := c.set.getD c.value + c.adds
    ∃ t, exec (.counterEvent g n) s = .next t ∧ ((t.grove g).counter n).value = min sum (2 ^ 48 - 1) ∧
      ((t.grove g).counter n).ovf = ((c.ovf && c.set.isNone) || decide (2 ^ 48 ≤ sum)) ∧
      ((t.grove g).counter n).adds = 0 ∧ ((t.grove g).counter n).set = none ∧
      (t.grove g).slots = (s.grove g).slots.map fun e =>
        if e.2.state = .armed ∧ e.2.eligible = none ∧ slCtr e.2.image = n ∧ e.2.thr ≤ min sum (2 ^ 48 - 1)
        then (e.1, { e.2 with eligible := some s.clk }) else e) ∧
  (∀ (s : State) (g k core : Nat), s.trigStart g = some (some core, k) →
    exec (.triggerOpStart g) s = .next (s.enterOne core g k)) ∧
  (∀ (s : State) (g k : Nat), s.trigStart g = some (none, k) →
    let x := (s.grove g).slot k
    ∃ t, exec (.triggerOpStart g) s = .next t ∧
      (slKind x.image = 3 → ((t.grove g).slot k).state = .active ∧ ((t.grove g).slot k).fin = some (0, 0, 0) ∧
        ((t.grove g).slot k).fires = min (x.fires + 1) 0xFFFF) ∧
      (slKind x.image = 4 → ((t.grove g).slot k).state = .active ∧ (t.grove g).arrivals = (s.grove g).arrivals ++
        [⟨x.ctx, fieldOfBytes x.image 0x20 1 % 16, s.clk + 1, none, some k⟩]) ∧
      (slKind x.image = 1 → s.ownerEnded g x.owner = true → ((t.grove g).slot k).fin = some (5, 4, 0))) ∧
  (∀ (s : State) (g k : Nat), ((s.grove g).slot k).state = .active → ((s.grove g).slot k).fin = some (0, 0, 0) →
    let x := (s.grove g).slot k
    ∃ t, exec (.triggerOpComplete g k) s = .next t ∧
      (slRearm x.image = false → ((t.grove g).slot k).state = .done) ∧
      (slRearm x.image = true → ((t.grove g).slot k).state = .armed ∧ ((t.grove g).slot k).eligible = none ∧
        ((t.grove g).slot k).thr = min (x.thr + slInc x.image) (2 ^ 48 - 1)) ∧
      (slDen x.image = true →
        ((t.grove g).counter (slDctr x.image)).adds = ((s.grove g).counter (slDctr x.image)).adds + 1))

/-- R15, R19, R29, R167, R176, R182, R191: At its start tick a launched context runs, and its IDLE record without subscriptions
is READY; a selected fresh record is RUNNING on its core, which issues its entry bundle 192 clk later for each foreign bank;
a READY record rises one class after 2^20 ticks; a drained exit makes the record DONE and the core idle; a DONE record
without open commits is freed; a contained fault of a guarded task whose spill had not started publishes its tile and starts
the record again with REPLAY one higher, and of a task that is not guarded leaves it FAULTED. -/
def Obligations.TaskLifeEvents : Prop :=
  (∀ (s : State) (ctx g i : Nat) (r : TaskRec), (s.ctx ctx).state = .launched → (s.ctx ctx).start ≤ s.tick →
    s.allRecords.filter (fun e => decide (e.2.2.ctx = ctx) && decide (e.2.2.state = .idle) && !e.2.2.hold) = [(g, i, r)] →
    (s.grove g).task? i = some r → r.subs = [] →
    ∃ u r', exec (.launchStartTick ctx) s = .next u ∧ (u.ctx ctx).state = .running ∧ (u.grove g).task? i = some r' ∧
      r'.state = .ready ∧ r'.wid = r.wid) ∧
  (∀ (s : State) (g i slot : Nat) (t : TaskRec), s.nextStart g = some (i, t, slot) → (s.grove g).task? i = some t →
    t.saved = false → t.imageSnap = none → (s.grove g).heldOf t.uid = [] →
    let core := 4 * g + slot
    let foreign := (List.range 8).filter fun k => decide (((s.core core).tags[k]?.getD none) ≠ some t.ctx)
    ∃ u r, exec (.taskStart g) s = .next u ∧ (u.grove g).task? i = some r ∧ r.state = .running ∧ r.oncore = true ∧ r.slot = slot ∧
      (u.core core).mode = .running ∧ (u.core core).task = i ∧ (u.core core).pc = BitVec.ofNat 12 t.entry ∧
      (u.core core).next = s.clk + 192 * foreign.length ∧ (u.core core).kwid = t.wid ∧ (u.core core).s = Vector.replicate 32 0) ∧
  (∀ (s : State) (g i : Nat) (t : TaskRec), (s.grove g).task? i = some t → t.state = .ready → t.cls < 3 →
    t.started + 2 ^ 20 ≤ s.tick →
    exec (.taskAging g i) s = .next (s.updTask g i fun t => { t with cls := t.cls + 1, started := t.started + 2 ^ 20 })) ∧
  (∀ (s : State) (g i core : Nat) (t : TaskRec), g ≠ 2592 → s.exitingCore g i = some (core, t) → s.exitOver core = true →
    s.trackerFault core = none → t.guarded = false →
    ∃ u r, exec (.exitDrainEnd g i) s = .next u ∧ (u.grove g).task? i = some r ∧ r.state = .done ∧ r.oncore = false ∧
      (u.core core).mode = .idle) ∧
  (∀ (s : State) (g i : Nat) (t : TaskRec), (s.grove g).task? i = some t → t.state = .done → s.committed t.uid = true →
    ∃ u, exec (.recordFree g i) s = .next u ∧ (u.grove g).task? i = none) ∧
  (∀ (s : State) (g i core : Nat) (t : TaskRec), s.faultedCore g i = some (core, t) → t.triad = false → s.groveReady g = true →
    (∀ e ∈ s.allRecords, e.2.2.parent ≠ some t.uid) →
    ∃ u r, exec (.containmentComplete g i) s = .next u ∧ (u.grove g).task? i = some r ∧ (u.core core).mode = .idle ∧
      ((s.ctx t.ctx).image.faultH.getLsbD 31 = true → ∃ q ∈ (u.grove g).pubs, q.ch = 64 ∧ q.ctx = t.ctx) ∧
      (t.guarded = true → t.replay < 2 → t.lost = false → t.subs = [] → r.state = .ready ∧ r.replay = t.replay + 1) ∧
      (t.guarded = false → r.state = .faulted ∧ r.replay = t.replay))

/-- R163, R164, R175, R176: When a READY record of a higher class finds no core, its victim stops, its record is SUSPENDED with
the lowest free frame, and its core is reserved; when its core has drained the spill lasts one clock for each 512 bytes of
the frame; then the record is READY with SAVED and the core idle; at the end of a restore the record has no frame, and the
core runs and issues in that clock. That a spill takes no longer than R176 states at least, and the choice of the lowest
free frame, are the model's (log entries 11, 72). -/
def Obligations.PreemptionSavesAndRestores : Prop :=
  (∀ (s : State) (g i k f : Nat) (t : TaskRec), s.toStop g = none → s.victim g = some (i, k) → (s.grove g).freeFrame = some f →
    (s.core (4 * g + k)).mayStop = true → (s.grove g).task? (s.core (4 * g + k)).task = some t →
    ∃ u r, exec (.preemptStart g) s = .next u ∧ (u.grove g).preempt = some (k, i) ∧ (u.core (4 * g + k)).mode = .preempting ∧
      (u.grove g).task? (s.core (4 * g + k)).task = some r ∧ r.state = .suspended ∧ r.frame = some f ∧
      (f < 31 → (u.grove g).framesUsed.getLsbD f = true)) ∧
  (∀ (s : State) (g i core : Nat) (t : TaskRec), s.spillCore g i = some (core, t) → (s.core core).mode = .preempting →
    s.drained core = true → (s.core core).imprecise = [] → s.trackerFault core = none →
    exec (.spillComplete g i) s =
      .next (s.updCore core fun c => { c with mode := .spilling (s.clk + (t.frameBytes + 511) / 512) })) ∧
  (∀ (s : State) (g i core e : Nat) (t : TaskRec), s.spillCore g i = some (core, t) → (s.core core).mode = .spilling e → e ≤ s.clk →
    (s.core core).imprecise = [] → s.groveReady g = true →
    ∃ u r, exec (.spillComplete g i) s = .next u ∧ (u.grove g).task? i = some r ∧ r.state = .ready ∧ r.saved = true ∧
      r.oncore = false ∧ (u.core core).mode = .idle) ∧
  (∀ (s : State) (g i e : Nat) (t : TaskRec), (s.grove g).task? i = some t → t.slot < 4 → t.oncore = true → t.imageSnap = none →
    (s.core (4 * g + t.slot)).mode = .starting e true → (s.core (4 * g + t.slot)).task = i → e ≤ s.clk → (s.grove g).heldOf t.uid = [] →
    ∃ u r, exec (.restoreComplete g i) s = .next u ∧ (u.grove g).task? i = some r ∧ r.saved = false ∧ r.frame = none ∧
      (u.core (4 * g + t.slot)).mode = .running ∧ (u.core (4 * g + t.slot)).next = s.clk)

/-- R178, R179, R190: Each of tagLeaseRefill, tagLeaseReturn, reservedTagGrant and migrationArrive answers a next state. A lease
below four tags that has been used within 2^16 ticks and whose home, in this module, has free tags is filled to eight with
the home's lowest free tags, which leave its list; from a home in another module it gets at most as many, none of them held
here. Tags unused for 2^16 ticks leave their lease for the home's list. A home with its reserved tag free grants it to the
first waiting spawner of its list, at whose grove the lease then shows it; a home in another module grants it to the oldest
waiting spawner here. Nothing passes between a grove and a home of which a running snapshot has recorded only one. What a
home in another module gives (log entries 9, 23), and the wait during a cut (32), are the model's choice. A READY record
without subscriptions that arrives at a ready grove takes its reserved entry, and TE_MIGSTAT of its old grove gives code 1. -/
def Obligations.LeasesAndMigration : Prop :=
  (∀ (s : State) (g k : Nat), (∃ u, exec (.tagLeaseRefill g k) s = .next u) ∧ (∃ u, exec (.tagLeaseReturn g k) s = .next u) ∧
    (∃ u, exec (.reservedTagGrant g k) s = .next u) ∧ (∃ u, exec (.migrationArrive k) s = .next u)) ∧
  (∀ (s : State) (g k : Nat) (l : Lease), (s.grove g).leases[k]? = some l → s.poolHere l.ctx l.level l.group = true →
    (s.cutHome g l.ctx l.level l.group = true →
      exec (.tagLeaseRefill g k) s = .next s ∧ exec (.tagLeaseReturn g k) s = .next s) ∧
    (s.cutHome g l.ctx l.level l.group = false →
    let h := s.poolHome l.ctx l.level l.group % 2592
    let size := poolSize (s.ctx l.ctx).image.widths l.level
    let p := (s.grove h).pool l.ctx l.level l.group size
    (l.tags.length < 4 → s.tick < l.used + 2 ^ 16 → p.free ≠ [] →
      ∃ u, exec (.tagLeaseRefill g k) s = .next u ∧
        ((u.grove g).lease l.ctx l.level l.group).tags = l.tags ++ (p.free.take (8 - l.tags.length)).map (fun x => (x, s.tick)) ∧
        ((u.grove h).pool l.ctx l.level l.group size).free = p.free.drop (8 - l.tags.length)) ∧
    ((∃ e ∈ l.tags, e.2 + 2 ^ 16 ≤ s.tick) →
      ∃ u, exec (.tagLeaseReturn g k) s = .next u ∧
        (∀ x, x ∈ ((u.grove h).pool l.ctx l.level l.group size).free ↔ x ∈ p.free ∨ ∃ e ∈ l.tags, e.1 = x ∧ e.2 + 2 ^ 16 ≤ s.tick) ∧
        ((u.grove g).lease l.ctx l.level l.group).tags =
          l.tags.filter fun e => l.tags.all fun f => decide (f.1 ≠ e.1) || decide (s.tick < f.2 + 2 ^ 16)))) ∧
  (∀ (s : State) (g k : Nat) (l : Lease), (s.grove g).leases[k]? = some l → s.poolHere l.ctx l.level l.group = false →
    l.tags.length < 4 → s.tick < l.used + 2 ^ 16 →
    ∃ u more, exec (.tagLeaseRefill g k) s = .next u ∧ ((u.grove g).lease l.ctx l.level l.group).tags = l.tags ++ more ∧
      more.length ≤ 8 - l.tags.length ∧ ∀ e ∈ more, e.1 ∈ s.farTags l) ∧
  (∀ (s : State) (g k h t : Nat) (p : Pool) (wid : Word) (rest : List (Nat × Word × Nat)), (s.grove g).pools[k]? = some p →
    p.resFree = true → p.granted = none → p.waiters = (t, wid, h) :: rest →
    s.recorded p.ctx g = s.recorded p.ctx h →
    ∃ u, exec (.reservedTagGrant g k) s = .next u ∧ ((u.grove h).lease p.ctx p.level p.group).granted = some wid) ∧
  (∀ (s : State) (g k : Nat) (l : Lease) (wid : Word), (s.grove g).pools[k]? = none →
    s.farWaiter g (k - (s.grove g).pools.length) = some (l, wid) →
    ∃ u, exec (.reservedTagGrant g k) s = .next u ∧ ((u.grove g).lease l.ctx l.level l.group).granted = some wid) ∧
  (∀ (s : State) (k i idx : Nat) (p : Pkt) (t : TaskRec), s.pkt k = some p → p.kind = .migrate t i [] [] false → p.at_ = p.dst →
    (s.grove p.dst).reservedIn = [(idx, 256 * p.src + i)] → t.state = .ready → t.subs = [] → p.src ≠ p.dst →
    s.groveReady p.dst = true →
    ∃ u, exec (.migrationArrive k) s = .next u ∧ (u.grove p.dst).task? idx = some { t with able := none } ∧ (u.grove p.dst).reservedIn = [] ∧
      (u.grove p.src).teMigstat.extractLsb' 0 4 = 1 ∧ u.net = s.net.eraseIdx k)

/-- R291, R296, R300, R303, R305, R307, R311, R312, R315, R316: Each of the nine events answers a next state. The publication
that is next to be admitted sends its payload in 512-byte chunks with this tick to its root in the module, and its bytes
count in the window, which a roll empties; a refused one whose time has come is sent again with a new tick and counts again.
A packet its router sends next moves one hop, and leaves the module at the rim field of its link, in one hop (the model's
choice, log entry 10). The root gives a whole publication that is next, and follows no refused one, the next version of its
name when there is room; otherwise it refuses it and counts that; refusing what follows a refused one, and counting at the
refusal, are the model's choice (log entry 24). A commit gives its tentative publication the next version, a discard drops
it and gives no version, and one of a triad copy takes what the copy has brought out of the chunks not yet sent. Two
agreeing copies of a chunk of a vote that has its version are forwarded. A name query is answered with the root's word. -/
def Obligations.PublicationsReachTheirRoot : Prop :=
  (∀ (s : State) (g k : Nat), (∃ u, exec (.pubAdmit g k) s = .next u) ∧ (∃ u, exec (.admitWindowRoll g) s = .next u) ∧
    (∃ u, exec (.pubRetry g k) s = .next u) ∧ (∃ u, exec (.packetForward g k) s = .next u) ∧
    (∃ u, exec (.rootAccept g k) s = .next u) ∧ (∃ u, exec (.commit g k) s = .next u) ∧ (∃ u, exec (.discard g k) s = .next u) ∧
    (∃ u, exec (.triadVote g k) s = .next u) ∧ (∃ u, exec (.nameqQuery g k) s = .next u)) ∧
  (∀ (s : State) (g k : Nat) (p : PubOp), k < (s.grove g).pubs.length → s.admitNow g k = some p → s.rootHere p.ctx p.name = true →
    let chunks (d : Payload) : List Pkt := (List.range ((d.length + 511) / 512)).map fun i =>
      mkPkt p.ctx p.name (.pubChunk p.id p.copy i ((d.length + 511) / 512) p.tent p.keep p.seq p.valid) g
        ((s.ctx p.ctx).rootOf p.name % 2592) p.express s.tick (chunkOf d i) p.wid s.clk
    let counted (u : State) : Prop := Tbl.getD (u.grove g).admitted (admitKey p.ctx p.express) 0 =
      Tbl.getD (s.grove g).admitted (admitKey p.ctx p.express) 0 + p.size
    (p.sent = 0 → ∃ u, exec (.pubAdmit g k) s = .next u ∧ u.net = s.net ++ chunks (s.pubPayload p).1 ∧ counted u) ∧
    (p.retryAt ≠ none → ∃ u, exec (.pubRetry g k) s = .next u ∧ u.net = s.net ++ chunks p.data ∧ counted u ∧
      ∀ q ∈ (u.grove g).pubs, q.id = p.id → q.retryAt = none ∧ q.admitted = some s.tick)) ∧
  (∀ (s : State) (g : Nat), (s.grove g).window ≠ s.tick / 4096 →
    exec (.admitWindowRoll g) s = .next (s.updGrove g fun gr => { gr with window := s.tick / 4096, admitted := [] })) ∧
  (∀ (s : State) (k : Nat) (p : Pkt), s.pkt k = some p → (∀ r, p.kind ≠ .sub r ∧ p.kind ≠ .unsub r) → s.outputs p = true →
    ∃ u, exec (.packetForward p.at_ k) s = .next u ∧
      (p.at_ ≠ p.nextHop.1 → u.net = s.net.set k { p with at_ := p.nextHop.1, inp := p.nextHop.2, time := s.clk }) ∧
      (p.at_ = p.nextHop.1 → u.net = s.net.eraseIdx k ∧ u.out = s.out ++ [p.outward])) ∧
  (∀ (s : State) (g k id chunk n seq : Nat) (keep : Bool) (valid : List Nat) (p : Pkt), s.rootNext g = some k → s.pkt k = some p →
    p.kind = .pubChunk id 3 chunk n false keep seq valid → p.src < 2592 →
    let sib := s.net.filter fun q => p.sameMsg q && decide (q.at_ = g)
    let s1 := { s with net := s.net.filter fun q => !(p.sameMsg q && decide (q.at_ = g)) }
    let data := (List.range n).flatMap fun i => match sib.find? fun q => decide (q.chunkNo = i) with | some q => q.data | none => []
    let room := (s.grove g).makeRoom s.tick ((s.grove g).pubUnits p.ctx p.name data.length) ((s.grove g).versions.length + 1)
    (∀ gr, s1.earlierPub p id ≠ 2 → room = some gr →
      ∃ u r, exec (.rootAccept g k) s = .next u ∧ (u.grove g).nameRec p.ctx p.name = some r ∧
        r.latest = some (gr.nextVer p.ctx p.name)) ∧
    (s1.earlierPub p id = 2 ∨ room = none → ∃ u, exec (.rootAccept g k) s = .next u ∧
      (u.grove g).glRefused = min ((s.grove g).glRefused + 1) 65535 ∧ (u.grove g).versions = (s.grove g).versions)) ∧
  (∀ (s : State) (g k id : Nat) (p : Pkt) (v : Version), s.pkt k = some p → p.kind = .commit id → p.at_ = g → p.dst = g →
    (s.grove g).versions.find? (fun v => v.ver.isNone && decide (v.pubGrove = p.src) && decide (v.pubId = some id)) = some v →
    ∃ u r, exec (.commit g k) s = .next u ∧ (u.grove g).nameRec v.ctx v.name = some r ∧
      r.latest = some ((s.grove g).nextVer v.ctx v.name)) ∧
  (∀ (s : State) (g k id copy seq : Nat) (p : Pkt), s.pkt k = some p → p.kind = .discard id copy seq → p.at_ = g → p.dst = g →
    ∃ u, exec (.discard g k) s = .next u ∧ (u.grove g).names = (s.grove g).names ∧
      (3 ≤ copy → ∀ v ∈ (u.grove g).versions, v.ver = none → v.pubGrove = p.src → v.pubId ≠ some id) ∧
      (copy < 3 → ∀ v ∈ (u.grove g).versions, v.ctx = p.ctx → v.name = p.name → v.pubWid = p.wid → v.seq = seq →
        ∀ e ∈ v.vote, e.1 ∉ v.forwarded → ∀ x ∈ e.2, x.1 ≠ copy)) ∧
  (∀ (s : State) (g k c n : Nat) (v : Version) (l : List (Nat × Payload)) (data : Payload), (s.grove g).versions[k]? = some v →
    v.decidable = some (c, l) → c ∉ v.forwarded → majority l = some data → v.ver = some n →
    ∃ u, exec (.triadVote g k) s = .next u ∧ ∀ w ∈ (u.grove g).versions, w.order = v.order →
      w.forwarded = v.forwarded ++ [c] ∧ w.data = putChunk v.data c (chunksIn v.data.length) data) ∧
  (∀ (s : State) (g k core id : Nat) (p : Pkt), s.pkt k = some p → p.kind = .nameq core id → p.at_ = g → p.dst = g → p.src < 4096 →
    exec (.nameqQuery g k) s = .next ((s.dropPkt k).send
      (mkPkt p.ctx p.name (.nameqAns core id ((s.grove g).nameWord p.ctx p.name)) g p.src true s.tick [] p.wid s.clk)))

/-- R299, R300, R301, R304, R306, R314: Each of the eight events answers a next state. The oldest waiting subscription, not a
halo's, that fits its gallery gets DEPTH payloads of space and is sent. A registration of a name without version, which asks
for no fetch and no exact version, is appended to the root's list and its subscription is no longer merely sent. A
withdrawal at its root removes its registration. The one chunk of a version lands for a kernel subscription and is
acknowledged. An acknowledgement ends the root's watch, and with a guard mark pins the version; an unpin ends the pin. A
version that has no pin left and is dropped at once goes. A subscriber that has not acknowledged in time is noted as late
and a DELIVERY_LATE tile is raised. -/
def Obligations.SubscriptionsAndLandings : Prop :=
  (∀ (s : State) (g k : Nat), (∃ u, exec (.landingReserve g) s = .next u) ∧ (∃ u, exec (.subRegister g k) s = .next u) ∧
    (∃ u, exec (.subWithdraw g k) s = .next u) ∧ (∃ u, exec (.chunkLand g k) s = .next u) ∧
    (∃ u, exec (.landingAcknowledgement g k) s = .next u) ∧ (∃ u, exec (.versionUnpin g k) s = .next u) ∧
    (∃ u, exec (.retentionExpire g k) s = .next u) ∧ (∃ u, exec (.deliveryAckTimeout g k) s = .next u)) ∧
  (∀ (s : State) (g : Nat) (x : Sub) (gr : Grove),
    (s.grove g).subs.find? (fun x => decide (x.state = .waiting) && !s.heldCtx x.ctx) = some x →
    (∀ t c, x.owner ≠ .halo t c) →
    (s.grove g).makeRoom s.tick (units (x.depth * chPayload ((s.ctx x.ctx).image.chan x.ch) - x.place))
      ((s.grove g).versions.length + 1) = some gr →
    ∃ u, exec (.landingReserve g) s = .next u ∧ ∀ y ∈ (u.grove g).subs, y.id = x.id → y.state = .sent ∧
      y.place = x.depth * chPayload ((s.ctx x.ctx).image.chan x.ch)) ∧
  (∀ (s : State) (g k : Nat) (p : Pkt) (r : SubReg), s.pkt k = some p → p.kind = .sub r → p.at_ = g → p.dst = g → r.mask = 0 →
    (s.grove g).nameRec r.ctx r.name = none → r.backed = false → r.exact = none → r.grove < 4096 →
    ∃ u, exec (.subRegister g k) s = .next u ∧ (u.grove g).regs = (s.grove g).regs ++
        [{ r with order := (s.grove g).ids, uni := if p.via = g then none else some p.via }] ∧
      u.net = s.net.eraseIdx k ∧ ∀ y ∈ (u.grove r.grove).subs, y.id = r.sub → y.state ≠ .sent) ∧
  (∀ (s : State) (g k : Nat) (p : Pkt) (r : SubReg), s.pkt k = some p → p.kind = .unsub r → p.at_ = g → p.dst = g →
    ∃ u, exec (.subWithdraw g k) s = .next u ∧ u.net = s.net.eraseIdx k ∧
      (u.grove g).regs = (s.grove g).regs.filter (fun q => !(decide (q.grove = r.grove) && decide (q.sub = r.sub)))) ∧
  (∀ (s : State) (g k ver i : Nat) (valid : List Nat) (p : Pkt) (x : Sub) (a : Nat), s.pkt k = some p →
    p.kind = .deliver ver 0 1 valid → p.at_ = g → p.dst = g → p.src < 4096 →
    (s.grove g).subs.filter (fun x => decide (x.ctx = p.ctx) && p.name.matches x.name x.mask) = [x] → x.owner = .kernel i →
    s.ackOf p.src p.ctx p.name ver g x.id = some a → x.landing? p.name ver = none → x.wants p.name ver = true →
    (s.grove g).task? i = none →
    ∃ u, exec (.chunkLand g k) s = .next u ∧ (∃ q ∈ u.net, q.kind = .ack ver x.id false ∧ q.dst = p.src) ∧
      ∀ y ∈ (u.grove g).subs, y.id = x.id →
        ∃ l ∈ y.landings, l.name = p.name ∧ l.ver = ver ∧ l.bits = [0] ∧ l.data = p.data) ∧
  (∀ (s : State) (g k ver sub : Nat) (guarded : Bool) (p : Pkt), s.pkt k = some p → p.kind = .ack ver sub guarded → p.at_ = g →
    p.dst = g → exec (.landingAcknowledgement g k) s = .next ((s.dropPkt k).updGrove g fun gr =>
      (gr.mapVer p.ctx p.name ver fun v =>
        { v with acks := v.acks.filter (fun a => !(decide (a.1 = p.src) && decide (a.2.1 = sub))),
                 pins := if guarded then v.pins ++ [(p.src, sub)] else v.pins }).sweep s.tick)) ∧
  (∀ (s : State) (g k ver key : Nat) (p : Pkt), s.pkt k = some p → p.kind = .unpin ver key → p.at_ = g → p.dst = g →
    exec (.versionUnpin g k) s = .next ((s.dropPkt k).updGrove g fun gr =>
      (gr.mapVer p.ctx p.name ver fun v =>
        { v with pins := v.pins.erase (p.src / 4096 * 4096 + key / 2 ^ 32, key % 2 ^ 32) }).sweep s.tick)) ∧
  (∀ (s : State) (g k : Nat) (v : Version), (s.grove g).versions[k]? = some v → (s.grove g).dropsNow v s.tick = true →
    ∃ u, exec (.retentionExpire g k) s = .next u ∧
      (u.grove g).versions = (s.grove g).versions.filter (fun w => !decide (w.order = v.order))) ∧
  (∀ (s : State) (g k : Nat) (v : Version) (a : Nat × Nat × Nat), (s.grove g).versions[k]? = some v →
    s.overdue v = some a →
    ∃ u, exec (.deliveryAckTimeout g k) s = .next u ∧ (∃ b ∈ u.trunk.tiles, b.take 2 = natBytes 2 14) ∧
      ∀ w ∈ (u.grove g).versions, w.order = v.order → (a.1, a.2.1) ∈ w.late)

/-- R293, R294, R353, R354, R355, R356, R358, R359, R360, R361: Each of the five events answers a next state. A receive at the
router, whose entries are clear, takes the ripe landing of its subscription and its rows are ready at 128 bytes per clock;
at its end the rows are in its scratchpad, its job, its entries and the landing's place are gone. The head of a class's
queue becomes active; the layout unit takes its next result, else the reader sends the next part of the active collective,
and the class's segments that carry data count. A root that has let a round go ends the member's collective with COLLGONE;
without room it counts a refusal and keeps the message for 1,024 ticks, and a registration is a message of its own (the
model's choices, log entries 27, 61); it answers another descriptor with COLLMISMATCH; it keeps a registration; a
contribution that is the last a reduction needs makes its result the reduction of the parts in member order. A collective
that has everything completes: its record is final, its class free, its entries released. -/
def Obligations.ReceivesAndCollectives : Prop :=
  (∀ (s : State) (g core k : Nat) (cls : Bool), (∃ u, exec (.recvDeliver core k) s = .next u) ∧
    (∃ u, exec (.collActivate core cls) s = .next u) ∧ (∃ u, exec (.collSegmentStart core cls) s = .next u) ∧
    (∃ u, exec (.collContribution g k) s = .next u) ∧ (∃ u, exec (.collComplete core k) s = .next u)) ∧
  (∀ (s : State) (core k ch : Nat) (n : Name) (r : ShapeRec) (sat : Bool) (j : Job) (x : Sub) (l : Landing),
    (s.core core).job? k = some j → j.accept = none → j.kind = .recv ch n r false sat → (s.core core).jobWaits k = false →
    (s.core core).jobAccepted k = true → s.matchFor core ch n = some x → x.ripe = some l → s.earlierRecv core j x.id = false →
    exec (.recvDeliver core k) s =
      .next (s.updCore core fun c => c.readyRecv k s.clk (recvRows r l.valid l.data) 0 false [(x.id, l)])) ∧
  (∀ (s : State) (core k t ch : Nat) (n : Name) (r : ShapeRec) (add sat : Bool) (j : Job), (s.core core).job? k = some j →
    j.accept = some t → t ≤ s.clk → j.kind = .recv ch n r add sat → j.poison = none →
    ∃ u, exec (.recvDeliver core k) s = .next u ∧ u.mem = (s.writeRows core j.buf).mem ∧ (u.core core).job? k = none ∧
      (u.core core).entriesOf k = [] ∧
      u = ((((s.writeRows core j.buf).updCore core fun c => (c.raise j.flags).endCard k).updGrove (groveOf core) fun gr =>
        j.failed.foldl (fun gr e => gr.takeLanding e.1 e.2.1) gr).serveAll)) ∧
  (∀ (s : State) (core id : Nat) (cls : Bool) (rest : List Nat),
    ((s.grove (groveOf core)).collSet core cls).active = none → ((s.grove (groveOf core)).collSet core cls).queue = id :: rest →
    ∃ u, exec (.collActivate core cls) s = .next u ∧ (u.grove (groveOf core)).collSet core cls = ⟨some id, rest, 0⟩) ∧
  (∀ (s : State) (core k job seg off row : Nat) (flags : Flags) (cls : Bool) (p : Pkt),
    s.nextResult core cls = some (p, k) → p.kind = .collRes core job seg off flags 0 row →
    ∃ u, exec (.collSegmentStart core cls) s = .next u ∧ ((u.grove (groveOf core)).collSet core cls).segs =
      ((s.grove (groveOf core)).collSet core cls).segs + (if p.data = [] then 0 else 1)) ∧
  (∀ (s : State) (core ch : Nat) (cls : Bool) (j : Job) (n : Name) (p : ClPart), s.nextResult core cls = none →
    s.nextPart core cls = some (j, ch, n, p) → (cls = true ∨ s.nextPart core (!cls) = none) →
    ∃ u j', exec (.collSegmentStart core cls) s = .next u ∧ (u.core core).job? j.id = some j' ∧ j'.steps = j.steps + 1 ∧
      j'.start = some (s.clk + (p.len + 127) / 128) ∧
      ((u.grove (groveOf core)).collSet core cls).segs = ((s.grove (groveOf core)).collSet core cls).segs + 1 ∧
      Tbl.getD (u.grove (groveOf core)).admitted (admitKey (s.core core).ctxNo cls) 0 =
        Tbl.getD (s.grove (groveOf core)).admitted (admitKey (s.core core).ctxNo cls) 0 + p.len) ∧
  (∀ (s : State) (g k core job ch m round seg pos : Nat) (desc : List Byte) (join : Bool) (p : Pkt), s.pkt k = some p →
    p.kind = .collPart core job ch m round seg pos desc join → s.partFirst g p = true →
    let now := ((s.grove g).collRound p.ctx p.name round).getD ⟨p.ctx, p.name, round, [], [], [], [], none, 0, 0, s.tick⟩
    let room := (s.grove g).makeRoom s.tick (if join then 0 else now.partUnits desc m p.data.length) ((s.grove g).versions.length + 1)
    let late := join = false ∧ p.base + boundOf p.express p.data.length p.cross < s.tick
    ((s.grove g).roundGone p.ctx p.name round = true →
      exec (.collContribution g k) s = .next ((s.dropPkt k).failMember g p core job seg 2)) ∧
    ((s.grove g).roundGone p.ctx p.name round = false → room = none →
      ∃ u, exec (.collContribution g k) s = .next u ∧
        u.net = s.net.set k { p with inj := s.tick + 1024, base := s.tick + 1024 } ∧
        (u.grove g).glRefused = min ((s.grove g).glRefused + 1) 65535 ∧ (u.grove g).rounds = (s.grove g).rounds) ∧
    (∀ gr, (s.grove g).roundGone p.ctx p.name round = false → room = some gr → ¬late → join = true →
      (∀ r, gr.collRound p.ctx p.name round = some r → r.desc = [] ∨ r.desc = desc) →
      ∃ u r, exec (.collContribution g k) s = .next u ∧ r ∈ (u.grove g).rounds ∧ r.ctx = p.ctx ∧ r.name = p.name ∧ r.round = round ∧
        (m, core, job, desc) ∈ r.regs) ∧
    (∀ gr r, (s.grove g).roundGone p.ctx p.name round = false → room = some gr → ¬late →
      gr.collRound p.ctx p.name round = some r → r.desc ≠ [] → r.desc ≠ desc →
      ∃ u, exec (.collContribution g k) s = .next u ∧ (u.grove g).rounds = gr.rounds ∧
        ∃ q ∈ (u.grove g).legs, q.kind = .collRes core job seg 0 0 1 0 ∧ q.dst = groveOf core) ∧
    (∀ gr r v, (s.grove g).roundGone p.ctx p.name round = false → room = some gr → ¬late → join = false →
      gr.rounds = [r] → r.ctx = p.ctx → r.name = p.name → r.round = round →
      r.desc = desc → desc ≠ [] → r.doneT = 0 → clType desc = 0 → (∀ x ∈ r.early, x.1 ≠ m) →
      ((List.range (clMembers desc)).mapM fun i =>
        (({ r with early := r.early ++ [(m, pos, p.data)] } : CollRound).part i).map (·.2)) = some v →
      ∃ u r', exec (.collContribution g k) s = .next u ∧ r' ∈ (u.grove g).rounds ∧ r'.name = p.name ∧ r'.round = round ∧
        r'.result = some (reduceSeg desc v))) ∧
  (∀ (s : State) (core k ch dst src round : Nat) (n : Name) (j : Job), (s.core core).job? k = some j →
    j.kind = .coll ch n dst src round →
    let e := (s.ctx (s.core core).ctxNo).image.chan ch
    ((s.grove (groveOf core)).collSet core (chExpress e)).active = some k → j.collOver e (s.memberOf core e) s.clk = true →
    ∃ u, exec (.collComplete core k) s = .next u ∧ (u.core core).job? k = none ∧ (u.core core).entriesOf k = [] ∧
      Tbl.get? (u.core core).collRec ch = some (j.clRecord true) ∧
      ((u.grove (groveOf core)).collSet core (chExpress e)).active = none)

/-- R371, R372, R374, R379, R380, R381, R382, R384: Each of the four events answers a next state. A lantern that a node can take
closes its channel where the node has recorded; where it has not and its cores can stop, the node records at this tick with
that channel closed; where they cannot, the running snapshot wants the node, whose cores stop at their next boundaries. An
armed chunk that a record waits for is copied into it and is no longer armed; an armed window unit or page is copied,
corrected as R51 states, and becomes PRESERVED. A node that has finished capturing is marked as reported, and a grove's
gallery entries are released; with the last of them the record is written and, where every other member has written its own,
the snapshot completes; or it is abandoned where the record does not fit or its place cannot be written. -/
def Obligations.SnapshotProgress : Prop :=
  (∀ (s : State) (ctx node x y : Nat), (∃ u, exec (.lanternArrive ctx node x) s = .next u) ∧
    (∃ u, exec (.chunkWriteout ctx x y) s = .next u) ∧ (∃ u, exec (.pageWriteout ctx x) s = .next u) ∧
    (∃ u, exec (.captureReport ctx node) s = .next u)) ∧
  (∀ (s : State) (ctx node chan : Nat), s.lanternGoes ctx node chan = true →
    (∀ m, s.nodeRec ctx node = some m →
      ∃ u, exec (.lanternArrive ctx node chan) s = .next u ∧ u.nodeRec ctx node = some { m with closed := m.closed ++ [chan] }) ∧
    (s.nodeRec ctx node = none → s.mayRecord ctx node = true →
      ∃ u n, exec (.lanternArrive ctx node chan) s = .next u ∧ u.nodeRec ctx node = some n ∧ n.tick = s.tick ∧ n.closed = [chan] ∧
        n.reported = false) ∧
    (s.nodeRec ctx node = none → s.mayRecord ctx node = false →
      ∃ u sn, exec (.lanternArrive ctx node chan) s = .next u ∧ u.openSnap ctx = some sn ∧ node ∈ sn.wants ∧
        u.nodeRec ctx node = none)) ∧
  (∀ (s : State) (ctx core chunk : Nat) (sn : Snap) (n : SnapNode), s.openSnap ctx = some sn → n ∈ sn.nodes →
    (core, chunk) ∈ n.pending → (s.core core).armed.getLsbD chunk = true →
    ∃ u sn' n', exec (.chunkWriteout ctx core chunk) s = .next u ∧ (u.core core).armed.getLsbD chunk = false ∧
      u.openSnap ctx = some sn' ∧ n' ∈ sn'.nodes ∧ (core, chunk, readBytes s.mem (spKey core (chunk * 512)) 512) ∈ n'.chunks ∧
      u.mem = s.mem) ∧
  (∀ (s : State) (ctx slice unit : Nat), s.recorded ctx 0xFFF = true → slice < 96 → unit < 2048 →
    Tbl.getD s.wins (slice * 2 ^ 11 + unit) 0 = 1 → slice * 2 ^ 11 + unit ∈ s.unitsOf ctx →
    ∃ u sn n, exec (.pageWriteout ctx (winId slice unit)) s = .next u ∧ Tbl.getD u.wins (slice * 2 ^ 11 + unit) 0 = 2 ∧
      u.openSnap ctx = some sn ∧ n ∈ sn.nodes ∧ (winId slice unit, readBytes (s.scrubLong (slKey slice (unit * 65536)) 65536).mem (slKey slice (unit * 65536)) 65536) ∈ n.pages) ∧
  (∀ (s : State) (ctx va : Nat) (l : Leaf), s.recorded ctx 0xFFF = true → va < 2 ^ 60 → s.walk 0 ctx va = .ok l → leafSnap l.entry = 1 →
    exec (.pageWriteout ctx va) s =
      .next ((s.capturePage ctx (va / 2 ^ l.bits * 2 ^ l.bits) l.pa (2 ^ l.bits)).setLeafSnap l.key 2)) ∧
  (∀ (s : State) (ctx node va : Nat) (sn : Snap), s.captured ctx node = true → s.openSnap ctx = some sn →
    let s1 := s.updSnap ctx fun sn => sn.mapNodes fun n => if n.node = node then { n with reported := true } else n
    let s2 := if node = 0xFFF then s1 else s1.updGrove node fun gr => (gr.holdVersions ctx false).sweep s.tick
    let sn1 := sn.mapNodes fun n => if n.node = node then { n with reported := true } else n
    ((∃ n ∈ sn.nodes, n.node ≠ node ∧ n.reported = false) → exec (.captureReport ctx node) s = .next s2) ∧
    ((∀ n ∈ sn.nodes, n.node ≠ node → n.reported = true) →
      (∀ g, g < 2592 → s.snapNode ctx g = true → ∃ n ∈ sn.nodes, n.node = g) →
      (s2.ringPlace sn1 (ringSize (s2.ringItems sn1)) = none →
        exec (.captureReport ctx node) s = .next ((s2.abandonSnap ctx 6).snapFail ctx sn.id 1)) ∧
      (s2.ringPlace sn1 (ringSize (s2.ringItems sn1)) = some va → s2.writable ctx va (ringSize (s2.ringItems sn1)) = false →
        exec (.captureReport ctx node) s = .next (((s2.probed ctx va (ringSize (s2.ringItems sn1)) true).abandonSnap ctx 10).snapFail ctx sn.id 2)) ∧
      (s2.ringPlace sn1 (ringSize (s2.ringItems sn1)) = some va → s2.writable ctx va (ringSize (s2.ringItems sn1)) = true →
        (∀ m ∈ s.otherMembers ctx, m ∈ sn.members) →
        ∃ u, exec (.captureReport ctx node) s = .next u ∧ snLast (u.ctx ctx).snStat = sn.id % 2 ^ 32 ∧
          snCode (u.ctx ctx).snStat = 2 ∧ snInprog (u.ctx ctx).snStat = false)))

/-- R308, R402, R403, R404, R405, R407, R408, R409, R410: Each of the ten events answers a next state. A fetch reads the tile
from its tensor and publishes it, and fails with a tile where its addresses fail; a write-back writes the valid extent and
its root hears of it. A store or atomic that comes to a slice with the number expected is performed, answered and
remembered, and the next number is expected; one first sent 20,000 ticks ago is not performed; the same request again gets
the same answer; a load is performed at once, and so is the write of a copy's granule (numbers 64 to 67) in the context
whose window holds the place. A request without answer is sent again after 2,000 ticks and fails with XLATE cause RANGE
after 20,000; a remembered answer retires after 40,000. The token lets a controller perform its first eight sequential
atomics and is at the next ready rim field 36 clocks later; a lost token is made anew. The scrubber poisons an uncorrectable
word, rewrites a correctable one, and goes on. Model's choices (log entry 34): exactly 36 clocks, the rim field of a new
token, the context of a remote write, and that an expired request is dropped. -/
def Obligations.RimAgentsRemoteRequestsAndToken : Prop :=
  (∀ (s : State) (a b c : Nat) (cls : Bool) (op sz off : Nat) (v w : Word), (∃ u, exec (.rimFetch a b) s = .next u) ∧
    (∃ u, exec (.keepWriteback a b) s = .next u) ∧ (∃ u, exec (.writebackComplete a b) s = .next u) ∧
    (∃ u, exec (.remoteRequestArrive a b c cls op sz off v w) s = .next u) ∧ (∃ u, exec (.remoteRetransmit a b) s = .next u) ∧
    (∃ u, exec (.remoteRequestExpire a b) s = .next u) ∧ (∃ u, exec (.dupEntryRetire a b) s = .next u) ∧
    (∃ u, exec (.tokenVisit a) s = .next u) ∧ (∃ u, exec .tokenRegenerate s = .next u) ∧ (∃ u, exec (.scrubStep a) s = .next u)) ∧
  (∀ (s : State) (rim k : Nat) (o : RimOp) (t : Tensor), (s.rim rim).ops[k]? = some o → s.fetchGoes rim k = true → o.data = [] →
    ((s.ctx o.ctx).image.tensor? o.name.handle).filter (·.backed) = some t →
    let x := s.readTile o.ctx t o.name (t.valid o.name)
    (∀ d, x.2 = .ok d →
      exec (.rimFetch rim k) s = .next ((x.1.updRim rim fun r =>
        { r with ops := r.ops.set k { o with data := d, valid := t.valid o.name } }).sendRimPub rim
          { o with data := d, valid := t.valid o.name })) ∧
    (∀ e, x.2 = .error e →
      ∃ u, exec (.rimFetch rim k) s = .next u ∧ (u.rim rim).ops = (s.rim rim).ops.eraseIdx k ∧ u.trunk.tiles ≠ [] ∧
        u = x.1.failFetch rim k o e.1 e.2)) ∧
  (∀ (s : State) (rim k : Nat) (o : RimOp) (t : Tensor), (s.rim rim).ops[k]? = some o → s.writebackGoes rim k = true →
    ((s.ctx o.ctx).image.tensor? o.name.handle).filter (·.backed) = some t →
    let w := (s.dropRimOp rim k).writeTile o.ctx t o.name o.valid o.data
    (w.2 = none → exec (.keepWriteback rim k) s =
      .next (w.1.send (mkPkt o.ctx o.name (.wbDone o.ver) (2592 + rim) o.root false s.tick [] 0 s.clk))) ∧
    (∀ e, w.2 = some e → exec (.keepWriteback rim k) s = .next (w.1.rimTile o e.1 e.2))) ∧
  (∀ (s : State) (g k ver : Nat) (p : Pkt), s.pkt k = some p → p.kind = .wbDone ver → p.at_ = g → p.dst = g →
    exec (.writebackComplete g k) s = .next ((s.dropPkt k).updGrove g fun gr =>
      let gr := gr.mapVer p.ctx p.name ver fun v => { v with wbDone := true }
      (match gr.nameRec p.ctx p.name with
       | some r => if r.latest = some ver then gr.setNameRec { r with wb := true } else gr
       | none => gr).sweep s.tick)) ∧
  (∀ (s : State) (slice from_ seq op sz off : Nat) (cls : Bool) (v w : Word), s.rimReady (slice / 8) = true →
    let i : Sys2Proof.Instr := .remoteRequestArrive slice from_ seq cls op sz off v w
    let src := from_ % 2 ^ 22
    let port := from_ / 2 ^ 22 % 32
    let first := from_ / 2 ^ 27
    let r : RemoteReq := ⟨src, seq, cls, op, sz, off, v, w, s.tick, first, port⟩
    let s0 := match s.windowOwner slice off with
      | some c => s.logOn 0xFFF (linkChan + 4 * port + (r.pkt c slice s.clk).channel) (r.pkt c slice s.clk)
      | none => s
    let x := s0.sliceOf slice
    let same (d : DupEntry) : Bool := decide (d.source = src) && decide (d.seq = seq) && decide (d.cls = cls)
    let s1 := (s0.updSlice slice fun x => { x with waiting := x.waiting ++ [r] }).dropExpired slice
    (∀ d, op < 32 → x.dups.find? same = some d →
      ∃ p, exec i s = .next ({ s0 with out := s0.out ++ [Out.reply (src / 2 ^ 16) p src seq slice d.result d.fail] }.updSlice slice fun x =>
        { x with dupHits := min (x.dupHits + 1) 65535 })) ∧
    (op < 32 → x.dups.find? same = none → x.waiting = [] → Tbl.getD x.expect r.key 0 = seq →
      (s.tick < first + 20000 → s1.needsToken slice r = false → x.full s.tick = false →
        ∃ u p, exec i s = .next u ∧
          u.out = s0.out ++ [Out.reply (src / 2 ^ 16) p src seq slice (s1.performRemote slice r).1 (s1.performRemote slice r).2.1] ∧
          Tbl.getD (u.sliceOf slice).expect r.key 0 = (seq + 1) % 65536 ∧
          ∃ d ∈ (u.sliceOf slice).dups, d.source = src ∧ d.seq = seq ∧ d.made = s.tick) ∧
      (first + 20000 ≤ s.tick → ∃ u, exec i s = .next u ∧ u.mem = s.mem ∧ u.out = s.out)) ∧
    (32 ≤ op → op < 64 →
      ∃ u p, exec i s = .next u ∧
        u.out = s0.out ++ [Out.reply (src / 2 ^ 16) p src seq slice (s0.performRemote slice r).1 (s0.performRemote slice r).2.1]) ∧
    (∀ c, 64 ≤ op → s0.windowOwner slice off = some c →
      exec i s = .next (s0.writePlace (.slice slice off) (granuleBytes op sz off v w) c true).1)) ∧
  (∀ (s : State) (core k m sl off : Nat) (e : QEntry), core < 32768 → (s.core core).entryAt k = some e → s.isRemote core e = true →
    s.requestPlace core e = some (.ok (.remote m sl off)) →
    (e.last + 2000 ≤ s.tick → s.tick < e.first + 20000 →
      ∃ u p, exec (.remoteRetransmit core k) s = .next u ∧ u.net = s.net ++ [p] ∧ p.dst = farCode m (2592 + sl / 8) ∧
        p.kind = .request sl (remoteSource (s.ctx (s.core core).ctxNo).member core) e.seq (queueClass (k / 16)) e.kind.code e.sz.toNat off
          e.data e.data2 e.first) ∧
    (e.first + 20000 ≤ s.tick →
      exec (.remoteRequestExpire core k) s = .next (s.updCore core fun x =>
        x.putEntry (k / 16) { e with state := .failed, fkind := 5, fxc := 4 }))) ∧
  (∀ (s : State) (slice k : Nat) (d : DupEntry), (s.sliceOf slice).dups[k]? = some d → d.made + 40000 ≤ s.tick →
    ∃ u, exec (.dupEntryRetire slice k) s = .next u ∧ (u.sliceOf slice).dups = (s.sliceOf slice).dups.eraseIdx k ∧ u.mem = s.mem) ∧
  (∀ (s : State) (rim : Nat), s.trunk.tokenLost = false → s.trunk.token = rim → s.rimReady rim = true → s.trunk.tokenAt ≤ s.clk →
    let v := s.performSeqs rim 8
    exec (.tokenVisit rim) s = .next (v.updTrunk fun t =>
      { t with token := v.nextRim rim, tokenAt := v.clk + 36, tokenZero := if v.nextRim rim ≤ rim then v.tick else t.tokenZero })) ∧
  (∀ (s : State), s.trunk.tokenLost = true → s.trunk.tokenZero + 1000 ≤ s.tick →
    ∃ u, exec .tokenRegenerate s = .next u ∧ u.trunk.tokenLost = false ∧ u.trunk.token = s.nextRim 11 ∧ u.trunk.tokenAt = s.clk) ∧
  (∀ (s : State) (k : Nat), s.scrubDue k = true →
    ∃ u, exec (.scrubStep k) s = .next u ∧ (u.stack k).pos = ((s.stack k).pos + 1) % 2 ^ 33 ∧
      (∀ key, s.stackWord k (s.stack k).pos = some key → syndrome (synOf s.mem key) = .uncorrectable →
        u.mem = poisonWord s.mem key ∧ (u.stack k).uncorr = min ((s.stack k).uncorr + 1) 65535) ∧
      (∀ key b, s.stackWord k (s.stack k).pos = some key → syndrome (synOf s.mem key) = .corrected b →
        u.mem = storeWord s.mem key ((readWord? s.mem key).getD 0) ∧ u.trunk.cecHbm = s.trunk.cecHbm + 1))

/-- R415, R416, R417, R418, R419, R420, R422, R434, R435, R438: Each of the fifteen forms answers a next state. On a queue pair
with no command still to be answered, a command of 16 to 1,024 bytes that passes the checks of R415 has its effect and is
answered with STATUS 0, or, in the cases stated, refused: LOAD_IMAGE of a launch image creates its context, LOADED, and
writes its data blocks; of firmware stages it, and with RESTART restarts the module; of a supervisor image keeps it. LAUNCH
places the records; a supervisor image starts on trunk core 3; MIGRATE answers with the outcome; SNAPSHOT with SN_STAT;
ROLLBACK quiesces the context, tells the other members, and once each has begun the context stands as the snapshot has it;
PARTITION quiesces its seams, trying three more times 8,192 clk apart, and then changes the map, or is answered BUSY and
restores the seams; SUMMARY writes its record; RESET_CONTEXT stops and flushes, CLEAR frees FAULTED records. Anything else
is UNKNOWN. Model's choices: LAUNCH sets LAST and the rollback target to 0, drops earlier records and takes the other
members' roots and links from its choice operand, as LOAD_IMAGE its places (log entries 29, 39); where a PARTITION puts its
memory (37); CLEAR goes before FREE (38); a rollback is two events (11). -/
def Obligations.HostCommands : Prop :=
  (∀ (s : State) (qp : Nat) (cmd : List Byte) (choice : List Nat), (∃ u, exec (.loadImage qp cmd choice) s = .next u) ∧
    (∃ u, exec (.loadImageFirmware qp cmd) s = .next u) ∧ (∃ u, exec (.loadImageSupervisor qp cmd) s = .next u) ∧
    (∃ u, exec (.launch qp cmd choice) s = .next u) ∧ (∃ u, exec (.launchSupervisor qp cmd) s = .next u) ∧
    (∃ u, exec (.migrateCmd qp cmd) s = .next u) ∧ (∃ u, exec (.snapshot qp cmd) s = .next u) ∧
    (∃ u, exec (.rollback qp cmd) s = .next u) ∧ (∃ u, exec (.partitionMerge qp cmd choice) s = .next u) ∧
    (∃ u, exec (.partitionSplit qp cmd choice) s = .next u) ∧ (∃ u, exec (.summary qp cmd) s = .next u) ∧
    (∃ u, exec (.resetContext qp cmd) s = .next u) ∧ (∃ u, exec (.resetContextFree qp cmd) s = .next u) ∧
    (∃ u, exec (.resetContextClear qp cmd) s = .next u) ∧ (∃ u, exec (.unknownCommand qp cmd) s = .next u)) ∧
  (∀ (s : State) (qp : Nat) (cmd : List Byte) (choice : List Nat), s.qpFree qp = true → cmdSized cmd = true →
    let tag := cmdTag cmd
    let ctx := cmdCtx cmd
    let bytes := s.imageBytes cmd
    (cmdCode cmd = 1 → cmdKind cmd = 0 → s.cmdGate cmd false .nothing = none → loadArgs cmd = none → s.cmdGate cmd false .part = none →
      ((s.ctx ctx).state ≠ .free → exec (.loadImage qp cmd choice) s = .next (s.respond qp 1 tag 1 1 [])) ∧
      (∀ d, (s.ctx ctx).state = .free → s.trunk.clearing.getLsbD (cmdPart cmd) = false →
        imageRefusal s.trunk.fw (fieldOfBytes cmd 0x18 8) bytes = some d →
        exec (.loadImage qp cmd choice) s = .next (s.respond qp 1 tag 2 (BitVec.ofNat 64 d) [])) ∧
      (∀ frames s1 s2 s3, (s.ctx ctx).state = .free → s.trunk.clearing.getLsbD (cmdPart cmd) = false →
        imageRefusal s.trunk.fw (fieldOfBytes cmd 0x18 8) bytes = none → rangesFit (mapOf cmd) = true →
        (∀ e ∈ imageData bytes, blockMapped (mapOf cmd) e.1 e.2.length = true) →
        s.takeFrames (partOfCtx ctx) (mapFrames (mapOf cmd)) (choice.getD 0 0) = some frames →
        s.giveWindows ctx (fieldOfBytes cmd 0x38 4 % 65536) (fieldOfBytes cmd 0x38 4 / 65536 % 256) (choice.getD 1 0) = some s1 →
        eachOf (s.partGroves (partOfCtx ctx)) s1 (fun s g =>
          s.giveAreas (partOfCtx ctx) g (min (max (choice.getD 2 0) 1) 31) (min (max (choice.getD 3 0) 1) 511) (choice.getD 1 0)) = some s2 →
        eachOf (s.partGroves (partOfCtx ctx)) s2 (fun s g =>
          s.giveGrant ctx g (fieldOfBytes cmd 0x3C 4 % 256) (fieldOfBytes cmd 0x3C 4 / 256 % 1024)) = some s3 →
        ∃ s' u, s.createCtx cmd (imageOfBytes bytes) choice = some s' ∧ exec (.loadImage qp cmd choice) s = .next u ∧
          u = ((imageData bytes).foldl (fun s e => (s.writeVa ctx e.1 (goodBytes e.2)).1) s').respond qp 1 tag 0 0 [] ∧
          (u.ctx ctx).state = .loaded ∧ (u.ctx ctx).image = imageOfBytes bytes ∧
          (u.ctx ctx).seed = BitVec.ofNat 64 (fieldOfBytes cmd 0x28 8) ∧
          (u.ctx ctx).rootList = s.partGroves (partOfCtx ctx))) ∧
    (cmdCode cmd = 1 → cmdKind cmd = 1 → s.cmdGate cmd true .nothing = none → loadArgs cmd = none →
      (signedOf s.trunk.rollMin s.trunk.revoked bytes = none → exec (.loadImageFirmware qp cmd) s = .next (s.respond qp 1 tag 3 0 [])) ∧
      (∀ x, signedOf s.trunk.rollMin s.trunk.revoked bytes = some x →
        let u := (s.updTrunk fun t => { t with staged := some (x.fwlvl, x.roll, x.digest) }).respond qp 1 tag 0 0 []
        exec (.loadImageFirmware qp cmd) s =
          .next (if (fieldOfBytes cmd 0x21 1).testBit 0 then u.resetModule true else u))) ∧
    (∀ x, cmdCode cmd = 1 → cmdKind cmd = 2 → s.cmdGate cmd false .nothing = none → loadArgs cmd = none →
      s.cmdGate cmd false .supervisor = none → signedOf s.trunk.rollMin s.trunk.revoked bytes = some x → x.fwlvl = 0 →
      imageRefusal s.trunk.fw (bytes.take (bytes.length - 512)).length (bytes.take (bytes.length - 512)) = none →
      exec (.loadImageSupervisor qp cmd) s = .next ((s.updTrunk fun t =>
        { t with supImage := some { imageOfBytes (bytes.take (bytes.length - 512)) with digest := sha256 bytes } }).respond qp 1 tag 0 0 [])) ∧
    (cmdCode cmd = 2 → cmdPart cmd ≠ 15 → s.cmdGate cmd false .ctx = none → zeroBytes cmd 0x1A 0x20 = true →
      ((s.ctx ctx).state ≠ .loaded → exec (.launch qp cmd choice) s = .next (s.respond qp 2 tag 1 3 [])) ∧
      ((s.ctx ctx).state = .loaded → s.trunk.clearing.getLsbD (cmdPart cmd) = false → s.trunk.syncErr = false →
        s.joinDue (fieldOfBytes cmd 0x18 1 + 1) (fieldOfBytes cmd 0x19 1) = true → s.anyLaunched = true →
        exec (.launch qp cmd choice) s = .next ((s.updTrunk fun t => { t with syncErr := true }).respond qp 2 tag 1 4 [])) ∧
      ((s.ctx ctx).state = .loaded → s.trunk.clearing.getLsbD (cmdPart cmd) = false → s.trunk.syncErr = false →
        s.joinDue (fieldOfBytes cmd 0x18 1 + 1) (fieldOfBytes cmd 0x19 1) = false →
        fieldOfBytes cmd 0x10 8 ≤ s.tick → exec (.launch qp cmd choice) s = .next (s.respond qp 2 tag 2 13 [])) ∧
      ((s.ctx ctx).state = .loaded → s.trunk.clearing.getLsbD (cmdPart cmd) = false → s.trunk.syncErr = false →
        s.tick < fieldOfBytes cmd 0x10 8 → fieldOfBytes cmd 0x18 1 = 0 → fieldOfBytes cmd 0x19 1 = 0 →
        (s.ctx ctx).image.widths.foldl (· + ·) 0 ≤ 64 → (s.ctx ctx).image.placements = [] →
        (∀ e ∈ s.groves, e.2.tasks = []) →
        ∃ u, exec (.launch qp cmd choice) s = .next u ∧ (u.ctx ctx).state = .launched ∧
          (u.ctx ctx).start = fieldOfBytes cmd 0x10 8 ∧ (u.ctx ctx).nmem = 1 ∧
          u.out = s.out ++ [Out.response qp (respBytes 2 tag 0 0 [])]) ∧
      (∀ routes s2, (s.ctx ctx).state = .loaded → s.trunk.clearing.getLsbD (cmdPart cmd) = false → s.trunk.syncErr = false →
        s.tick < fieldOfBytes cmd 0x10 8 → fieldOfBytes cmd 0x18 1 < 64 → fieldOfBytes cmd 0x19 1 ≤ fieldOfBytes cmd 0x18 1 →
        let n := fieldOfBytes cmd 0x18 1 + 1
        let member := fieldOfBytes cmd 0x19 1
        let modules := (List.range n).map fun i => fieldOfBytes cmd (0x20 + 8 * i) 8
        s.joinDue n member = false → s.gangRoutes modules member choice = some routes →
        let x := s.ctx ctx
        let own := (x.rootList.filter fun r => decide (r / 2592 = x.member)).map fun r => member * 2592 + r % 2592
        let others := choice.filter fun c => decide (c < n * 2592) && decide (c / 2592 ≠ member)
        let r := s.startNumbers.resetGrants ctx
        let r : State := { r with snaps := r.snaps.filter fun y => !decide (y.ctx = ctx) }
        (r.setCtx ctx { x with
          state := .launched, nmem := n, member := member, ltag := tag, start := fieldOfBytes cmd 0x10 8,
          modules := modules.map (BitVec.ofNat 64), routes := routes, links := r.gangLinks modules member choice,
          rootList := (List.range n).flatMap fun m => if m = member then own else others.filter fun c => decide (c / 2592 = m),
          lastRb := 0, snStat := x.snStat &&& 0x00000000FFFFFFFF }).placeAll ctx (if n = 1 then none else some member) = some s2 →
        exec (.launch qp cmd choice) s = .next ((s2.settlePools ctx).respond qp 2 tag 0 0 []))) ∧
    (∀ im, cmdCode cmd = 2 → cmdPart cmd = 15 → s.cmdGate cmd false .supervisor = none → zeroBytes cmd 0x1A 0x20 = true →
      fieldOfBytes cmd 0x10 8 = 0 → s.trunk.supImage = some im →
      (s.trunk.supRun = none → ∃ u, exec (.launchSupervisor qp cmd) s = .next u ∧
        u.core (trunkCore0 + 3) = Core.beginSup im s.clk ∧ u.trunk.supRun = some (qp, tag) ∧ u.out = s.out) ∧
      (s.trunk.supRun ≠ none → exec (.launchSupervisor qp cmd) s = .next (s.respond qp 2 tag 1 6 []))) ∧
    (cmdCode cmd = 3 → s.cmdGate cmd false .ctx = none → zeroBytes cmd 0x13 0x14 = true → (s.ctx ctx).state = .running →
      let g := fieldOfBytes cmd 0x10 2
      let i := fieldOfBytes cmd 0x12 1
      let m := s.migrateRecord g i (fieldOfBytes cmd 0x14 2) false fun _ => true
      ((s.partGroves (cmdPart cmd)).contains g = false ∨ (s.grove g).task? i = none →
        exec (.migrateCmd qp cmd) s = .next (s.respond qp 3 tag 2 19 [])) ∧
      (∀ t, (s.partGroves (cmdPart cmd)).contains g = true → (s.grove g).task? i = some t → t.ctx = ctx →
        ((m.grove g).teMigstat.extractLsb' 0 4 ≠ 5 →
          exec (.migrateCmd qp cmd) s = .next (m.respond qp 3 tag 0 0 (natBytes 8 (m.grove g).teMigstat.toNat))) ∧
        ((m.grove g).teMigstat.extractLsb' 0 4 = 5 → exec (.migrateCmd qp cmd) s =
          .next (m.updTrunk fun k => { k with migrations := k.migrations ++ [(qp, tag, 256 * g + i)] })))) ∧
    (cmdCode cmd = 4 → s.cmdGate cmd false .nothing = none → cmdPart cmd ≤ 3 → fieldOfBytes cmd 9 1 ≤ 15 →
      let w := s.startSnap ctx ((fieldOfBytes cmd 0x10 1).testBit 0) false
      exec (.snapshot qp cmd) s = .next (w.respond qp 4 tag
        (if (w.ctx ctx).snStat.extractLsb' 8 4 = 1 then 0 else 1) (w.ctx ctx).snStat [])) ∧
    (cmdCode cmd = 5 → s.cmdGate cmd false .ctx = none →
      (s.rollingFrom ctx ≠ none → exec (.rollback qp cmd) s = .next (s.respond qp 5 tag 1 9 [])) ∧
      (s.rollingFrom ctx = none → (s.ctx ctx).state ≠ .resetting →
        (fieldOfBytes cmd 0x10 4 ≤ snLast (s.ctx ctx).snStat →
          (∃ x ∈ s.snaps, x.ctx = ctx ∧ x.id = fieldOfBytes cmd 0x10 4 ∧ x.done ≠ none ∧ x.released = false) →
          ∃ u, exec (.rollback qp cmd) s = .next u ∧
            (let v := ((s.quiesceCtx ctx).updCtx ctx fun x => { x with marks := [] }).updTrunk fun t =>
              { t with rollbacks := t.rollbacks ++ [(qp, ctx, s.tick, cmd)] }
             u = { v with out := v.out ++ (v.otherMembers ctx).map fun m => Out.rollback m ctx (fieldOfBytes cmd 0x10 4) }) ∧
            u.heldCtx ctx = true ∧ u.rollbackRuns qp cmd = true ∧ ∀ q ∈ u.net, q.ctx ≠ ctx) ∧
        (snLast (s.ctx ctx).snStat < fieldOfBytes cmd 0x10 4 → exec (.rollback qp cmd) s = .next (s.respond qp 5 tag 2 1 [])))) ∧
    (cmdCode cmd = 6 → s.cmdGate cmd false .nothing = none →
      let m := fieldOfBytes cmd 0x11 1
      let low := (maskQuarters m).headD 0
      let op := fieldOfBytes cmd 0x10 1
      let w := s.newMap m fun q => if op = 0 then low else q
      let seams := seamsChanged s.trunk.partmap w
      let starts := (s.quiesceSeams seams).updTrunk fun t =>
        { t with parting := some ⟨qp, cmd, seams, 0, none, s.trunk.seamctl, s.trunk.seamstat, choice⟩ }
      (s.mayPartition m w = true → (∀ k ∈ seams, s.trunk.seamState k ≠ 1 ∧ s.trunk.seamBusy[k]?.getD none = none) →
        (op = 0 → (s.covered m).length = 2 → exec (.partitionMerge qp cmd choice) s = .next starts) ∧
        (op = 1 → (s.covered m).length = 1 → exec (.partitionSplit qp cmd choice) s = .next starts)) ∧
      (s.trunk.parting ≠ none → ∃ d u, u = s.freeWord.2.respond qp 6 tag 1 d [] ∧
        (op = 0 → exec (.partitionMerge qp cmd choice) s = .next u) ∧ (op = 1 → exec (.partitionSplit qp cmd choice) s = .next u)) ∧
      (1 < op → exec (.unknownCommand qp cmd) s = .next (s.respond qp 6 tag 4 0 []))) ∧
    (cmdCode cmd = 7 → s.cmdGate cmd true .nothing = none → (fieldOfBytes cmd 0x10 1).testBit 1 = false →
      ∃ u, exec (.summary qp cmd) s = .next u ∧
        u.mem = (writeRun s.mem (trunkKey (qp / 64 * 0x400000 + qp % 64 * 0x10000)) (goodBytes s.summaryRecord)).1 ∧
        u.out = s.out ++ [Out.response qp (respBytes 7 tag 0 (BitVec.ofNat 64 (qp / 64 * 0x400000 + qp % 64 * 0x10000))
          (natBytes 4 s.summaryRecord.length))]) ∧
    (cmdCode cmd = 8 → s.cmdGate cmd false .ctx = none → s.rollingFrom ctx ≠ none →
      (resetClear cmd = false → resetFree cmd = false → exec (.resetContext qp cmd) s = .next (s.respond qp 8 tag 1 9 [])) ∧
      (resetClear cmd = false → resetFree cmd = true → exec (.resetContextFree qp cmd) s = .next (s.respond qp 8 tag 1 9 [])) ∧
      (resetClear cmd = true → exec (.resetContextClear qp cmd) s = .next (s.respond qp 8 tag 1 9 []))) ∧
    (cmdCode cmd = 8 → s.cmdGate cmd false .ctx = none → s.rollingFrom ctx = none →
      (resetClear cmd = false → resetFree cmd = false →
        ∃ u, exec (.resetContext qp cmd) s = .next u ∧ u = s.startReset qp cmd false ∧ (u.ctx ctx).state = .resetting) ∧
      (resetClear cmd = false → resetFree cmd = true →
        ∃ u, exec (.resetContextFree qp cmd) s = .next u ∧ u = s.startReset qp cmd true ∧ (u.ctx ctx).state = .resetting) ∧
      (resetClear cmd = true → exec (.resetContextClear qp cmd) s = .next ((s.clearFaulted ctx).respond qp 8 tag 0 0 []))) ∧
    (cmdCode cmd = 0 ∨ 8 < cmdCode cmd → exec (.unknownCommand qp cmd) s = .next (s.respond qp (cmdCode cmd) tag 4 0 []))) ∧
  (∀ (s : State) (qp : Nat) (cmd : List Byte), s.rollbackRuns qp cmd = true →
    let ctx := cmdCtx cmd
    let v := ((s.updTrunk fun t => { t with rollbacks := t.rollbacks.filter fun e => decide (e.1 ≠ qp) }).updCtx ctx fun x =>
      { x with marks := [] }).rollbackTo ctx (fieldOfBytes cmd 0x10 4)
    ((∀ m ∈ s.otherMembers ctx, m ∈ (s.ctx ctx).marks) →
      exec (.rollback qp cmd) s = .next (if 128 ≤ qp then v else v.respond qp 5 (cmdTag cmd) 0 0 [])) ∧
    ((∃ m ∈ s.otherMembers ctx, m ∉ (s.ctx ctx).marks) → exec (.rollback qp cmd) s = .next s)) ∧
  (∀ (s : State) (p : Parting), s.trunk.parting = some p →
    let op := fieldOfBytes p.cmd 0x10 1
    let goes (u : State) : Prop := ∀ choice, exec (.partitionMerge p.qp p.cmd choice) s = .next u ∧
      exec (.partitionSplit p.qp p.cmd choice) s = .next u
    let closed (t : Trunk) : Trunk := { t with parting := none, seamAns := Vector.replicate 3 none }
    let quiesced : Prop := ∀ k ∈ p.seams, s.trunk.seamState k = 1
    ((∃ k ∈ p.seams, s.trunk.seamBusy[k]?.getD none ≠ none) → goes s) ∧
    ((∀ k ∈ p.seams, s.trunk.seamBusy[k]?.getD none = none) →
      (∀ u, quiesced → (s.updTrunk closed).repartition p.seams (s.partLayout p.cmd) (decide (op = 0))
          (if op = 0 then [(maskQuarters (fieldOfBytes p.cmd 0x11 1)).headD 0] else maskQuarters (fieldOfBytes p.cmd 0x11 1))
          (s.covered (fieldOfBytes p.cmd 0x11 1)) p.choice = some u →
        goes (u.respond p.qp (cmdCode p.cmd) (cmdTag p.cmd) 0 0 [])) ∧
      (¬ quiesced → p.wake = none → p.tries ≠ 3 → goes (s.updTrunk fun t =>
        { t with parting := some { p with tries := p.tries + 1, wake := some (s.clk + 8192) } })) ∧
      (¬ quiesced → p.wake = none → p.tries = 3 → ∃ k ∈ p.seams, s.trunk.seamState k ≠ 1 ∧
        goes (((s.updTrunk closed).updTrunk fun t => { t with seamctl := p.ctl, seamstat := p.stat }).respond p.qp (cmdCode p.cmd)
          (cmdTag p.cmd) 1 (BitVec.ofNat 64 (s.trunk.seam k).toNat) [])) ∧
      (∀ w, ¬ quiesced → p.wake = some w → (s.clk < w → goes s) ∧
        (w ≤ s.clk → goes ((s.quiesceSeams p.seams).updTrunk fun t => { t with parting := some { p with wake := none } }))))) ∧
  (∀ (s : State) (qp : Nat) (cmd : List Byte), s.qpFree qp = true → cmd.length < 16 ∨ 1024 < cmd.length →
    exec (.unknownCommand qp cmd) s = .next (s.respond qp (cmdCode cmd) (cmdTag cmd) 4 0 []))

/-- R49, R50, R51, R401, R412, R413, R421, R425, R426, R427, R437: Each of the twelve forms answers a next state. An RDMA WRITE
of the image buffer or of writable space stores the data, one elsewhere answers a remote access error and stores nothing,
but that what its failing walk read is corrected; a READ gives the bytes; any other opcode gives an invalid request. The
oldest tile goes to the notification queue pair. A module reset leaves the state of reset but for what R426 keeps; that
memory lists nothing then, so that staging and the trunk region read as zero, and that the cores' registers are zero, is the
model's choice, log entries 1 and 2. A function reports once, and the map's GEN rises; a start that takes 60 s is counted as
failed, once, and the third one resets the module into minimal mode; a grove, rim field, stack or port that is ready leaves
readiness and can regain it, but for a grove withdrawn by heat, which returns by itself after 2^30 cool ticks; a lost rim
field loses the token at it. A soft error flips one stored bit and the syndrome follows. -/
def Obligations.RdmaReadinessAndFaultNotices : Prop :=
  (∀ (s : State) (a b c d : Nat) (x : Bool) (data : List Byte), (∃ u, exec (.rdmaWrite a b c data) s = .next u) ∧
    (∃ u, exec (.rdmaRead a b c d) s = .next u) ∧ (∃ u, exec (.rdmaInvalid a b) s = .next u) ∧ (∃ u, exec (.faultNotify a) s = .next u) ∧
    (∃ u, exec .moduleReset s = .next u) ∧ (∃ u, exec (.bringupReport a b x c) s = .next u) ∧ (∃ u, exec .startTimeout s = .next u) ∧
    (∃ u, exec (.groveWithdraw a b) s = .next u) ∧ (∃ u, exec (.readinessLost a b) s = .next u) ∧
    (∃ u, exec (.readinessRegained a b) s = .next u) ∧ (∃ u, exec (.groveReturn a) s = .next u) ∧
    (∃ u, exec (.softError a b) s = .next u)) ∧
  (∀ (s : State) (qp rkey addr len : Nat) (data : List Byte), qp < 128 →
    (rkey = 0x4F00 → 0x10000000 ≤ addr → addr + data.length ≤ 0x20000000 →
      exec (.rdmaWrite qp rkey addr data) s = .next { s with mem := (writeRun s.mem (trunkKey addr) (goodBytes data)).1 }) ∧
    (rkey = 0x4F00 → addr < 0x10000000 ∨ 0x20000000 < addr + data.length →
      exec (.rdmaWrite qp rkey addr data) s = .next (s.nak qp 1)) ∧
    (∀ c, rkey ≠ 0x4F00 → s.rkeyCtx rkey = some c → s.vaOpen c addr data.length true = true →
      exec (.rdmaWrite qp rkey addr data) s = .next (s.writeVa c addr (goodBytes data)).1) ∧
    (rkey ≠ 0x4F00 → s.rkeyCtx rkey = none →
      exec (.rdmaWrite qp rkey addr data) s = .next (s.nak qp 1) ∧ exec (.rdmaRead qp rkey addr len) s = .next (s.nak qp 1)) ∧
    (rkey = 0x4F00 → addr + len ≤ 0x20000000 → exec (.rdmaRead qp rkey addr len) s = .next { s with out :=
      s.out ++ [Out.data qp ((List.range len).map fun i => s.trunkByte s.ready.bytes (addr + i))] }) ∧
    (∀ c, rkey ≠ 0x4F00 → s.rkeyCtx rkey = some c → s.vaOpen c addr data.length true = false →
      exec (.rdmaWrite qp rkey addr data) s =
        .next ((if addr + data.length ≤ 2 ^ 48 then s.probed c addr data.length true else s).nak qp 1)) ∧
    (∀ c d, rkey ≠ 0x4F00 → s.rkeyCtx rkey = some c → s.vaOpen c addr len false = true → (s.readVa c addr len).2 = .ok d →
      exec (.rdmaRead qp rkey addr len) s =
        .next { (s.readVa c addr len).1 with out := (s.readVa c addr len).1.out ++ [Out.data qp d] }) ∧
    exec (.rdmaInvalid qp rkey) s = .next (s.nak qp 0)) ∧
  (∀ (s : State) (qp : Nat) (t : List Byte) (r : List (List Byte)), s.trunk.notifyQp = some qp → s.trunk.tiles = t :: r →
    ∃ u, exec (.faultNotify 0) s = .next u ∧ u.trunk.tiles = r ∧
      u.out = s.out ++ [Out.notify qp (natBytes 2 0x80 ++ List.replicate 14 0 ++ t)]) ∧
  (∀ (s : State), ∃ u, exec .moduleReset s = .next u ∧ u.mem = [] ∧ u.cores = State.reset.cores ∧ u.groves = State.reset.groves ∧
    u.contexts = State.reset.contexts ∧ u.ready = State.reset.ready ∧ u.clk = s.clk ∧ u.trunk.revoked = s.trunk.revoked ∧
    u.trunk.rollMin = s.trunk.rollMin ∧ u.trunk.fails = s.trunk.fails ∧ u.trunk.partmap = Trunk.reset.partmap) ∧
  (∀ (s : State) (idx info : Nat) (ready : Bool), idx < 2592 → idx ∉ s.ready.reported → s.trunk.minimal = false →
    ∃ u, exec (.bringupReport 0 idx ready info) s = .next u ∧ u.ready.gen = (s.ready.gen + 1) % 2 ^ 32 ∧
      u.ready.reported = s.ready.reported ++ [idx] ∧
      u.ready.groveByte idx = info % 256 / 2 * 2 + (if ready then 1 else 0)) ∧
  (∀ (s : State), s.trunk.started = false → s.trunk.minimal = false → s.trunk.failed = false → 60000000000 ≤ (s.clk - s.trunk.startedAt) * 5 / 9 →
    ∃ u, exec .startTimeout s = .next u ∧ u.trunk.fails = min (s.trunk.fails + 1) 3 ∧
      (u.trunk.minimal = true ↔ 3 ≤ s.trunk.fails + 1) ∧
      (s.trunk.fails < 2 → u.trunk.failed = true ∧ u.trunk.startedAt = s.trunk.startedAt ∧ exec .startTimeout u = .next u) ∧
      (2 ≤ s.trunk.fails → u.ready = State.reset.ready ∧ u.trunk.startedAt = s.clk ∧ exec .startTimeout u = .next u)) ∧
  (∀ (s : State) (g reason : Nat), s.groveReady g = true →
    ∃ u, exec (.groveWithdraw g reason) s = .next u ∧ u.ready.gen = (s.ready.gen + 1) % 2 ^ 32 ∧
      u.ready.groveByte g = s.ready.groveByte g / 2 * 2 % 16 + reason % 16 * 16 ∧ u.groveReady g = false ∧ (u.grove g).cool = none) ∧
  (∀ (s : State) (k : Nat), k < 12 → s.ready.rims.getLsbD k = true →
    ∃ u, exec (.readinessLost 1 k) s = .next u ∧ u.ready.rims.getLsbD k = false ∧ u.ready.gen = (s.ready.gen + 1) % 2 ^ 32 ∧
      (s.trunk.token = k → u.trunk.tokenLost = true)) ∧
  (∀ (s : State) (k : Nat), k < 12 → s.ready.rims.getLsbD k = false →
    ∃ u, exec (.readinessRegained 1 k) s = .next u ∧ u.ready.rims.getLsbD k = true ∧ u.ready.gen = (s.ready.gen + 1) % 2 ^ 32) ∧
  (∀ (s : State) (g : Nat), g < 2592 → s.ready.groveByte g % 2 = 0 → s.ready.groveByte g / 16 ≠ 3 →
    ∃ u, exec (.readinessRegained 0 g) s = .next u ∧ u.ready.groveByte g = s.ready.groveByte g % 16 / 2 * 2 + 1) ∧
  (∀ (s : State) (g t : Nat), (s.grove g).cool = some t → s.ready.groveByte g / 16 = 3 → s.groveReady g = false →
    2 ^ 30 ≤ (s.clk - t) * 5 / 9 →
    ∃ u, exec (.groveReturn g) s = .next u ∧ u.ready.groveByte g = s.ready.groveByte g % 16 / 2 * 2 + 1 ∧ (u.grove g).cool = none) ∧
  (∀ (s : State) (addr bit : Nat), s.memoryCanonical → addr < 2 ^ 48 → bit < 72 →
    ∃ u, exec (.softError addr bit) s = .next u ∧
      Memory.read u.mem (synKey (addr / 8 * 8)) = BitVec.ofNat 8 (synOf s.mem (addr / 8 * 8)) ^^^
        BitVec.ofNat 8 (if bit < 64 then dataColumns.getD bit 0 else 2 ^ (bit - 64)) ∧
      (bit < 64 → Memory.read u.mem (addr / 8 * 8 + bit / 8) =
        Memory.read s.mem (addr / 8 * 8 + bit / 8) ^^^ ((1 : Byte) <<< (bit % 8))))

/-- R35, R47, R48, R49, R190, R424, R436, R437: Each of the twelve forms answers a next state. The first PTP message, where no
context is launched, sets the tick, and with one launched it changes no time; a lost master clears the lock of its port; a
sync symbol is recorded, raises SYNCERR above 2,000 ps and clears it at 1,500 ps, and a free-running module without launched
contexts takes its time. Under AUTO a measurement above the cap lowers every BUDGET by an eighth, rounding down, to no less
than 64, and one below 95 % of it raises every BUDGET by a sixteenth, rounding up, to no more than 1,024. A grove at HOT is
hot and sends its records away; below HOT less HYST it is not, and begins to count. A held context that is quiet goes on
with a root list without the groves that are lost; START begins a flush, which ends when the context is idle and sets DONE;
seed, override and SPLIT writes take effect only where their rules allow, and change nothing otherwise. The refusal of a
SPLIT write, the registrations that a flush drops and the rounding of the steps are the model's reading, log entry 35. -/
def Obligations.TimePowerAndContextRegisters : Prop :=
  (∀ (s : State) (a b : Nat) (v : Word), (∃ u, exec (.ptpMessage a b) s = .next u) ∧ (∃ u, exec (.ptpMasterLoss a) s = .next u) ∧
    (∃ u, exec (.syncSymbol a b) s = .next u) ∧ (∃ u, exec (.powerMeasure a) s = .next u) ∧
    (∃ u, exec (.hotGroveEvent a b) s = .next u) ∧ (∃ u, exec (.hotGroveClear a b) s = .next u) ∧
    (∃ u, exec (.forcedFlushMove a) s = .next u) ∧ (∃ u, exec (.ctxFlush a) s = .next u) ∧ (∃ u, exec (.flushComplete a) s = .next u) ∧
    (∃ u, exec (.seedWrite a v) s = .next u) ∧ (∃ u, exec (.rootovrWrite a b v) s = .next u) ∧
    (∃ u, exec (.sliceSplitWrite a v) s = .next u)) ∧
  (∀ (s : State) (port time : Nat), port < 2 → time < 2 ^ 64 → (port = 0 ∨ s.trunk.ptpLock.getLsbD 0 = false) →
    ∃ u, exec (.ptpMessage port time) s = .next u ∧ u.trunk.ptpLock.getLsbD port = true ∧
      (s.trunk.everPtp = false → s.anyLaunched = false → u.tick = time ∧ u.trunk.everPtp = true) ∧
      (s.trunk.everPtp = false → s.anyLaunched = true → u.base = s.base)) ∧
  (∀ (s : State) (port : Nat), port < 2 →
    ∃ u, exec (.ptpMasterLoss port) s = .next u ∧ u.trunk.ptpLock.getLsbD port = false ∧ u.base = s.base) ∧
  (∀ (s : State) (time err : Nat), time < 2 ^ 64 → err < 2 ^ 63 →
    ∃ u, exec (.syncSymbol time err) s = .next u ∧ u.trunk.syncPs = err ∧
      (2000 < err → u.trunk.syncErr = true) ∧
      (err ≤ 1500 → s.trunk.everPtp = true ∨ s.trunk.joined = true ∨ s.anyLaunched = false → u.trunk.syncErr = false) ∧
      (s.trunk.everPtp = false → s.trunk.joined = false → s.anyLaunched = false → u.tick = time ∧ u.trunk.joined = true)) ∧
  (∀ (s : State) (watts : Nat), s.trunk.pwrcap.getLsbD 16 = true → s.trunk.measured ≠ s.tick / 2 ^ 20 + 1 →
    ∃ u, exec (.powerMeasure watts) s = .next u ∧ u.trunk.watts = watts ∧
      ∀ p : Fin 4, u.trunk.gov[p] =
        let cap := s.trunk.pwrcap.toNat % 65536 * 100
        let b := (s.trunk.gov[p]).toNat
        BitVec.ofNat 64 (if cap < watts then max 64 (b * 7 / 8)
          else if 100 * watts < 95 * cap then min 1024 ((b * 17 + 15) / 16)
          else b)) ∧
  (∀ (s : State) (g temp : Nat), g < 2592 → s.groveReady g = true → s.trunk.hotAt ≤ temp →
    let s1 := (s.setTemp g temp).updGrove g fun gr => { gr with hot := true, cool := none }
    exec (.hotGroveEvent g temp) s =
      .next ((s1.hotRecords g).foldl (fun s i => s.migrateRecord g i 0xFFF false fun h => !(s.grove h).hot) s1)) ∧
  (∀ (s : State) (g temp : Nat), g < 2592 → s.trunk.coolAt ≤ temp → temp < s.trunk.hotAt →
    ∃ u, exec (.hotGroveClear g temp) s = .next u ∧ (u.grove g).hot = (s.grove g).hot ∧ (u.grove g).cool = none ∧
      Tbl.get? u.trunk.temps g = some temp) ∧
  (∀ (s : State) (g temp : Nat), g < 2592 → temp < s.trunk.coolAt →
    ∃ u, exec (.hotGroveClear g temp) s = .next u ∧ (u.grove g).hot = false ∧ (u.grove g).cool = some ((s.grove g).cool.getD s.clk) ∧
      Tbl.get? u.trunk.temps g = some temp) ∧
  (∀ (s : State) (ctx : Nat), (s.ctx ctx).hold = .holding → s.holdQuiet ctx = true →
    ∃ u, exec (.forcedFlushMove ctx) s = .next u ∧ u = s.moveFlush ctx ∧ (u.ctx ctx).hold = .none ∧
      (u.ctx ctx).rootList =
        (s.ctx ctx).rootList.filter (fun r => if r / 2592 = (s.ctx ctx).member then s.groveReady (r % 2592)
          else !(s.ctx ctx).lost.contains r) ∧ (u.ctx ctx).lost = [] ∧
      ∀ l ∈ u.cache, l.ctx ≠ ctx) ∧
  (∀ (s : State) (ctx : Nat), snInprog (s.ctx ctx).snStat = false →
    ∃ u, exec (.ctxFlush ctx) s = .next u ∧ (u.ctx ctx).flushing = true ∧ (u.ctx ctx).flushDone = false) ∧
  (∀ (s : State) (ctx : Nat), snInprog (s.ctx ctx).snStat = true → exec (.ctxFlush ctx) s = .next s) ∧
  (∀ (s : State) (ctx : Nat), (s.ctx ctx).flushing = true → s.flushIdle ctx = true → (s.ctx ctx).state ≠ .resetting →
    ∃ u, exec (.flushComplete ctx) s = .next u ∧ (u.ctx ctx).flushDone = true ∧ (u.ctx ctx).flushing = false ∧
      (∀ l ∈ u.cache, l.ctx ≠ ctx) ∧
      ∀ e ∈ u.groves, (∀ v ∈ e.2.versions, v.ctx ≠ ctx) ∧ (∀ v ∈ e.2.names, v.ctx ≠ ctx) ∧ ∀ v ∈ e.2.regs, v.ctx ≠ ctx) ∧
  (∀ (s : State) (ctx : Nat) (v : Word),
    ((s.ctx ctx).flushDone = true → ∃ u, exec (.seedWrite ctx v) s = .next u ∧ u = ((s.updCtx ctx fun x => { x with seed := v }).rehash ctx).settlePools ctx ∧
      (u.ctx ctx).seed = v ∧ (u.ctx ctx).flushDone = false) ∧
    ((s.ctx ctx).flushDone = false → exec (.seedWrite ctx v) s = .next s)) ∧
  (∀ (s : State) (ctx : Nat) (i : Fin 16) (v : Word),
    ((s.ctx ctx).flushDone = true → ∃ u, exec (.rootovrWrite ctx i.val v) s = .next u ∧
      (u.ctx ctx).rootovr[i] = v &&& 0x80FFFFFF00FFFFFF ∧ (u.ctx ctx).flushDone = false) ∧
    ((s.ctx ctx).flushDone = false → exec (.rootovrWrite ctx i.val v) s = .next s)) ∧
  (∀ (s : State) (slice : Nat) (v : Word),
    (s.sliceInUse slice = false → ∃ u, exec (.sliceSplitWrite slice v) s = .next u ∧
      (u.sliceOf slice).split = min (v.toNat % 2048) 1280 ∧ (∀ l ∈ u.cache, l.slice ≠ slice) ∧ u.mem = s.mem) ∧
    (s.sliceInUse slice = true → exec (.sliceSplitWrite slice v) s = .next s))

/-- R44, R155, R177, R343, R391, R411, R430, R431, R432, R433, R436, R437: Each of the eleven forms answers a next state.
TK_PARTMAP takes only a valid layout that moves no quarter of a partition with contexts and changes only quiesced seams;
QUIESCE waits until the seam's queues are empty and then leaves STATE 1, or ends at its TIMEOUT with REFUSED set and nothing
quiesced; OPEN and CLOSE of a quiesced seam set STATE 2 or 0 where the map allows; TK_ILVp takes only its own stacks and a
range clear of the other partitions', and starts a clear, which leaves the range zero; a shoot-down removes the translations
it names and no others; GE_GRANT takes no grant that meets another; a register that has no step of its own keeps its fields.
What a register refuses changes nothing. -/
def Obligations.ManagementRegisterSteps : Prop :=
  (∀ (s : State) (a b : Nat) (v w : Word), (∃ u, exec (.partmapWrite v) s = .next u) ∧ (∃ u, exec (.seamQuiesce a v) s = .next u) ∧
    (∃ u, exec (.seamQuiesced a) s = .next u) ∧ (∃ u, exec (.seamQuiesceTimeout a) s = .next u) ∧ (∃ u, exec (.seamOpen a) s = .next u) ∧
    (∃ u, exec (.seamClose a) s = .next u) ∧ (∃ u, exec (.ilvWrite a v) s = .next u) ∧ (∃ u, exec (.hbmClearComplete a) s = .next u) ∧
    (∃ u, exec (.shootdown v) s = .next u) ∧ (∃ u, exec (.grantWrite a b v) s = .next u) ∧
    (∃ u, exec (.registerWrite v w) s = .next u)) ∧
  (∀ (s : State) (v : Word),
    (v &&& 0xFFF ∈ layouts →
      (∀ q < 4, mapPart s.trunk.partmap q ≠ mapPart (v &&& 0xFFF) q → s.ctxMask (mapPart s.trunk.partmap q) = 0) →
      (∀ k ∈ seamsChanged s.trunk.partmap (v &&& 0xFFF), s.trunk.seamState k = 1) →
      exec (.partmapWrite v) s = .next (s.updTrunk fun t => { t with partmap := v &&& 0xFFF })) ∧
    ((v &&& 0xFFF ∉ layouts ∨ ∃ k ∈ seamsChanged s.trunk.partmap (v &&& 0xFFF), s.trunk.seamState k ≠ 1) →
      exec (.partmapWrite v) s = .next s) ∧
    ((∃ q < 4, mapPart s.trunk.partmap q ≠ mapPart (v &&& 0xFFF) q ∧ s.ctxMask (mapPart s.trunk.partmap q) ≠ 0) →
      exec (.partmapWrite v) s = .next s)) ∧
  (∀ (s : State) (k : Fin 3) (v : Word), s.trunk.seamState k.val ≠ 1 → s.trunk.seamBusy[k] = none →
    ∃ u e d, exec (.seamQuiesce k.val v) s = .next u ∧ u.trunk.seamBusy[k] = some (e, d) ∧ e % 4 = s.trunk.seamState k.val ∧
      s.tick ≤ e / 4 ∧ d = s.tick + (if v.toNat / 2 ^ 32 = 0 then 65536 else v.toNat / 2 ^ 32) ∧ u.trunk.seamstat = s.trunk.seamstat) ∧
  (∀ (s : State) (k : Fin 3) (v : Word), s.trunk.seamState k.val = 1 ∨ s.trunk.seamBusy[k] ≠ none →
    exec (.seamQuiesce k.val v) s = .next s) ∧
  (∀ (s : State) (k : Fin 3) (e d : Nat), s.trunk.seamBusy[k] = some (e, d) →
    (e / 4 ≤ s.tick → s.tick < d → ∃ u, exec (.seamQuiesced k.val) s = .next u ∧ u.trunk.seamState k.val = 1 ∧
      (u.trunk.seam k.val).getLsbD 2 = false ∧ u.trunk.seamBusy[k] = none) ∧
    (d ≤ s.tick → ∃ u, exec (.seamQuiesceTimeout k.val) s = .next u ∧ u.trunk.seamState k.val = e % 4 ∧
      (u.trunk.seam k.val).getLsbD 2 = true ∧ (u.trunk.seam k.val).extractLsb' 48 16 ≠ 0 ∧ u.trunk.seamBusy[k] = none)) ∧
  (∀ (s : State) (k : Nat), k < 3 →
    (s.trunk.seamState k = 1 → mapPart s.trunk.partmap k = mapPart s.trunk.partmap (k + 1) →
      (∃ u, exec (.seamOpen k) s = .next u ∧ u.trunk.seamState k = 2) ∧ exec (.seamClose k) s = .next s) ∧
    (s.trunk.seamState k = 1 → mapPart s.trunk.partmap k ≠ mapPart s.trunk.partmap (k + 1) →
      (∃ u, exec (.seamClose k) s = .next u ∧ u.trunk.seamState k = 0) ∧ exec (.seamOpen k) s = .next s) ∧
    (s.trunk.seamState k ≠ 1 → exec (.seamOpen k) s = .next s ∧ exec (.seamClose k) s = .next s)) ∧
  (∀ (s : State) (p : Fin 4) (v : Word), v.getLsbD 63 = true →
    (∀ k ∈ ilvStacks (v &&& 0x803F03F000FFFFFF), ∃ r ∈ s.trunk.partRims p.val, k = 2 * r ∨ k = 2 * r + 1) →
    (∀ q < 4, q ≠ p.val → (s.ilv q).getLsbD 63 = true →
      (ilvRange (s.ilv q)).2 ≤ (ilvRange (v &&& 0x803F03F000FFFFFF)).1 ∨ (ilvRange (v &&& 0x803F03F000FFFFFF)).2 ≤ (ilvRange (s.ilv q)).1) →
    ∃ u, exec (.ilvWrite p.val v) s = .next u ∧ u.ilv p.val = v &&& 0x803F03F000FFFFFF ∧ u.trunk.clearing.getLsbD p.val = true) ∧
  (∀ (s : State) (p : Fin 4) (v : Word), v.getLsbD 63 = true →
    ((∃ k ∈ ilvStacks (v &&& 0x803F03F000FFFFFF), ∀ r ∈ s.trunk.partRims p.val, k ≠ 2 * r ∧ k ≠ 2 * r + 1) ∨
      (∃ q < 4, q ≠ p.val ∧ (s.ilv q).getLsbD 63 = true ∧
        (ilvRange (v &&& 0x803F03F000FFFFFF)).1 < (ilvRange (s.ilv q)).2 ∧
        (ilvRange (s.ilv q)).1 < (ilvRange (v &&& 0x803F03F000FFFFFF)).2)) →
    exec (.ilvWrite p.val v) s = .next s) ∧
  (∀ (s : State) (p : Nat), s.memoryCanonical → s.trunk.clearing.getLsbD p = true → p < 4 →
    ∃ u, exec (.hbmClearComplete p) s = .next u ∧ u.trunk.clearing.getLsbD p = false ∧
      (∀ a, (ilvRange (s.ilv p)).1 ≤ a → a < (ilvRange (s.ilv p)).2 → readByte? u.mem a = some 0) ∧
      ∀ a, a < 2 ^ 60 → a < (ilvRange (s.ilv p)).1 ∨ (ilvRange (s.ilv p)).2 ≤ a → readByte? u.mem a = readByte? s.mem a) ∧
  (∀ (s : State) (v : Word), s.trunk.partExists (v.extractLsb' 60 2).toNat = true →
    ∃ u, exec (.shootdown v) s = .next u ∧
      ∀ e ∈ s.groves, ∃ f ∈ u.groves, f.1 = e.1 ∧ ∀ t, t ∈ f.2.tlb ↔ t ∈ e.2.tlb ∧
        ¬(partOfCtx t.ctx = (v.extractLsb' 60 2).toNat ∧ (v.getLsbD 62 = true ∨ t.ctx % 16 = (v.extractLsb' 56 4).toNat) ∧
          (v.getLsbD 63 = true ∨ (t.va < ((v.extractLsb' 16 32).toNat + (v.extractLsb' 0 16).toNat + 1) * 65536 ∧
            (v.extractLsb' 16 32).toNat * 65536 < t.va + 2 ^ t.bits)))) ∧
  (∀ (s : State) (g ctx : Nat) (v : Word),
    ((∀ e ∈ (s.grove g).geGrant, e.1 ≠ ctx % 16 → grantsMeet e.2 (v &&& 0x000FFFFE0000FF7F) = false) →
      ∃ u, exec (.grantWrite g ctx v) s = .next u ∧ Tbl.get? (u.grove g).geGrant (ctx % 16) = some (v &&& 0x000FFFFE0000FF7F)) ∧
    ((∃ e ∈ (s.grove g).geGrant, e.1 ≠ ctx % 16 ∧ grantsMeet e.2 (v &&& 0x000FFFFE0000FF7F) = true) →
      exec (.grantWrite g ctx v) s = .next s)) ∧
  (∀ (s : State) (v : Word), (s.mgmtRead 0x88).isSome = true → (s.mgmtRead 0x90).isSome = true →
    (∃ u, exec (.registerWrite 0x88 v) s = .next u ∧ u.trunk.pwrcap = (v &&& 0x10000) ||| BitVec.ofNat 64 (max 180 (min (v.toNat % 65536) 240))) ∧
    (∃ u, exec (.registerWrite 0x90 v) s = .next u ∧ u.trunk.therm = v &&& 0xFFFFFF)) ∧
  (∀ (s : State) (g : Nat) (v : Word), g < 2592 →
    (s.mgmtRead (0x100000000 + g * 0x100000 + 0x8000)).isSome = true → (s.mgmtRead (0x100000000 + g * 0x100000 + 0x30000)).isSome = true →
    (∃ u, exec (.registerWrite (BitVec.ofNat 64 (0x100000000 + g * 0x100000 + 0x8000)) v) s = .next u ∧
      (u.grove g).teSave = v &&& 0x00FFF000000007FF) ∧
    (∃ u, exec (.registerWrite (BitVec.ofNat 64 (0x100000000 + g * 0x100000 + 0x30000)) v) s = .next u ∧
      (u.grove g).snBuf = v &&& 0x00FFFF00000007FF))

/-- R66, R67, R75, R76, R84, R133, R159: A step takes the next message of another member from the inbox, or performs the next
outside input and takes it from the agenda. With none, for the core whose turn it is, or that is due when no event of a
snapshot comes first, the bundle at its bundle address is fetched and decoded; when its four slots decode and no check, flag
or interlock stops it, the step executes the four operations in slot order by exec and the bundle takes effect: due writes
land, the next bundle is chosen, and a register form in its V slot delays the passes of a vector job. The lowest-numbered
slot that raises ILLEGAL, by its encoding or by the record that it reads at issue, makes the step its trap, an interlock the
trap or the hold. With no core due the step is an event of the machine, or the clock goes on. The order of messages, inputs,
events and bundles is the model's choice, log entries 4 and 11, and what counts as a register form log entry 63. -/
def Obligations.StepRunsTheDecodedBundle : Prop :=
  (∀ (s : State) (m : Inbound), s.nextMessage = some m → step s = .next (({ s with inbox := s.inbox.erase m }).arrive m)) ∧
  (∀ (s : State) (e : Nat × Sys2Proof.Instr), s.nextMessage = none → s.nextInput = some e →
    step s = exec e.2 { s with agenda := s.agenda.erase e }) ∧
  (∀ (s : State) (k : Nat), s.nextMessage = none → s.nextInput = none →
    (s.turn = some k ∨ (s.turn = none ∧ s.late = false ∧ snapFirst s = none ∧ s.dueCore = some k)) →
    let s0 := { s with cur := k, slot := 0, turn := none }.updCore k fun c => { c with latch := .none, bord := c.ords }
    let c := s0.core k
    let ops := decodeBundle (s0.fetch k)
    let start (s : State) (n : Nat) : State := { s with slot := n }.updCore k fun c => { c with latch := .none }
    (∀ (o0 o1 o2 o3 : SlotOp) (i0 i1 i2 i3 : Sys2Proof.Instr) (s1 s2 s3 s4 : State), ops = [o0, o1, o2, o3] →
      o0.slot = .c → o1.slot = .v → o2.slot = .m → o3.slot = .x →
      c.split = [] → o0.op = .ok i0 → o1.op = .ok i1 → o2.op = .ok i2 → o3.op = .ok i3 →
      c.flagsAllow o0 = true → c.flagsAllow o1 = true → c.flagsAllow o2 = true → c.flagsAllow o3 = true →
      s0.bundleIllegal c (s0.fetch k) ops = none → s0.recordIllegal c [(0, i0), (1, i1), (2, i2), (3, i3)] = none →
      c.bundleInterlock s0.clk [(0, i0), (1, i1), (2, i2), (3, i3)] = none →
      exec i0 (start s0 0) = .next s1 → exec i1 (start s1 1) = .next s2 → exec i2 (start s2 2) = .next s3 →
      exec i3 (start s3 3) = .next s4 → s1.cur = k → s2.cur = k → s3.cur = k → s4.cur = k →
      (s1.core k).latch = .none → (s2.core k).latch = .none → (s3.core k).latch = .none → (s4.core k).latch = .none →
      step s = .next ((s0.commitBundle s4 false).noteForm k
        (vectorForm (s0.fetch k) [(0, i0), (1, i1), (2, i2), (3, i3)]))) ∧
    (∀ (sl : Nat) (t : Trap), s0.bundleIllegal c (s0.fetch k) ops = some (sl, t) →
      (∀ x, s0.recordIllegal c (c.executing ops) = some x → sl ≤ x.1) → step s = .next (s0.trapBundle sl t)) ∧
    (∀ x, s0.recordIllegal c (c.executing ops) = some x →
      (∀ sl t, s0.bundleIllegal c (s0.fetch k) ops = some (sl, t) → x.1 < sl) →
      step s = .next (s0.retakeTrap x.2.1 x.2.2.1 x.2.2.2)) ∧
    (∀ (sl : Nat) (t : Trap), s0.bundleIllegal c (s0.fetch k) ops = none → s0.recordIllegal c (c.executing ops) = none →
      c.bundleInterlock s0.clk (c.executing ops) = some (sl, .trap t) → step s = .next (s0.trapBundle sl t)) ∧
    (∀ (sl : Nat), s0.bundleIllegal c (s0.fetch k) ops = none → s0.recordIllegal c (c.executing ops) = none →
      c.bundleInterlock s0.clk (c.executing ops) = some (sl, .stall) → step s = .next s0.holdBundle) ∧
    (∀ (u : State) (out : List (Nat × Latch)), s0.bundleIllegal c (s0.fetch k) ops = none →
      s0.recordIllegal c (c.executing ops) = none → c.bundleInterlock s0.clk (c.executing ops) = none → runSlots s0 (c.executing ops) [] = .ran u out →
      step s = .next ((s0.endBundle u (c.executing ops) out).noteForm k
        (vectorForm (s0.fetch k) (c.executing ops) && !anyHeld out && (trapIn out fun _ => true).isNone)))) ∧
  (∀ (s : State), s.nextMessage = none → s.nextInput = none → s.turn = none →
    (∀ e, s.late = true → lateEvent s = some e → step s = e s) ∧
    (s.late = true → lateEvent s = none → step s = .next s.tickClock) ∧
    (∀ e, s.late = false → snapFirst s = some e → step s = e s) ∧
    (∀ e, s.late = false → snapFirst s = none → s.dueCore = none → earlyEvent s = some e → step s = e s) ∧
    (s.late = false → snapFirst s = none → s.dueCore = none → earlyEvent s = none → step s = .next s.midClock))

/-- R67, R81, R83, R135, R136, R149, R150, R157: When a slot operation answers a next state, either it is the state in which its
trap has been taken, or no other core has changed, no register file has changed except that a register write of its own
destinations may have been issued, a loop its nest and an lstr its strides, and no K-register has changed except KSTAT by
eret and by ldpw, which may set pwb; pc and the taken branch may have changed. An operation that neither loads nor stores
nor reads a record leaves memory as it is; the frames of the loading and storing ones stand with their results. -/
def Obligations.FrameOfSlotOperations : Prop :=
  ∀ (i : Sys2Proof.Instr) (s t : State), i.slots ≠ [] → exec i s = .next t →
    let actsOnMemory (i : Sys2Proof.Instr) : Bool := match i with
      | .ld _ _ _ _ _ | .st _ _ _ _ _ | .ldx _ _ _ _ _ _ | .stx _ _ _ _ _ _ | .vld _ _ _ _ | .vst _ _ _ _ | .vldl _ _ _ _ _
      | .vstl _ _ _ _ _ | .copy _ _ _ _ _ | .mldb _ _ _ _ _ _ | .mjob _ _ _ _ _ | .mgang _ _ _ _ _ | .mgangJoin _ _ _ _ _
      | .vjadd _ _ _ _ _ _ _ | .vjsub _ _ _ _ _ _ _ | .vjmul _ _ _ _ _ _ _ | .vjfma _ _ _ _ _ _ _ | .vjmin _ _ _ _ _ _ _
      | .vjmax _ _ _ _ _ _ _ | .vjcvt _ _ _ _ _ _ _ | .vjqdb _ _ _ _ _ _ | .vjred _ _ _ _ _ _ _ | .vjsfu _ _ _ _ _ _ _
      | .vjcomp _ _ _ _ _ | .vjexpd _ _ _ _ _ | .vjsel _ _ _ _ _ _ _ | .vjcmp _ _ _ _ _ _ | .vjfill _ _ _ | .tarm _ _ _
      | .mwr _ _ _ => true
      | _ => false
    (∃ tr, t = s.takeTrap tr) ∨
    (s.sameOtherCores t s.cur ∧ t.me.s = s.me.s ∧ t.me.a = s.me.a ∧ t.me.p = s.me.p ∧ t.me.v = s.me.v ∧ t.me.h = s.me.h ∧
      t.me.ktrap = s.me.ktrap ∧ t.me.kepc = s.me.kepc ∧ t.me.ktval = s.me.ktval ∧ t.me.kctx = s.me.kctx ∧ t.me.kpwin = s.me.kpwin ∧
      t.me.kbank = s.me.kbank ∧ t.me.kptroot = s.me.kptroot ∧ t.me.kwid = s.me.kwid ∧ t.me.kfpx = s.me.kfpx ∧
      t.me.ktvec = s.me.ktvec ∧ t.me.kscr = s.me.kscr ∧ t.me.kmjob = s.me.kmjob ∧ t.me.window = s.me.window ∧ t.clk = s.clk ∧
      (∀ w ∈ t.me.pend, w ∈ s.me.pend ∨ w.reg ∈ i.writes) ∧
      ((∀ d a p imm, i ≠ .loop d a p imm) → t.me.n = s.me.n ∧ t.me.loops = s.me.loops) ∧
      ((∀ d b p l, i ≠ .lstr d b p l) → t.me.strides = s.me.strides) ∧
      (i ≠ .eret → (∀ d a p imm, i ≠ .ldpw d a p imm) → t.me.kstat = s.me.kstat) ∧
      (∀ d a p imm, i = .ldpw d a p imm → t.me.kstat = s.me.kstat ∨ t.me.kstat = s.me.kstat ||| 0x10) ∧
      (actsOnMemory i = false → t.mem = s.mem))

/-- R66, R68, R69, R71, R72, R73, R77, R78, R79, R80: For every slot operation whose encoding breaks no check, in every slot
whose map holds it: the bundle that encodeBundle makes of its word, without a header where the word stands alone, and with a
header that lends the bits outside slot C, decodes to that operation in its slot, no-operations in the others, and no first-
only or last-only flag. -/
def Obligations.EncodedOperationsDecode : Prop :=
  ∀ (i : Sys2Proof.Instr) (sl : SlotId) (w : BitVec 32) (lx : BitVec 7), i.illegal? = none → encode i sl = some (w, lx) →
    let only (b : BitVec 128) : Prop := (decodeBundle b).map (·.slot) = [.c, .v, .m, .x] ∧
      ∀ o ∈ decodeBundle b, (o.slot = sl → o.op = .ok i) ∧ (o.slot ≠ sl → o.op = .ok .nop) ∧ o.first = false ∧ o.last = false
    (standsAlone sl w lx = true → only (encodeBundle sl w none)) ∧ (sl ≠ .c → only (encodeBundle sl w (some lx)))

/-- R68, R75, R77, R78, R79, R80, R90: One word of each family, bit by bit as the spec prints it, decodes in its slot to its
operation, and a word whose major opcode its slot's map leaves unassigned is refused as a major, whose ILC is 0. -/
def Obligations.WordsOfTheSpecDecode : Prop :=
  decodeSlot .c 0x02529800 none = .ok (.add 5 5 6 0) ∧ decodeSlot .c 0x3E300001 none = .ok (.li 3 1) ∧
  decodeSlot .c 0x40323456 none = .ok (.lsh 3 0x23456) ∧ decodeSlot .c 0x5A008003 none = .ok (.loop 0 1 0 3) ∧
  decodeSlot .c 0x6204800B none = .ok (.kwr 9 0 11) ∧ decodeSlot .c 0x66011000 none = .ok (.mwr 2 4 0) ∧
  decodeSlot .c 0x6A000000 none = .ok .eret ∧ decodeSlot .v 0x80429802 none = .ok (.vadd 4 5 6 0 false false 2) ∧
  decodeSlot .v 0xA0208813 none = .ok (.vcvt 2 1 0 false 2 1 3) ∧ decodeSlot .v 0x9E008020 none = .ok (.vmovHS 0 1 0) ∧
  decodeSlot .m 0x0451C000 none = .ok (.st 5 1 6 0 0) ∧ decodeSlot .m 0x12219046 none = .ok (.qst 2 3 4 0 2 0 6) ∧
  decodeSlot .m 0x40221807 none = .ok (.copy 2 4 6 0 7) ∧ decodeSlot .m 0x50008003 none = .ok (.mldb 0 1 false 0 false 3) ∧
  decodeSlot .m 0x54202B90 none = .ok (.mgangJoin 2 0 10 7 0) ∧ decodeSlot .x 0x02010001 none = .ok (.pub 2 0 0 1) ∧
  decodeSlot .x 0x20448801 none = .ok (.spawn 4 9 2 0 1) ∧ decodeSlot .x 0x4402E580 none = .ok (.tarm 5 25 3) ∧
  decodeSlot .x 0x60520000 none = .ok (.coll 5 4 0 0 0) ∧ decodeSlot .x 0x70028000 none = .ok (.snap 5 0) ∧
  (∀ (sl : SlotId) (w : BitVec 32), w ≠ 0 → slotFormat sl (w.extractLsb' 25 7).toNat = none → decodeSlot sl w none = .error .major)

/-- R27, R50, R51: From every state whose memory is in canonical form, addresses strictly rising and no byte listed at the value
that an unlisted address reads as, every step, whatever it runs, leaves memory in canonical form. That every memory stands
in one list, and what an unlisted byte reads as, are the model's choices, log entries 45 and 1. -/
def Obligations.MemoryStaysCanonical : Prop :=
  ∀ (s t : State), s.memoryCanonical → step s = .next t → t.memoryCanonical

/-- R425, R426, R430, R432, R436, R437: State.reset has canonical memory with nothing listed, the tick at zero, no ready grove,
rim field, stack or port, no live context, TK_PARTMAP with one partition, every seam open, budgets of 1,024, AUTO set with
CAP at 180, and halted trunk cores in supervisor mode. The cores' registers, which the spec gives no value at module reset,
hold zero, and memory reads as zero: the model's choices, log entries 2 and 1. STATE 2 of a seam, against the 0x0 of its
register table, is the model's reading of R432, log entry 47. -/
def Obligations.StateAfterReset : Prop :=
  State.reset.memoryCanonical ∧ State.reset.mem = [] ∧ State.reset.tick = 0 ∧
  (∀ g, State.reset.groveReady g = false) ∧ (∀ k, State.reset.rimReady k = false) ∧ State.reset.ready.hbmStacks = 0 ∧
  State.reset.ready.ports = 0 ∧ (∀ c, (State.reset.ctx c).state = .free) ∧ State.reset.trunk.partmap = 0x100 ∧
  (∀ k, k < 3 → State.reset.trunk.seamState k = 2) ∧ (∀ p : Fin 4, State.reset.trunk.gov[p] = 0x400) ∧
  State.reset.trunk.pwrcap = 0x100B4 ∧ State.reset.trunk.therm = 0x730569 ∧
  (∀ k, trunkCore0 ≤ k → k < trunkCore0 + 4 → (State.reset.core k).sup = true ∧ (State.reset.core k).mode = .halted) ∧
  (∀ k n, (State.reset.core k).rs n = 0 ∧ (State.reset.core k).ra n = 0 ∧ (State.reset.core k).rv n = 0)
end

