-- ==== Sys2Proof/Laws/Decode.lean ====
section
/-!
SUPPORT. The fields of an encoded slot word read back as they were written (R68, R73), format by format.
-/

namespace Sys2Proof.Laws

/-- A 7-bit number from its lent bits and its five bits in the word. -/
theorem extract_5_2_append (x : BitVec 7) : x.extractLsb' 5 2 ++ x.extractLsb' 0 5 = x := by
  revert x; decide

/-- A 19-bit immediate from its lent bits and the bits in the word. -/
theorem extract_12_7_append (x : BitVec 19) : x.extractLsb' 12 7 ++ x.extractLsb' 0 12 = x := by
  apply BitVec.eq_of_getLsbD_eq
  intro k hk
  simp only [BitVec.getLsbD_append, BitVec.getLsbD_extractLsb']
  by_cases h : k < 12 <;> simp [h]
  · rw [Nat.add_sub_cancel' (by omega)]; simp; omega

/-- A 17-bit offset from its lent bits and the bits in the word. -/
theorem extract_10_7_append (x : BitVec 17) : x.extractLsb' 10 7 ++ x.extractLsb' 0 10 = x := by
  apply BitVec.eq_of_getLsbD_eq
  intro k hk
  simp only [BitVec.getLsbD_append, BitVec.getLsbD_extractLsb']
  by_cases h : k < 10 <;> simp [h]
  · rw [Nat.add_sub_cancel' (by omega)]; simp; omega

/-- The Reg format reads back. -/
theorem regF_encReg (op d a b : BitVec 7) (p : BitVec 3) (fn : BitVec 7) :
    regF (encReg op d a b p fn).1 (encReg op d a b p fn).2 = ⟨op, d, a, b, p, fn⟩ := by
  simp (disch := decide) only [regF, encReg, BitVec.extractLsb'_append_eq_of_le,
    BitVec.extractLsb'_append_eq_of_add_le, BitVec.extractLsb'_eq_self, Nat.reduceSub, extract_5_2_append]

/-- The Imm format reads back. -/
theorem immF_encImm (op : BitVec 7) (d a : BitVec 5) (p : BitVec 3) (imm : BitVec 19) :
    immF (encImm op d a p imm).1 (some (encImm op d a p imm).2) = ⟨op, d, a, p, imm⟩ := by
  simp (disch := decide) only [immF, encImm, BitVec.extractLsb'_append_eq_of_le,
    BitVec.extractLsb'_append_eq_of_add_le, BitVec.extractLsb'_eq_self, Nat.reduceSub, extract_12_7_append]

/-- The Mem format reads back. -/
theorem memF_encMem (op : BitVec 7) (d : BitVec 5) (a : BitVec 4) (sz p : BitVec 3) (off : BitVec 17) :
    memF (encMem op d a sz p off).1 (some (encMem op d a sz p off).2) = ⟨op, d, a, sz, p, off⟩ := by
  simp (disch := decide) only [memF, encMem, BitVec.extractLsb'_append_eq_of_le,
    BitVec.extractLsb'_append_eq_of_add_le, BitVec.extractLsb'_eq_self, Nat.reduceSub, extract_10_7_append]

/-- The major opcode of a Reg-format word. -/
theorem encReg_op (op d a b : BitVec 7) (p : BitVec 3) (fn : BitVec 7) :
    (encReg op d a b p fn).1.extractLsb' 25 7 = op := congrArg RegF.op (regF_encReg op d a b p fn)
/-- The major opcode of an Imm-format word. -/
theorem encImm_op (op : BitVec 7) (d a : BitVec 5) (p : BitVec 3) (imm : BitVec 19) :
    (encImm op d a p imm).1.extractLsb' 25 7 = op := congrArg ImmF.op (immF_encImm op d a p imm)
/-- The major opcode of a Mem-format word. -/
theorem encMem_op (op : BitVec 7) (d : BitVec 5) (a : BitVec 4) (sz p : BitVec 3) (off : BitVec 17) :
    (encMem op d a sz p off).1.extractLsb' 25 7 = op := congrArg MemF.op (memF_encMem op d a sz p off)
/-- A word with a nonzero major opcode is not the no-operation. -/
theorem word_ne_zero (w : BitVec 32) (op : BitVec 7) (h : w.extractLsb' 25 7 = op) (h0 : op ≠ 0) : w ≠ 0 := by
  intro hw; subst hw; exact h0 (by rw [← h]; decide)

/-- The Reg format's lent field leaves bit 6 zero (R73). -/
theorem encReg_lent (op d a b : BitVec 7) (p : BitVec 3) (fn : BitVec 7) :
    (encReg op d a b p fn).2.getLsbD 6 = false := by
  simp only [encReg, BitVec.getLsbD_append]
  simp

/-- A Reg-format word goes to its slot's table with the fields that were written. -/
theorem parse_reg (sl : SlotId) (op d a b : BitVec 7) (p : BitVec 3) (fn : BitVec 7) (h0 : op ≠ 0)
    (hf : slotFormat sl op.toNat = some .reg) :
    parseSlot sl (encReg op d a b p fn).1 (some (encReg op d a b p fn).2) =
      match (generalizing := false) sl with
      | .c => if op.toNat ≤ 0x0D then decShared ⟨op, d, a, b, p, fn⟩ else decCReg ⟨op, d, a, b, p, fn⟩
      | .v => if op.toNat ≤ 0x0D then decShared ⟨op, d, a, b, p, fn⟩ else decVReg ⟨op, d, a, b, p, fn⟩
      | .m => decMReg ⟨op, d, a, b, p, fn⟩
      | .x => decXReg ⟨op, d, a, b, p, fn⟩ := by
  have hw := word_ne_zero _ _ (encReg_op op d a b p fn) h0
  cases sl <;> simp only [parseSlot, hw, if_false, encReg_op, hf, Option.getD_some, regF_encReg, encReg_lent, Bool.false_eq_true]

/-- An Imm-format word goes to its slot's table with the fields that were written. -/
theorem parse_imm (sl : SlotId) (op : BitVec 7) (d a : BitVec 5) (p : BitVec 3) (imm : BitVec 19) (h0 : op ≠ 0)
    (hf : slotFormat sl op.toNat = some .imm) :
    parseSlot sl (encImm op d a p imm).1 (some (encImm op d a p imm).2) =
      match (generalizing := false) sl with
      | .c => if 0x18 ≤ op.toNat ∧ op.toNat ≤ 0x1B then decSharedImm ⟨op, d, a, p, imm⟩ else decCImm ⟨op, d, a, p, imm⟩
      | _ => if 0x18 ≤ op.toNat ∧ op.toNat ≤ 0x1B then decSharedImm ⟨op, d, a, p, imm⟩ else decVImm ⟨op, d, a, p, imm⟩ := by
  have hw := word_ne_zero _ _ (encImm_op op d a p imm) h0
  cases sl <;> simp only [parseSlot, hw, if_false, encImm_op, hf, immF_encImm]

/-- A Mem-format word goes to its slot's table with the fields that were written. -/
theorem parse_mem (sl : SlotId) (op : BitVec 7) (d : BitVec 5) (a : BitVec 4) (sz p : BitVec 3) (off : BitVec 17) (h0 : op ≠ 0)
    (hf : slotFormat sl op.toNat = some .mem) :
    parseSlot sl (encMem op d a sz p off).1 (some (encMem op d a sz p off).2) = decMMem ⟨op, d, a, sz, p, off⟩ := by
  have hw := word_ne_zero _ _ (encMem_op op d a sz p off) h0
  simp only [parseSlot, hw, if_false, encMem_op, hf, memF_encMem]

/-- A word of the remaining formats goes to the C slot's table. -/
theorem parse_other (w : BitVec 32) (op lx : BitVec 7) (h : w.extractLsb' 25 7 = op) (h0 : op ≠ 0)
    (hf : slotFormat .c op.toNat = some .other) : parseSlot .c w (some lx) = decCOther w := by
  have hw := word_ne_zero _ _ h h0
  simp only [parseSlot, hw, if_false, h, hf]

/-- One of two. -/
theorem mem_pair {α : Type} {x a b : α} (h : x ∈ [a, b]) : x = a ∨ x = b := by simpa using h

/-- The one bit of a flag. -/
theorem ofBool_getLsbD (b : Bool) : (BitVec.ofBool b).getLsbD 0 = b := by cases b <;> rfl

/-- A bit below the seam of two joined fields. -/
theorem getLsbD_append_lo {v w k : Nat} (x : BitVec v) (y : BitVec w) (h : k < w) : (x ++ y).getLsbD k = y.getLsbD k := by
  simp [BitVec.getLsbD_append, h]
/-- A bit above the seam of two joined fields. -/
theorem getLsbD_append_hi {v w k : Nat} (x : BitVec v) (y : BitVec w) (h : w ≤ k) : (x ++ y).getLsbD k = x.getLsbD (k - w) := by
  simp [BitVec.getLsbD_append, Nat.not_lt.mpr h]

/-- Twelve bits under lent bits that repeat the top one are those bits sign-extended. -/
theorem signExtend_12 (x : BitVec 12) :
    ((if x.getLsbD 11 then BitVec.allOnes 7 else 0) ++ x : BitVec 19) = x.signExtend 19 := by
  revert x; decide +kernel

/-- Ten bits under lent bits that repeat the top one are those bits sign-extended. -/
theorem signExtend_10 (x : BitVec 10) :
    ((if x.getLsbD 9 then BitVec.allOnes 7 else 0) ++ x : BitVec 17) = x.signExtend 17 := by
  revert x; decide +kernel

/-- A word that stands alone is read without a header as it is with the lent field it needs (R73). -/
theorem parse_standsAlone (sl : SlotId) (w : BitVec 32) (lx : BitVec 7) (h : standsAlone sl w lx = true) :
    parseSlot sl w none = parseSlot sl w (some lx) := by
  by_cases hw : w = 0
  · subst hw
    have : lx = 0 := by cases sl <;> simpa [standsAlone, slotFormat] using h
    subst this; rfl
  · have hd : w.extractLsb' 0 12 = w.extractLsb' 0 12 := rfl
    simp only [parseSlot, hw, if_false, Option.getD_some, Option.getD_none]
    cases hf : slotFormat sl (w.extractLsb' 25 7).toNat with
    | none => rfl
    | some f =>
      simp only [standsAlone, hf] at h
      cases f with
      | imm =>
        have h' : lx = if (w.extractLsb' 0 12).getLsbD 11 then BitVec.allOnes 7 else 0 := by simpa using h
        have e : immF w (some lx) = immF w none := by
          simp only [immF, h', signExtend_12]
        cases sl <;> simp only [e]
      | mem =>
        have h' : lx = if (w.extractLsb' 0 10).getLsbD 9 then BitVec.allOnes 7 else 0 := by simpa using h
        have e : memF w (some lx) = memF w none := by
          simp only [memF, h', signExtend_10]
        simp only [e]
      | reg => have : lx = 0 := by simpa using h
               subst this; rfl
      | other => rfl

end Sys2Proof.Laws
end

