-- ==== Sys2Proof/Laws/State.lean ====
section
/-!
SUPPORT. What the named updates of the state leave alone, field by field, and what reading a part gives after it is replaced: with
these no proof unfolds a record update or a table.
-/

namespace Sys2Proof.Machine

/-! ### Tables -/

/-- The entry of a key that has been set. -/
@[simp] theorem Tbl.get?_set_same {α : Type} (t : Tbl α) (k : Nat) (v : α) : Tbl.get? (Tbl.set t k v) k = some v := by
  induction t with
  | nil => simp [Tbl.set, Tbl.get?]
  | cons e r ih =>
    obtain ⟨j, w⟩ := e
    simp only [Tbl.set]
    split
    · simp [Tbl.get?]
    · split
      · simp [Tbl.get?]
      · rename_i h; simpa [Tbl.get?, List.find?_cons, Ne.symm h] using ih

/-- The entries of the other keys. -/
theorem Tbl.get?_set_other {α : Type} (t : Tbl α) {k j : Nat} (v : α) (h : j ≠ k) : Tbl.get? (Tbl.set t k v) j = Tbl.get? t j := by
  induction t with
  | nil => simp [Tbl.set, Tbl.get?, h.symm]
  | cons e r ih =>
    obtain ⟨i, w⟩ := e
    simp only [Tbl.set]
    split
    · simp [Tbl.get?, h.symm]
    · split
      · rename_i hk; subst hk; simp [Tbl.get?, h.symm]
      · by_cases hi : i = j
        · simp [Tbl.get?, hi]
        · simpa [Tbl.get?, List.find?_cons, hi] using ih

/-- The entry of a key that has been set. -/
@[simp] theorem Tbl.getD_set_same {α : Type} (t : Tbl α) (k : Nat) (v d : α) : Tbl.getD (Tbl.set t k v) k d = v := by
  simp [Tbl.getD]

/-- The entries of the other keys. -/
theorem Tbl.getD_set_other {α : Type} (t : Tbl α) {k j : Nat} (v d : α) (h : j ≠ k) :
    Tbl.getD (Tbl.set t k v) j d = Tbl.getD t j d := by
  simp [Tbl.getD, Tbl.get?_set_other t v h]

/-! ### Parts of the state that have been replaced -/

/-- A part that has been replaced. -/
@[simp] theorem State.core_setCore_same (s : State) (k : Nat) (x : Core) : (s.setCore k x).core k = x := by
  simp [State.setCore, State.core]
/-- The other parts. -/
theorem State.core_setCore_other (s : State) {k j : Nat} (x : Core) (h : j ≠ k) : (s.setCore k x).core j = s.core j := by
  simp [State.setCore, State.core, Tbl.getD_set_other _ _ _ h]

/-- A part that has been changed. -/
@[simp] theorem State.core_updCore_same (s : State) (k : Nat) (f : Core → Core) : (s.updCore k f).core k = f (s.core k) := by
  simp [State.updCore]
/-- The other parts. -/
theorem State.core_updCore_other (s : State) {k j : Nat} (f : Core → Core) (h : j ≠ k) : (s.updCore k f).core j = s.core j := by
  simp [State.updCore, State.core_setCore_other s _ h]

/-- A part that has been replaced. -/
@[simp] theorem State.grove_setGrove_same (s : State) (k : Nat) (x : Grove) : (s.setGrove k x).grove k = x := by
  simp [State.setGrove, State.grove]
/-- The other parts. -/
theorem State.grove_setGrove_other (s : State) {k j : Nat} (x : Grove) (h : j ≠ k) : (s.setGrove k x).grove j = s.grove j := by
  simp [State.setGrove, State.grove, Tbl.getD_set_other _ _ _ h]

/-- A part that has been changed. -/
@[simp] theorem State.grove_updGrove_same (s : State) (k : Nat) (f : Grove → Grove) : (s.updGrove k f).grove k = f (s.grove k) := by
  simp [State.updGrove]
/-- The other parts. -/
theorem State.grove_updGrove_other (s : State) {k j : Nat} (f : Grove → Grove) (h : j ≠ k) : (s.updGrove k f).grove j = s.grove j := by
  simp [State.updGrove, State.grove_setGrove_other s _ h]

/-- A part that has been replaced. -/
@[simp] theorem State.ctx_setCtx_same (s : State) (k : Nat) (x : Context) : (s.setCtx k x).ctx k = x := by
  simp [State.setCtx, State.ctx]
/-- The other parts. -/
theorem State.ctx_setCtx_other (s : State) {k j : Nat} (x : Context) (h : j ≠ k) : (s.setCtx k x).ctx j = s.ctx j := by
  simp [State.setCtx, State.ctx, Tbl.getD_set_other _ _ _ h]

/-- A part that has been changed. -/
@[simp] theorem State.ctx_updCtx_same (s : State) (k : Nat) (f : Context → Context) : (s.updCtx k f).ctx k = f (s.ctx k) := by
  simp [State.updCtx]
/-- The other parts. -/
theorem State.ctx_updCtx_other (s : State) {k j : Nat} (f : Context → Context) (h : j ≠ k) : (s.updCtx k f).ctx j = s.ctx j := by
  simp [State.updCtx, State.ctx_setCtx_other s _ h]

/-! ### Fields that an update leaves alone -/

/-! `State.setCore` writes `cores` alone. -/

@[simp] theorem State.clk_setCore (s : State) (k : Nat) (x : Core) : (s.setCore k x).clk = s.clk := rfl
@[simp] theorem State.base_setCore (s : State) (k : Nat) (x : Core) : (s.setCore k x).base = s.base := rfl
@[simp] theorem State.mem_setCore (s : State) (k : Nat) (x : Core) : (s.setCore k x).mem = s.mem := rfl
@[simp] theorem State.groves_setCore (s : State) (k : Nat) (x : Core) : (s.setCore k x).groves = s.groves := rfl
@[simp] theorem State.rims_setCore (s : State) (k : Nat) (x : Core) : (s.setCore k x).rims = s.rims := rfl
@[simp] theorem State.slices_setCore (s : State) (k : Nat) (x : Core) : (s.setCore k x).slices = s.slices := rfl
@[simp] theorem State.hbmStacks_setCore (s : State) (k : Nat) (x : Core) : (s.setCore k x).hbmStacks = s.hbmStacks := rfl
@[simp] theorem State.fieldTlb_setCore (s : State) (k : Nat) (x : Core) : (s.setCore k x).fieldTlb = s.fieldTlb := rfl
@[simp] theorem State.contexts_setCore (s : State) (k : Nat) (x : Core) : (s.setCore k x).contexts = s.contexts := rfl
@[simp] theorem State.snaps_setCore (s : State) (k : Nat) (x : Core) : (s.setCore k x).snaps = s.snaps := rfl
@[simp] theorem State.trunk_setCore (s : State) (k : Nat) (x : Core) : (s.setCore k x).trunk = s.trunk := rfl
@[simp] theorem State.ready_setCore (s : State) (k : Nat) (x : Core) : (s.setCore k x).ready = s.ready := rfl
@[simp] theorem State.net_setCore (s : State) (k : Nat) (x : Core) : (s.setCore k x).net = s.net := rfl
@[simp] theorem State.cache_setCore (s : State) (k : Nat) (x : Core) : (s.setCore k x).cache = s.cache := rfl
@[simp] theorem State.wins_setCore (s : State) (k : Nat) (x : Core) : (s.setCore k x).wins = s.wins := rfl
@[simp] theorem State.out_setCore (s : State) (k : Nat) (x : Core) : (s.setCore k x).out = s.out := rfl
@[simp] theorem State.agenda_setCore (s : State) (k : Nat) (x : Core) : (s.setCore k x).agenda = s.agenda := rfl
@[simp] theorem State.inbox_setCore (s : State) (k : Nat) (x : Core) : (s.setCore k x).inbox = s.inbox := rfl
@[simp] theorem State.cur_setCore (s : State) (k : Nat) (x : Core) : (s.setCore k x).cur = s.cur := rfl
@[simp] theorem State.slot_setCore (s : State) (k : Nat) (x : Core) : (s.setCore k x).slot = s.slot := rfl
@[simp] theorem State.turn_setCore (s : State) (k : Nat) (x : Core) : (s.setCore k x).turn = s.turn := rfl
@[simp] theorem State.late_setCore (s : State) (k : Nat) (x : Core) : (s.setCore k x).late = s.late := rfl
@[simp] theorem State.fresh_setCore (s : State) (k : Nat) (x : Core) : (s.setCore k x).fresh = s.fresh := rfl
@[simp] theorem State.uids_setCore (s : State) (k : Nat) (x : Core) : (s.setCore k x).uids = s.uids := rfl
@[simp] theorem State.triads_setCore (s : State) (k : Nat) (x : Core) : (s.setCore k x).triads = s.triads := rfl

/-! `State.updCore` writes `cores` alone. -/

@[simp] theorem State.clk_updCore (s : State) (k : Nat) (f : Core → Core) : (s.updCore k f).clk = s.clk := rfl
@[simp] theorem State.base_updCore (s : State) (k : Nat) (f : Core → Core) : (s.updCore k f).base = s.base := rfl
@[simp] theorem State.mem_updCore (s : State) (k : Nat) (f : Core → Core) : (s.updCore k f).mem = s.mem := rfl
@[simp] theorem State.groves_updCore (s : State) (k : Nat) (f : Core → Core) : (s.updCore k f).groves = s.groves := rfl
@[simp] theorem State.rims_updCore (s : State) (k : Nat) (f : Core → Core) : (s.updCore k f).rims = s.rims := rfl
@[simp] theorem State.slices_updCore (s : State) (k : Nat) (f : Core → Core) : (s.updCore k f).slices = s.slices := rfl
@[simp] theorem State.hbmStacks_updCore (s : State) (k : Nat) (f : Core → Core) : (s.updCore k f).hbmStacks = s.hbmStacks := rfl
@[simp] theorem State.fieldTlb_updCore (s : State) (k : Nat) (f : Core → Core) : (s.updCore k f).fieldTlb = s.fieldTlb := rfl
@[simp] theorem State.contexts_updCore (s : State) (k : Nat) (f : Core → Core) : (s.updCore k f).contexts = s.contexts := rfl
@[simp] theorem State.snaps_updCore (s : State) (k : Nat) (f : Core → Core) : (s.updCore k f).snaps = s.snaps := rfl
@[simp] theorem State.trunk_updCore (s : State) (k : Nat) (f : Core → Core) : (s.updCore k f).trunk = s.trunk := rfl
@[simp] theorem State.ready_updCore (s : State) (k : Nat) (f : Core → Core) : (s.updCore k f).ready = s.ready := rfl
@[simp] theorem State.net_updCore (s : State) (k : Nat) (f : Core → Core) : (s.updCore k f).net = s.net := rfl
@[simp] theorem State.cache_updCore (s : State) (k : Nat) (f : Core → Core) : (s.updCore k f).cache = s.cache := rfl
@[simp] theorem State.wins_updCore (s : State) (k : Nat) (f : Core → Core) : (s.updCore k f).wins = s.wins := rfl
@[simp] theorem State.out_updCore (s : State) (k : Nat) (f : Core → Core) : (s.updCore k f).out = s.out := rfl
@[simp] theorem State.agenda_updCore (s : State) (k : Nat) (f : Core → Core) : (s.updCore k f).agenda = s.agenda := rfl
@[simp] theorem State.inbox_updCore (s : State) (k : Nat) (f : Core → Core) : (s.updCore k f).inbox = s.inbox := rfl
@[simp] theorem State.cur_updCore (s : State) (k : Nat) (f : Core → Core) : (s.updCore k f).cur = s.cur := rfl
@[simp] theorem State.slot_updCore (s : State) (k : Nat) (f : Core → Core) : (s.updCore k f).slot = s.slot := rfl
@[simp] theorem State.turn_updCore (s : State) (k : Nat) (f : Core → Core) : (s.updCore k f).turn = s.turn := rfl
@[simp] theorem State.late_updCore (s : State) (k : Nat) (f : Core → Core) : (s.updCore k f).late = s.late := rfl
@[simp] theorem State.fresh_updCore (s : State) (k : Nat) (f : Core → Core) : (s.updCore k f).fresh = s.fresh := rfl
@[simp] theorem State.uids_updCore (s : State) (k : Nat) (f : Core → Core) : (s.updCore k f).uids = s.uids := rfl
@[simp] theorem State.triads_updCore (s : State) (k : Nat) (f : Core → Core) : (s.updCore k f).triads = s.triads := rfl

/-! `State.setGrove` writes `groves` alone. -/

@[simp] theorem State.clk_setGrove (s : State) (k : Nat) (x : Grove) : (s.setGrove k x).clk = s.clk := rfl
@[simp] theorem State.base_setGrove (s : State) (k : Nat) (x : Grove) : (s.setGrove k x).base = s.base := rfl
@[simp] theorem State.mem_setGrove (s : State) (k : Nat) (x : Grove) : (s.setGrove k x).mem = s.mem := rfl
@[simp] theorem State.cores_setGrove (s : State) (k : Nat) (x : Grove) : (s.setGrove k x).cores = s.cores := rfl
@[simp] theorem State.rims_setGrove (s : State) (k : Nat) (x : Grove) : (s.setGrove k x).rims = s.rims := rfl
@[simp] theorem State.slices_setGrove (s : State) (k : Nat) (x : Grove) : (s.setGrove k x).slices = s.slices := rfl
@[simp] theorem State.hbmStacks_setGrove (s : State) (k : Nat) (x : Grove) : (s.setGrove k x).hbmStacks = s.hbmStacks := rfl
@[simp] theorem State.fieldTlb_setGrove (s : State) (k : Nat) (x : Grove) : (s.setGrove k x).fieldTlb = s.fieldTlb := rfl
@[simp] theorem State.contexts_setGrove (s : State) (k : Nat) (x : Grove) : (s.setGrove k x).contexts = s.contexts := rfl
@[simp] theorem State.snaps_setGrove (s : State) (k : Nat) (x : Grove) : (s.setGrove k x).snaps = s.snaps := rfl
@[simp] theorem State.trunk_setGrove (s : State) (k : Nat) (x : Grove) : (s.setGrove k x).trunk = s.trunk := rfl
@[simp] theorem State.ready_setGrove (s : State) (k : Nat) (x : Grove) : (s.setGrove k x).ready = s.ready := rfl
@[simp] theorem State.net_setGrove (s : State) (k : Nat) (x : Grove) : (s.setGrove k x).net = s.net := rfl
@[simp] theorem State.cache_setGrove (s : State) (k : Nat) (x : Grove) : (s.setGrove k x).cache = s.cache := rfl
@[simp] theorem State.wins_setGrove (s : State) (k : Nat) (x : Grove) : (s.setGrove k x).wins = s.wins := rfl
@[simp] theorem State.out_setGrove (s : State) (k : Nat) (x : Grove) : (s.setGrove k x).out = s.out := rfl
@[simp] theorem State.agenda_setGrove (s : State) (k : Nat) (x : Grove) : (s.setGrove k x).agenda = s.agenda := rfl
@[simp] theorem State.inbox_setGrove (s : State) (k : Nat) (x : Grove) : (s.setGrove k x).inbox = s.inbox := rfl
@[simp] theorem State.cur_setGrove (s : State) (k : Nat) (x : Grove) : (s.setGrove k x).cur = s.cur := rfl
@[simp] theorem State.slot_setGrove (s : State) (k : Nat) (x : Grove) : (s.setGrove k x).slot = s.slot := rfl
@[simp] theorem State.turn_setGrove (s : State) (k : Nat) (x : Grove) : (s.setGrove k x).turn = s.turn := rfl
@[simp] theorem State.late_setGrove (s : State) (k : Nat) (x : Grove) : (s.setGrove k x).late = s.late := rfl
@[simp] theorem State.fresh_setGrove (s : State) (k : Nat) (x : Grove) : (s.setGrove k x).fresh = s.fresh := rfl
@[simp] theorem State.uids_setGrove (s : State) (k : Nat) (x : Grove) : (s.setGrove k x).uids = s.uids := rfl
@[simp] theorem State.triads_setGrove (s : State) (k : Nat) (x : Grove) : (s.setGrove k x).triads = s.triads := rfl

/-! `State.updGrove` writes `groves` alone. -/

@[simp] theorem State.clk_updGrove (s : State) (k : Nat) (f : Grove → Grove) : (s.updGrove k f).clk = s.clk := rfl
@[simp] theorem State.base_updGrove (s : State) (k : Nat) (f : Grove → Grove) : (s.updGrove k f).base = s.base := rfl
@[simp] theorem State.mem_updGrove (s : State) (k : Nat) (f : Grove → Grove) : (s.updGrove k f).mem = s.mem := rfl
@[simp] theorem State.cores_updGrove (s : State) (k : Nat) (f : Grove → Grove) : (s.updGrove k f).cores = s.cores := rfl
@[simp] theorem State.rims_updGrove (s : State) (k : Nat) (f : Grove → Grove) : (s.updGrove k f).rims = s.rims := rfl
@[simp] theorem State.slices_updGrove (s : State) (k : Nat) (f : Grove → Grove) : (s.updGrove k f).slices = s.slices := rfl
@[simp] theorem State.hbmStacks_updGrove (s : State) (k : Nat) (f : Grove → Grove) : (s.updGrove k f).hbmStacks = s.hbmStacks := rfl
@[simp] theorem State.fieldTlb_updGrove (s : State) (k : Nat) (f : Grove → Grove) : (s.updGrove k f).fieldTlb = s.fieldTlb := rfl
@[simp] theorem State.contexts_updGrove (s : State) (k : Nat) (f : Grove → Grove) : (s.updGrove k f).contexts = s.contexts := rfl
@[simp] theorem State.snaps_updGrove (s : State) (k : Nat) (f : Grove → Grove) : (s.updGrove k f).snaps = s.snaps := rfl
@[simp] theorem State.trunk_updGrove (s : State) (k : Nat) (f : Grove → Grove) : (s.updGrove k f).trunk = s.trunk := rfl
@[simp] theorem State.ready_updGrove (s : State) (k : Nat) (f : Grove → Grove) : (s.updGrove k f).ready = s.ready := rfl
@[simp] theorem State.net_updGrove (s : State) (k : Nat) (f : Grove → Grove) : (s.updGrove k f).net = s.net := rfl
@[simp] theorem State.cache_updGrove (s : State) (k : Nat) (f : Grove → Grove) : (s.updGrove k f).cache = s.cache := rfl
@[simp] theorem State.wins_updGrove (s : State) (k : Nat) (f : Grove → Grove) : (s.updGrove k f).wins = s.wins := rfl
@[simp] theorem State.out_updGrove (s : State) (k : Nat) (f : Grove → Grove) : (s.updGrove k f).out = s.out := rfl
@[simp] theorem State.agenda_updGrove (s : State) (k : Nat) (f : Grove → Grove) : (s.updGrove k f).agenda = s.agenda := rfl
@[simp] theorem State.inbox_updGrove (s : State) (k : Nat) (f : Grove → Grove) : (s.updGrove k f).inbox = s.inbox := rfl
@[simp] theorem State.cur_updGrove (s : State) (k : Nat) (f : Grove → Grove) : (s.updGrove k f).cur = s.cur := rfl
@[simp] theorem State.slot_updGrove (s : State) (k : Nat) (f : Grove → Grove) : (s.updGrove k f).slot = s.slot := rfl
@[simp] theorem State.turn_updGrove (s : State) (k : Nat) (f : Grove → Grove) : (s.updGrove k f).turn = s.turn := rfl
@[simp] theorem State.late_updGrove (s : State) (k : Nat) (f : Grove → Grove) : (s.updGrove k f).late = s.late := rfl
@[simp] theorem State.fresh_updGrove (s : State) (k : Nat) (f : Grove → Grove) : (s.updGrove k f).fresh = s.fresh := rfl
@[simp] theorem State.uids_updGrove (s : State) (k : Nat) (f : Grove → Grove) : (s.updGrove k f).uids = s.uids := rfl
@[simp] theorem State.triads_updGrove (s : State) (k : Nat) (f : Grove → Grove) : (s.updGrove k f).triads = s.triads := rfl

/-! `State.setCtx` writes `contexts` alone. -/

@[simp] theorem State.clk_setCtx (s : State) (k : Nat) (x : Context) : (s.setCtx k x).clk = s.clk := rfl
@[simp] theorem State.base_setCtx (s : State) (k : Nat) (x : Context) : (s.setCtx k x).base = s.base := rfl
@[simp] theorem State.mem_setCtx (s : State) (k : Nat) (x : Context) : (s.setCtx k x).mem = s.mem := rfl
@[simp] theorem State.cores_setCtx (s : State) (k : Nat) (x : Context) : (s.setCtx k x).cores = s.cores := rfl
@[simp] theorem State.groves_setCtx (s : State) (k : Nat) (x : Context) : (s.setCtx k x).groves = s.groves := rfl
@[simp] theorem State.rims_setCtx (s : State) (k : Nat) (x : Context) : (s.setCtx k x).rims = s.rims := rfl
@[simp] theorem State.slices_setCtx (s : State) (k : Nat) (x : Context) : (s.setCtx k x).slices = s.slices := rfl
@[simp] theorem State.hbmStacks_setCtx (s : State) (k : Nat) (x : Context) : (s.setCtx k x).hbmStacks = s.hbmStacks := rfl
@[simp] theorem State.fieldTlb_setCtx (s : State) (k : Nat) (x : Context) : (s.setCtx k x).fieldTlb = s.fieldTlb := rfl
@[simp] theorem State.snaps_setCtx (s : State) (k : Nat) (x : Context) : (s.setCtx k x).snaps = s.snaps := rfl
@[simp] theorem State.trunk_setCtx (s : State) (k : Nat) (x : Context) : (s.setCtx k x).trunk = s.trunk := rfl
@[simp] theorem State.ready_setCtx (s : State) (k : Nat) (x : Context) : (s.setCtx k x).ready = s.ready := rfl
@[simp] theorem State.net_setCtx (s : State) (k : Nat) (x : Context) : (s.setCtx k x).net = s.net := rfl
@[simp] theorem State.cache_setCtx (s : State) (k : Nat) (x : Context) : (s.setCtx k x).cache = s.cache := rfl
@[simp] theorem State.wins_setCtx (s : State) (k : Nat) (x : Context) : (s.setCtx k x).wins = s.wins := rfl
@[simp] theorem State.out_setCtx (s : State) (k : Nat) (x : Context) : (s.setCtx k x).out = s.out := rfl
@[simp] theorem State.agenda_setCtx (s : State) (k : Nat) (x : Context) : (s.setCtx k x).agenda = s.agenda := rfl
@[simp] theorem State.inbox_setCtx (s : State) (k : Nat) (x : Context) : (s.setCtx k x).inbox = s.inbox := rfl
@[simp] theorem State.cur_setCtx (s : State) (k : Nat) (x : Context) : (s.setCtx k x).cur = s.cur := rfl
@[simp] theorem State.slot_setCtx (s : State) (k : Nat) (x : Context) : (s.setCtx k x).slot = s.slot := rfl
@[simp] theorem State.turn_setCtx (s : State) (k : Nat) (x : Context) : (s.setCtx k x).turn = s.turn := rfl
@[simp] theorem State.late_setCtx (s : State) (k : Nat) (x : Context) : (s.setCtx k x).late = s.late := rfl
@[simp] theorem State.fresh_setCtx (s : State) (k : Nat) (x : Context) : (s.setCtx k x).fresh = s.fresh := rfl
@[simp] theorem State.uids_setCtx (s : State) (k : Nat) (x : Context) : (s.setCtx k x).uids = s.uids := rfl
@[simp] theorem State.triads_setCtx (s : State) (k : Nat) (x : Context) : (s.setCtx k x).triads = s.triads := rfl

/-! `State.updCtx` writes `contexts` alone. -/

@[simp] theorem State.clk_updCtx (s : State) (k : Nat) (f : Context → Context) : (s.updCtx k f).clk = s.clk := rfl
@[simp] theorem State.base_updCtx (s : State) (k : Nat) (f : Context → Context) : (s.updCtx k f).base = s.base := rfl
@[simp] theorem State.mem_updCtx (s : State) (k : Nat) (f : Context → Context) : (s.updCtx k f).mem = s.mem := rfl
@[simp] theorem State.cores_updCtx (s : State) (k : Nat) (f : Context → Context) : (s.updCtx k f).cores = s.cores := rfl
@[simp] theorem State.groves_updCtx (s : State) (k : Nat) (f : Context → Context) : (s.updCtx k f).groves = s.groves := rfl
@[simp] theorem State.rims_updCtx (s : State) (k : Nat) (f : Context → Context) : (s.updCtx k f).rims = s.rims := rfl
@[simp] theorem State.slices_updCtx (s : State) (k : Nat) (f : Context → Context) : (s.updCtx k f).slices = s.slices := rfl
@[simp] theorem State.hbmStacks_updCtx (s : State) (k : Nat) (f : Context → Context) : (s.updCtx k f).hbmStacks = s.hbmStacks := rfl
@[simp] theorem State.fieldTlb_updCtx (s : State) (k : Nat) (f : Context → Context) : (s.updCtx k f).fieldTlb = s.fieldTlb := rfl
@[simp] theorem State.snaps_updCtx (s : State) (k : Nat) (f : Context → Context) : (s.updCtx k f).snaps = s.snaps := rfl
@[simp] theorem State.trunk_updCtx (s : State) (k : Nat) (f : Context → Context) : (s.updCtx k f).trunk = s.trunk := rfl
@[simp] theorem State.ready_updCtx (s : State) (k : Nat) (f : Context → Context) : (s.updCtx k f).ready = s.ready := rfl
@[simp] theorem State.net_updCtx (s : State) (k : Nat) (f : Context → Context) : (s.updCtx k f).net = s.net := rfl
@[simp] theorem State.cache_updCtx (s : State) (k : Nat) (f : Context → Context) : (s.updCtx k f).cache = s.cache := rfl
@[simp] theorem State.wins_updCtx (s : State) (k : Nat) (f : Context → Context) : (s.updCtx k f).wins = s.wins := rfl
@[simp] theorem State.out_updCtx (s : State) (k : Nat) (f : Context → Context) : (s.updCtx k f).out = s.out := rfl
@[simp] theorem State.agenda_updCtx (s : State) (k : Nat) (f : Context → Context) : (s.updCtx k f).agenda = s.agenda := rfl
@[simp] theorem State.inbox_updCtx (s : State) (k : Nat) (f : Context → Context) : (s.updCtx k f).inbox = s.inbox := rfl
@[simp] theorem State.cur_updCtx (s : State) (k : Nat) (f : Context → Context) : (s.updCtx k f).cur = s.cur := rfl
@[simp] theorem State.slot_updCtx (s : State) (k : Nat) (f : Context → Context) : (s.updCtx k f).slot = s.slot := rfl
@[simp] theorem State.turn_updCtx (s : State) (k : Nat) (f : Context → Context) : (s.updCtx k f).turn = s.turn := rfl
@[simp] theorem State.late_updCtx (s : State) (k : Nat) (f : Context → Context) : (s.updCtx k f).late = s.late := rfl
@[simp] theorem State.fresh_updCtx (s : State) (k : Nat) (f : Context → Context) : (s.updCtx k f).fresh = s.fresh := rfl
@[simp] theorem State.uids_updCtx (s : State) (k : Nat) (f : Context → Context) : (s.updCtx k f).uids = s.uids := rfl
@[simp] theorem State.triads_updCtx (s : State) (k : Nat) (f : Context → Context) : (s.updCtx k f).triads = s.triads := rfl

/-! `State.updSlice` writes `slices` alone. -/

@[simp] theorem State.clk_updSlice (s : State) (k : Nat) (f : Slice → Slice) : (s.updSlice k f).clk = s.clk := rfl
@[simp] theorem State.base_updSlice (s : State) (k : Nat) (f : Slice → Slice) : (s.updSlice k f).base = s.base := rfl
@[simp] theorem State.mem_updSlice (s : State) (k : Nat) (f : Slice → Slice) : (s.updSlice k f).mem = s.mem := rfl
@[simp] theorem State.cores_updSlice (s : State) (k : Nat) (f : Slice → Slice) : (s.updSlice k f).cores = s.cores := rfl
@[simp] theorem State.groves_updSlice (s : State) (k : Nat) (f : Slice → Slice) : (s.updSlice k f).groves = s.groves := rfl
@[simp] theorem State.rims_updSlice (s : State) (k : Nat) (f : Slice → Slice) : (s.updSlice k f).rims = s.rims := rfl
@[simp] theorem State.hbmStacks_updSlice (s : State) (k : Nat) (f : Slice → Slice) : (s.updSlice k f).hbmStacks = s.hbmStacks := rfl
@[simp] theorem State.fieldTlb_updSlice (s : State) (k : Nat) (f : Slice → Slice) : (s.updSlice k f).fieldTlb = s.fieldTlb := rfl
@[simp] theorem State.contexts_updSlice (s : State) (k : Nat) (f : Slice → Slice) : (s.updSlice k f).contexts = s.contexts := rfl
@[simp] theorem State.snaps_updSlice (s : State) (k : Nat) (f : Slice → Slice) : (s.updSlice k f).snaps = s.snaps := rfl
@[simp] theorem State.trunk_updSlice (s : State) (k : Nat) (f : Slice → Slice) : (s.updSlice k f).trunk = s.trunk := rfl
@[simp] theorem State.ready_updSlice (s : State) (k : Nat) (f : Slice → Slice) : (s.updSlice k f).ready = s.ready := rfl
@[simp] theorem State.net_updSlice (s : State) (k : Nat) (f : Slice → Slice) : (s.updSlice k f).net = s.net := rfl
@[simp] theorem State.cache_updSlice (s : State) (k : Nat) (f : Slice → Slice) : (s.updSlice k f).cache = s.cache := rfl
@[simp] theorem State.wins_updSlice (s : State) (k : Nat) (f : Slice → Slice) : (s.updSlice k f).wins = s.wins := rfl
@[simp] theorem State.out_updSlice (s : State) (k : Nat) (f : Slice → Slice) : (s.updSlice k f).out = s.out := rfl
@[simp] theorem State.agenda_updSlice (s : State) (k : Nat) (f : Slice → Slice) : (s.updSlice k f).agenda = s.agenda := rfl
@[simp] theorem State.inbox_updSlice (s : State) (k : Nat) (f : Slice → Slice) : (s.updSlice k f).inbox = s.inbox := rfl
@[simp] theorem State.cur_updSlice (s : State) (k : Nat) (f : Slice → Slice) : (s.updSlice k f).cur = s.cur := rfl
@[simp] theorem State.slot_updSlice (s : State) (k : Nat) (f : Slice → Slice) : (s.updSlice k f).slot = s.slot := rfl
@[simp] theorem State.turn_updSlice (s : State) (k : Nat) (f : Slice → Slice) : (s.updSlice k f).turn = s.turn := rfl
@[simp] theorem State.late_updSlice (s : State) (k : Nat) (f : Slice → Slice) : (s.updSlice k f).late = s.late := rfl
@[simp] theorem State.fresh_updSlice (s : State) (k : Nat) (f : Slice → Slice) : (s.updSlice k f).fresh = s.fresh := rfl
@[simp] theorem State.uids_updSlice (s : State) (k : Nat) (f : Slice → Slice) : (s.updSlice k f).uids = s.uids := rfl
@[simp] theorem State.triads_updSlice (s : State) (k : Nat) (f : Slice → Slice) : (s.updSlice k f).triads = s.triads := rfl

/-! `State.updRim` writes `rims` alone. -/

@[simp] theorem State.clk_updRim (s : State) (k : Nat) (f : Rim → Rim) : (s.updRim k f).clk = s.clk := rfl
@[simp] theorem State.base_updRim (s : State) (k : Nat) (f : Rim → Rim) : (s.updRim k f).base = s.base := rfl
@[simp] theorem State.mem_updRim (s : State) (k : Nat) (f : Rim → Rim) : (s.updRim k f).mem = s.mem := rfl
@[simp] theorem State.cores_updRim (s : State) (k : Nat) (f : Rim → Rim) : (s.updRim k f).cores = s.cores := rfl
@[simp] theorem State.groves_updRim (s : State) (k : Nat) (f : Rim → Rim) : (s.updRim k f).groves = s.groves := rfl
@[simp] theorem State.slices_updRim (s : State) (k : Nat) (f : Rim → Rim) : (s.updRim k f).slices = s.slices := rfl
@[simp] theorem State.hbmStacks_updRim (s : State) (k : Nat) (f : Rim → Rim) : (s.updRim k f).hbmStacks = s.hbmStacks := rfl
@[simp] theorem State.fieldTlb_updRim (s : State) (k : Nat) (f : Rim → Rim) : (s.updRim k f).fieldTlb = s.fieldTlb := rfl
@[simp] theorem State.contexts_updRim (s : State) (k : Nat) (f : Rim → Rim) : (s.updRim k f).contexts = s.contexts := rfl
@[simp] theorem State.snaps_updRim (s : State) (k : Nat) (f : Rim → Rim) : (s.updRim k f).snaps = s.snaps := rfl
@[simp] theorem State.trunk_updRim (s : State) (k : Nat) (f : Rim → Rim) : (s.updRim k f).trunk = s.trunk := rfl
@[simp] theorem State.ready_updRim (s : State) (k : Nat) (f : Rim → Rim) : (s.updRim k f).ready = s.ready := rfl
@[simp] theorem State.net_updRim (s : State) (k : Nat) (f : Rim → Rim) : (s.updRim k f).net = s.net := rfl
@[simp] theorem State.cache_updRim (s : State) (k : Nat) (f : Rim → Rim) : (s.updRim k f).cache = s.cache := rfl
@[simp] theorem State.wins_updRim (s : State) (k : Nat) (f : Rim → Rim) : (s.updRim k f).wins = s.wins := rfl
@[simp] theorem State.out_updRim (s : State) (k : Nat) (f : Rim → Rim) : (s.updRim k f).out = s.out := rfl
@[simp] theorem State.agenda_updRim (s : State) (k : Nat) (f : Rim → Rim) : (s.updRim k f).agenda = s.agenda := rfl
@[simp] theorem State.inbox_updRim (s : State) (k : Nat) (f : Rim → Rim) : (s.updRim k f).inbox = s.inbox := rfl
@[simp] theorem State.cur_updRim (s : State) (k : Nat) (f : Rim → Rim) : (s.updRim k f).cur = s.cur := rfl
@[simp] theorem State.slot_updRim (s : State) (k : Nat) (f : Rim → Rim) : (s.updRim k f).slot = s.slot := rfl
@[simp] theorem State.turn_updRim (s : State) (k : Nat) (f : Rim → Rim) : (s.updRim k f).turn = s.turn := rfl
@[simp] theorem State.late_updRim (s : State) (k : Nat) (f : Rim → Rim) : (s.updRim k f).late = s.late := rfl
@[simp] theorem State.fresh_updRim (s : State) (k : Nat) (f : Rim → Rim) : (s.updRim k f).fresh = s.fresh := rfl
@[simp] theorem State.uids_updRim (s : State) (k : Nat) (f : Rim → Rim) : (s.updRim k f).uids = s.uids := rfl
@[simp] theorem State.triads_updRim (s : State) (k : Nat) (f : Rim → Rim) : (s.updRim k f).triads = s.triads := rfl

/-! `State.updStack` writes `hbmStacks` alone. -/

@[simp] theorem State.clk_updStack (s : State) (k : Nat) (f : Stack → Stack) : (s.updStack k f).clk = s.clk := rfl
@[simp] theorem State.base_updStack (s : State) (k : Nat) (f : Stack → Stack) : (s.updStack k f).base = s.base := rfl
@[simp] theorem State.mem_updStack (s : State) (k : Nat) (f : Stack → Stack) : (s.updStack k f).mem = s.mem := rfl
@[simp] theorem State.cores_updStack (s : State) (k : Nat) (f : Stack → Stack) : (s.updStack k f).cores = s.cores := rfl
@[simp] theorem State.groves_updStack (s : State) (k : Nat) (f : Stack → Stack) : (s.updStack k f).groves = s.groves := rfl
@[simp] theorem State.rims_updStack (s : State) (k : Nat) (f : Stack → Stack) : (s.updStack k f).rims = s.rims := rfl
@[simp] theorem State.slices_updStack (s : State) (k : Nat) (f : Stack → Stack) : (s.updStack k f).slices = s.slices := rfl
@[simp] theorem State.fieldTlb_updStack (s : State) (k : Nat) (f : Stack → Stack) : (s.updStack k f).fieldTlb = s.fieldTlb := rfl
@[simp] theorem State.contexts_updStack (s : State) (k : Nat) (f : Stack → Stack) : (s.updStack k f).contexts = s.contexts := rfl
@[simp] theorem State.snaps_updStack (s : State) (k : Nat) (f : Stack → Stack) : (s.updStack k f).snaps = s.snaps := rfl
@[simp] theorem State.trunk_updStack (s : State) (k : Nat) (f : Stack → Stack) : (s.updStack k f).trunk = s.trunk := rfl
@[simp] theorem State.ready_updStack (s : State) (k : Nat) (f : Stack → Stack) : (s.updStack k f).ready = s.ready := rfl
@[simp] theorem State.net_updStack (s : State) (k : Nat) (f : Stack → Stack) : (s.updStack k f).net = s.net := rfl
@[simp] theorem State.cache_updStack (s : State) (k : Nat) (f : Stack → Stack) : (s.updStack k f).cache = s.cache := rfl
@[simp] theorem State.wins_updStack (s : State) (k : Nat) (f : Stack → Stack) : (s.updStack k f).wins = s.wins := rfl
@[simp] theorem State.out_updStack (s : State) (k : Nat) (f : Stack → Stack) : (s.updStack k f).out = s.out := rfl
@[simp] theorem State.agenda_updStack (s : State) (k : Nat) (f : Stack → Stack) : (s.updStack k f).agenda = s.agenda := rfl
@[simp] theorem State.inbox_updStack (s : State) (k : Nat) (f : Stack → Stack) : (s.updStack k f).inbox = s.inbox := rfl
@[simp] theorem State.cur_updStack (s : State) (k : Nat) (f : Stack → Stack) : (s.updStack k f).cur = s.cur := rfl
@[simp] theorem State.slot_updStack (s : State) (k : Nat) (f : Stack → Stack) : (s.updStack k f).slot = s.slot := rfl
@[simp] theorem State.turn_updStack (s : State) (k : Nat) (f : Stack → Stack) : (s.updStack k f).turn = s.turn := rfl
@[simp] theorem State.late_updStack (s : State) (k : Nat) (f : Stack → Stack) : (s.updStack k f).late = s.late := rfl
@[simp] theorem State.fresh_updStack (s : State) (k : Nat) (f : Stack → Stack) : (s.updStack k f).fresh = s.fresh := rfl
@[simp] theorem State.uids_updStack (s : State) (k : Nat) (f : Stack → Stack) : (s.updStack k f).uids = s.uids := rfl
@[simp] theorem State.triads_updStack (s : State) (k : Nat) (f : Stack → Stack) : (s.updStack k f).triads = s.triads := rfl

/-! `State.updTrunk` writes `trunk` alone. -/

@[simp] theorem State.clk_updTrunk (s : State) (f : Trunk → Trunk) : (s.updTrunk f).clk = s.clk := rfl
@[simp] theorem State.base_updTrunk (s : State) (f : Trunk → Trunk) : (s.updTrunk f).base = s.base := rfl
@[simp] theorem State.mem_updTrunk (s : State) (f : Trunk → Trunk) : (s.updTrunk f).mem = s.mem := rfl
@[simp] theorem State.cores_updTrunk (s : State) (f : Trunk → Trunk) : (s.updTrunk f).cores = s.cores := rfl
@[simp] theorem State.groves_updTrunk (s : State) (f : Trunk → Trunk) : (s.updTrunk f).groves = s.groves := rfl
@[simp] theorem State.rims_updTrunk (s : State) (f : Trunk → Trunk) : (s.updTrunk f).rims = s.rims := rfl
@[simp] theorem State.slices_updTrunk (s : State) (f : Trunk → Trunk) : (s.updTrunk f).slices = s.slices := rfl
@[simp] theorem State.hbmStacks_updTrunk (s : State) (f : Trunk → Trunk) : (s.updTrunk f).hbmStacks = s.hbmStacks := rfl
@[simp] theorem State.fieldTlb_updTrunk (s : State) (f : Trunk → Trunk) : (s.updTrunk f).fieldTlb = s.fieldTlb := rfl
@[simp] theorem State.contexts_updTrunk (s : State) (f : Trunk → Trunk) : (s.updTrunk f).contexts = s.contexts := rfl
@[simp] theorem State.snaps_updTrunk (s : State) (f : Trunk → Trunk) : (s.updTrunk f).snaps = s.snaps := rfl
@[simp] theorem State.ready_updTrunk (s : State) (f : Trunk → Trunk) : (s.updTrunk f).ready = s.ready := rfl
@[simp] theorem State.net_updTrunk (s : State) (f : Trunk → Trunk) : (s.updTrunk f).net = s.net := rfl
@[simp] theorem State.cache_updTrunk (s : State) (f : Trunk → Trunk) : (s.updTrunk f).cache = s.cache := rfl
@[simp] theorem State.wins_updTrunk (s : State) (f : Trunk → Trunk) : (s.updTrunk f).wins = s.wins := rfl
@[simp] theorem State.out_updTrunk (s : State) (f : Trunk → Trunk) : (s.updTrunk f).out = s.out := rfl
@[simp] theorem State.agenda_updTrunk (s : State) (f : Trunk → Trunk) : (s.updTrunk f).agenda = s.agenda := rfl
@[simp] theorem State.inbox_updTrunk (s : State) (f : Trunk → Trunk) : (s.updTrunk f).inbox = s.inbox := rfl
@[simp] theorem State.cur_updTrunk (s : State) (f : Trunk → Trunk) : (s.updTrunk f).cur = s.cur := rfl
@[simp] theorem State.slot_updTrunk (s : State) (f : Trunk → Trunk) : (s.updTrunk f).slot = s.slot := rfl
@[simp] theorem State.turn_updTrunk (s : State) (f : Trunk → Trunk) : (s.updTrunk f).turn = s.turn := rfl
@[simp] theorem State.late_updTrunk (s : State) (f : Trunk → Trunk) : (s.updTrunk f).late = s.late := rfl
@[simp] theorem State.fresh_updTrunk (s : State) (f : Trunk → Trunk) : (s.updTrunk f).fresh = s.fresh := rfl
@[simp] theorem State.uids_updTrunk (s : State) (f : Trunk → Trunk) : (s.updTrunk f).uids = s.uids := rfl
@[simp] theorem State.triads_updTrunk (s : State) (f : Trunk → Trunk) : (s.updTrunk f).triads = s.triads := rfl

/-! `State.updTask` writes `groves` alone. -/

@[simp] theorem State.clk_updTask (s : State) (g i : Nat) (f : TaskRec → TaskRec) : (s.updTask g i f).clk = s.clk := rfl
@[simp] theorem State.base_updTask (s : State) (g i : Nat) (f : TaskRec → TaskRec) : (s.updTask g i f).base = s.base := rfl
@[simp] theorem State.mem_updTask (s : State) (g i : Nat) (f : TaskRec → TaskRec) : (s.updTask g i f).mem = s.mem := rfl
@[simp] theorem State.cores_updTask (s : State) (g i : Nat) (f : TaskRec → TaskRec) : (s.updTask g i f).cores = s.cores := rfl
@[simp] theorem State.rims_updTask (s : State) (g i : Nat) (f : TaskRec → TaskRec) : (s.updTask g i f).rims = s.rims := rfl
@[simp] theorem State.slices_updTask (s : State) (g i : Nat) (f : TaskRec → TaskRec) : (s.updTask g i f).slices = s.slices := rfl
@[simp] theorem State.hbmStacks_updTask (s : State) (g i : Nat) (f : TaskRec → TaskRec) : (s.updTask g i f).hbmStacks = s.hbmStacks := rfl
@[simp] theorem State.fieldTlb_updTask (s : State) (g i : Nat) (f : TaskRec → TaskRec) : (s.updTask g i f).fieldTlb = s.fieldTlb := rfl
@[simp] theorem State.contexts_updTask (s : State) (g i : Nat) (f : TaskRec → TaskRec) : (s.updTask g i f).contexts = s.contexts := rfl
@[simp] theorem State.snaps_updTask (s : State) (g i : Nat) (f : TaskRec → TaskRec) : (s.updTask g i f).snaps = s.snaps := rfl
@[simp] theorem State.trunk_updTask (s : State) (g i : Nat) (f : TaskRec → TaskRec) : (s.updTask g i f).trunk = s.trunk := rfl
@[simp] theorem State.ready_updTask (s : State) (g i : Nat) (f : TaskRec → TaskRec) : (s.updTask g i f).ready = s.ready := rfl
@[simp] theorem State.net_updTask (s : State) (g i : Nat) (f : TaskRec → TaskRec) : (s.updTask g i f).net = s.net := rfl
@[simp] theorem State.cache_updTask (s : State) (g i : Nat) (f : TaskRec → TaskRec) : (s.updTask g i f).cache = s.cache := rfl
@[simp] theorem State.wins_updTask (s : State) (g i : Nat) (f : TaskRec → TaskRec) : (s.updTask g i f).wins = s.wins := rfl
@[simp] theorem State.out_updTask (s : State) (g i : Nat) (f : TaskRec → TaskRec) : (s.updTask g i f).out = s.out := rfl
@[simp] theorem State.agenda_updTask (s : State) (g i : Nat) (f : TaskRec → TaskRec) : (s.updTask g i f).agenda = s.agenda := rfl
@[simp] theorem State.inbox_updTask (s : State) (g i : Nat) (f : TaskRec → TaskRec) : (s.updTask g i f).inbox = s.inbox := rfl
@[simp] theorem State.cur_updTask (s : State) (g i : Nat) (f : TaskRec → TaskRec) : (s.updTask g i f).cur = s.cur := rfl
@[simp] theorem State.slot_updTask (s : State) (g i : Nat) (f : TaskRec → TaskRec) : (s.updTask g i f).slot = s.slot := rfl
@[simp] theorem State.turn_updTask (s : State) (g i : Nat) (f : TaskRec → TaskRec) : (s.updTask g i f).turn = s.turn := rfl
@[simp] theorem State.late_updTask (s : State) (g i : Nat) (f : TaskRec → TaskRec) : (s.updTask g i f).late = s.late := rfl
@[simp] theorem State.fresh_updTask (s : State) (g i : Nat) (f : TaskRec → TaskRec) : (s.updTask g i f).fresh = s.fresh := rfl
@[simp] theorem State.uids_updTask (s : State) (g i : Nat) (f : TaskRec → TaskRec) : (s.updTask g i f).uids = s.uids := rfl
@[simp] theorem State.triads_updTask (s : State) (g i : Nat) (f : TaskRec → TaskRec) : (s.updTask g i f).triads = s.triads := rfl

/-! `State.send` writes `net` alone. -/

@[simp] theorem State.clk_send (s : State) (p : Pkt) : (s.send p).clk = s.clk := rfl
@[simp] theorem State.base_send (s : State) (p : Pkt) : (s.send p).base = s.base := rfl
@[simp] theorem State.mem_send (s : State) (p : Pkt) : (s.send p).mem = s.mem := rfl
@[simp] theorem State.cores_send (s : State) (p : Pkt) : (s.send p).cores = s.cores := rfl
@[simp] theorem State.groves_send (s : State) (p : Pkt) : (s.send p).groves = s.groves := rfl
@[simp] theorem State.rims_send (s : State) (p : Pkt) : (s.send p).rims = s.rims := rfl
@[simp] theorem State.slices_send (s : State) (p : Pkt) : (s.send p).slices = s.slices := rfl
@[simp] theorem State.hbmStacks_send (s : State) (p : Pkt) : (s.send p).hbmStacks = s.hbmStacks := rfl
@[simp] theorem State.fieldTlb_send (s : State) (p : Pkt) : (s.send p).fieldTlb = s.fieldTlb := rfl
@[simp] theorem State.contexts_send (s : State) (p : Pkt) : (s.send p).contexts = s.contexts := rfl
@[simp] theorem State.snaps_send (s : State) (p : Pkt) : (s.send p).snaps = s.snaps := rfl
@[simp] theorem State.trunk_send (s : State) (p : Pkt) : (s.send p).trunk = s.trunk := rfl
@[simp] theorem State.ready_send (s : State) (p : Pkt) : (s.send p).ready = s.ready := rfl
@[simp] theorem State.cache_send (s : State) (p : Pkt) : (s.send p).cache = s.cache := rfl
@[simp] theorem State.wins_send (s : State) (p : Pkt) : (s.send p).wins = s.wins := rfl
@[simp] theorem State.out_send (s : State) (p : Pkt) : (s.send p).out = s.out := rfl
@[simp] theorem State.agenda_send (s : State) (p : Pkt) : (s.send p).agenda = s.agenda := rfl
@[simp] theorem State.inbox_send (s : State) (p : Pkt) : (s.send p).inbox = s.inbox := rfl
@[simp] theorem State.cur_send (s : State) (p : Pkt) : (s.send p).cur = s.cur := rfl
@[simp] theorem State.slot_send (s : State) (p : Pkt) : (s.send p).slot = s.slot := rfl
@[simp] theorem State.turn_send (s : State) (p : Pkt) : (s.send p).turn = s.turn := rfl
@[simp] theorem State.late_send (s : State) (p : Pkt) : (s.send p).late = s.late := rfl
@[simp] theorem State.fresh_send (s : State) (p : Pkt) : (s.send p).fresh = s.fresh := rfl
@[simp] theorem State.uids_send (s : State) (p : Pkt) : (s.send p).uids = s.uids := rfl
@[simp] theorem State.triads_send (s : State) (p : Pkt) : (s.send p).triads = s.triads := rfl

/-! `State.dropPkt` writes `net` alone. -/

@[simp] theorem State.clk_dropPkt (s : State) (k : Nat) : (s.dropPkt k).clk = s.clk := rfl
@[simp] theorem State.base_dropPkt (s : State) (k : Nat) : (s.dropPkt k).base = s.base := rfl
@[simp] theorem State.mem_dropPkt (s : State) (k : Nat) : (s.dropPkt k).mem = s.mem := rfl
@[simp] theorem State.cores_dropPkt (s : State) (k : Nat) : (s.dropPkt k).cores = s.cores := rfl
@[simp] theorem State.groves_dropPkt (s : State) (k : Nat) : (s.dropPkt k).groves = s.groves := rfl
@[simp] theorem State.rims_dropPkt (s : State) (k : Nat) : (s.dropPkt k).rims = s.rims := rfl
@[simp] theorem State.slices_dropPkt (s : State) (k : Nat) : (s.dropPkt k).slices = s.slices := rfl
@[simp] theorem State.hbmStacks_dropPkt (s : State) (k : Nat) : (s.dropPkt k).hbmStacks = s.hbmStacks := rfl
@[simp] theorem State.fieldTlb_dropPkt (s : State) (k : Nat) : (s.dropPkt k).fieldTlb = s.fieldTlb := rfl
@[simp] theorem State.contexts_dropPkt (s : State) (k : Nat) : (s.dropPkt k).contexts = s.contexts := rfl
@[simp] theorem State.snaps_dropPkt (s : State) (k : Nat) : (s.dropPkt k).snaps = s.snaps := rfl
@[simp] theorem State.trunk_dropPkt (s : State) (k : Nat) : (s.dropPkt k).trunk = s.trunk := rfl
@[simp] theorem State.ready_dropPkt (s : State) (k : Nat) : (s.dropPkt k).ready = s.ready := rfl
@[simp] theorem State.cache_dropPkt (s : State) (k : Nat) : (s.dropPkt k).cache = s.cache := rfl
@[simp] theorem State.wins_dropPkt (s : State) (k : Nat) : (s.dropPkt k).wins = s.wins := rfl
@[simp] theorem State.out_dropPkt (s : State) (k : Nat) : (s.dropPkt k).out = s.out := rfl
@[simp] theorem State.agenda_dropPkt (s : State) (k : Nat) : (s.dropPkt k).agenda = s.agenda := rfl
@[simp] theorem State.inbox_dropPkt (s : State) (k : Nat) : (s.dropPkt k).inbox = s.inbox := rfl
@[simp] theorem State.cur_dropPkt (s : State) (k : Nat) : (s.dropPkt k).cur = s.cur := rfl
@[simp] theorem State.slot_dropPkt (s : State) (k : Nat) : (s.dropPkt k).slot = s.slot := rfl
@[simp] theorem State.turn_dropPkt (s : State) (k : Nat) : (s.dropPkt k).turn = s.turn := rfl
@[simp] theorem State.late_dropPkt (s : State) (k : Nat) : (s.dropPkt k).late = s.late := rfl
@[simp] theorem State.fresh_dropPkt (s : State) (k : Nat) : (s.dropPkt k).fresh = s.fresh := rfl
@[simp] theorem State.uids_dropPkt (s : State) (k : Nat) : (s.dropPkt k).uids = s.uids := rfl
@[simp] theorem State.triads_dropPkt (s : State) (k : Nat) : (s.dropPkt k).triads = s.triads := rfl

/-! `State.writeReg` writes `cores` alone. -/

@[simp] theorem State.clk_writeReg (s : State) (l : Nat) (r : Reg) (v : Nat) (f : Flags) : (s.writeReg l r v f).clk = s.clk := rfl
@[simp] theorem State.base_writeReg (s : State) (l : Nat) (r : Reg) (v : Nat) (f : Flags) : (s.writeReg l r v f).base = s.base := rfl
@[simp] theorem State.mem_writeReg (s : State) (l : Nat) (r : Reg) (v : Nat) (f : Flags) : (s.writeReg l r v f).mem = s.mem := rfl
@[simp] theorem State.groves_writeReg (s : State) (l : Nat) (r : Reg) (v : Nat) (f : Flags) : (s.writeReg l r v f).groves = s.groves := rfl
@[simp] theorem State.rims_writeReg (s : State) (l : Nat) (r : Reg) (v : Nat) (f : Flags) : (s.writeReg l r v f).rims = s.rims := rfl
@[simp] theorem State.slices_writeReg (s : State) (l : Nat) (r : Reg) (v : Nat) (f : Flags) : (s.writeReg l r v f).slices = s.slices := rfl
@[simp] theorem State.hbmStacks_writeReg (s : State) (l : Nat) (r : Reg) (v : Nat) (f : Flags) : (s.writeReg l r v f).hbmStacks = s.hbmStacks := rfl
@[simp] theorem State.fieldTlb_writeReg (s : State) (l : Nat) (r : Reg) (v : Nat) (f : Flags) : (s.writeReg l r v f).fieldTlb = s.fieldTlb := rfl
@[simp] theorem State.contexts_writeReg (s : State) (l : Nat) (r : Reg) (v : Nat) (f : Flags) : (s.writeReg l r v f).contexts = s.contexts := rfl
@[simp] theorem State.snaps_writeReg (s : State) (l : Nat) (r : Reg) (v : Nat) (f : Flags) : (s.writeReg l r v f).snaps = s.snaps := rfl
@[simp] theorem State.trunk_writeReg (s : State) (l : Nat) (r : Reg) (v : Nat) (f : Flags) : (s.writeReg l r v f).trunk = s.trunk := rfl
@[simp] theorem State.ready_writeReg (s : State) (l : Nat) (r : Reg) (v : Nat) (f : Flags) : (s.writeReg l r v f).ready = s.ready := rfl
@[simp] theorem State.net_writeReg (s : State) (l : Nat) (r : Reg) (v : Nat) (f : Flags) : (s.writeReg l r v f).net = s.net := rfl
@[simp] theorem State.cache_writeReg (s : State) (l : Nat) (r : Reg) (v : Nat) (f : Flags) : (s.writeReg l r v f).cache = s.cache := rfl
@[simp] theorem State.wins_writeReg (s : State) (l : Nat) (r : Reg) (v : Nat) (f : Flags) : (s.writeReg l r v f).wins = s.wins := rfl
@[simp] theorem State.out_writeReg (s : State) (l : Nat) (r : Reg) (v : Nat) (f : Flags) : (s.writeReg l r v f).out = s.out := rfl
@[simp] theorem State.agenda_writeReg (s : State) (l : Nat) (r : Reg) (v : Nat) (f : Flags) : (s.writeReg l r v f).agenda = s.agenda := rfl
@[simp] theorem State.inbox_writeReg (s : State) (l : Nat) (r : Reg) (v : Nat) (f : Flags) : (s.writeReg l r v f).inbox = s.inbox := rfl
@[simp] theorem State.cur_writeReg (s : State) (l : Nat) (r : Reg) (v : Nat) (f : Flags) : (s.writeReg l r v f).cur = s.cur := rfl
@[simp] theorem State.slot_writeReg (s : State) (l : Nat) (r : Reg) (v : Nat) (f : Flags) : (s.writeReg l r v f).slot = s.slot := rfl
@[simp] theorem State.turn_writeReg (s : State) (l : Nat) (r : Reg) (v : Nat) (f : Flags) : (s.writeReg l r v f).turn = s.turn := rfl
@[simp] theorem State.late_writeReg (s : State) (l : Nat) (r : Reg) (v : Nat) (f : Flags) : (s.writeReg l r v f).late = s.late := rfl
@[simp] theorem State.fresh_writeReg (s : State) (l : Nat) (r : Reg) (v : Nat) (f : Flags) : (s.writeReg l r v f).fresh = s.fresh := rfl
@[simp] theorem State.uids_writeReg (s : State) (l : Nat) (r : Reg) (v : Nat) (f : Flags) : (s.writeReg l r v f).uids = s.uids := rfl
@[simp] theorem State.triads_writeReg (s : State) (l : Nat) (r : Reg) (v : Nat) (f : Flags) : (s.writeReg l r v f).triads = s.triads := rfl

/-! `State.writeLater` writes `cores` alone. -/

@[simp] theorem State.clk_writeLater (s : State) (r : Reg) (v : Nat) (w : Wait) : (s.writeLater r v w).clk = s.clk := rfl
@[simp] theorem State.base_writeLater (s : State) (r : Reg) (v : Nat) (w : Wait) : (s.writeLater r v w).base = s.base := rfl
@[simp] theorem State.mem_writeLater (s : State) (r : Reg) (v : Nat) (w : Wait) : (s.writeLater r v w).mem = s.mem := rfl
@[simp] theorem State.groves_writeLater (s : State) (r : Reg) (v : Nat) (w : Wait) : (s.writeLater r v w).groves = s.groves := rfl
@[simp] theorem State.rims_writeLater (s : State) (r : Reg) (v : Nat) (w : Wait) : (s.writeLater r v w).rims = s.rims := rfl
@[simp] theorem State.slices_writeLater (s : State) (r : Reg) (v : Nat) (w : Wait) : (s.writeLater r v w).slices = s.slices := rfl
@[simp] theorem State.hbmStacks_writeLater (s : State) (r : Reg) (v : Nat) (w : Wait) : (s.writeLater r v w).hbmStacks = s.hbmStacks := rfl
@[simp] theorem State.fieldTlb_writeLater (s : State) (r : Reg) (v : Nat) (w : Wait) : (s.writeLater r v w).fieldTlb = s.fieldTlb := rfl
@[simp] theorem State.contexts_writeLater (s : State) (r : Reg) (v : Nat) (w : Wait) : (s.writeLater r v w).contexts = s.contexts := rfl
@[simp] theorem State.snaps_writeLater (s : State) (r : Reg) (v : Nat) (w : Wait) : (s.writeLater r v w).snaps = s.snaps := rfl
@[simp] theorem State.trunk_writeLater (s : State) (r : Reg) (v : Nat) (w : Wait) : (s.writeLater r v w).trunk = s.trunk := rfl
@[simp] theorem State.ready_writeLater (s : State) (r : Reg) (v : Nat) (w : Wait) : (s.writeLater r v w).ready = s.ready := rfl
@[simp] theorem State.net_writeLater (s : State) (r : Reg) (v : Nat) (w : Wait) : (s.writeLater r v w).net = s.net := rfl
@[simp] theorem State.cache_writeLater (s : State) (r : Reg) (v : Nat) (w : Wait) : (s.writeLater r v w).cache = s.cache := rfl
@[simp] theorem State.wins_writeLater (s : State) (r : Reg) (v : Nat) (w : Wait) : (s.writeLater r v w).wins = s.wins := rfl
@[simp] theorem State.out_writeLater (s : State) (r : Reg) (v : Nat) (w : Wait) : (s.writeLater r v w).out = s.out := rfl
@[simp] theorem State.agenda_writeLater (s : State) (r : Reg) (v : Nat) (w : Wait) : (s.writeLater r v w).agenda = s.agenda := rfl
@[simp] theorem State.inbox_writeLater (s : State) (r : Reg) (v : Nat) (w : Wait) : (s.writeLater r v w).inbox = s.inbox := rfl
@[simp] theorem State.cur_writeLater (s : State) (r : Reg) (v : Nat) (w : Wait) : (s.writeLater r v w).cur = s.cur := rfl
@[simp] theorem State.slot_writeLater (s : State) (r : Reg) (v : Nat) (w : Wait) : (s.writeLater r v w).slot = s.slot := rfl
@[simp] theorem State.turn_writeLater (s : State) (r : Reg) (v : Nat) (w : Wait) : (s.writeLater r v w).turn = s.turn := rfl
@[simp] theorem State.late_writeLater (s : State) (r : Reg) (v : Nat) (w : Wait) : (s.writeLater r v w).late = s.late := rfl
@[simp] theorem State.fresh_writeLater (s : State) (r : Reg) (v : Nat) (w : Wait) : (s.writeLater r v w).fresh = s.fresh := rfl
@[simp] theorem State.uids_writeLater (s : State) (r : Reg) (v : Nat) (w : Wait) : (s.writeLater r v w).uids = s.uids := rfl
@[simp] theorem State.triads_writeLater (s : State) (r : Reg) (v : Nat) (w : Wait) : (s.writeLater r v w).triads = s.triads := rfl

/-! Drawing a free value advances `fresh` alone. -/

@[simp] theorem State.clk_freeWord (s : State) : s.freeWord.2.clk = s.clk := rfl
@[simp] theorem State.base_freeWord (s : State) : s.freeWord.2.base = s.base := rfl
@[simp] theorem State.mem_freeWord (s : State) : s.freeWord.2.mem = s.mem := rfl
@[simp] theorem State.cores_freeWord (s : State) : s.freeWord.2.cores = s.cores := rfl
@[simp] theorem State.groves_freeWord (s : State) : s.freeWord.2.groves = s.groves := rfl
@[simp] theorem State.rims_freeWord (s : State) : s.freeWord.2.rims = s.rims := rfl
@[simp] theorem State.slices_freeWord (s : State) : s.freeWord.2.slices = s.slices := rfl
@[simp] theorem State.hbmStacks_freeWord (s : State) : s.freeWord.2.hbmStacks = s.hbmStacks := rfl
@[simp] theorem State.fieldTlb_freeWord (s : State) : s.freeWord.2.fieldTlb = s.fieldTlb := rfl
@[simp] theorem State.contexts_freeWord (s : State) : s.freeWord.2.contexts = s.contexts := rfl
@[simp] theorem State.snaps_freeWord (s : State) : s.freeWord.2.snaps = s.snaps := rfl
@[simp] theorem State.trunk_freeWord (s : State) : s.freeWord.2.trunk = s.trunk := rfl
@[simp] theorem State.ready_freeWord (s : State) : s.freeWord.2.ready = s.ready := rfl
@[simp] theorem State.net_freeWord (s : State) : s.freeWord.2.net = s.net := rfl
@[simp] theorem State.cache_freeWord (s : State) : s.freeWord.2.cache = s.cache := rfl
@[simp] theorem State.wins_freeWord (s : State) : s.freeWord.2.wins = s.wins := rfl
@[simp] theorem State.out_freeWord (s : State) : s.freeWord.2.out = s.out := rfl
@[simp] theorem State.agenda_freeWord (s : State) : s.freeWord.2.agenda = s.agenda := rfl
@[simp] theorem State.inbox_freeWord (s : State) : s.freeWord.2.inbox = s.inbox := rfl
@[simp] theorem State.cur_freeWord (s : State) : s.freeWord.2.cur = s.cur := rfl
@[simp] theorem State.slot_freeWord (s : State) : s.freeWord.2.slot = s.slot := rfl
@[simp] theorem State.turn_freeWord (s : State) : s.freeWord.2.turn = s.turn := rfl
@[simp] theorem State.late_freeWord (s : State) : s.freeWord.2.late = s.late := rfl
@[simp] theorem State.uids_freeWord (s : State) : s.freeWord.2.uids = s.uids := rfl
@[simp] theorem State.triads_freeWord (s : State) : s.freeWord.2.triads = s.triads := rfl

/-! A register write changes one register file. -/

@[simp] theorem Core.mode_wr (c : Core) (r : Reg) (x : Nat) : (c.wr r x).mode = c.mode := by
  simp only [Core.wr]; repeat' split
  all_goals rfl
@[simp] theorem Core.task_wr (c : Core) (r : Reg) (x : Nat) : (c.wr r x).task = c.task := by
  simp only [Core.wr]; repeat' split
  all_goals rfl
@[simp] theorem Core.next_wr (c : Core) (r : Reg) (x : Nat) : (c.wr r x).next = c.next := by
  simp only [Core.wr]; repeat' split
  all_goals rfl
@[simp] theorem Core.pc_wr (c : Core) (r : Reg) (x : Nat) : (c.wr r x).pc = c.pc := by
  simp only [Core.wr]; repeat' split
  all_goals rfl
@[simp] theorem Core.branch_wr (c : Core) (r : Reg) (x : Nat) : (c.wr r x).branch = c.branch := by
  simp only [Core.wr]; repeat' split
  all_goals rfl
@[simp] theorem Core.delay_wr (c : Core) (r : Reg) (x : Nat) : (c.wr r x).delay = c.delay := by
  simp only [Core.wr]; repeat' split
  all_goals rfl
@[simp] theorem Core.loops_wr (c : Core) (r : Reg) (x : Nat) : (c.wr r x).loops = c.loops := by
  simp only [Core.wr]; repeat' split
  all_goals rfl
@[simp] theorem Core.strides_wr (c : Core) (r : Reg) (x : Nat) : (c.wr r x).strides = c.strides := by
  simp only [Core.wr]; repeat' split
  all_goals rfl
@[simp] theorem Core.kstat_wr (c : Core) (r : Reg) (x : Nat) : (c.wr r x).kstat = c.kstat := by
  simp only [Core.wr]; repeat' split
  all_goals rfl
@[simp] theorem Core.ktrap_wr (c : Core) (r : Reg) (x : Nat) : (c.wr r x).ktrap = c.ktrap := by
  simp only [Core.wr]; repeat' split
  all_goals rfl
@[simp] theorem Core.kepc_wr (c : Core) (r : Reg) (x : Nat) : (c.wr r x).kepc = c.kepc := by
  simp only [Core.wr]; repeat' split
  all_goals rfl
@[simp] theorem Core.ktval_wr (c : Core) (r : Reg) (x : Nat) : (c.wr r x).ktval = c.ktval := by
  simp only [Core.wr]; repeat' split
  all_goals rfl
@[simp] theorem Core.kctx_wr (c : Core) (r : Reg) (x : Nat) : (c.wr r x).kctx = c.kctx := by
  simp only [Core.wr]; repeat' split
  all_goals rfl
@[simp] theorem Core.kpwin_wr (c : Core) (r : Reg) (x : Nat) : (c.wr r x).kpwin = c.kpwin := by
  simp only [Core.wr]; repeat' split
  all_goals rfl
@[simp] theorem Core.kbank_wr (c : Core) (r : Reg) (x : Nat) : (c.wr r x).kbank = c.kbank := by
  simp only [Core.wr]; repeat' split
  all_goals rfl
@[simp] theorem Core.kptroot_wr (c : Core) (r : Reg) (x : Nat) : (c.wr r x).kptroot = c.kptroot := by
  simp only [Core.wr]; repeat' split
  all_goals rfl
@[simp] theorem Core.kwid_wr (c : Core) (r : Reg) (x : Nat) : (c.wr r x).kwid = c.kwid := by
  simp only [Core.wr]; repeat' split
  all_goals rfl
@[simp] theorem Core.kfpx_wr (c : Core) (r : Reg) (x : Nat) : (c.wr r x).kfpx = c.kfpx := by
  simp only [Core.wr]; repeat' split
  all_goals rfl
@[simp] theorem Core.ktvec_wr (c : Core) (r : Reg) (x : Nat) : (c.wr r x).ktvec = c.ktvec := by
  simp only [Core.wr]; repeat' split
  all_goals rfl
@[simp] theorem Core.kscr_wr (c : Core) (r : Reg) (x : Nat) : (c.wr r x).kscr = c.kscr := by
  simp only [Core.wr]; repeat' split
  all_goals rfl
@[simp] theorem Core.kmjob_wr (c : Core) (r : Reg) (x : Nat) : (c.wr r x).kmjob = c.kmjob := by
  simp only [Core.wr]; repeat' split
  all_goals rfl
@[simp] theorem Core.kpend_wr (c : Core) (r : Reg) (x : Nat) : (c.wr r x).kpend = c.kpend := by
  simp only [Core.wr]; repeat' split
  all_goals rfl
@[simp] theorem Core.window_wr (c : Core) (r : Reg) (x : Nat) : (c.wr r x).window = c.window := by
  simp only [Core.wr]; repeat' split
  all_goals rfl
@[simp] theorem Core.pend_wr (c : Core) (r : Reg) (x : Nat) : (c.wr r x).pend = c.pend := by
  simp only [Core.wr]; repeat' split
  all_goals rfl
@[simp] theorem Core.queues_wr (c : Core) (r : Reg) (x : Nat) : (c.wr r x).queues = c.queues := by
  simp only [Core.wr]; repeat' split
  all_goals rfl
@[simp] theorem Core.trackers_wr (c : Core) (r : Reg) (x : Nat) : (c.wr r x).trackers = c.trackers := by
  simp only [Core.wr]; repeat' split
  all_goals rfl
@[simp] theorem Core.planes_wr (c : Core) (r : Reg) (x : Nat) : (c.wr r x).planes = c.planes := by
  simp only [Core.wr]; repeat' split
  all_goals rfl
@[simp] theorem Core.board_wr (c : Core) (r : Reg) (x : Nat) : (c.wr r x).board = c.board := by
  simp only [Core.wr]; repeat' split
  all_goals rfl
@[simp] theorem Core.jobs_wr (c : Core) (r : Reg) (x : Nat) : (c.wr r x).jobs = c.jobs := by
  simp only [Core.wr]; repeat' split
  all_goals rfl
@[simp] theorem Core.xops_wr (c : Core) (r : Reg) (x : Nat) : (c.wr r x).xops = c.xops := by
  simp only [Core.wr]; repeat' split
  all_goals rfl
@[simp] theorem Core.ords_wr (c : Core) (r : Reg) (x : Nat) : (c.wr r x).ords = c.ords := by
  simp only [Core.wr]; repeat' split
  all_goals rfl
@[simp] theorem Core.bord_wr (c : Core) (r : Reg) (x : Nat) : (c.wr r x).bord = c.bord := by
  simp only [Core.wr]; repeat' split
  all_goals rfl
@[simp] theorem Core.tags_wr (c : Core) (r : Reg) (x : Nat) : (c.wr r x).tags = c.tags := by
  simp only [Core.wr]; repeat' split
  all_goals rfl
@[simp] theorem Core.dirty_wr (c : Core) (r : Reg) (x : Nat) : (c.wr r x).dirty = c.dirty := by
  simp only [Core.wr]; repeat' split
  all_goals rfl
@[simp] theorem Core.armed_wr (c : Core) (r : Reg) (x : Nat) : (c.wr r x).armed = c.armed := by
  simp only [Core.wr]; repeat' split
  all_goals rfl
@[simp] theorem Core.arrivals_wr (c : Core) (r : Reg) (x : Nat) : (c.wr r x).arrivals = c.arrivals := by
  simp only [Core.wr]; repeat' split
  all_goals rfl
@[simp] theorem Core.imprecise_wr (c : Core) (r : Reg) (x : Nat) : (c.wr r x).imprecise = c.imprecise := by
  simp only [Core.wr]; repeat' split
  all_goals rfl
@[simp] theorem Core.rounds_wr (c : Core) (r : Reg) (x : Nat) : (c.wr r x).rounds = c.rounds := by
  simp only [Core.wr]; repeat' split
  all_goals rfl
@[simp] theorem Core.collRec_wr (c : Core) (r : Reg) (x : Nat) : (c.wr r x).collRec = c.collRec := by
  simp only [Core.wr]; repeat' split
  all_goals rfl
@[simp] theorem Core.vecBusy_wr (c : Core) (r : Reg) (x : Nat) : (c.wr r x).vecBusy = c.vecBusy := by
  simp only [Core.wr]; repeat' split
  all_goals rfl
@[simp] theorem Core.vForm_wr (c : Core) (r : Reg) (x : Nat) : (c.wr r x).vForm = c.vForm := by
  simp only [Core.wr]; repeat' split
  all_goals rfl
@[simp] theorem Core.matBusy_wr (c : Core) (r : Reg) (x : Nat) : (c.wr r x).matBusy = c.matBusy := by
  simp only [Core.wr]; repeat' split
  all_goals rfl
@[simp] theorem Core.ldBusy_wr (c : Core) (r : Reg) (x : Nat) : (c.wr r x).ldBusy = c.ldBusy := by
  simp only [Core.wr]; repeat' split
  all_goals rfl
@[simp] theorem Core.seqs_wr (c : Core) (r : Reg) (x : Nat) : (c.wr r x).seqs = c.seqs := by
  simp only [Core.wr]; repeat' split
  all_goals rfl
@[simp] theorem Core.inGang_wr (c : Core) (r : Reg) (x : Nat) : (c.wr r x).inGang = c.inGang := by
  simp only [Core.wr]; repeat' split
  all_goals rfl
@[simp] theorem Core.split_wr (c : Core) (r : Reg) (x : Nat) : (c.wr r x).split = c.split := by
  simp only [Core.wr]; repeat' split
  all_goals rfl
@[simp] theorem Core.latch_wr (c : Core) (r : Reg) (x : Nat) : (c.wr r x).latch = c.latch := by
  simp only [Core.wr]; repeat' split
  all_goals rfl
@[simp] theorem Core.trapTick_wr (c : Core) (r : Reg) (x : Nat) : (c.wr r x).trapTick = c.trapTick := by
  simp only [Core.wr]; repeat' split
  all_goals rfl
@[simp] theorem Core.atTrap_wr (c : Core) (r : Reg) (x : Nat) : (c.wr r x).atTrap = c.atTrap := by
  simp only [Core.wr]; repeat' split
  all_goals rfl

/-! Raising flags changes KFPX alone, and entering a write the list of pending writes alone. -/

@[simp] theorem Core.mode_raise (c : Core) (x : Flags) : (c.raise x).mode = c.mode := rfl
@[simp] theorem Core.task_raise (c : Core) (x : Flags) : (c.raise x).task = c.task := rfl
@[simp] theorem Core.next_raise (c : Core) (x : Flags) : (c.raise x).next = c.next := rfl
@[simp] theorem Core.pc_raise (c : Core) (x : Flags) : (c.raise x).pc = c.pc := rfl
@[simp] theorem Core.branch_raise (c : Core) (x : Flags) : (c.raise x).branch = c.branch := rfl
@[simp] theorem Core.delay_raise (c : Core) (x : Flags) : (c.raise x).delay = c.delay := rfl
@[simp] theorem Core.s_raise (c : Core) (x : Flags) : (c.raise x).s = c.s := rfl
@[simp] theorem Core.a_raise (c : Core) (x : Flags) : (c.raise x).a = c.a := rfl
@[simp] theorem Core.p_raise (c : Core) (x : Flags) : (c.raise x).p = c.p := rfl
@[simp] theorem Core.v_raise (c : Core) (x : Flags) : (c.raise x).v = c.v := rfl
@[simp] theorem Core.h_raise (c : Core) (x : Flags) : (c.raise x).h = c.h := rfl
@[simp] theorem Core.n_raise (c : Core) (x : Flags) : (c.raise x).n = c.n := rfl
@[simp] theorem Core.loops_raise (c : Core) (x : Flags) : (c.raise x).loops = c.loops := rfl
@[simp] theorem Core.strides_raise (c : Core) (x : Flags) : (c.raise x).strides = c.strides := rfl
@[simp] theorem Core.kstat_raise (c : Core) (x : Flags) : (c.raise x).kstat = c.kstat := rfl
@[simp] theorem Core.ktrap_raise (c : Core) (x : Flags) : (c.raise x).ktrap = c.ktrap := rfl
@[simp] theorem Core.kepc_raise (c : Core) (x : Flags) : (c.raise x).kepc = c.kepc := rfl
@[simp] theorem Core.ktval_raise (c : Core) (x : Flags) : (c.raise x).ktval = c.ktval := rfl
@[simp] theorem Core.kctx_raise (c : Core) (x : Flags) : (c.raise x).kctx = c.kctx := rfl
@[simp] theorem Core.kpwin_raise (c : Core) (x : Flags) : (c.raise x).kpwin = c.kpwin := rfl
@[simp] theorem Core.kbank_raise (c : Core) (x : Flags) : (c.raise x).kbank = c.kbank := rfl
@[simp] theorem Core.kptroot_raise (c : Core) (x : Flags) : (c.raise x).kptroot = c.kptroot := rfl
@[simp] theorem Core.kwid_raise (c : Core) (x : Flags) : (c.raise x).kwid = c.kwid := rfl
@[simp] theorem Core.ktvec_raise (c : Core) (x : Flags) : (c.raise x).ktvec = c.ktvec := rfl
@[simp] theorem Core.kscr_raise (c : Core) (x : Flags) : (c.raise x).kscr = c.kscr := rfl
@[simp] theorem Core.kmjob_raise (c : Core) (x : Flags) : (c.raise x).kmjob = c.kmjob := rfl
@[simp] theorem Core.kpend_raise (c : Core) (x : Flags) : (c.raise x).kpend = c.kpend := rfl
@[simp] theorem Core.window_raise (c : Core) (x : Flags) : (c.raise x).window = c.window := rfl
@[simp] theorem Core.pend_raise (c : Core) (x : Flags) : (c.raise x).pend = c.pend := rfl
@[simp] theorem Core.queues_raise (c : Core) (x : Flags) : (c.raise x).queues = c.queues := rfl
@[simp] theorem Core.trackers_raise (c : Core) (x : Flags) : (c.raise x).trackers = c.trackers := rfl
@[simp] theorem Core.planes_raise (c : Core) (x : Flags) : (c.raise x).planes = c.planes := rfl
@[simp] theorem Core.board_raise (c : Core) (x : Flags) : (c.raise x).board = c.board := rfl
@[simp] theorem Core.jobs_raise (c : Core) (x : Flags) : (c.raise x).jobs = c.jobs := rfl
@[simp] theorem Core.xops_raise (c : Core) (x : Flags) : (c.raise x).xops = c.xops := rfl
@[simp] theorem Core.ords_raise (c : Core) (x : Flags) : (c.raise x).ords = c.ords := rfl
@[simp] theorem Core.bord_raise (c : Core) (x : Flags) : (c.raise x).bord = c.bord := rfl
@[simp] theorem Core.tags_raise (c : Core) (x : Flags) : (c.raise x).tags = c.tags := rfl
@[simp] theorem Core.dirty_raise (c : Core) (x : Flags) : (c.raise x).dirty = c.dirty := rfl
@[simp] theorem Core.armed_raise (c : Core) (x : Flags) : (c.raise x).armed = c.armed := rfl
@[simp] theorem Core.arrivals_raise (c : Core) (x : Flags) : (c.raise x).arrivals = c.arrivals := rfl
@[simp] theorem Core.imprecise_raise (c : Core) (x : Flags) : (c.raise x).imprecise = c.imprecise := rfl
@[simp] theorem Core.rounds_raise (c : Core) (x : Flags) : (c.raise x).rounds = c.rounds := rfl
@[simp] theorem Core.collRec_raise (c : Core) (x : Flags) : (c.raise x).collRec = c.collRec := rfl
@[simp] theorem Core.vecBusy_raise (c : Core) (x : Flags) : (c.raise x).vecBusy = c.vecBusy := rfl
@[simp] theorem Core.vForm_raise (c : Core) (x : Flags) : (c.raise x).vForm = c.vForm := rfl
@[simp] theorem Core.matBusy_raise (c : Core) (x : Flags) : (c.raise x).matBusy = c.matBusy := rfl
@[simp] theorem Core.ldBusy_raise (c : Core) (x : Flags) : (c.raise x).ldBusy = c.ldBusy := rfl
@[simp] theorem Core.seqs_raise (c : Core) (x : Flags) : (c.raise x).seqs = c.seqs := rfl
@[simp] theorem Core.inGang_raise (c : Core) (x : Flags) : (c.raise x).inGang = c.inGang := rfl
@[simp] theorem Core.split_raise (c : Core) (x : Flags) : (c.raise x).split = c.split := rfl
@[simp] theorem Core.latch_raise (c : Core) (x : Flags) : (c.raise x).latch = c.latch := rfl
@[simp] theorem Core.trapTick_raise (c : Core) (x : Flags) : (c.raise x).trapTick = c.trapTick := rfl
@[simp] theorem Core.atTrap_raise (c : Core) (x : Flags) : (c.raise x).atTrap = c.atTrap := rfl

@[simp] theorem Core.mode_issueWrite (c : Core) (t l : Nat) (r : Reg) (v : Nat) (x : Flags) :
    (c.issueWrite t l r v x).mode = c.mode := by
  simp only [Core.issueWrite]; split <;> rfl
@[simp] theorem Core.task_issueWrite (c : Core) (t l : Nat) (r : Reg) (v : Nat) (x : Flags) :
    (c.issueWrite t l r v x).task = c.task := by
  simp only [Core.issueWrite]; split <;> rfl
@[simp] theorem Core.next_issueWrite (c : Core) (t l : Nat) (r : Reg) (v : Nat) (x : Flags) :
    (c.issueWrite t l r v x).next = c.next := by
  simp only [Core.issueWrite]; split <;> rfl
@[simp] theorem Core.pc_issueWrite (c : Core) (t l : Nat) (r : Reg) (v : Nat) (x : Flags) :
    (c.issueWrite t l r v x).pc = c.pc := by
  simp only [Core.issueWrite]; split <;> rfl
@[simp] theorem Core.branch_issueWrite (c : Core) (t l : Nat) (r : Reg) (v : Nat) (x : Flags) :
    (c.issueWrite t l r v x).branch = c.branch := by
  simp only [Core.issueWrite]; split <;> rfl
@[simp] theorem Core.delay_issueWrite (c : Core) (t l : Nat) (r : Reg) (v : Nat) (x : Flags) :
    (c.issueWrite t l r v x).delay = c.delay := by
  simp only [Core.issueWrite]; split <;> rfl
@[simp] theorem Core.s_issueWrite (c : Core) (t l : Nat) (r : Reg) (v : Nat) (x : Flags) :
    (c.issueWrite t l r v x).s = c.s := by
  simp only [Core.issueWrite]; split <;> rfl
@[simp] theorem Core.a_issueWrite (c : Core) (t l : Nat) (r : Reg) (v : Nat) (x : Flags) :
    (c.issueWrite t l r v x).a = c.a := by
  simp only [Core.issueWrite]; split <;> rfl
@[simp] theorem Core.p_issueWrite (c : Core) (t l : Nat) (r : Reg) (v : Nat) (x : Flags) :
    (c.issueWrite t l r v x).p = c.p := by
  simp only [Core.issueWrite]; split <;> rfl
@[simp] theorem Core.v_issueWrite (c : Core) (t l : Nat) (r : Reg) (v : Nat) (x : Flags) :
    (c.issueWrite t l r v x).v = c.v := by
  simp only [Core.issueWrite]; split <;> rfl
@[simp] theorem Core.h_issueWrite (c : Core) (t l : Nat) (r : Reg) (v : Nat) (x : Flags) :
    (c.issueWrite t l r v x).h = c.h := by
  simp only [Core.issueWrite]; split <;> rfl
@[simp] theorem Core.n_issueWrite (c : Core) (t l : Nat) (r : Reg) (v : Nat) (x : Flags) :
    (c.issueWrite t l r v x).n = c.n := by
  simp only [Core.issueWrite]; split <;> rfl
@[simp] theorem Core.loops_issueWrite (c : Core) (t l : Nat) (r : Reg) (v : Nat) (x : Flags) :
    (c.issueWrite t l r v x).loops = c.loops := by
  simp only [Core.issueWrite]; split <;> rfl
@[simp] theorem Core.strides_issueWrite (c : Core) (t l : Nat) (r : Reg) (v : Nat) (x : Flags) :
    (c.issueWrite t l r v x).strides = c.strides := by
  simp only [Core.issueWrite]; split <;> rfl
@[simp] theorem Core.kstat_issueWrite (c : Core) (t l : Nat) (r : Reg) (v : Nat) (x : Flags) :
    (c.issueWrite t l r v x).kstat = c.kstat := by
  simp only [Core.issueWrite]; split <;> rfl
@[simp] theorem Core.ktrap_issueWrite (c : Core) (t l : Nat) (r : Reg) (v : Nat) (x : Flags) :
    (c.issueWrite t l r v x).ktrap = c.ktrap := by
  simp only [Core.issueWrite]; split <;> rfl
@[simp] theorem Core.kepc_issueWrite (c : Core) (t l : Nat) (r : Reg) (v : Nat) (x : Flags) :
    (c.issueWrite t l r v x).kepc = c.kepc := by
  simp only [Core.issueWrite]; split <;> rfl
@[simp] theorem Core.ktval_issueWrite (c : Core) (t l : Nat) (r : Reg) (v : Nat) (x : Flags) :
    (c.issueWrite t l r v x).ktval = c.ktval := by
  simp only [Core.issueWrite]; split <;> rfl
@[simp] theorem Core.kctx_issueWrite (c : Core) (t l : Nat) (r : Reg) (v : Nat) (x : Flags) :
    (c.issueWrite t l r v x).kctx = c.kctx := by
  simp only [Core.issueWrite]; split <;> rfl
@[simp] theorem Core.kpwin_issueWrite (c : Core) (t l : Nat) (r : Reg) (v : Nat) (x : Flags) :
    (c.issueWrite t l r v x).kpwin = c.kpwin := by
  simp only [Core.issueWrite]; split <;> rfl
@[simp] theorem Core.kbank_issueWrite (c : Core) (t l : Nat) (r : Reg) (v : Nat) (x : Flags) :
    (c.issueWrite t l r v x).kbank = c.kbank := by
  simp only [Core.issueWrite]; split <;> rfl
@[simp] theorem Core.kptroot_issueWrite (c : Core) (t l : Nat) (r : Reg) (v : Nat) (x : Flags) :
    (c.issueWrite t l r v x).kptroot = c.kptroot := by
  simp only [Core.issueWrite]; split <;> rfl
@[simp] theorem Core.kwid_issueWrite (c : Core) (t l : Nat) (r : Reg) (v : Nat) (x : Flags) :
    (c.issueWrite t l r v x).kwid = c.kwid := by
  simp only [Core.issueWrite]; split <;> rfl
@[simp] theorem Core.kfpx_issueWrite (c : Core) (t l : Nat) (r : Reg) (v : Nat) (x : Flags) :
    (c.issueWrite t l r v x).kfpx = c.kfpx := by
  simp only [Core.issueWrite]; split <;> rfl
@[simp] theorem Core.ktvec_issueWrite (c : Core) (t l : Nat) (r : Reg) (v : Nat) (x : Flags) :
    (c.issueWrite t l r v x).ktvec = c.ktvec := by
  simp only [Core.issueWrite]; split <;> rfl
@[simp] theorem Core.kscr_issueWrite (c : Core) (t l : Nat) (r : Reg) (v : Nat) (x : Flags) :
    (c.issueWrite t l r v x).kscr = c.kscr := by
  simp only [Core.issueWrite]; split <;> rfl
@[simp] theorem Core.kmjob_issueWrite (c : Core) (t l : Nat) (r : Reg) (v : Nat) (x : Flags) :
    (c.issueWrite t l r v x).kmjob = c.kmjob := by
  simp only [Core.issueWrite]; split <;> rfl
@[simp] theorem Core.kpend_issueWrite (c : Core) (t l : Nat) (r : Reg) (v : Nat) (x : Flags) :
    (c.issueWrite t l r v x).kpend = c.kpend := by
  simp only [Core.issueWrite]; split <;> rfl
@[simp] theorem Core.window_issueWrite (c : Core) (t l : Nat) (r : Reg) (v : Nat) (x : Flags) :
    (c.issueWrite t l r v x).window = c.window := by
  simp only [Core.issueWrite]; split <;> rfl
@[simp] theorem Core.queues_issueWrite (c : Core) (t l : Nat) (r : Reg) (v : Nat) (x : Flags) :
    (c.issueWrite t l r v x).queues = c.queues := by
  simp only [Core.issueWrite]; split <;> rfl
@[simp] theorem Core.trackers_issueWrite (c : Core) (t l : Nat) (r : Reg) (v : Nat) (x : Flags) :
    (c.issueWrite t l r v x).trackers = c.trackers := by
  simp only [Core.issueWrite]; split <;> rfl
@[simp] theorem Core.planes_issueWrite (c : Core) (t l : Nat) (r : Reg) (v : Nat) (x : Flags) :
    (c.issueWrite t l r v x).planes = c.planes := by
  simp only [Core.issueWrite]; split <;> rfl
@[simp] theorem Core.board_issueWrite (c : Core) (t l : Nat) (r : Reg) (v : Nat) (x : Flags) :
    (c.issueWrite t l r v x).board = c.board := by
  simp only [Core.issueWrite]; split <;> rfl
@[simp] theorem Core.jobs_issueWrite (c : Core) (t l : Nat) (r : Reg) (v : Nat) (x : Flags) :
    (c.issueWrite t l r v x).jobs = c.jobs := by
  simp only [Core.issueWrite]; split <;> rfl
@[simp] theorem Core.xops_issueWrite (c : Core) (t l : Nat) (r : Reg) (v : Nat) (x : Flags) :
    (c.issueWrite t l r v x).xops = c.xops := by
  simp only [Core.issueWrite]; split <;> rfl
@[simp] theorem Core.ords_issueWrite (c : Core) (t l : Nat) (r : Reg) (v : Nat) (x : Flags) :
    (c.issueWrite t l r v x).ords = c.ords := by
  simp only [Core.issueWrite]; split <;> rfl
@[simp] theorem Core.bord_issueWrite (c : Core) (t l : Nat) (r : Reg) (v : Nat) (x : Flags) :
    (c.issueWrite t l r v x).bord = c.bord := by
  simp only [Core.issueWrite]; split <;> rfl
@[simp] theorem Core.tags_issueWrite (c : Core) (t l : Nat) (r : Reg) (v : Nat) (x : Flags) :
    (c.issueWrite t l r v x).tags = c.tags := by
  simp only [Core.issueWrite]; split <;> rfl
@[simp] theorem Core.dirty_issueWrite (c : Core) (t l : Nat) (r : Reg) (v : Nat) (x : Flags) :
    (c.issueWrite t l r v x).dirty = c.dirty := by
  simp only [Core.issueWrite]; split <;> rfl
@[simp] theorem Core.armed_issueWrite (c : Core) (t l : Nat) (r : Reg) (v : Nat) (x : Flags) :
    (c.issueWrite t l r v x).armed = c.armed := by
  simp only [Core.issueWrite]; split <;> rfl
@[simp] theorem Core.arrivals_issueWrite (c : Core) (t l : Nat) (r : Reg) (v : Nat) (x : Flags) :
    (c.issueWrite t l r v x).arrivals = c.arrivals := by
  simp only [Core.issueWrite]; split <;> rfl
@[simp] theorem Core.imprecise_issueWrite (c : Core) (t l : Nat) (r : Reg) (v : Nat) (x : Flags) :
    (c.issueWrite t l r v x).imprecise = c.imprecise := by
  simp only [Core.issueWrite]; split <;> rfl
@[simp] theorem Core.rounds_issueWrite (c : Core) (t l : Nat) (r : Reg) (v : Nat) (x : Flags) :
    (c.issueWrite t l r v x).rounds = c.rounds := by
  simp only [Core.issueWrite]; split <;> rfl
@[simp] theorem Core.collRec_issueWrite (c : Core) (t l : Nat) (r : Reg) (v : Nat) (x : Flags) :
    (c.issueWrite t l r v x).collRec = c.collRec := by
  simp only [Core.issueWrite]; split <;> rfl
@[simp] theorem Core.vecBusy_issueWrite (c : Core) (t l : Nat) (r : Reg) (v : Nat) (x : Flags) :
    (c.issueWrite t l r v x).vecBusy = c.vecBusy := by
  simp only [Core.issueWrite]; split <;> rfl
@[simp] theorem Core.vForm_issueWrite (c : Core) (t l : Nat) (r : Reg) (v : Nat) (x : Flags) :
    (c.issueWrite t l r v x).vForm = c.vForm := by
  simp only [Core.issueWrite]; split <;> rfl
@[simp] theorem Core.matBusy_issueWrite (c : Core) (t l : Nat) (r : Reg) (v : Nat) (x : Flags) :
    (c.issueWrite t l r v x).matBusy = c.matBusy := by
  simp only [Core.issueWrite]; split <;> rfl
@[simp] theorem Core.ldBusy_issueWrite (c : Core) (t l : Nat) (r : Reg) (v : Nat) (x : Flags) :
    (c.issueWrite t l r v x).ldBusy = c.ldBusy := by
  simp only [Core.issueWrite]; split <;> rfl
@[simp] theorem Core.seqs_issueWrite (c : Core) (t l : Nat) (r : Reg) (v : Nat) (x : Flags) :
    (c.issueWrite t l r v x).seqs = c.seqs := by
  simp only [Core.issueWrite]; split <;> rfl
@[simp] theorem Core.inGang_issueWrite (c : Core) (t l : Nat) (r : Reg) (v : Nat) (x : Flags) :
    (c.issueWrite t l r v x).inGang = c.inGang := by
  simp only [Core.issueWrite]; split <;> rfl
@[simp] theorem Core.split_issueWrite (c : Core) (t l : Nat) (r : Reg) (v : Nat) (x : Flags) :
    (c.issueWrite t l r v x).split = c.split := by
  simp only [Core.issueWrite]; split <;> rfl
@[simp] theorem Core.latch_issueWrite (c : Core) (t l : Nat) (r : Reg) (v : Nat) (x : Flags) :
    (c.issueWrite t l r v x).latch = c.latch := by
  simp only [Core.issueWrite]; split <;> rfl
@[simp] theorem Core.trapTick_issueWrite (c : Core) (t l : Nat) (r : Reg) (v : Nat) (x : Flags) :
    (c.issueWrite t l r v x).trapTick = c.trapTick := by
  simp only [Core.issueWrite]; split <;> rfl
@[simp] theorem Core.atTrap_issueWrite (c : Core) (t l : Nat) (r : Reg) (v : Nat) (x : Flags) :
    (c.issueWrite t l r v x).atTrap = c.atTrap := by
  simp only [Core.issueWrite]; split <;> rfl

end Sys2Proof.Machine
end

