-- ==== Sys2Proof/Laws/Issue.lean ====
section
/-!
SUPPORT. Everything that running a slot operation can come to: a trap or a hold at issue, nothing when its guard is clear, or its
body; and what a landing write leaves in the registers.
-/

namespace Sys2Proof.Machine

/-- A slot operation that nothing stops or holds runs its body. -/
theorem runChecked_clear (i : Sys2Proof.Instr) (s : State) (body : Core → Eff) (h : s.clear i = true) :
    runChecked i s body = (body s.me).toOutcome s := by
  simp only [State.clear, Bool.and_eq_true, Option.isNone_iff_eq_none] at h
  simp only [runChecked, h.1.1, h.1.2, h.2]
  rfl

/-- A slot operation that takes effect runs its body. -/
theorem runOp_opens (i : Sys2Proof.Instr) (s : State) (body : Core → Eff) (h : s.opens i = true) :
    runOp i s body = (body s.me).toOutcome s := by
  simp only [State.opens, Bool.and_eq_true] at h
  rw [runOp, runChecked_clear i s _ h.1, if_pos h.2]

/-- A slot operation whose guard is clear changes nothing (R70). -/
theorem runOp_guarded (i : Sys2Proof.Instr) (s : State) (body : Core → Eff) (h : s.clear i = true) (hg : s.me.guardOn i = false) :
    runOp i s body = .next s := by
  rw [runOp, runChecked_clear i s _ h]
  simp only [hg]
  rfl

/-- A slot operation raises a trap, is held, or runs its body. -/
theorem runChecked_cases (i : Sys2Proof.Instr) (s : State) (body : Core → Eff) :
    (∃ t, runChecked i s body = .next (s.takeTrap t)) ∨
    runChecked i s body = .next (s.updCore s.cur fun c => { c with latch := .held }) ∨
    (s.clear i = true ∧ runChecked i s body = (body s.me).toOutcome s) := by
  by_cases h : s.clear i = true
  · exact .inr (.inr ⟨h, runChecked_clear i s body h⟩)
  · simp only [runChecked]
    cases h1 : (s.issueTrap s.me i <|> s.valueTrap s.me i) with
    | some t => exact .inl ⟨t, rfl⟩
    | none =>
      have h3 : s.issueTrap s.me i = none ∧ s.valueTrap s.me i = none := by
        cases h4 : s.issueTrap s.me i with
        | some t => rw [h4] at h1; cases h1
        | none => rw [h4] at h1; exact ⟨rfl, h1⟩
      cases h2 : s.me.interlock s.clk (Instr.uses i) with
      | none => exact absurd (by simp [State.clear, h3.1, h3.2, h2]) h
      | some e =>
        have : (∃ t, e = .trap t) ∨ e = .stall := by
          simp only [Core.interlock] at h2
          split at h2
          · exact .inl ⟨_, by simpa using h2.symm⟩
          · split at h2
            · cases h2
            · exact .inr (by simpa using h2.symm)
        rcases this with ⟨t, rfl⟩ | rfl
        · exact .inl ⟨t, rfl⟩
        · exact .inr (.inl rfl)

/-- The value of a register that has just been written. -/
theorem Core.readReg_wr (c : Core) (r : Reg) (v : Nat) (h : r.num < r.file.size) : (c.wr r v).readReg r = regHolds r v := by
  obtain ⟨f, n⟩ := r
  cases f <;> simp only [RegFile.size] at h <;> simp only [Core.readReg, Core.wr, regHolds, Core.rs, Core.ra, Core.rp, Core.rv,
    Core.rh, Core.rn]
  · split
    · rfl
    · simp [h]
  · simp [h]
  · split
    · rfl
    · simp [h]
  · simp [h]
  · simp [h]
  · simp [h]

end Sys2Proof.Machine
end

