-- ==== Sys2Proof/Laws/Memory.lean ====
section
/-!
SUPPORT. The memory's laws: a byte that is written reads back, every other byte reads as before, and every memory operation keeps
the canonical form.
-/

namespace Sys2Proof.Machine

/-- The canonical form, as a property of the whole list. -/
theorem Memory.wf_iff (m : List Host.Cell) :
    Memory.wf m = true ↔ m.Pairwise (fun x y => x.1 < y.1) ∧ ∀ c ∈ m, c.2 ≠ 0 := by
  induction m with
  | nil => simp [Memory.wf]
  | cons x r ih =>
    cases r with
    | nil => obtain ⟨a, b⟩ := x; simp [Memory.wf]
    | cons y r =>
      obtain ⟨a, b⟩ := x; obtain ⟨a', b'⟩ := y
      simp only [Memory.wf, Bool.and_eq_true, decide_eq_true_eq, ih, List.pairwise_cons, List.mem_cons, forall_eq_or_imp]
      constructor
      · rintro ⟨⟨hb, hl⟩, ⟨h1, h2⟩, h3⟩
        exact ⟨⟨⟨hl, fun c hc => Nat.lt_trans hl (h1 c hc)⟩, h1, h2⟩, hb, h3⟩
      · rintro ⟨⟨⟨hl, _⟩, h1, h2⟩, hb, h3⟩
        exact ⟨⟨hb, hl⟩, ⟨h1, h2⟩, h3⟩

/-- The cells after a write: cells that stood there, or the one written. -/
theorem Memory.mem_write {m : List Host.Cell} {x : Nat} {v : Byte} {c : Host.Cell} (h : c ∈ Memory.write m x v) :
    c ∈ m ∨ (c = (x, v) ∧ v ≠ 0) := by
  induction m with
  | nil => simp only [Memory.write] at h; split at h <;> simp_all
  | cons y r ih =>
    obtain ⟨a, b⟩ := y
    simp only [Memory.write] at h
    split at h
    · split at h <;> simp_all; rcases h with h | h <;> simp_all
    · split at h
      · split at h
        · exact .inl (List.mem_cons_of_mem _ h)
        · rcases List.mem_cons.mp h with h | h
          · subst h; simp_all
          · exact .inl (List.mem_cons_of_mem _ h)
      · rcases List.mem_cons.mp h with h | h
        · exact .inl (h ▸ List.mem_cons_self)
        · rcases ih h with h | h
          · exact .inl (List.mem_cons_of_mem _ h)
          · exact .inr h

/-- A write keeps the canonical form. -/
theorem Memory.write_wf {m : List Host.Cell} (x : Nat) (v : Byte) (h : Memory.wf m = true) :
    Memory.wf (Memory.write m x v) = true := by
  rw [Memory.wf_iff] at h ⊢
  obtain ⟨hp, hn⟩ := h
  refine ⟨?_, fun c hc => ?_⟩
  · clear hn
    induction m with
    | nil => simp only [Memory.write]; split <;> simp
    | cons y r ih =>
      obtain ⟨a, b⟩ := y
      have hp' := hp
      rw [List.pairwise_cons] at hp
      simp only [Memory.write]
      split
      · split
        · exact hp'
        · rename_i h1 _
          refine List.pairwise_cons.mpr ⟨fun c hc => ?_, hp'⟩
          rcases List.mem_cons.mp hc with rfl | hc
          · exact h1
          · exact Nat.lt_trans h1 (hp.1 c hc)
      · split
        · split
          · exact hp.2
          · exact List.pairwise_cons.mpr ⟨fun c hc => hp.1 c hc, hp.2⟩
        · refine List.pairwise_cons.mpr ⟨fun c hc => ?_, ih hp.2⟩
          rcases Memory.mem_write hc with hc | ⟨rfl, _⟩
          · exact hp.1 c hc
          · simp only; omega
  · rcases Memory.mem_write hc with hc | ⟨rfl, h0⟩
    · exact hn c hc
    · exact h0

/-- A cleared range keeps the canonical form. -/
theorem Memory.clear_wf {m : List Host.Cell} (lo len : Nat) (h : Memory.wf m = true) :
    Memory.wf (Memory.clear m lo len) = true := by
  rw [Memory.wf_iff] at h ⊢
  exact ⟨h.1.filter _, fun c hc => h.2 c (List.mem_of_mem_filter hc)⟩

/-- Below every listed address, memory reads as zero. -/
theorem Memory.read_below {m : List Host.Cell} {x : Nat} (h : ∀ c ∈ m, x < c.1) : Memory.read m x = 0 := by
  cases m with
  | nil => rfl
  | cons y r =>
    have := h y List.mem_cons_self
    obtain ⟨a, b⟩ := y
    simp only at this
    simp only [Memory.read]; rw [if_neg (by omega), if_pos this]

/-- A byte that is written reads back. -/
theorem Memory.read_write_same {m : List Host.Cell} (x : Nat) (v : Byte) (h : Memory.wf m = true) :
    Memory.read (Memory.write m x v) x = v := by
  have hp := (Memory.wf_iff m).mp h |>.1
  clear h
  induction m with
  | nil => simp only [Memory.write]; split <;> simp_all [Memory.read]
  | cons y r ih =>
    obtain ⟨a, b⟩ := y
    rw [List.pairwise_cons] at hp
    simp only [Memory.write]
    split
    · rename_i h1
      split
      · rename_i h2; subst h2; simp only [Memory.read]; rw [if_neg (by omega), if_pos h1]
      · simp [Memory.read]
    · split
      · rename_i h2; subst h2
        split
        · rename_i h3; subst h3; exact Memory.read_below hp.1
        · simp [Memory.read]
      · simp only [Memory.read]; rw [if_neg (by omega), if_neg (by omega)]; exact ih hp.2

/-- A write leaves every other byte. -/
theorem Memory.read_write_other {m : List Host.Cell} {x y : Nat} (v : Byte) (h : Memory.wf m = true) (hne : y ≠ x) :
    Memory.read (Memory.write m x v) y = Memory.read m y := by
  have hp := (Memory.wf_iff m).mp h |>.1
  clear h
  induction m with
  | nil => simp only [Memory.write]; split
           · rfl
           · simp only [Memory.read]; rw [if_neg (by omega)]; split <;> rfl
  | cons z r ih =>
    obtain ⟨a, b⟩ := z
    rw [List.pairwise_cons] at hp
    simp only [Memory.write]
    split
    · split
      · rfl
      · simp only [Memory.read]
        rw [if_neg (by omega)]
        split
        · rename_i h1 h2; rw [if_neg (by omega), if_pos (by omega)]
        · rfl
    · split
      · rename_i h2; subst h2
        split
        · simp only [Memory.read]; rw [if_neg (by omega)]
          split
          · rename_i h3; exact Memory.read_below fun c hc => Nat.lt_trans h3 (hp.1 c hc)
          · rfl
        · have : ¬ x = y := fun e => hne e.symm
          simp only [Memory.read, if_neg this]
      · simp only [Memory.read]
        split
        · rfl
        · split
          · rfl
          · exact ih hp.2

/-- What a fold of memory changes keeps, when each change keeps it. -/
theorem Memory.foldl_wf {α : Type} (f : List Host.Cell → α → List Host.Cell)
    (hf : ∀ m a, Memory.wf m = true → Memory.wf (f m a) = true) (l : List α) {m : List Host.Cell} (h : Memory.wf m = true) :
    Memory.wf (l.foldl f m) = true := by
  induction l generalizing m with
  | nil => exact h
  | cons a r ih => exact ih (hf m a h)

/-- Storing poison keeps the canonical form. -/
theorem poisonWord_wf {m : List Host.Cell} (key : Nat) (h : Memory.wf m = true) : Memory.wf (poisonWord m key) = true :=
  Memory.write_wf _ _ (Memory.foldl_wf _ (fun _ _ h => Memory.write_wf _ _ h) _ h)

/-- Storing a word keeps the canonical form. -/
theorem storeWord_wf {m : List Host.Cell} (key w : Nat) (h : Memory.wf m = true) : Memory.wf (storeWord m key w) = true :=
  Memory.write_wf _ _ (Memory.foldl_wf _ (fun _ _ h => Memory.write_wf _ _ h) _ h)

/-- Writing bytes into one word keeps the canonical form. -/
theorem writeInWord_wf {m : List Host.Cell} (key : Nat) (bs : Payload) (h : Memory.wf m = true) :
    Memory.wf (writeInWord m key bs).1 = true := by
  simp only [writeInWord]
  split
  · exact h
  · split
    · exact poisonWord_wf _ h
    · split
      · exact storeWord_wf _ _ h
      · split
        · exact poisonWord_wf _ h
        · exact storeWord_wf _ _ h

/-- Writing a run of bytes keeps the canonical form, at each of its words. -/
theorem writeRun_go_wf (fuel : Nat) {m : List Host.Cell} (key : Nat) (bs : Payload) (f : Bool) (h : Memory.wf m = true) :
    Memory.wf (writeRun.go fuel m key bs f).1 = true := by
  induction fuel generalizing m key bs f with
  | zero => exact h
  | succ n ih =>
    simp only [writeRun.go]
    split
    · exact h
    · exact ih _ _ _ (writeInWord_wf _ _ h)

/-- Writing a run of bytes keeps the canonical form. -/
theorem writeRun_wf {m : List Host.Cell} (key : Nat) (bs : Payload) (h : Memory.wf m = true) :
    Memory.wf (writeRun m key bs).1 = true := writeRun_go_wf _ _ _ _ h

/-- Rewriting uncorrectable words keeps the canonical form. -/
theorem scrubRun_wf {m : List Host.Cell} (key len : Nat) (h : Memory.wf m = true) :
    Memory.wf (scrubRun m key len).1 = true := by
  simp only [scrubRun]
  generalize List.range _ = l
  suffices H : ∀ (acc : List Host.Cell × Nat), Memory.wf acc.1 = true → Memory.wf (l.foldl (fun acc i =>
    match syndrome (synOf acc.1 (key + 8 * i)) with
    | .uncorrectable => (poisonWord acc.1 (key + 8 * i), acc.2)
    | .corrected _ => (acc.1, acc.2 + 1)
    | _ => acc) acc).1 = true from H (m, 0) h
  induction l with
  | nil => exact fun acc h => h
  | cons a r ih =>
    intro acc h
    refine ih _ ?_
    beta_reduce
    split
    · exact poisonWord_wf _ h
    · exact h
    · exact h

/-- A byte of a good word reads as it is stored. -/
theorem readByte?_good {m : List Host.Cell} {key : Nat} (h : synOf m key = 0) : readByte? m key = some (Memory.read m key) := by
  have hs : syndrome (synOf m key) = .good := by simp [h, syndrome]
  have hk : key = key / 8 * 8 + key % 8 := by omega
  have hr : key % 8 < 8 := Nat.mod_lt _ (by decide)
  simp only [readByte?, readWord?, hs, Option.map_some, Option.some.injEq]
  apply BitVec.eq_of_toNat_eq
  have hb : ∀ i, (Memory.read m (key / 8 * 8 + i)).toNat < 256 := fun i => (Memory.read m (key / 8 * 8 + i)).isLt
  have h0 := hb 0; have h1 := hb 1; have h2 := hb 2; have h3 := hb 3
  have h4 := hb 4; have h5 := hb 5; have h6 := hb 6; have h7 := hb 7
  have e : (Memory.read m key).toNat = (Memory.read m (key / 8 * 8 + key % 8)).toNat := by rw [← hk]
  rw [e]
  have hl : List.range 8 = [0, 1, 2, 3, 4, 5, 6, 7] := by decide
  simp only [rawWord, hl, List.foldr_cons, List.foldr_nil, BitVec.toNat_ofNat, Nat.shiftRight_eq_div_pow]
  generalize key % 8 = k at hr
  have hc : k = 0 ∨ k = 1 ∨ k = 2 ∨ k = 3 ∨ k = 4 ∨ k = 5 ∨ k = 6 ∨ k = 7 := by omega
  rcases hc with rfl | rfl | rfl | rfl | rfl | rfl | rfl | rfl <;> norm_num <;> omega

/-- A run of bytes of good words reads as it is stored. -/
theorem readBytes_good {m : List Host.Cell} {key len : Nat} (h : ∀ i, i < len → synOf m (key + i) = 0) :
    readBytes m key len = (List.range len).map fun i => some (Memory.read m (key + i)) := by
  unfold readBytes
  apply List.map_congr_left
  intro i hi
  exact readByte?_good (h i (List.mem_range.1 hi))

end Sys2Proof.Machine
end

