-- ==== Sys2Proof/Laws/PerInstr.lean ====
section
/-!
SUPPORT. For every constructor: in each slot whose map holds the operation, its word and lent field parse back to it (R68, R71 to
R80). Events and host commands have no word.
-/

set_option linter.unusedSimpArgs false

namespace Sys2Proof.Laws.Encodes

/-- The word of an operation parses back to it in every slot whose map holds it. -/
def Statement (i : Instr) : Prop :=
  ∀ sl ∈ i.slots, ∀ e, encodeWord i = some e → parseSlot sl e.1 (some e.2) = .ok i

theorem nop : Statement .nop := by
  intro sl _ e he; cases he; rfl

theorem add (d a b : BitVec 7) (p : BitVec 3) : Statement (.add d a b p) := by
  intro sl hs e he
  cases he
  rcases mem_pair hs with rfl | rfl <;> rw [parse_reg _ _ _ _ _ _ _ (by decide) (by decide)] <;> rfl

theorem isub (d a b : BitVec 7) (p : BitVec 3) : Statement (.isub d a b p) := by
  intro sl hs e he
  cases he
  rcases mem_pair hs with rfl | rfl <;> rw [parse_reg _ _ _ _ _ _ _ (by decide) (by decide)] <;> rfl

theorem and (d a b : BitVec 7) (p : BitVec 3) : Statement (.and d a b p) := by
  intro sl hs e he
  cases he
  rcases mem_pair hs with rfl | rfl <;> rw [parse_reg _ _ _ _ _ _ _ (by decide) (by decide)] <;> rfl

theorem or (d a b : BitVec 7) (p : BitVec 3) : Statement (.or d a b p) := by
  intro sl hs e he
  cases he
  rcases mem_pair hs with rfl | rfl <;> rw [parse_reg _ _ _ _ _ _ _ (by decide) (by decide)] <;> rfl

theorem xor (d a b : BitVec 7) (p : BitVec 3) : Statement (.xor d a b p) := by
  intro sl hs e he
  cases he
  rcases mem_pair hs with rfl | rfl <;> rw [parse_reg _ _ _ _ _ _ _ (by decide) (by decide)] <;> rfl

theorem andn (d a b : BitVec 7) (p : BitVec 3) : Statement (.andn d a b p) := by
  intro sl hs e he
  cases he
  rcases mem_pair hs with rfl | rfl <;> rw [parse_reg _ _ _ _ _ _ _ (by decide) (by decide)] <;> rfl

theorem shl (d a b : BitVec 7) (p : BitVec 3) : Statement (.shl d a b p) := by
  intro sl hs e he
  cases he
  rcases mem_pair hs with rfl | rfl <;> rw [parse_reg _ _ _ _ _ _ _ (by decide) (by decide)] <;> rfl

theorem shr (d a b : BitVec 7) (p : BitVec 3) : Statement (.shr d a b p) := by
  intro sl hs e he
  cases he
  rcases mem_pair hs with rfl | rfl <;> rw [parse_reg _ _ _ _ _ _ _ (by decide) (by decide)] <;> rfl

theorem sar (d a b : BitVec 7) (p : BitVec 3) : Statement (.sar d a b p) := by
  intro sl hs e he
  cases he
  rcases mem_pair hs with rfl | rfl <;> rw [parse_reg _ _ _ _ _ _ _ (by decide) (by decide)] <;> rfl

theorem min (d a b : BitVec 7) (p : BitVec 3) : Statement (.min d a b p) := by
  intro sl hs e he
  cases he
  rcases mem_pair hs with rfl | rfl <;> rw [parse_reg _ _ _ _ _ _ _ (by decide) (by decide)] <;> rfl

theorem max (d a b : BitVec 7) (p : BitVec 3) : Statement (.max d a b p) := by
  intro sl hs e he
  cases he
  rcases mem_pair hs with rfl | rfl <;> rw [parse_reg _ _ _ _ _ _ _ (by decide) (by decide)] <;> rfl

theorem minu (d a b : BitVec 7) (p : BitVec 3) : Statement (.minu d a b p) := by
  intro sl hs e he
  cases he
  rcases mem_pair hs with rfl | rfl <;> rw [parse_reg _ _ _ _ _ _ _ (by decide) (by decide)] <;> rfl

theorem maxu (d a b : BitVec 7) (p : BitVec 3) : Statement (.maxu d a b p) := by
  intro sl hs e he
  cases he
  rcases mem_pair hs with rfl | rfl <;> rw [parse_reg _ _ _ _ _ _ _ (by decide) (by decide)] <;> rfl

theorem bcntPop (d a : BitVec 7) (p : BitVec 3) : Statement (.bcntPop d a p) := by
  intro sl hs e he
  cases he
  obtain rfl := List.mem_singleton.mp hs
  rw [parse_reg _ _ _ _ _ _ _ (by decide) (by decide)]
  rfl

theorem bcntLz (d a : BitVec 7) (p : BitVec 3) : Statement (.bcntLz d a p) := by
  intro sl hs e he
  cases he
  obtain rfl := List.mem_singleton.mp hs
  rw [parse_reg _ _ _ _ _ _ _ (by decide) (by decide)]
  rfl

theorem bcntTz (d a : BitVec 7) (p : BitVec 3) : Statement (.bcntTz d a p) := by
  intro sl hs e he
  cases he
  obtain rfl := List.mem_singleton.mp hs
  rw [parse_reg _ _ _ _ _ _ _ (by decide) (by decide)]
  rfl

theorem mul (d a b : BitVec 7) (p : BitVec 3) : Statement (.mul d a b p) := by
  intro sl hs e he
  cases he
  obtain rfl := List.mem_singleton.mp hs
  rw [parse_reg _ _ _ _ _ _ _ (by decide) (by decide)]
  rfl

theorem mulh (d a b : BitVec 7) (p : BitVec 3) : Statement (.mulh d a b p) := by
  intro sl hs e he
  cases he
  obtain rfl := List.mem_singleton.mp hs
  rw [parse_reg _ _ _ _ _ _ _ (by decide) (by decide)]
  rfl

theorem mulhu (d a b : BitVec 7) (p : BitVec 3) : Statement (.mulhu d a b p) := by
  intro sl hs e he
  cases he
  obtain rfl := List.mem_singleton.mp hs
  rw [parse_reg _ _ _ _ _ _ _ (by decide) (by decide)]
  rfl

theorem div (d a b : BitVec 7) (p : BitVec 3) : Statement (.div d a b p) := by
  intro sl hs e he
  cases he
  obtain rfl := List.mem_singleton.mp hs
  rw [parse_reg _ _ _ _ _ _ _ (by decide) (by decide)]
  rfl

theorem divu (d a b : BitVec 7) (p : BitVec 3) : Statement (.divu d a b p) := by
  intro sl hs e he
  cases he
  obtain rfl := List.mem_singleton.mp hs
  rw [parse_reg _ _ _ _ _ _ _ (by decide) (by decide)]
  rfl

theorem rem (d a b : BitVec 7) (p : BitVec 3) : Statement (.rem d a b p) := by
  intro sl hs e he
  cases he
  obtain rfl := List.mem_singleton.mp hs
  rw [parse_reg _ _ _ _ _ _ _ (by decide) (by decide)]
  rfl

theorem remu (d a b : BitVec 7) (p : BitVec 3) : Statement (.remu d a b p) := by
  intro sl hs e he
  cases he
  obtain rfl := List.mem_singleton.mp hs
  rw [parse_reg _ _ _ _ _ _ _ (by decide) (by decide)]
  rfl

theorem addi (d a : BitVec 5) (p : BitVec 3) (imm : BitVec 19) : Statement (.addi d a p imm) := by
  intro sl hs e he
  cases he
  rcases mem_pair hs with rfl | rfl <;> rw [parse_imm _ _ _ _ _ _ (by decide) (by decide)] <;> rfl

theorem andi (d a : BitVec 5) (p : BitVec 3) (imm : BitVec 19) : Statement (.andi d a p imm) := by
  intro sl hs e he
  cases he
  rcases mem_pair hs with rfl | rfl <;> rw [parse_imm _ _ _ _ _ _ (by decide) (by decide)] <;> rfl

theorem ori (d a : BitVec 5) (p : BitVec 3) (imm : BitVec 19) : Statement (.ori d a p imm) := by
  intro sl hs e he
  cases he
  rcases mem_pair hs with rfl | rfl <;> rw [parse_imm _ _ _ _ _ _ (by decide) (by decide)] <;> rfl

theorem xori (d a : BitVec 5) (p : BitVec 3) (imm : BitVec 19) : Statement (.xori d a p imm) := by
  intro sl hs e he
  cases he
  rcases mem_pair hs with rfl | rfl <;> rw [parse_imm _ _ _ _ _ _ (by decide) (by decide)] <;> rfl

theorem shli (d a : BitVec 5) (p : BitVec 3) (imm : BitVec 12) : Statement (.shli d a p imm) := by
  intro sl hs e he
  cases he
  obtain rfl := List.mem_singleton.mp hs
  rw [parse_imm _ _ _ _ _ _ (by decide) (by decide)]
  simp (disch := decide) only [decCImm, resv, BitVec.extractLsb'_append_eq_of_le, BitVec.extractLsb'_append_eq_of_add_le,
    BitVec.extractLsb'_eq_self, Nat.reduceSub]
  rfl

theorem shri (d a : BitVec 5) (p : BitVec 3) (imm : BitVec 12) : Statement (.shri d a p imm) := by
  intro sl hs e he
  cases he
  obtain rfl := List.mem_singleton.mp hs
  rw [parse_imm _ _ _ _ _ _ (by decide) (by decide)]
  simp (disch := decide) only [decCImm, resv, BitVec.extractLsb'_append_eq_of_le, BitVec.extractLsb'_append_eq_of_add_le,
    BitVec.extractLsb'_eq_self, Nat.reduceSub]
  rfl

theorem sari (d a : BitVec 5) (p : BitVec 3) (imm : BitVec 12) : Statement (.sari d a p imm) := by
  intro sl hs e he
  cases he
  obtain rfl := List.mem_singleton.mp hs
  rw [parse_imm _ _ _ _ _ _ (by decide) (by decide)]
  simp (disch := decide) only [decCImm, resv, BitVec.extractLsb'_append_eq_of_le, BitVec.extractLsb'_append_eq_of_add_le,
    BitVec.extractLsb'_eq_self, Nat.reduceSub]
  rfl

theorem li (d : BitVec 5) (imm : BitVec 20) : Statement (.li d imm) := by
  intro sl hs e he
  cases he
  obtain rfl := List.mem_singleton.mp hs
  rw [parse_other _ 0x1F 0 (by simp (disch := decide) only [BitVec.extractLsb'_append_eq_of_le, BitVec.extractLsb'_append_eq_of_add_le, BitVec.extractLsb'_eq_self, Nat.reduceSub]) (by decide) (by decide)]
  simp (disch := decide) only [decCOther, resv, BitVec.extractLsb'_append_eq_of_le,
    BitVec.extractLsb'_append_eq_of_add_le, BitVec.extractLsb'_eq_self, Nat.reduceSub]
  rfl

theorem lsh (d : BitVec 5) (imm : BitVec 20) : Statement (.lsh d imm) := by
  intro sl hs e he
  cases he
  obtain rfl := List.mem_singleton.mp hs
  rw [parse_other _ 0x20 0 (by simp (disch := decide) only [BitVec.extractLsb'_append_eq_of_le, BitVec.extractLsb'_append_eq_of_add_le, BitVec.extractLsb'_eq_self, Nat.reduceSub]) (by decide) (by decide)]
  simp (disch := decide) only [decCOther, resv, BitVec.extractLsb'_append_eq_of_le,
    BitVec.extractLsb'_append_eq_of_add_le, BitVec.extractLsb'_eq_self, Nat.reduceSub]
  rfl

theorem cmp (d a b : BitVec 7) (p : BitVec 3) (cc : BitVec 7) : Statement (.cmp d a b p cc) := by
  intro sl hs e he
  cases he
  obtain rfl := List.mem_singleton.mp hs
  rw [parse_reg _ _ _ _ _ _ _ (by decide) (by decide)]
  simp (disch := decide) only [decCReg, resv, BitVec.extractLsb'_append_eq_of_le, BitVec.extractLsb'_append_eq_of_add_le,
    BitVec.extractLsb'_eq_self, Nat.reduceSub]
  rfl

theorem cmpp (d a b : BitVec 7) (p : BitVec 3) (cc : BitVec 7) : Statement (.cmpp d a b p cc) := by
  intro sl hs e he
  cases he
  obtain rfl := List.mem_singleton.mp hs
  rw [parse_reg _ _ _ _ _ _ _ (by decide) (by decide)]
  simp (disch := decide) only [decCReg, resv, BitVec.extractLsb'_append_eq_of_le, BitVec.extractLsb'_append_eq_of_add_le,
    BitVec.extractLsb'_eq_self, Nat.reduceSub]
  rfl

theorem sel (d a b : BitVec 7) (p : BitVec 3) (c : BitVec 3) : Statement (.sel d a b p c) := by
  intro sl hs e he
  cases he
  obtain rfl := List.mem_singleton.mp hs
  rw [parse_reg _ _ _ _ _ _ _ (by decide) (by decide)]
  simp (disch := decide) only [decCReg, resv, BitVec.extractLsb'_append_eq_of_le, BitVec.extractLsb'_append_eq_of_add_le,
    BitVec.extractLsb'_eq_self, Nat.reduceSub]
  rfl

theorem adda (d a b : BitVec 7) (p : BitVec 3) : Statement (.adda d a b p) := by
  intro sl hs e he
  cases he
  obtain rfl := List.mem_singleton.mp hs
  rw [parse_reg _ _ _ _ _ _ _ (by decide) (by decide)]
  rfl

theorem movaAS (d a : BitVec 7) (p : BitVec 3) : Statement (.movaAS d a p) := by
  intro sl hs e he
  cases he
  obtain rfl := List.mem_singleton.mp hs
  rw [parse_reg _ _ _ _ _ _ _ (by decide) (by decide)]
  rfl

theorem movaSA (d a : BitVec 7) (p : BitVec 3) : Statement (.movaSA d a p) := by
  intro sl hs e he
  cases he
  obtain rfl := List.mem_singleton.mp hs
  rw [parse_reg _ _ _ _ _ _ _ (by decide) (by decide)]
  rfl

theorem movaAA (d a : BitVec 7) (p : BitVec 3) : Statement (.movaAA d a p) := by
  intro sl hs e he
  cases he
  obtain rfl := List.mem_singleton.mp hs
  rw [parse_reg _ _ _ _ _ _ _ (by decide) (by decide)]
  rfl

theorem movaSN (d a : BitVec 7) (p : BitVec 3) : Statement (.movaSN d a p) := by
  intro sl hs e he
  cases he
  obtain rfl := List.mem_singleton.mp hs
  rw [parse_reg _ _ _ _ _ _ _ (by decide) (by decide)]
  rfl

theorem br (a : BitVec 5) (c : BitVec 3) (off : BitVec 13) : Statement (.br a c off) := by
  intro sl hs e he
  cases he
  obtain rfl := List.mem_singleton.mp hs
  rw [parse_other _ 0x26 0 (by simp (disch := decide) only [BitVec.extractLsb'_append_eq_of_le, BitVec.extractLsb'_append_eq_of_add_le, BitVec.extractLsb'_eq_self, Nat.reduceSub]) (by decide) (by decide)]
  simp (disch := decide) only [decCOther, resv, BitVec.extractLsb'_append_eq_of_le,
    BitVec.extractLsb'_append_eq_of_add_le, BitVec.extractLsb'_eq_self, Nat.reduceSub]
  rfl

theorem brp (a : BitVec 5) (c : BitVec 3) (off : BitVec 13) : Statement (.brp a c off) := by
  intro sl hs e he
  cases he
  obtain rfl := List.mem_singleton.mp hs
  rw [parse_other _ 0x27 0 (by simp (disch := decide) only [BitVec.extractLsb'_append_eq_of_le, BitVec.extractLsb'_append_eq_of_add_le, BitVec.extractLsb'_eq_self, Nat.reduceSub]) (by decide) (by decide)]
  simp (disch := decide) only [decCOther, resv, BitVec.extractLsb'_append_eq_of_le,
    BitVec.extractLsb'_append_eq_of_add_le, BitVec.extractLsb'_eq_self, Nat.reduceSub]
  rfl

theorem brv (a : BitVec 5) (c : BitVec 3) (off : BitVec 13) : Statement (.brv a c off) := by
  intro sl hs e he
  cases he
  obtain rfl := List.mem_singleton.mp hs
  rw [parse_other _ 0x28 0 (by simp (disch := decide) only [BitVec.extractLsb'_append_eq_of_le, BitVec.extractLsb'_append_eq_of_add_le, BitVec.extractLsb'_eq_self, Nat.reduceSub]) (by decide) (by decide)]
  simp (disch := decide) only [decCOther, resv, BitVec.extractLsb'_append_eq_of_le,
    BitVec.extractLsb'_append_eq_of_add_le, BitVec.extractLsb'_eq_self, Nat.reduceSub]
  rfl

theorem jmp (target : BitVec 12) : Statement (.jmp target) := by
  intro sl hs e he
  cases he
  obtain rfl := List.mem_singleton.mp hs
  rw [parse_other _ 0x29 0 (by simp (disch := decide) only [BitVec.extractLsb'_append_eq_of_le, BitVec.extractLsb'_append_eq_of_add_le, BitVec.extractLsb'_eq_self, Nat.reduceSub]) (by decide) (by decide)]
  simp (disch := decide) only [decCOther, resv, BitVec.extractLsb'_append_eq_of_le,
    BitVec.extractLsb'_append_eq_of_add_le, BitVec.extractLsb'_eq_self, Nat.reduceSub]
  rfl

theorem jr (a : BitVec 7) (p : BitVec 3) : Statement (.jr a p) := by
  intro sl hs e he
  cases he
  obtain rfl := List.mem_singleton.mp hs
  rw [parse_reg _ _ _ _ _ _ _ (by decide) (by decide)]
  simp (disch := decide) only [decCReg, resv, BitVec.extractLsb'_append_eq_of_le, BitVec.extractLsb'_append_eq_of_add_le,
    BitVec.extractLsb'_eq_self, Nat.reduceSub]
  rfl

theorem jrLink (d a : BitVec 7) (p : BitVec 3) : Statement (.jrLink d a p) := by
  intro sl hs e he
  cases he
  obtain rfl := List.mem_singleton.mp hs
  rw [parse_reg _ _ _ _ _ _ _ (by decide) (by decide)]
  simp (disch := decide) only [decCReg, resv, BitVec.extractLsb'_append_eq_of_le, BitVec.extractLsb'_append_eq_of_add_le,
    BitVec.extractLsb'_eq_self, Nat.reduceSub]
  rfl

theorem call (d : BitVec 5) (target : BitVec 12) : Statement (.call d target) := by
  intro sl hs e he
  cases he
  obtain rfl := List.mem_singleton.mp hs
  rw [parse_other _ 0x2B 0 (by simp (disch := decide) only [BitVec.extractLsb'_append_eq_of_le, BitVec.extractLsb'_append_eq_of_add_le, BitVec.extractLsb'_eq_self, Nat.reduceSub]) (by decide) (by decide)]
  simp (disch := decide) only [decCOther, resv, BitVec.extractLsb'_append_eq_of_le,
    BitVec.extractLsb'_append_eq_of_add_le, BitVec.extractLsb'_eq_self, Nat.reduceSub]
  rfl

theorem ret (a : BitVec 7) (p : BitVec 3) : Statement (.ret a p) := by
  intro sl hs e he
  cases he
  obtain rfl := List.mem_singleton.mp hs
  rw [parse_reg _ _ _ _ _ _ _ (by decide) (by decide)]
  rfl

theorem loop (d a : BitVec 5) (p : BitVec 3) (imm : BitVec 12) : Statement (.loop d a p imm) := by
  intro sl hs e he
  cases he
  obtain rfl := List.mem_singleton.mp hs
  rw [parse_imm _ _ _ _ _ _ (by decide) (by decide)]
  simp (disch := decide) only [decCImm, resv, BitVec.extractLsb'_append_eq_of_le, BitVec.extractLsb'_append_eq_of_add_le,
    BitVec.extractLsb'_eq_self, Nat.reduceSub]
  rfl

theorem lstr (d b : BitVec 7) (p : BitVec 3) (l : BitVec 3) : Statement (.lstr d b p l) := by
  intro sl hs e he
  cases he
  obtain rfl := List.mem_singleton.mp hs
  rw [parse_reg _ _ _ _ _ _ _ (by decide) (by decide)]
  simp (disch := decide) only [decCReg, resv, BitVec.extractLsb'_append_eq_of_le, BitVec.extractLsb'_append_eq_of_add_le,
    BitVec.extractLsb'_eq_self, Nat.reduceSub]
  rfl

theorem trap (p : BitVec 3) (code : BitVec 12) : Statement (.trap p code) := by
  intro sl hs e he
  cases he
  obtain rfl := List.mem_singleton.mp hs
  rw [parse_imm _ _ _ _ _ _ (by decide) (by decide)]
  simp (disch := decide) only [decCImm, resv, BitVec.extractLsb'_append_eq_of_le, BitVec.extractLsb'_append_eq_of_add_le,
    BitVec.extractLsb'_eq_self, Nat.reduceSub]
  rfl

theorem krd (d : BitVec 5) (p : BitVec 3) (k : BitVec 12) : Statement (.krd d p k) := by
  intro sl hs e he
  cases he
  obtain rfl := List.mem_singleton.mp hs
  rw [parse_imm _ _ _ _ _ _ (by decide) (by decide)]
  simp (disch := decide) only [decCImm, resv, BitVec.extractLsb'_append_eq_of_le, BitVec.extractLsb'_append_eq_of_add_le,
    BitVec.extractLsb'_eq_self, Nat.reduceSub]
  rfl

theorem kwr (a : BitVec 5) (p : BitVec 3) (k : BitVec 12) : Statement (.kwr a p k) := by
  intro sl hs e he
  cases he
  obtain rfl := List.mem_singleton.mp hs
  rw [parse_imm _ _ _ _ _ _ (by decide) (by decide)]
  simp (disch := decide) only [decCImm, resv, BitVec.extractLsb'_append_eq_of_le, BitVec.extractLsb'_append_eq_of_add_le,
    BitVec.extractLsb'_eq_self, Nat.reduceSub]
  rfl

theorem mrd (d a : BitVec 7) (p : BitVec 3) : Statement (.mrd d a p) := by
  intro sl hs e he
  cases he
  obtain rfl := List.mem_singleton.mp hs
  rw [parse_reg _ _ _ _ _ _ _ (by decide) (by decide)]
  rfl

theorem mwr (a b : BitVec 7) (p : BitVec 3) : Statement (.mwr a b p) := by
  intro sl hs e he
  cases he
  obtain rfl := List.mem_singleton.mp hs
  rw [parse_reg _ _ _ _ _ _ _ (by decide) (by decide)]
  rfl

theorem ldpw (d a : BitVec 5) (p : BitVec 3) (imm : BitVec 12) : Statement (.ldpw d a p imm) := by
  intro sl hs e he
  cases he
  obtain rfl := List.mem_singleton.mp hs
  rw [parse_imm _ _ _ _ _ _ (by decide) (by decide)]
  simp (disch := decide) only [decCImm, resv, BitVec.extractLsb'_append_eq_of_le, BitVec.extractLsb'_append_eq_of_add_le,
    BitVec.extractLsb'_eq_self, Nat.reduceSub]
  rfl

theorem eret : Statement .eret := by
  intro sl hs e he
  cases he
  obtain rfl := List.mem_singleton.mp hs
  rw [parse_reg _ _ _ _ _ _ _ (by decide) (by decide)]
  rfl

theorem vadd (d a b : BitVec 7) (p : BitVec 3) (sb sat : Bool) (t : BitVec 4) : Statement (.vadd d a b p sb sat t) := by
  intro sl hs e he
  cases he
  obtain rfl := List.mem_singleton.mp hs
  rw [parse_reg _ _ _ _ _ _ _ (by decide) (by decide)]
  simp (disch := decide) only [decVReg, resv, BitVec.extractLsb'_append_eq_of_le, BitVec.extractLsb'_append_eq_of_add_le,
    BitVec.extractLsb'_eq_self, Nat.reduceSub, bit1, getLsbD_append_lo, getLsbD_append_hi, ofBool_getLsbD]
  rfl

theorem vsub (d a b : BitVec 7) (p : BitVec 3) (sb sat : Bool) (t : BitVec 4) : Statement (.vsub d a b p sb sat t) := by
  intro sl hs e he
  cases he
  obtain rfl := List.mem_singleton.mp hs
  rw [parse_reg _ _ _ _ _ _ _ (by decide) (by decide)]
  simp (disch := decide) only [decVReg, resv, BitVec.extractLsb'_append_eq_of_le, BitVec.extractLsb'_append_eq_of_add_le,
    BitVec.extractLsb'_eq_self, Nat.reduceSub, bit1, getLsbD_append_lo, getLsbD_append_hi, ofBool_getLsbD]
  rfl

theorem vmul (d a b : BitVec 7) (p : BitVec 3) (sb sat : Bool) (t : BitVec 4) : Statement (.vmul d a b p sb sat t) := by
  intro sl hs e he
  cases he
  obtain rfl := List.mem_singleton.mp hs
  rw [parse_reg _ _ _ _ _ _ _ (by decide) (by decide)]
  simp (disch := decide) only [decVReg, resv, BitVec.extractLsb'_append_eq_of_le, BitVec.extractLsb'_append_eq_of_add_le,
    BitVec.extractLsb'_eq_self, Nat.reduceSub, bit1, getLsbD_append_lo, getLsbD_append_hi, ofBool_getLsbD]
  rfl

theorem vfma (d a b : BitVec 7) (p : BitVec 3) (neg sb sat : Bool) (t : BitVec 4) : Statement (.vfma d a b p neg sb sat t) := by
  intro sl hs e he
  cases he
  obtain rfl := List.mem_singleton.mp hs
  rw [parse_reg _ _ _ _ _ _ _ (by decide) (by decide)]
  simp (disch := decide) only [decVReg, resv, BitVec.extractLsb'_append_eq_of_le, BitVec.extractLsb'_append_eq_of_add_le,
    BitVec.extractLsb'_eq_self, Nat.reduceSub, bit1, getLsbD_append_lo, getLsbD_append_hi, ofBool_getLsbD]
  rfl

theorem vmin (d a b : BitVec 7) (p : BitVec 3) (sb sat : Bool) (t : BitVec 4) : Statement (.vmin d a b p sb sat t) := by
  intro sl hs e he
  cases he
  obtain rfl := List.mem_singleton.mp hs
  rw [parse_reg _ _ _ _ _ _ _ (by decide) (by decide)]
  simp (disch := decide) only [decVReg, resv, BitVec.extractLsb'_append_eq_of_le, BitVec.extractLsb'_append_eq_of_add_le,
    BitVec.extractLsb'_eq_self, Nat.reduceSub, bit1, getLsbD_append_lo, getLsbD_append_hi, ofBool_getLsbD]
  rfl

theorem vmax (d a b : BitVec 7) (p : BitVec 3) (sb sat : Bool) (t : BitVec 4) : Statement (.vmax d a b p sb sat t) := by
  intro sl hs e he
  cases he
  obtain rfl := List.mem_singleton.mp hs
  rw [parse_reg _ _ _ _ _ _ _ (by decide) (by decide)]
  simp (disch := decide) only [decVReg, resv, BitVec.extractLsb'_append_eq_of_le, BitVec.extractLsb'_append_eq_of_add_le,
    BitVec.extractLsb'_eq_self, Nat.reduceSub, bit1, getLsbD_append_lo, getLsbD_append_hi, ofBool_getLsbD]
  rfl

theorem vabs (d a : BitVec 7) (p : BitVec 3) (sat : Bool) (t : BitVec 4) : Statement (.vabs d a p sat t) := by
  intro sl hs e he
  cases he
  obtain rfl := List.mem_singleton.mp hs
  rw [parse_reg _ _ _ _ _ _ _ (by decide) (by decide)]
  simp (disch := decide) only [decVReg, resv, BitVec.extractLsb'_append_eq_of_le, BitVec.extractLsb'_append_eq_of_add_le,
    BitVec.extractLsb'_eq_self, Nat.reduceSub, bit1, getLsbD_append_lo, getLsbD_append_hi, ofBool_getLsbD]
  rfl

theorem vneg (d a : BitVec 7) (p : BitVec 3) (sat : Bool) (t : BitVec 4) : Statement (.vneg d a p sat t) := by
  intro sl hs e he
  cases he
  obtain rfl := List.mem_singleton.mp hs
  rw [parse_reg _ _ _ _ _ _ _ (by decide) (by decide)]
  simp (disch := decide) only [decVReg, resv, BitVec.extractLsb'_append_eq_of_le, BitVec.extractLsb'_append_eq_of_add_le,
    BitVec.extractLsb'_eq_self, Nat.reduceSub, bit1, getLsbD_append_lo, getLsbD_append_hi, ofBool_getLsbD]
  rfl

theorem vand (d a b : BitVec 7) (p : BitVec 3) (nb : Bool) : Statement (.vand d a b p nb) := by
  intro sl hs e he
  cases he
  obtain rfl := List.mem_singleton.mp hs
  rw [parse_reg _ _ _ _ _ _ _ (by decide) (by decide)]
  simp (disch := decide) only [decVReg, resv, BitVec.extractLsb'_append_eq_of_le, BitVec.extractLsb'_append_eq_of_add_le,
    BitVec.extractLsb'_eq_self, Nat.reduceSub, bit1, getLsbD_append_lo, getLsbD_append_hi, ofBool_getLsbD]
  rfl

theorem vor (d a b : BitVec 7) (p : BitVec 3) (nb : Bool) : Statement (.vor d a b p nb) := by
  intro sl hs e he
  cases he
  obtain rfl := List.mem_singleton.mp hs
  rw [parse_reg _ _ _ _ _ _ _ (by decide) (by decide)]
  simp (disch := decide) only [decVReg, resv, BitVec.extractLsb'_append_eq_of_le, BitVec.extractLsb'_append_eq_of_add_le,
    BitVec.extractLsb'_eq_self, Nat.reduceSub, bit1, getLsbD_append_lo, getLsbD_append_hi, ofBool_getLsbD]
  rfl

theorem vxor (d a b : BitVec 7) (p : BitVec 3) (nb : Bool) : Statement (.vxor d a b p nb) := by
  intro sl hs e he
  cases he
  obtain rfl := List.mem_singleton.mp hs
  rw [parse_reg _ _ _ _ _ _ _ (by decide) (by decide)]
  simp (disch := decide) only [decVReg, resv, BitVec.extractLsb'_append_eq_of_le, BitVec.extractLsb'_append_eq_of_add_le,
    BitVec.extractLsb'_eq_self, Nat.reduceSub, bit1, getLsbD_append_lo, getLsbD_append_hi, ofBool_getLsbD]
  rfl

theorem vshl (d a b : BitVec 7) (p : BitVec 3) (sb : Bool) (t : BitVec 4) : Statement (.vshl d a b p sb t) := by
  intro sl hs e he
  cases he
  obtain rfl := List.mem_singleton.mp hs
  rw [parse_reg _ _ _ _ _ _ _ (by decide) (by decide)]
  simp (disch := decide) only [decVReg, resv, BitVec.extractLsb'_append_eq_of_le, BitVec.extractLsb'_append_eq_of_add_le,
    BitVec.extractLsb'_eq_self, Nat.reduceSub, bit1, getLsbD_append_lo, getLsbD_append_hi, ofBool_getLsbD]
  rfl

theorem vshr (d a b : BitVec 7) (p : BitVec 3) (sb : Bool) (t : BitVec 4) : Statement (.vshr d a b p sb t) := by
  intro sl hs e he
  cases he
  obtain rfl := List.mem_singleton.mp hs
  rw [parse_reg _ _ _ _ _ _ _ (by decide) (by decide)]
  simp (disch := decide) only [decVReg, resv, BitVec.extractLsb'_append_eq_of_le, BitVec.extractLsb'_append_eq_of_add_le,
    BitVec.extractLsb'_eq_self, Nat.reduceSub, bit1, getLsbD_append_lo, getLsbD_append_hi, ofBool_getLsbD]
  rfl

theorem vcmp (d a b : BitVec 7) (p : BitVec 3) (cc : BitVec 3) (t : BitVec 4) : Statement (.vcmp d a b p cc t) := by
  intro sl hs e he
  cases he
  obtain rfl := List.mem_singleton.mp hs
  rw [parse_reg _ _ _ _ _ _ _ (by decide) (by decide)]
  simp (disch := decide) only [decVReg, resv, BitVec.extractLsb'_append_eq_of_le, BitVec.extractLsb'_append_eq_of_add_le,
    BitVec.extractLsb'_eq_self, Nat.reduceSub]
  rfl

theorem vsel (d a b : BitVec 7) (p : BitVec 3) (t : BitVec 4) (c : BitVec 3) : Statement (.vsel d a b p t c) := by
  intro sl hs e he
  cases he
  obtain rfl := List.mem_singleton.mp hs
  rw [parse_reg _ _ _ _ _ _ _ (by decide) (by decide)]
  simp (disch := decide) only [decVReg, resv, BitVec.extractLsb'_append_eq_of_le, BitVec.extractLsb'_append_eq_of_add_le,
    BitVec.extractLsb'_eq_self, Nat.reduceSub]
  rfl

theorem vmovV (d a : BitVec 7) (p : BitVec 3) : Statement (.vmovV d a p) := by
  intro sl hs e he
  cases he
  obtain rfl := List.mem_singleton.mp hs
  rw [parse_reg _ _ _ _ _ _ _ (by decide) (by decide)]
  simp (disch := decide) only [decVReg, resv, BitVec.extractLsb'_append_eq_of_le, BitVec.extractLsb'_append_eq_of_add_le,
    BitVec.extractLsb'_eq_self, Nat.reduceSub]
  rfl

theorem vmovSplat (d a : BitVec 7) (p : BitVec 3) (t : BitVec 4) : Statement (.vmovSplat d a p t) := by
  intro sl hs e he
  cases he
  obtain rfl := List.mem_singleton.mp hs
  rw [parse_reg _ _ _ _ _ _ _ (by decide) (by decide)]
  simp (disch := decide) only [decVReg, resv, BitVec.extractLsb'_append_eq_of_le, BitVec.extractLsb'_append_eq_of_add_le,
    BitVec.extractLsb'_eq_self, Nat.reduceSub]
  rfl

theorem vmovHS (d a : BitVec 7) (p : BitVec 3) : Statement (.vmovHS d a p) := by
  intro sl hs e he
  cases he
  obtain rfl := List.mem_singleton.mp hs
  rw [parse_reg _ _ _ _ _ _ _ (by decide) (by decide)]
  simp (disch := decide) only [decVReg, resv, BitVec.extractLsb'_append_eq_of_le, BitVec.extractLsb'_append_eq_of_add_le,
    BitVec.extractLsb'_eq_self, Nat.reduceSub]
  rfl

theorem vmovSH (d a : BitVec 7) (p : BitVec 3) : Statement (.vmovSH d a p) := by
  intro sl hs e he
  cases he
  obtain rfl := List.mem_singleton.mp hs
  rw [parse_reg _ _ _ _ _ _ _ (by decide) (by decide)]
  simp (disch := decide) only [decVReg, resv, BitVec.extractLsb'_append_eq_of_le, BitVec.extractLsb'_append_eq_of_add_le,
    BitVec.extractLsb'_eq_self, Nat.reduceSub]
  rfl

theorem vmovPS (d a : BitVec 7) (p : BitVec 3) : Statement (.vmovPS d a p) := by
  intro sl hs e he
  cases he
  obtain rfl := List.mem_singleton.mp hs
  rw [parse_reg _ _ _ _ _ _ _ (by decide) (by decide)]
  simp (disch := decide) only [decVReg, resv, BitVec.extractLsb'_append_eq_of_le, BitVec.extractLsb'_append_eq_of_add_le,
    BitVec.extractLsb'_eq_self, Nat.reduceSub]
  rfl

theorem vmovSP (d a : BitVec 7) (p : BitVec 3) : Statement (.vmovSP d a p) := by
  intro sl hs e he
  cases he
  obtain rfl := List.mem_singleton.mp hs
  rw [parse_reg _ _ _ _ _ _ _ (by decide) (by decide)]
  simp (disch := decide) only [decVReg, resv, BitVec.extractLsb'_append_eq_of_le, BitVec.extractLsb'_append_eq_of_add_le,
    BitVec.extractLsb'_eq_self, Nat.reduceSub]
  rfl

theorem vmovIdx (d : BitVec 7) (p : BitVec 3) (t : BitVec 4) : Statement (.vmovIdx d p t) := by
  intro sl hs e he
  cases he
  obtain rfl := List.mem_singleton.mp hs
  rw [parse_reg _ _ _ _ _ _ _ (by decide) (by decide)]
  simp (disch := decide) only [decVReg, resv, BitVec.extractLsb'_append_eq_of_le, BitVec.extractLsb'_append_eq_of_add_le,
    BitVec.extractLsb'_eq_self, Nat.reduceSub]
  rfl

theorem vcvt (d a : BitVec 7) (p : BitVec 3) (sat : Bool) (ts : BitVec 4) (part : BitVec 3) (td : BitVec 4) : Statement (.vcvt d a p sat ts part td) := by
  intro sl hs e he
  cases he
  obtain rfl := List.mem_singleton.mp hs
  rw [parse_reg _ _ _ _ _ _ _ (by decide) (by decide)]
  simp (disch := decide) only [decVReg, resv, BitVec.extractLsb'_append_eq_of_le, BitVec.extractLsb'_append_eq_of_add_le,
    BitVec.extractLsb'_eq_self, Nat.reduceSub, bit1, getLsbD_append_lo, getLsbD_append_hi, ofBool_getLsbD]
  rfl

theorem vqdb (d a : BitVec 7) (p : BitVec 3) (single db4 : Bool) : Statement (.vqdb d a p single db4) := by
  intro sl hs e he
  cases he
  obtain rfl := List.mem_singleton.mp hs
  rw [parse_reg _ _ _ _ _ _ _ (by decide) (by decide)]
  simp (disch := decide) only [decVReg, resv, BitVec.extractLsb'_append_eq_of_le, BitVec.extractLsb'_append_eq_of_add_le,
    BitVec.extractLsb'_eq_self, Nat.reduceSub, bit1, getLsbD_append_lo, getLsbD_append_hi, ofBool_getLsbD]
  rfl

theorem vcomp (d a : BitVec 7) (p : BitVec 3) (w64 : Bool) : Statement (.vcomp d a p w64) := by
  intro sl hs e he
  cases he
  obtain rfl := List.mem_singleton.mp hs
  rw [parse_reg _ _ _ _ _ _ _ (by decide) (by decide)]
  simp (disch := decide) only [decVReg, resv, BitVec.extractLsb'_append_eq_of_le, BitVec.extractLsb'_append_eq_of_add_le,
    BitVec.extractLsb'_eq_self, Nat.reduceSub, bit1, getLsbD_append_lo, getLsbD_append_hi, ofBool_getLsbD]
  rfl

theorem vexpd (d a : BitVec 7) (p : BitVec 3) (w64 : Bool) : Statement (.vexpd d a p w64) := by
  intro sl hs e he
  cases he
  obtain rfl := List.mem_singleton.mp hs
  rw [parse_reg _ _ _ _ _ _ _ (by decide) (by decide)]
  simp (disch := decide) only [decVReg, resv, BitVec.extractLsb'_append_eq_of_le, BitVec.extractLsb'_append_eq_of_add_le,
    BitVec.extractLsb'_eq_self, Nat.reduceSub, bit1, getLsbD_append_lo, getLsbD_append_hi, ofBool_getLsbD]
  rfl

theorem vperm (d a b : BitVec 7) (p : BitVec 3) (w64 byte : Bool) : Statement (.vperm d a b p w64 byte) := by
  intro sl hs e he
  cases he
  obtain rfl := List.mem_singleton.mp hs
  rw [parse_reg _ _ _ _ _ _ _ (by decide) (by decide)]
  simp (disch := decide) only [decVReg, resv, BitVec.extractLsb'_append_eq_of_le, BitVec.extractLsb'_append_eq_of_add_le,
    BitVec.extractLsb'_eq_self, Nat.reduceSub, bit1, getLsbD_append_lo, getLsbD_append_hi, ofBool_getLsbD]
  rfl

theorem vred (d a : BitVec 7) (p : BitVec 3) (op : BitVec 3) (t : BitVec 4) : Statement (.vred d a p op t) := by
  intro sl hs e he
  cases he
  obtain rfl := List.mem_singleton.mp hs
  rw [parse_reg _ _ _ _ _ _ _ (by decide) (by decide)]
  simp (disch := decide) only [decVReg, resv, BitVec.extractLsb'_append_eq_of_le, BitVec.extractLsb'_append_eq_of_add_le,
    BitVec.extractLsb'_eq_self, Nat.reduceSub]
  rfl

theorem vsfu (d a : BitVec 7) (p : BitVec 3) (f : BitVec 3) : Statement (.vsfu d a p f) := by
  intro sl hs e he
  cases he
  obtain rfl := List.mem_singleton.mp hs
  rw [parse_reg _ _ _ _ _ _ _ (by decide) (by decide)]
  simp (disch := decide) only [decVReg, resv, BitVec.extractLsb'_append_eq_of_le, BitVec.extractLsb'_append_eq_of_add_le,
    BitVec.extractLsb'_eq_self, Nat.reduceSub]
  rfl

theorem vext (d a b : BitVec 7) (p : BitVec 3) (t : BitVec 4) : Statement (.vext d a b p t) := by
  intro sl hs e he
  cases he
  obtain rfl := List.mem_singleton.mp hs
  rw [parse_reg _ _ _ _ _ _ _ (by decide) (by decide)]
  simp (disch := decide) only [decVReg, resv, BitVec.extractLsb'_append_eq_of_le, BitVec.extractLsb'_append_eq_of_add_le,
    BitVec.extractLsb'_eq_self, Nat.reduceSub]
  rfl

theorem vins (d a b : BitVec 7) (p : BitVec 3) (t : BitVec 4) : Statement (.vins d a b p t) := by
  intro sl hs e he
  cases he
  obtain rfl := List.mem_singleton.mp hs
  rw [parse_reg _ _ _ _ _ _ _ (by decide) (by decide)]
  simp (disch := decide) only [decVReg, resv, BitVec.extractLsb'_append_eq_of_le, BitVec.extractLsb'_append_eq_of_add_le,
    BitVec.extractLsb'_eq_self, Nat.reduceSub]
  rfl

theorem vld (d a : BitVec 5) (p : BitVec 3) (off : BitVec 19) : Statement (.vld d a p off) := by
  intro sl hs e he
  cases he
  obtain rfl := List.mem_singleton.mp hs
  rw [parse_imm _ _ _ _ _ _ (by decide) (by decide)]
  rfl

theorem vst (d a : BitVec 5) (p : BitVec 3) (off : BitVec 19) : Statement (.vst d a p off) := by
  intro sl hs e he
  cases he
  obtain rfl := List.mem_singleton.mp hs
  rw [parse_imm _ _ _ _ _ _ (by decide) (by decide)]
  rfl

theorem vldl (d a b : BitVec 7) (p : BitVec 3) (sz : BitVec 3) : Statement (.vldl d a b p sz) := by
  intro sl hs e he
  cases he
  obtain rfl := List.mem_singleton.mp hs
  rw [parse_reg _ _ _ _ _ _ _ (by decide) (by decide)]
  simp (disch := decide) only [decVReg, resv, BitVec.extractLsb'_append_eq_of_le, BitVec.extractLsb'_append_eq_of_add_le,
    BitVec.extractLsb'_eq_self, Nat.reduceSub]
  rfl

theorem vstl (d a b : BitVec 7) (p : BitVec 3) (sz : BitVec 3) : Statement (.vstl d a b p sz) := by
  intro sl hs e he
  cases he
  obtain rfl := List.mem_singleton.mp hs
  rw [parse_reg _ _ _ _ _ _ _ (by decide) (by decide)]
  simp (disch := decide) only [decVReg, resv, BitVec.extractLsb'_append_eq_of_le, BitVec.extractLsb'_append_eq_of_add_le,
    BitVec.extractLsb'_eq_self, Nat.reduceSub]
  rfl

theorem pand (d a b : BitVec 7) (p : BitVec 3) (nb : Bool) : Statement (.pand d a b p nb) := by
  intro sl hs e he
  cases he
  obtain rfl := List.mem_singleton.mp hs
  rw [parse_reg _ _ _ _ _ _ _ (by decide) (by decide)]
  simp (disch := decide) only [decVReg, resv, BitVec.extractLsb'_append_eq_of_le, BitVec.extractLsb'_append_eq_of_add_le,
    BitVec.extractLsb'_eq_self, Nat.reduceSub, bit1, getLsbD_append_lo, getLsbD_append_hi, ofBool_getLsbD]
  rfl

theorem por (d a b : BitVec 7) (p : BitVec 3) (nb : Bool) : Statement (.por d a b p nb) := by
  intro sl hs e he
  cases he
  obtain rfl := List.mem_singleton.mp hs
  rw [parse_reg _ _ _ _ _ _ _ (by decide) (by decide)]
  simp (disch := decide) only [decVReg, resv, BitVec.extractLsb'_append_eq_of_le, BitVec.extractLsb'_append_eq_of_add_le,
    BitVec.extractLsb'_eq_self, Nat.reduceSub, bit1, getLsbD_append_lo, getLsbD_append_hi, ofBool_getLsbD]
  rfl

theorem pxor (d a b : BitVec 7) (p : BitVec 3) (nb : Bool) : Statement (.pxor d a b p nb) := by
  intro sl hs e he
  cases he
  obtain rfl := List.mem_singleton.mp hs
  rw [parse_reg _ _ _ _ _ _ _ (by decide) (by decide)]
  simp (disch := decide) only [decVReg, resv, BitVec.extractLsb'_append_eq_of_le, BitVec.extractLsb'_append_eq_of_add_le,
    BitVec.extractLsb'_eq_self, Nat.reduceSub, bit1, getLsbD_append_lo, getLsbD_append_hi, ofBool_getLsbD]
  rfl

theorem pcnt (d a : BitVec 7) (p : BitVec 3) : Statement (.pcnt d a p) := by
  intro sl hs e he
  cases he
  obtain rfl := List.mem_singleton.mp hs
  rw [parse_reg _ _ _ _ _ _ _ (by decide) (by decide)]
  rfl

theorem vjadd (d a b : BitVec 7) (p : BitVec 3) (sat : Bool) (rm : BitVec 2) (t : BitVec 4) : Statement (.vjadd d a b p sat rm t) := by
  intro sl hs e he
  cases he
  obtain rfl := List.mem_singleton.mp hs
  rw [parse_reg _ _ _ _ _ _ _ (by decide) (by decide)]
  simp (disch := decide) only [decVReg, resv, BitVec.extractLsb'_append_eq_of_le, BitVec.extractLsb'_append_eq_of_add_le,
    BitVec.extractLsb'_eq_self, Nat.reduceSub, bit1, getLsbD_append_lo, getLsbD_append_hi, ofBool_getLsbD]
  rfl

theorem vjsub (d a b : BitVec 7) (p : BitVec 3) (sat : Bool) (rm : BitVec 2) (t : BitVec 4) : Statement (.vjsub d a b p sat rm t) := by
  intro sl hs e he
  cases he
  obtain rfl := List.mem_singleton.mp hs
  rw [parse_reg _ _ _ _ _ _ _ (by decide) (by decide)]
  simp (disch := decide) only [decVReg, resv, BitVec.extractLsb'_append_eq_of_le, BitVec.extractLsb'_append_eq_of_add_le,
    BitVec.extractLsb'_eq_self, Nat.reduceSub, bit1, getLsbD_append_lo, getLsbD_append_hi, ofBool_getLsbD]
  rfl

theorem vjmul (d a b : BitVec 7) (p : BitVec 3) (sat : Bool) (rm : BitVec 2) (t : BitVec 4) : Statement (.vjmul d a b p sat rm t) := by
  intro sl hs e he
  cases he
  obtain rfl := List.mem_singleton.mp hs
  rw [parse_reg _ _ _ _ _ _ _ (by decide) (by decide)]
  simp (disch := decide) only [decVReg, resv, BitVec.extractLsb'_append_eq_of_le, BitVec.extractLsb'_append_eq_of_add_le,
    BitVec.extractLsb'_eq_self, Nat.reduceSub, bit1, getLsbD_append_lo, getLsbD_append_hi, ofBool_getLsbD]
  rfl

theorem vjfma (d a b : BitVec 7) (p : BitVec 3) (sat : Bool) (rm : BitVec 2) (t : BitVec 4) : Statement (.vjfma d a b p sat rm t) := by
  intro sl hs e he
  cases he
  obtain rfl := List.mem_singleton.mp hs
  rw [parse_reg _ _ _ _ _ _ _ (by decide) (by decide)]
  simp (disch := decide) only [decVReg, resv, BitVec.extractLsb'_append_eq_of_le, BitVec.extractLsb'_append_eq_of_add_le,
    BitVec.extractLsb'_eq_self, Nat.reduceSub, bit1, getLsbD_append_lo, getLsbD_append_hi, ofBool_getLsbD]
  rfl

theorem vjmin (d a b : BitVec 7) (p : BitVec 3) (sat : Bool) (rm : BitVec 2) (t : BitVec 4) : Statement (.vjmin d a b p sat rm t) := by
  intro sl hs e he
  cases he
  obtain rfl := List.mem_singleton.mp hs
  rw [parse_reg _ _ _ _ _ _ _ (by decide) (by decide)]
  simp (disch := decide) only [decVReg, resv, BitVec.extractLsb'_append_eq_of_le, BitVec.extractLsb'_append_eq_of_add_le,
    BitVec.extractLsb'_eq_self, Nat.reduceSub, bit1, getLsbD_append_lo, getLsbD_append_hi, ofBool_getLsbD]
  rfl

theorem vjmax (d a b : BitVec 7) (p : BitVec 3) (sat : Bool) (rm : BitVec 2) (t : BitVec 4) : Statement (.vjmax d a b p sat rm t) := by
  intro sl hs e he
  cases he
  obtain rfl := List.mem_singleton.mp hs
  rw [parse_reg _ _ _ _ _ _ _ (by decide) (by decide)]
  simp (disch := decide) only [decVReg, resv, BitVec.extractLsb'_append_eq_of_le, BitVec.extractLsb'_append_eq_of_add_le,
    BitVec.extractLsb'_eq_self, Nat.reduceSub, bit1, getLsbD_append_lo, getLsbD_append_hi, ofBool_getLsbD]
  rfl

theorem vjcvt (d a : BitVec 7) (p : BitVec 3) (sat : Bool) (ts : BitVec 4) (rm : BitVec 2) (td : BitVec 4) : Statement (.vjcvt d a p sat ts rm td) := by
  intro sl hs e he
  cases he
  obtain rfl := List.mem_singleton.mp hs
  rw [parse_reg _ _ _ _ _ _ _ (by decide) (by decide)]
  simp (disch := decide) only [decVReg, resv, BitVec.extractLsb'_append_eq_of_le, BitVec.extractLsb'_append_eq_of_add_le,
    BitVec.extractLsb'_eq_self, Nat.reduceSub, bit1, getLsbD_append_lo, getLsbD_append_hi, ofBool_getLsbD]
  rfl

theorem vjqdb (d a : BitVec 7) (p : BitVec 3) (ts : BitVec 4) (single : Bool) (td : BitVec 4) : Statement (.vjqdb d a p ts single td) := by
  intro sl hs e he
  cases he
  obtain rfl := List.mem_singleton.mp hs
  rw [parse_reg _ _ _ _ _ _ _ (by decide) (by decide)]
  simp (disch := decide) only [decVReg, resv, BitVec.extractLsb'_append_eq_of_le, BitVec.extractLsb'_append_eq_of_add_le,
    BitVec.extractLsb'_eq_self, Nat.reduceSub, bit1, getLsbD_append_lo, getLsbD_append_hi, ofBool_getLsbD]
  rfl

theorem vjred (d a : BitVec 7) (p : BitVec 3) (sat : Bool) (rm : BitVec 2) (op : BitVec 3) (t : BitVec 4) : Statement (.vjred d a p sat rm op t) := by
  intro sl hs e he
  cases he
  obtain rfl := List.mem_singleton.mp hs
  rw [parse_reg _ _ _ _ _ _ _ (by decide) (by decide)]
  simp (disch := decide) only [decVReg, resv, BitVec.extractLsb'_append_eq_of_le, BitVec.extractLsb'_append_eq_of_add_le,
    BitVec.extractLsb'_eq_self, Nat.reduceSub, bit1, getLsbD_append_lo, getLsbD_append_hi, ofBool_getLsbD]
  rfl

theorem vjsfu (d a : BitVec 7) (p : BitVec 3) (sat : Bool) (rm : BitVec 2) (t : BitVec 4) (f : BitVec 3) : Statement (.vjsfu d a p sat rm t f) := by
  intro sl hs e he
  cases he
  obtain rfl := List.mem_singleton.mp hs
  rw [parse_reg _ _ _ _ _ _ _ (by decide) (by decide)]
  simp (disch := decide) only [decVReg, resv, BitVec.extractLsb'_append_eq_of_le, BitVec.extractLsb'_append_eq_of_add_le,
    BitVec.extractLsb'_eq_self, Nat.reduceSub, bit1, getLsbD_append_lo, getLsbD_append_hi, ofBool_getLsbD]
  rfl

theorem vjcomp (d a b : BitVec 7) (p : BitVec 3) (t : BitVec 4) : Statement (.vjcomp d a b p t) := by
  intro sl hs e he
  cases he
  obtain rfl := List.mem_singleton.mp hs
  rw [parse_reg _ _ _ _ _ _ _ (by decide) (by decide)]
  simp (disch := decide) only [decVReg, resv, BitVec.extractLsb'_append_eq_of_le, BitVec.extractLsb'_append_eq_of_add_le,
    BitVec.extractLsb'_eq_self, Nat.reduceSub]
  rfl

theorem vjexpd (d a b : BitVec 7) (p : BitVec 3) (t : BitVec 4) : Statement (.vjexpd d a b p t) := by
  intro sl hs e he
  cases he
  obtain rfl := List.mem_singleton.mp hs
  rw [parse_reg _ _ _ _ _ _ _ (by decide) (by decide)]
  simp (disch := decide) only [decVReg, resv, BitVec.extractLsb'_append_eq_of_le, BitVec.extractLsb'_append_eq_of_add_le,
    BitVec.extractLsb'_eq_self, Nat.reduceSub]
  rfl

theorem vjsel (d a b : BitVec 7) (p : BitVec 3) (sat : Bool) (rm : BitVec 2) (t : BitVec 4) : Statement (.vjsel d a b p sat rm t) := by
  intro sl hs e he
  cases he
  obtain rfl := List.mem_singleton.mp hs
  rw [parse_reg _ _ _ _ _ _ _ (by decide) (by decide)]
  simp (disch := decide) only [decVReg, resv, BitVec.extractLsb'_append_eq_of_le, BitVec.extractLsb'_append_eq_of_add_le,
    BitVec.extractLsb'_eq_self, Nat.reduceSub, bit1, getLsbD_append_lo, getLsbD_append_hi, ofBool_getLsbD]
  rfl

theorem vjcmp (d a b : BitVec 7) (p : BitVec 3) (cc : BitVec 3) (t : BitVec 4) : Statement (.vjcmp d a b p cc t) := by
  intro sl hs e he
  cases he
  obtain rfl := List.mem_singleton.mp hs
  rw [parse_reg _ _ _ _ _ _ _ (by decide) (by decide)]
  simp (disch := decide) only [decVReg, resv, BitVec.extractLsb'_append_eq_of_le, BitVec.extractLsb'_append_eq_of_add_le,
    BitVec.extractLsb'_eq_self, Nat.reduceSub]
  rfl

theorem vjfill (d : BitVec 7) (p : BitVec 3) (t : BitVec 4) : Statement (.vjfill d p t) := by
  intro sl hs e he
  cases he
  obtain rfl := List.mem_singleton.mp hs
  rw [parse_reg _ _ _ _ _ _ _ (by decide) (by decide)]
  simp (disch := decide) only [decVReg, resv, BitVec.extractLsb'_append_eq_of_le, BitVec.extractLsb'_append_eq_of_add_le,
    BitVec.extractLsb'_eq_self, Nat.reduceSub]
  rfl

theorem ld (d : BitVec 5) (a : BitVec 4) (sz : BitVec 3) (p : BitVec 3) (off : BitVec 17) : Statement (.ld d a sz p off) := by
  intro sl hs e he
  cases he
  obtain rfl := List.mem_singleton.mp hs
  rw [parse_mem _ _ _ _ _ _ _ (by decide) (by decide)]
  rfl

theorem st (d : BitVec 5) (a : BitVec 4) (sz : BitVec 3) (p : BitVec 3) (off : BitVec 17) : Statement (.st d a sz p off) := by
  intro sl hs e he
  cases he
  obtain rfl := List.mem_singleton.mp hs
  rw [parse_mem _ _ _ _ _ _ _ (by decide) (by decide)]
  rfl

theorem ldx (d a b : BitVec 7) (p : BitVec 3) (sc : Bool) (sz : BitVec 3) : Statement (.ldx d a b p sc sz) := by
  intro sl hs e he
  cases he
  obtain rfl := List.mem_singleton.mp hs
  rw [parse_reg _ _ _ _ _ _ _ (by decide) (by decide)]
  simp (disch := decide) only [decMReg, resv, BitVec.extractLsb'_append_eq_of_le, BitVec.extractLsb'_append_eq_of_add_le,
    BitVec.extractLsb'_eq_self, Nat.reduceSub, bit1, getLsbD_append_lo, getLsbD_append_hi, ofBool_getLsbD]
  rfl

theorem stx (d a b : BitVec 7) (p : BitVec 3) (sc : Bool) (sz : BitVec 3) : Statement (.stx d a b p sc sz) := by
  intro sl hs e he
  cases he
  obtain rfl := List.mem_singleton.mp hs
  rw [parse_reg _ _ _ _ _ _ _ (by decide) (by decide)]
  simp (disch := decide) only [decMReg, resv, BitVec.extractLsb'_append_eq_of_le, BitVec.extractLsb'_append_eq_of_add_le,
    BitVec.extractLsb'_eq_self, Nat.reduceSub, bit1, getLsbD_append_lo, getLsbD_append_hi, ofBool_getLsbD]
  rfl

theorem qld (d a : BitVec 7) (p : BitVec 3) (ord scope : BitVec 2) (sz : BitVec 3) : Statement (.qld d a p ord scope sz) := by
  intro sl hs e he
  cases he
  obtain rfl := List.mem_singleton.mp hs
  rw [parse_reg _ _ _ _ _ _ _ (by decide) (by decide)]
  simp (disch := decide) only [decMReg, resv, BitVec.extractLsb'_append_eq_of_le, BitVec.extractLsb'_append_eq_of_add_le,
    BitVec.extractLsb'_eq_self, Nat.reduceSub]
  rfl

theorem qst (d a b : BitVec 7) (p : BitVec 3) (ord scope : BitVec 2) (sz : BitVec 3) : Statement (.qst d a b p ord scope sz) := by
  intro sl hs e he
  cases he
  obtain rfl := List.mem_singleton.mp hs
  rw [parse_reg _ _ _ _ _ _ _ (by decide) (by decide)]
  simp (disch := decide) only [decMReg, resv, BitVec.extractLsb'_append_eq_of_le, BitVec.extractLsb'_append_eq_of_add_le,
    BitVec.extractLsb'_eq_self, Nat.reduceSub]
  rfl

theorem qpop (d a : BitVec 7) (p : BitVec 3) : Statement (.qpop d a p) := by
  intro sl hs e he
  cases he
  obtain rfl := List.mem_singleton.mp hs
  rw [parse_reg _ _ _ _ _ _ _ (by decide) (by decide)]
  simp (disch := decide) only [decMReg, resv, BitVec.extractLsb'_append_eq_of_le, BitVec.extractLsb'_append_eq_of_add_le,
    BitVec.extractLsb'_eq_self, Nat.reduceSub]
  rfl

theorem qpopT (d a b : BitVec 7) (p : BitVec 3) : Statement (.qpopT d a b p) := by
  intro sl hs e he
  cases he
  obtain rfl := List.mem_singleton.mp hs
  rw [parse_reg _ _ _ _ _ _ _ (by decide) (by decide)]
  simp (disch := decide) only [decMReg, resv, BitVec.extractLsb'_append_eq_of_le, BitVec.extractLsb'_append_eq_of_add_le,
    BitVec.extractLsb'_eq_self, Nat.reduceSub]
  rfl

theorem qwait (d a : BitVec 7) (p : BitVec 3) : Statement (.qwait d a p) := by
  intro sl hs e he
  cases he
  obtain rfl := List.mem_singleton.mp hs
  rw [parse_reg _ _ _ _ _ _ _ (by decide) (by decide)]
  simp (disch := decide) only [decMReg, resv, BitVec.extractLsb'_append_eq_of_le, BitVec.extractLsb'_append_eq_of_add_le,
    BitVec.extractLsb'_eq_self, Nat.reduceSub]
  rfl

theorem qwaitAll (d a : BitVec 7) (p : BitVec 3) : Statement (.qwaitAll d a p) := by
  intro sl hs e he
  cases he
  obtain rfl := List.mem_singleton.mp hs
  rw [parse_reg _ _ _ _ _ _ _ (by decide) (by decide)]
  simp (disch := decide) only [decMReg, resv, BitVec.extractLsb'_append_eq_of_le, BitVec.extractLsb'_append_eq_of_add_le,
    BitVec.extractLsb'_eq_self, Nat.reduceSub]
  rfl

theorem fence (p : BitVec 3) (scope : BitVec 2) : Statement (.fence p scope) := by
  intro sl hs e he
  cases he
  obtain rfl := List.mem_singleton.mp hs
  rw [parse_reg _ _ _ _ _ _ _ (by decide) (by decide)]
  simp (disch := decide) only [decMReg, resv, BitVec.extractLsb'_append_eq_of_le, BitVec.extractLsb'_append_eq_of_add_le,
    BitVec.extractLsb'_eq_self, Nat.reduceSub]
  rfl

theorem amoAdd (d a b : BitVec 7) (p : BitVec 3) (ord scope : BitVec 2) (sz : BitVec 3) : Statement (.amoAdd d a b p ord scope sz) := by
  intro sl hs e he
  cases he
  obtain rfl := List.mem_singleton.mp hs
  rw [parse_reg _ _ _ _ _ _ _ (by decide) (by decide)]
  simp (disch := decide) only [decMReg, resv, BitVec.extractLsb'_append_eq_of_le, BitVec.extractLsb'_append_eq_of_add_le,
    BitVec.extractLsb'_eq_self, Nat.reduceSub]
  rfl

theorem amoSwap (d a b : BitVec 7) (p : BitVec 3) (ord scope : BitVec 2) (sz : BitVec 3) : Statement (.amoSwap d a b p ord scope sz) := by
  intro sl hs e he
  cases he
  obtain rfl := List.mem_singleton.mp hs
  rw [parse_reg _ _ _ _ _ _ _ (by decide) (by decide)]
  simp (disch := decide) only [decMReg, resv, BitVec.extractLsb'_append_eq_of_le, BitVec.extractLsb'_append_eq_of_add_le,
    BitVec.extractLsb'_eq_self, Nat.reduceSub]
  rfl

theorem amoCas (d a b : BitVec 7) (p : BitVec 3) (ord scope : BitVec 2) (sz : BitVec 3) : Statement (.amoCas d a b p ord scope sz) := by
  intro sl hs e he
  cases he
  obtain rfl := List.mem_singleton.mp hs
  rw [parse_reg _ _ _ _ _ _ _ (by decide) (by decide)]
  simp (disch := decide) only [decMReg, resv, BitVec.extractLsb'_append_eq_of_le, BitVec.extractLsb'_append_eq_of_add_le,
    BitVec.extractLsb'_eq_self, Nat.reduceSub]
  rfl

theorem amoAnd (d a b : BitVec 7) (p : BitVec 3) (ord scope : BitVec 2) (sz : BitVec 3) : Statement (.amoAnd d a b p ord scope sz) := by
  intro sl hs e he
  cases he
  obtain rfl := List.mem_singleton.mp hs
  rw [parse_reg _ _ _ _ _ _ _ (by decide) (by decide)]
  simp (disch := decide) only [decMReg, resv, BitVec.extractLsb'_append_eq_of_le, BitVec.extractLsb'_append_eq_of_add_le,
    BitVec.extractLsb'_eq_self, Nat.reduceSub]
  rfl

theorem amoOr (d a b : BitVec 7) (p : BitVec 3) (ord scope : BitVec 2) (sz : BitVec 3) : Statement (.amoOr d a b p ord scope sz) := by
  intro sl hs e he
  cases he
  obtain rfl := List.mem_singleton.mp hs
  rw [parse_reg _ _ _ _ _ _ _ (by decide) (by decide)]
  simp (disch := decide) only [decMReg, resv, BitVec.extractLsb'_append_eq_of_le, BitVec.extractLsb'_append_eq_of_add_le,
    BitVec.extractLsb'_eq_self, Nat.reduceSub]
  rfl

theorem amoXor (d a b : BitVec 7) (p : BitVec 3) (ord scope : BitVec 2) (sz : BitVec 3) : Statement (.amoXor d a b p ord scope sz) := by
  intro sl hs e he
  cases he
  obtain rfl := List.mem_singleton.mp hs
  rw [parse_reg _ _ _ _ _ _ _ (by decide) (by decide)]
  simp (disch := decide) only [decMReg, resv, BitVec.extractLsb'_append_eq_of_le, BitVec.extractLsb'_append_eq_of_add_le,
    BitVec.extractLsb'_eq_self, Nat.reduceSub]
  rfl

theorem amoMin (d a b : BitVec 7) (p : BitVec 3) (ord scope : BitVec 2) (sz : BitVec 3) : Statement (.amoMin d a b p ord scope sz) := by
  intro sl hs e he
  cases he
  obtain rfl := List.mem_singleton.mp hs
  rw [parse_reg _ _ _ _ _ _ _ (by decide) (by decide)]
  simp (disch := decide) only [decMReg, resv, BitVec.extractLsb'_append_eq_of_le, BitVec.extractLsb'_append_eq_of_add_le,
    BitVec.extractLsb'_eq_self, Nat.reduceSub]
  rfl

theorem amoMax (d a b : BitVec 7) (p : BitVec 3) (ord scope : BitVec 2) (sz : BitVec 3) : Statement (.amoMax d a b p ord scope sz) := by
  intro sl hs e he
  cases he
  obtain rfl := List.mem_singleton.mp hs
  rw [parse_reg _ _ _ _ _ _ _ (by decide) (by decide)]
  simp (disch := decide) only [decMReg, resv, BitVec.extractLsb'_append_eq_of_le, BitVec.extractLsb'_append_eq_of_add_le,
    BitVec.extractLsb'_eq_self, Nat.reduceSub]
  rfl

theorem amoMinu (d a b : BitVec 7) (p : BitVec 3) (ord scope : BitVec 2) (sz : BitVec 3) : Statement (.amoMinu d a b p ord scope sz) := by
  intro sl hs e he
  cases he
  obtain rfl := List.mem_singleton.mp hs
  rw [parse_reg _ _ _ _ _ _ _ (by decide) (by decide)]
  simp (disch := decide) only [decMReg, resv, BitVec.extractLsb'_append_eq_of_le, BitVec.extractLsb'_append_eq_of_add_le,
    BitVec.extractLsb'_eq_self, Nat.reduceSub]
  rfl

theorem amoMaxu (d a b : BitVec 7) (p : BitVec 3) (ord scope : BitVec 2) (sz : BitVec 3) : Statement (.amoMaxu d a b p ord scope sz) := by
  intro sl hs e he
  cases he
  obtain rfl := List.mem_singleton.mp hs
  rw [parse_reg _ _ _ _ _ _ _ (by decide) (by decide)]
  simp (disch := decide) only [decMReg, resv, BitVec.extractLsb'_append_eq_of_le, BitVec.extractLsb'_append_eq_of_add_le,
    BitVec.extractLsb'_eq_self, Nat.reduceSub]
  rfl

theorem amoSeq (d a b : BitVec 7) (p : BitVec 3) (op : BitVec 4) : Statement (.amoSeq d a b p op) := by
  intro sl hs e he
  cases he
  obtain rfl := List.mem_singleton.mp hs
  rw [parse_reg _ _ _ _ _ _ _ (by decide) (by decide)]
  simp (disch := decide) only [decMReg, resv, BitVec.extractLsb'_append_eq_of_le, BitVec.extractLsb'_append_eq_of_add_le,
    BitVec.extractLsb'_eq_self, Nat.reduceSub]
  rfl

theorem copy (d a b : BitVec 7) (p : BitVec 3) (e : BitVec 5) : Statement (.copy d a b p e) := by
  intro sl hs e he
  cases he
  obtain rfl := List.mem_singleton.mp hs
  rw [parse_reg _ _ _ _ _ _ _ (by decide) (by decide)]
  simp (disch := decide) only [decMReg, resv, BitVec.extractLsb'_append_eq_of_le, BitVec.extractLsb'_append_eq_of_add_le,
    BitVec.extractLsb'_eq_self, Nat.reduceSub]
  rfl

theorem cwait (d a b : BitVec 7) (p : BitVec 3) : Statement (.cwait d a b p) := by
  intro sl hs e he
  cases he
  obtain rfl := List.mem_singleton.mp hs
  rw [parse_reg _ _ _ _ _ _ _ (by decide) (by decide)]
  simp (disch := decide) only [decMReg, resv, BitVec.extractLsb'_append_eq_of_le, BitVec.extractLsb'_append_eq_of_add_le,
    BitVec.extractLsb'_eq_self, Nat.reduceSub]
  rfl

theorem cwaitW (d a b : BitVec 7) (p : BitVec 3) (k : BitVec 4) : Statement (.cwaitW d a b p k) := by
  intro sl hs e he
  cases he
  obtain rfl := List.mem_singleton.mp hs
  rw [parse_reg _ _ _ _ _ _ _ (by decide) (by decide)]
  simp (disch := decide) only [decMReg, resv, BitVec.extractLsb'_append_eq_of_le, BitVec.extractLsb'_append_eq_of_add_le,
    BitVec.extractLsb'_eq_self, Nat.reduceSub]
  rfl

theorem ctest (d a b : BitVec 7) (p : BitVec 3) : Statement (.ctest d a b p) := by
  intro sl hs e he
  cases he
  obtain rfl := List.mem_singleton.mp hs
  rw [parse_reg _ _ _ _ _ _ _ (by decide) (by decide)]
  simp (disch := decide) only [decMReg, resv, BitVec.extractLsb'_append_eq_of_le, BitVec.extractLsb'_append_eq_of_add_le,
    BitVec.extractLsb'_eq_self, Nat.reduceSub]
  rfl

theorem ctestW (d a b : BitVec 7) (p : BitVec 3) : Statement (.ctestW d a b p) := by
  intro sl hs e he
  cases he
  obtain rfl := List.mem_singleton.mp hs
  rw [parse_reg _ _ _ _ _ _ _ (by decide) (by decide)]
  simp (disch := decide) only [decMReg, resv, BitVec.extractLsb'_append_eq_of_le, BitVec.extractLsb'_append_eq_of_add_le,
    BitVec.extractLsb'_eq_self, Nat.reduceSub]
  rfl

theorem ctestRec (d a : BitVec 7) (p : BitVec 3) : Statement (.ctestRec d a p) := by
  intro sl hs e he
  cases he
  obtain rfl := List.mem_singleton.mp hs
  rw [parse_reg _ _ _ _ _ _ _ (by decide) (by decide)]
  simp (disch := decide) only [decMReg, resv, BitVec.extractLsb'_append_eq_of_le, BitVec.extractLsb'_append_eq_of_add_le,
    BitVec.extractLsb'_eq_self, Nat.reduceSub]
  rfl

theorem ctestAddr (d a : BitVec 7) (p : BitVec 3) : Statement (.ctestAddr d a p) := by
  intro sl hs e he
  cases he
  obtain rfl := List.mem_singleton.mp hs
  rw [parse_reg _ _ _ _ _ _ _ (by decide) (by decide)]
  simp (disch := decide) only [decMReg, resv, BitVec.extractLsb'_append_eq_of_le, BitVec.extractLsb'_append_eq_of_add_le,
    BitVec.extractLsb'_eq_self, Nat.reduceSub]
  rfl

theorem mldb (k a : BitVec 7) (plane : Bool) (p : BitVec 3) (bt : Bool) (t : BitVec 4) : Statement (.mldb k a plane p bt t) := by
  intro sl hs e he
  cases he
  obtain rfl := List.mem_singleton.mp hs
  rw [parse_reg _ _ _ _ _ _ _ (by decide) (by decide)]
  simp (disch := decide) only [decMReg, resv, BitVec.extractLsb'_append_eq_of_le, BitVec.extractLsb'_append_eq_of_add_le,
    BitVec.extractLsb'_eq_self, Nat.reduceSub, bit1, getLsbD_append_lo, getLsbD_append_hi, ofBool_getLsbD]
  rfl

theorem mjob (d a b : BitVec 7) (p : BitVec 3) (t : BitVec 4) : Statement (.mjob d a b p t) := by
  intro sl hs e he
  cases he
  obtain rfl := List.mem_singleton.mp hs
  rw [parse_reg _ _ _ _ _ _ _ (by decide) (by decide)]
  simp (disch := decide) only [decMReg, resv, BitVec.extractLsb'_append_eq_of_le, BitVec.extractLsb'_append_eq_of_add_le,
    BitVec.extractLsb'_eq_self, Nat.reduceSub]
  rfl

theorem mgang (d a b : BitVec 7) (p : BitVec 3) (t : BitVec 4) : Statement (.mgang d a b p t) := by
  intro sl hs e he
  cases he
  obtain rfl := List.mem_singleton.mp hs
  rw [parse_reg _ _ _ _ _ _ _ (by decide) (by decide)]
  simp (disch := decide) only [decMReg, resv, BitVec.extractLsb'_append_eq_of_le, BitVec.extractLsb'_append_eq_of_add_le,
    BitVec.extractLsb'_eq_self, Nat.reduceSub]
  rfl

theorem mgangJoin (d a b : BitVec 7) (p : BitVec 3) (t : BitVec 4) : Statement (.mgangJoin d a b p t) := by
  intro sl hs e he
  cases he
  obtain rfl := List.mem_singleton.mp hs
  rw [parse_reg _ _ _ _ _ _ _ (by decide) (by decide)]
  simp (disch := decide) only [decMReg, resv, BitVec.extractLsb'_append_eq_of_le, BitVec.extractLsb'_append_eq_of_add_le,
    BitVec.extractLsb'_eq_self, Nat.reduceSub]
  rfl

theorem pub (a b : BitVec 7) (p : BitVec 3) (ch : BitVec 6) : Statement (.pub a b p ch) := by
  intro sl hs e he
  cases he
  obtain rfl := List.mem_singleton.mp hs
  rw [parse_reg _ _ _ _ _ _ _ (by decide) (by decide)]
  simp (disch := decide) only [decXReg, resv, BitVec.extractLsb'_append_eq_of_le, BitVec.extractLsb'_append_eq_of_add_le,
    BitVec.extractLsb'_eq_self, Nat.reduceSub]
  rfl

theorem sub (d b : BitVec 7) (p : BitVec 3) (ch : BitVec 6) : Statement (.sub d b p ch) := by
  intro sl hs e he
  cases he
  obtain rfl := List.mem_singleton.mp hs
  rw [parse_reg _ _ _ _ _ _ _ (by decide) (by decide)]
  simp (disch := decide) only [decXReg, resv, BitVec.extractLsb'_append_eq_of_le, BitVec.extractLsb'_append_eq_of_add_le,
    BitVec.extractLsb'_eq_self, Nat.reduceSub]
  rfl

theorem unsub (d b : BitVec 7) (p : BitVec 3) (ch : BitVec 6) : Statement (.unsub d b p ch) := by
  intro sl hs e he
  cases he
  obtain rfl := List.mem_singleton.mp hs
  rw [parse_reg _ _ _ _ _ _ _ (by decide) (by decide)]
  simp (disch := decide) only [decXReg, resv, BitVec.extractLsb'_append_eq_of_le, BitVec.extractLsb'_append_eq_of_add_le,
    BitVec.extractLsb'_eq_self, Nat.reduceSub]
  rfl

theorem recv (a b : BitVec 7) (p : BitVec 3) (ch : BitVec 6) : Statement (.recv a b p ch) := by
  intro sl hs e he
  cases he
  obtain rfl := List.mem_singleton.mp hs
  rw [parse_reg _ _ _ _ _ _ _ (by decide) (by decide)]
  simp (disch := decide) only [decXReg, resv, BitVec.extractLsb'_append_eq_of_le, BitVec.extractLsb'_append_eq_of_add_le,
    BitVec.extractLsb'_eq_self, Nat.reduceSub]
  rfl

theorem recva (a b : BitVec 7) (p : BitVec 3) (sat : Bool) (ch : BitVec 6) : Statement (.recva a b p sat ch) := by
  intro sl hs e he
  cases he
  obtain rfl := List.mem_singleton.mp hs
  rw [parse_reg _ _ _ _ _ _ _ (by decide) (by decide)]
  simp (disch := decide) only [decXReg, resv, BitVec.extractLsb'_append_eq_of_le, BitVec.extractLsb'_append_eq_of_add_le,
    BitVec.extractLsb'_eq_self, Nat.reduceSub, bit1, getLsbD_append_lo, getLsbD_append_hi, ofBool_getLsbD]
  rfl

theorem peek (d b : BitVec 7) (p : BitVec 3) (ch : BitVec 6) : Statement (.peek d b p ch) := by
  intro sl hs e he
  cases he
  obtain rfl := List.mem_singleton.mp hs
  rw [parse_reg _ _ _ _ _ _ _ (by decide) (by decide)]
  simp (disch := decide) only [decXReg, resv, BitVec.extractLsb'_append_eq_of_le, BitVec.extractLsb'_append_eq_of_add_le,
    BitVec.extractLsb'_eq_self, Nat.reduceSub]
  rfl

theorem halo (a b : BitVec 7) (p : BitVec 3) (ch : BitVec 6) : Statement (.halo a b p ch) := by
  intro sl hs e he
  cases he
  obtain rfl := List.mem_singleton.mp hs
  rw [parse_reg _ _ _ _ _ _ _ (by decide) (by decide)]
  simp (disch := decide) only [decXReg, resv, BitVec.extractLsb'_append_eq_of_le, BitVec.extractLsb'_append_eq_of_add_le,
    BitVec.extractLsb'_eq_self, Nat.reduceSub]
  rfl

theorem haloR (a b : BitVec 7) (p : BitVec 3) (ch : BitVec 6) : Statement (.haloR a b p ch) := by
  intro sl hs e he
  cases he
  obtain rfl := List.mem_singleton.mp hs
  rw [parse_reg _ _ _ _ _ _ _ (by decide) (by decide)]
  simp (disch := decide) only [decXReg, resv, BitVec.extractLsb'_append_eq_of_le, BitVec.extractLsb'_append_eq_of_add_le,
    BitVec.extractLsb'_eq_self, Nat.reduceSub]
  rfl

theorem nameq (d b : BitVec 7) (p : BitVec 3) (ch : BitVec 6) : Statement (.nameq d b p ch) := by
  intro sl hs e he
  cases he
  obtain rfl := List.mem_singleton.mp hs
  rw [parse_reg _ _ _ _ _ _ _ (by decide) (by decide)]
  simp (disch := decide) only [decXReg, resv, BitVec.extractLsb'_append_eq_of_le, BitVec.extractLsb'_append_eq_of_add_le,
    BitVec.extractLsb'_eq_self, Nat.reduceSub]
  rfl

theorem nameqN (d b : BitVec 7) (p : BitVec 3) (ch : BitVec 6) : Statement (.nameqN d b p ch) := by
  intro sl hs e he
  cases he
  obtain rfl := List.mem_singleton.mp hs
  rw [parse_reg _ _ _ _ _ _ _ (by decide) (by decide)]
  simp (disch := decide) only [decXReg, resv, BitVec.extractLsb'_append_eq_of_le, BitVec.extractLsb'_append_eq_of_add_le,
    BitVec.extractLsb'_eq_self, Nat.reduceSub]
  rfl

theorem spawn (d a b : BitVec 7) (p : BitVec 3) (l : BitVec 3) : Statement (.spawn d a b p l) := by
  intro sl hs e he
  cases he
  obtain rfl := List.mem_singleton.mp hs
  rw [parse_reg _ _ _ _ _ _ _ (by decide) (by decide)]
  simp (disch := decide) only [decXReg, resv, BitVec.extractLsb'_append_eq_of_le, BitVec.extractLsb'_append_eq_of_add_le,
    BitVec.extractLsb'_eq_self, Nat.reduceSub]
  rfl

theorem tinst (a b : BitVec 7) (p : BitVec 3) (l : BitVec 3) : Statement (.tinst a b p l) := by
  intro sl hs e he
  cases he
  obtain rfl := List.mem_singleton.mp hs
  rw [parse_reg _ _ _ _ _ _ _ (by decide) (by decide)]
  simp (disch := decide) only [decXReg, resv, BitVec.extractLsb'_append_eq_of_le, BitVec.extractLsb'_append_eq_of_add_le,
    BitVec.extractLsb'_eq_self, Nat.reduceSub]
  rfl

theorem exit (p : BitVec 3) : Statement (.exit p) := by
  intro sl hs e he
  cases he
  obtain rfl := List.mem_singleton.mp hs
  rw [parse_reg _ _ _ _ _ _ _ (by decide) (by decide)]
  rfl

theorem barr (a : BitVec 7) (p : BitVec 3) : Statement (.barr a p) := by
  intro sl hs e he
  cases he
  obtain rfl := List.mem_singleton.mp hs
  rw [parse_reg _ _ _ _ _ _ _ (by decide) (by decide)]
  rfl

theorem bwait (d a : BitVec 7) (p : BitVec 3) : Statement (.bwait d a p) := by
  intro sl hs e he
  cases he
  obtain rfl := List.mem_singleton.mp hs
  rw [parse_reg _ _ _ _ _ _ _ (by decide) (by decide)]
  rfl

theorem btest (d a : BitVec 7) (p : BitVec 3) : Statement (.btest d a p) := by
  intro sl hs e he
  cases he
  obtain rfl := List.mem_singleton.mp hs
  rw [parse_reg _ _ _ _ _ _ _ (by decide) (by decide)]
  rfl

theorem bset (a b : BitVec 7) (p : BitVec 3) : Statement (.bset a b p) := by
  intro sl hs e he
  cases he
  obtain rfl := List.mem_singleton.mp hs
  rw [parse_reg _ _ _ _ _ _ _ (by decide) (by decide)]
  rfl

theorem migrate (a b : BitVec 7) (p : BitVec 3) : Statement (.migrate a b p) := by
  intro sl hs e he
  cases he
  obtain rfl := List.mem_singleton.mp hs
  rw [parse_reg _ _ _ _ _ _ _ (by decide) (by decide)]
  rfl

theorem tsrc (d a b : BitVec 7) (p : BitVec 3) : Statement (.tsrc d a b p) := by
  intro sl hs e he
  cases he
  obtain rfl := List.mem_singleton.mp hs
  rw [parse_reg _ _ _ _ _ _ _ (by decide) (by decide)]
  rfl

theorem tadd (d a : BitVec 7) (p : BitVec 3) : Statement (.tadd d a p) := by
  intro sl hs e he
  cases he
  obtain rfl := List.mem_singleton.mp hs
  rw [parse_reg _ _ _ _ _ _ _ (by decide) (by decide)]
  rfl

theorem tarm (a b : BitVec 7) (p : BitVec 3) : Statement (.tarm a b p) := by
  intro sl hs e he
  cases he
  obtain rfl := List.mem_singleton.mp hs
  rw [parse_reg _ _ _ _ _ _ _ (by decide) (by decide)]
  rfl

theorem tdis (a : BitVec 7) (p : BitVec 3) : Statement (.tdis a p) := by
  intro sl hs e he
  cases he
  obtain rfl := List.mem_singleton.mp hs
  rw [parse_reg _ _ _ _ _ _ _ (by decide) (by decide)]
  rfl

theorem tget (d a : BitVec 7) (p : BitVec 3) : Statement (.tget d a p) := by
  intro sl hs e he
  cases he
  obtain rfl := List.mem_singleton.mp hs
  rw [parse_reg _ _ _ _ _ _ _ (by decide) (by decide)]
  rfl

theorem tgetSlot (d b : BitVec 7) (p : BitVec 3) : Statement (.tgetSlot d b p) := by
  intro sl hs e he
  cases he
  obtain rfl := List.mem_singleton.mp hs
  rw [parse_reg _ _ _ _ _ _ _ (by decide) (by decide)]
  rfl

theorem tgetRes (d b : BitVec 7) (p : BitVec 3) : Statement (.tgetRes d b p) := by
  intro sl hs e he
  cases he
  obtain rfl := List.mem_singleton.mp hs
  rw [parse_reg _ _ _ _ _ _ _ (by decide) (by decide)]
  rfl

theorem tset (d a : BitVec 7) (p : BitVec 3) : Statement (.tset d a p) := by
  intro sl hs e he
  cases he
  obtain rfl := List.mem_singleton.mp hs
  rw [parse_reg _ _ _ _ _ _ _ (by decide) (by decide)]
  rfl

theorem coll (d a b : BitVec 7) (p : BitVec 3) (ch : BitVec 6) : Statement (.coll d a b p ch) := by
  intro sl hs e he
  cases he
  obtain rfl := List.mem_singleton.mp hs
  rw [parse_reg _ _ _ _ _ _ _ (by decide) (by decide)]
  simp (disch := decide) only [decXReg, resv, BitVec.extractLsb'_append_eq_of_le, BitVec.extractLsb'_append_eq_of_add_le,
    BitVec.extractLsb'_eq_self, Nat.reduceSub]
  rfl

theorem colw (d : BitVec 7) (p : BitVec 3) (ch : BitVec 6) : Statement (.colw d p ch) := by
  intro sl hs e he
  cases he
  obtain rfl := List.mem_singleton.mp hs
  rw [parse_reg _ _ _ _ _ _ _ (by decide) (by decide)]
  simp (disch := decide) only [decXReg, resv, BitVec.extractLsb'_append_eq_of_le, BitVec.extractLsb'_append_eq_of_add_le,
    BitVec.extractLsb'_eq_self, Nat.reduceSub]
  rfl

theorem colt (d : BitVec 7) (p : BitVec 3) (ch : BitVec 6) : Statement (.colt d p ch) := by
  intro sl hs e he
  cases he
  obtain rfl := List.mem_singleton.mp hs
  rw [parse_reg _ _ _ _ _ _ _ (by decide) (by decide)]
  simp (disch := decide) only [decXReg, resv, BitVec.extractLsb'_append_eq_of_le, BitVec.extractLsb'_append_eq_of_add_le,
    BitVec.extractLsb'_eq_self, Nat.reduceSub]
  rfl

theorem snap (a : BitVec 7) (p : BitVec 3) : Statement (.snap a p) := by
  intro sl hs e he
  cases he
  obtain rfl := List.mem_singleton.mp hs
  rw [parse_reg _ _ _ _ _ _ _ (by decide) (by decide)]
  rfl

theorem snrd (d : BitVec 7) (p : BitVec 3) : Statement (.snrd d p) := by
  intro sl hs e he
  cases he
  obtain rfl := List.mem_singleton.mp hs
  rw [parse_reg _ _ _ _ _ _ _ (by decide) (by decide)]
  simp (disch := decide) only [decXReg, resv, BitVec.extractLsb'_append_eq_of_le, BitVec.extractLsb'_append_eq_of_add_le,
    BitVec.extractLsb'_eq_self, Nat.reduceSub]
  rfl

theorem snrdRb (d : BitVec 7) (p : BitVec 3) : Statement (.snrdRb d p) := by
  intro sl hs e he
  cases he
  obtain rfl := List.mem_singleton.mp hs
  rw [parse_reg _ _ _ _ _ _ _ (by decide) (by decide)]
  simp (disch := decide) only [decXReg, resv, BitVec.extractLsb'_append_eq_of_le, BitVec.extractLsb'_append_eq_of_add_le,
    BitVec.extractLsb'_eq_self, Nat.reduceSub]
  rfl

theorem exposedResultLand (core : Nat) : Statement (.exposedResultLand core) := by
  intro sl hs; cases hs

theorem stalledBundleIssue (core : Nat) : Statement (.stalledBundleIssue core) := by
  intro sl hs; cases hs

theorem impreciseFault (core : Nat) : Statement (.impreciseFault core) := by
  intro sl hs; cases hs

theorem xOpAccept (core : Nat) : Statement (.xOpAccept core) := by
  intro sl hs; cases hs

theorem queueRequestSend (core q : Nat) : Statement (.queueRequestSend core q) := by
  intro sl hs; cases hs

theorem queueAccessPerform (core q i : Nat) : Statement (.queueAccessPerform core q i) := by
  intro sl hs; cases hs

theorem pageWalk (g ctx va : Nat) : Statement (.pageWalk g ctx va) := by
  intro sl hs; cases hs

theorem scoreboardEntryRelease (core id : Nat) : Statement (.scoreboardEntryRelease core id) := by
  intro sl hs; cases hs

theorem vectorJobStart (core : Nat) : Statement (.vectorJobStart core) := by
  intro sl hs; cases hs

theorem vectorJobComplete (core : Nat) : Statement (.vectorJobComplete core) := by
  intro sl hs; cases hs

theorem copyRunPerform (core job run : Nat) : Statement (.copyRunPerform core job run) := by
  intro sl hs; cases hs

theorem copyFinish (core job : Nat) : Statement (.copyFinish core job) := by
  intro sl hs; cases hs

theorem mldbLoadStart (core : Nat) : Statement (.mldbLoadStart core) := by
  intro sl hs; cases hs

theorem planeLoaded (core : Nat) : Statement (.planeLoaded core) := by
  intro sl hs; cases hs

theorem matrixJobStart (core : Nat) : Statement (.matrixJobStart core) := by
  intro sl hs; cases hs

theorem matrixJobComplete (core : Nat) : Statement (.matrixJobComplete core) := by
  intro sl hs; cases hs

theorem governorWindow (g : Nat) : Statement (.governorWindow g) := by
  intro sl hs; cases hs

theorem planeTransfer (g job m : Nat) : Statement (.planeTransfer g job m) := by
  intro sl hs; cases hs

theorem gangWindowExpire (g job : Nat) : Statement (.gangWindowExpire g job) := by
  intro sl hs; cases hs

theorem gangCompletion (g job : Nat) : Statement (.gangCompletion g job) := by
  intro sl hs; cases hs

theorem gangArrivalCount (g job : Nat) : Statement (.gangArrivalCount g job) := by
  intro sl hs; cases hs

theorem launchStartTick (ctx : Nat) : Statement (.launchStartTick ctx) := by
  intro sl hs; cases hs

theorem taskStart (g : Nat) : Statement (.taskStart g) := by
  intro sl hs; cases hs

theorem taskAging (g i : Nat) : Statement (.taskAging g i) := by
  intro sl hs; cases hs

theorem preemptStart (g : Nat) : Statement (.preemptStart g) := by
  intro sl hs; cases hs

theorem spillComplete (g i : Nat) : Statement (.spillComplete g i) := by
  intro sl hs; cases hs

theorem restoreComplete (g i : Nat) : Statement (.restoreComplete g i) := by
  intro sl hs; cases hs

theorem exitDrainEnd (g i : Nat) : Statement (.exitDrainEnd g i) := by
  intro sl hs; cases hs

theorem recordFree (g i : Nat) : Statement (.recordFree g i) := by
  intro sl hs; cases hs

theorem containmentComplete (g i : Nat) : Statement (.containmentComplete g i) := by
  intro sl hs; cases hs

theorem tagLeaseRefill (g k : Nat) : Statement (.tagLeaseRefill g k) := by
  intro sl hs; cases hs

theorem tagLeaseReturn (g k : Nat) : Statement (.tagLeaseReturn g k) := by
  intro sl hs; cases hs

theorem reservedTagGrant (g k : Nat) : Statement (.reservedTagGrant g k) := by
  intro sl hs; cases hs

theorem barrierArrival (g bar : Nat) : Statement (.barrierArrival g bar) := by
  intro sl hs; cases hs

theorem migrationArrive (k : Nat) : Statement (.migrationArrive k) := by
  intro sl hs; cases hs

theorem pubAdmit (g k : Nat) : Statement (.pubAdmit g k) := by
  intro sl hs; cases hs

theorem admitWindowRoll (g : Nat) : Statement (.admitWindowRoll g) := by
  intro sl hs; cases hs

theorem packetForward (g k : Nat) : Statement (.packetForward g k) := by
  intro sl hs; cases hs

theorem rootAccept (g k : Nat) : Statement (.rootAccept g k) := by
  intro sl hs; cases hs

theorem pubRetry (g k : Nat) : Statement (.pubRetry g k) := by
  intro sl hs; cases hs

theorem landingReserve (g : Nat) : Statement (.landingReserve g) := by
  intro sl hs; cases hs

theorem subRegister (g k : Nat) : Statement (.subRegister g k) := by
  intro sl hs; cases hs

theorem subWithdraw (g k : Nat) : Statement (.subWithdraw g k) := by
  intro sl hs; cases hs

theorem chunkLand (g k : Nat) : Statement (.chunkLand g k) := by
  intro sl hs; cases hs

theorem recvDeliver (core k : Nat) : Statement (.recvDeliver core k) := by
  intro sl hs; cases hs

theorem deliveryAckTimeout (g k : Nat) : Statement (.deliveryAckTimeout g k) := by
  intro sl hs; cases hs

theorem retentionExpire (g k : Nat) : Statement (.retentionExpire g k) := by
  intro sl hs; cases hs

theorem versionUnpin (g k : Nat) : Statement (.versionUnpin g k) := by
  intro sl hs; cases hs

theorem nameqQuery (g k : Nat) : Statement (.nameqQuery g k) := by
  intro sl hs; cases hs

theorem commit (g k : Nat) : Statement (.commit g k) := by
  intro sl hs; cases hs

theorem discard (g k : Nat) : Statement (.discard g k) := by
  intro sl hs; cases hs

theorem triadVote (g k : Nat) : Statement (.triadVote g k) := by
  intro sl hs; cases hs

theorem keepWriteback (rim k : Nat) : Statement (.keepWriteback rim k) := by
  intro sl hs; cases hs

theorem writebackComplete (g k : Nat) : Statement (.writebackComplete g k) := by
  intro sl hs; cases hs

theorem rimFetch (rim k : Nat) : Statement (.rimFetch rim k) := by
  intro sl hs; cases hs

theorem counterEvent (g n : Nat) : Statement (.counterEvent g n) := by
  intro sl hs; cases hs

theorem triggerOpStart (g : Nat) : Statement (.triggerOpStart g) := by
  intro sl hs; cases hs

theorem triggerOpComplete (g slot : Nat) : Statement (.triggerOpComplete g slot) := by
  intro sl hs; cases hs

theorem collActivate (core : Nat) (cls : Bool) : Statement (.collActivate core cls) := by
  intro sl hs; cases hs

theorem collSegmentStart (core : Nat) (cls : Bool) : Statement (.collSegmentStart core cls) := by
  intro sl hs; cases hs

theorem collContribution (g k : Nat) : Statement (.collContribution g k) := by
  intro sl hs; cases hs

theorem collComplete (core k : Nat) : Statement (.collComplete core k) := by
  intro sl hs; cases hs

theorem lanternArrive (ctx node chan : Nat) : Statement (.lanternArrive ctx node chan) := by
  intro sl hs; cases hs

theorem chunkWriteout (ctx core chunk : Nat) : Statement (.chunkWriteout ctx core chunk) := by
  intro sl hs; cases hs

theorem pageWriteout (ctx va : Nat) : Statement (.pageWriteout ctx va) := by
  intro sl hs; cases hs

theorem captureReport (ctx node : Nat) : Statement (.captureReport ctx node) := by
  intro sl hs; cases hs

theorem remoteRequestArrive (slice src seq : Nat) (cls : Bool) (op sz off : Nat) (v w : BitVec 64) : Statement (.remoteRequestArrive slice src seq cls op sz off v w) := by
  intro sl hs; cases hs

theorem remoteRetransmit (core k : Nat) : Statement (.remoteRetransmit core k) := by
  intro sl hs; cases hs

theorem remoteRequestExpire (core k : Nat) : Statement (.remoteRequestExpire core k) := by
  intro sl hs; cases hs

theorem dupEntryRetire (slice k : Nat) : Statement (.dupEntryRetire slice k) := by
  intro sl hs; cases hs

theorem tokenVisit (rim : Nat) : Statement (.tokenVisit rim) := by
  intro sl hs; cases hs

theorem tokenRegenerate : Statement .tokenRegenerate := by
  intro sl hs; cases hs

theorem scrubStep (stack : Nat) : Statement (.scrubStep stack) := by
  intro sl hs; cases hs

theorem loadImage (qp : Nat) (cmd : List (BitVec 8)) (choice : List Nat) : Statement (.loadImage qp cmd choice) := by
  intro sl hs; cases hs

theorem loadImageFirmware (qp : Nat) (cmd : List (BitVec 8)) : Statement (.loadImageFirmware qp cmd) := by
  intro sl hs; cases hs

theorem loadImageSupervisor (qp : Nat) (cmd : List (BitVec 8)) : Statement (.loadImageSupervisor qp cmd) := by
  intro sl hs; cases hs

theorem launch (qp : Nat) (cmd : List (BitVec 8)) (choice : List Nat) : Statement (.launch qp cmd choice) := by
  intro sl hs; cases hs

theorem launchSupervisor (qp : Nat) (cmd : List (BitVec 8)) : Statement (.launchSupervisor qp cmd) := by
  intro sl hs; cases hs

theorem migrateCmd (qp : Nat) (cmd : List (BitVec 8)) : Statement (.migrateCmd qp cmd) := by
  intro sl hs; cases hs

theorem snapshot (qp : Nat) (cmd : List (BitVec 8)) : Statement (.snapshot qp cmd) := by
  intro sl hs; cases hs

theorem rollback (qp : Nat) (cmd : List (BitVec 8)) : Statement (.rollback qp cmd) := by
  intro sl hs; cases hs

theorem partitionMerge (qp : Nat) (cmd : List (BitVec 8)) (choice : List Nat) : Statement (.partitionMerge qp cmd choice) := by
  intro sl hs; cases hs

theorem partitionSplit (qp : Nat) (cmd : List (BitVec 8)) (choice : List Nat) : Statement (.partitionSplit qp cmd choice) := by
  intro sl hs; cases hs

theorem summary (qp : Nat) (cmd : List (BitVec 8)) : Statement (.summary qp cmd) := by
  intro sl hs; cases hs

theorem resetContext (qp : Nat) (cmd : List (BitVec 8)) : Statement (.resetContext qp cmd) := by
  intro sl hs; cases hs

theorem resetContextClear (qp : Nat) (cmd : List (BitVec 8)) : Statement (.resetContextClear qp cmd) := by
  intro sl hs; cases hs

theorem resetContextFree (qp : Nat) (cmd : List (BitVec 8)) : Statement (.resetContextFree qp cmd) := by
  intro sl hs; cases hs

theorem unknownCommand (qp : Nat) (cmd : List (BitVec 8)) : Statement (.unknownCommand qp cmd) := by
  intro sl hs; cases hs

theorem rdmaWrite (qp rkey addr : Nat) (data : List (BitVec 8)) : Statement (.rdmaWrite qp rkey addr data) := by
  intro sl hs; cases hs

theorem rdmaRead (qp rkey addr len : Nat) : Statement (.rdmaRead qp rkey addr len) := by
  intro sl hs; cases hs

theorem rdmaInvalid (qp opcode : Nat) : Statement (.rdmaInvalid qp opcode) := by
  intro sl hs; cases hs

theorem faultNotify (k : Nat) : Statement (.faultNotify k) := by
  intro sl hs; cases hs

theorem moduleReset : Statement .moduleReset := by
  intro sl hs; cases hs

theorem bringupReport (kind idx : Nat) (ready : Bool) (info : Nat) : Statement (.bringupReport kind idx ready info) := by
  intro sl hs; cases hs

theorem startTimeout : Statement .startTimeout := by
  intro sl hs; cases hs

theorem ptpMessage (port time : Nat) : Statement (.ptpMessage port time) := by
  intro sl hs; cases hs

theorem ptpMasterLoss (port : Nat) : Statement (.ptpMasterLoss port) := by
  intro sl hs; cases hs

theorem syncSymbol (time err : Nat) : Statement (.syncSymbol time err) := by
  intro sl hs; cases hs

theorem powerMeasure (watts : Nat) : Statement (.powerMeasure watts) := by
  intro sl hs; cases hs

theorem hotGroveEvent (g temp : Nat) : Statement (.hotGroveEvent g temp) := by
  intro sl hs; cases hs

theorem hotGroveClear (g temp : Nat) : Statement (.hotGroveClear g temp) := by
  intro sl hs; cases hs

theorem groveWithdraw (g reason : Nat) : Statement (.groveWithdraw g reason) := by
  intro sl hs; cases hs

theorem groveReturn (g : Nat) : Statement (.groveReturn g) := by
  intro sl hs; cases hs

theorem forcedFlushMove (ctx : Nat) : Statement (.forcedFlushMove ctx) := by
  intro sl hs; cases hs

theorem ctxFlush (ctx : Nat) : Statement (.ctxFlush ctx) := by
  intro sl hs; cases hs

theorem flushComplete (ctx : Nat) : Statement (.flushComplete ctx) := by
  intro sl hs; cases hs

theorem seedWrite (ctx : Nat) (v : BitVec 64) : Statement (.seedWrite ctx v) := by
  intro sl hs; cases hs

theorem rootovrWrite (ctx i : Nat) (v : BitVec 64) : Statement (.rootovrWrite ctx i v) := by
  intro sl hs; cases hs

theorem sliceSplitWrite (slice : Nat) (v : BitVec 64) : Statement (.sliceSplitWrite slice v) := by
  intro sl hs; cases hs

theorem partmapWrite (v : BitVec 64) : Statement (.partmapWrite v) := by
  intro sl hs; cases hs

theorem seamQuiesce (seam : Nat) (v : BitVec 64) : Statement (.seamQuiesce seam v) := by
  intro sl hs; cases hs

theorem seamQuiesced (seam : Nat) : Statement (.seamQuiesced seam) := by
  intro sl hs; cases hs

theorem seamQuiesceTimeout (seam : Nat) : Statement (.seamQuiesceTimeout seam) := by
  intro sl hs; cases hs

theorem seamOpen (seam : Nat) : Statement (.seamOpen seam) := by
  intro sl hs; cases hs

theorem seamClose (seam : Nat) : Statement (.seamClose seam) := by
  intro sl hs; cases hs

theorem ilvWrite (part : Nat) (v : BitVec 64) : Statement (.ilvWrite part v) := by
  intro sl hs; cases hs

theorem hbmClearComplete (part : Nat) : Statement (.hbmClearComplete part) := by
  intro sl hs; cases hs

theorem shootdown (v : BitVec 64) : Statement (.shootdown v) := by
  intro sl hs; cases hs

theorem grantWrite (g ctx : Nat) (v : BitVec 64) : Statement (.grantWrite g ctx v) := by
  intro sl hs; cases hs

theorem registerWrite (addr v : BitVec 64) : Statement (.registerWrite addr v) := by
  intro sl hs; cases hs

theorem softError (addr bit : Nat) : Statement (.softError addr bit) := by
  intro sl hs; cases hs

theorem readinessLost (kind idx : Nat) : Statement (.readinessLost kind idx) := by
  intro sl hs; cases hs

theorem readinessRegained (kind idx : Nat) : Statement (.readinessRegained kind idx) := by
  intro sl hs; cases hs

theorem landingAcknowledgement (g k : Nat) : Statement (.landingAcknowledgement g k) := by
  intro sl hs; cases hs

theorem sequenceNumberFree (core k : Nat) : Statement (.sequenceNumberFree core k) := by
  intro sl hs; cases hs

end Sys2Proof.Laws.Encodes
end

