-- ==== Sys2Proof/Tests/Slice0.lean ====
section
/-!
SUPPORT. Tests: ill-formed terms that the checks refuse, words that the spec prints, single steps on small states, and for the
statements with hypotheses a state and operands that meet them (`meets_<statement>`).
-/

namespace Sys2Proof.Tests
set_option Elab.async false
open Sys2Proof Sys2Proof.Machine

/-! ### Small states -/

/-- A core that runs a task in user mode. -/
def task : Core := { Core.reset with mode := .running }
/-- A core that runs in supervisor mode. -/
def supervisor : Core := { task with kstat := 1 }
/-- A state in which core 0 issues. -/
def on (c : Core) : State := State.reset.setCore 0 c
/-- A task in user mode on core 0. -/
def user : State := on task
/-- A supervisor on core 0. -/
def sup : State := on supervisor
/-- Do operations take effect in a state? -/
def opensAll (s : State) (l : List Sys2Proof.Instr) : Bool := l.all s.opens
/-- Are operations neither stopped nor held in a state? -/
def clearAll (s : State) (l : List Sys2Proof.Instr) : Bool := l.all s.clear

/-! ### Ill-formed terms are refused (R71, R75) -/

theorem test_wf_accepts : (Sys2Proof.Instr.add 5 5 6 0).wf = true := by decide +kernel
theorem test_wf_s_file : (Sys2Proof.Instr.add 32 5 6 0).illegal? = some (.file, some ⟨.s, 32⟩) := by decide +kernel
theorem test_wf_p_file : (Sys2Proof.Instr.cmpp 8 1 2 0 0).illegal? = some (.file, some ⟨.p, 8⟩) := by decide +kernel
theorem test_wf_h_file : (Sys2Proof.Instr.vjfill 16 0 0).illegal? = some (.file, some ⟨.h, 16⟩) := by decide +kernel
theorem test_wf_queue : (Sys2Proof.Instr.qpop 1 8 0).illegal?.map (·.1) = some .file := by decide +kernel
theorem test_wf_condition : (Sys2Proof.Instr.cmp 1 2 3 0 6).illegal?.map (·.1) = some .fn := by decide +kernel
theorem test_wf_type : (Sys2Proof.Instr.vadd 1 2 3 0 false false 7).illegal?.map (·.1) = some .fn := by decide +kernel
theorem test_wf_kreg : (Sys2Proof.Instr.krd 1 0 0x11).illegal?.map (·.1) = some .kreg := by decide +kernel
theorem test_wf_shift : (Sys2Proof.Instr.shli 1 2 0 64).illegal?.map (·.1) = some .fn := by decide +kernel
theorem test_wf_level : (Sys2Proof.Instr.loop 6 1 0 3).wf = false := by decide +kernel
theorem test_wf_scope : (Sys2Proof.Instr.qld 1 2 0 0 1 6).illegal?.map (·.1) = some .fn := by decide +kernel

/-! ### Words that the spec prints -/

theorem test_decode_c : (slotOfWord 0x02529800, slotOfWord 0x3E300001, slotOfWord 0x6204800B) =
    (some (.c, .add 5 5 6 0), some (.c, .li 3 1), some (.c, .kwr 9 0 0xB)) := by decide +kernel
theorem test_decode_v : (slotOfWord 0x80429802, slotOfWord 0x9E100062, slotOfWord 0xDC104000) =
    (some (.v, .vadd 4 5 6 0 false false 2), some (.v, .vmovIdx 1 0 2), some (.v, .vjcvt 1 0 0 true 0 0 0)) := by
  decide +kernel
theorem test_decode_m : (decodeSlot .m 0x42112400 none).toOption = some (.cwait 1 2 9 0) ∧
    (decodeSlot .m 0x50008200 none).toOption = some (.mldb 0 1 false 4 false 0) := by decide +kernel
theorem test_decode_x : (decodeSlot .x 0x42508000 none).toOption = some (.tadd 5 1 0) ∧
    (decodeSlot .x 0x0E008040 none).toOption = some (.haloR 1 0 0 0) := by decide +kernel
/-- R90's bundle: an addi in S1 whose immediate takes its upper bits from the header. -/
theorem test_decode_header : ((decodeBundle 0x000000000252A00030738BB8F2000100).map fun o => (o.slot, o.op.toOption, o.first)) =
    [(.c, some .nop, false), (.v, (decodeSlot .v 0x30738BB8 (some 0)).toOption, false),
     (.m, (decodeSlot .m 0x0252A000 (some 2)).toOption, false), (.x, some .nop, false)] := by decide +kernel
theorem test_decode_unassigned : (decodeSlot .c 0x7E000000 none).toOption = none ∧ (decodeSlot .v 0x20000000 none).toOption = none := by
  decide +kernel

/-! ### Scalar, control and system operations -/

theorem meets_ScalarArithmeticResults : opensAll user [.add 1 2 3 0, .isub 31 0 31 0, .and 1 2 3 0, .or 1 2 3 0, .xor 1 2 3 0,
    .andn 1 2 3 0, .shl 1 2 3 0, .shr 1 2 3 0, .sar 1 2 3 0, .min 1 2 3 0, .max 1 2 3 0, .minu 1 2 3 0, .maxu 0 2 3 0] = true := by
  decide +kernel
theorem meets_CountsMultiplyDivideResults :
    let s := on { task with s := (task.s.set 1 (BitVec.intMin 64)).set 2 (BitVec.allOnes 64) }
    opensAll s [.bcntPop 3 1 0, .bcntLz 3 1 0, .bcntTz 3 0 0, .mul 3 1 2 0, .mulh 3 1 2 0, .mulhu 3 1 2 0, .div 3 1 2 0,
      .divu 3 1 0 0, .rem 3 1 2 0, .remu 3 1 2 0] = true ∧
    s.me.rs 1 = BitVec.intMin 64 ∧ s.me.rs 2 = BitVec.allOnes 64 ∧ (∀ k, k < 64 → (s.me.rs 0).getLsbD k = false) := by
  decide +kernel
theorem meets_ImmediatesComparesAndMovesResults : opensAll user [.addi 1 2 0 0x40000, .andi 1 2 0 1, .ori 1 2 0 1, .xori 1 2 0 1,
    .shli 1 2 0 63, .shri 1 2 0 0, .sari 1 2 0 63, .li 1 0x80000, .lsh 1 5, .cmp 1 2 3 0 5, .cmpp 1 2 3 0 0, .sel 1 2 3 0 7,
    .adda 15 1 2 0, .movaAS 1 2 0, .movaSA 1 2 0, .movaAA 1 2 0, .movaSN 1 5 0] = true := by decide +kernel
theorem meets_BranchesAndLoops :
    let s := on { task with s := task.s.set 1 5, p := (task.p.set 1 3).set 2 1 }
    opensAll s [.br 1 1 0x1000, .brp 1 2 5, .jmp 7, .call 1 9, .jr 1 0, .jrLink 2 1 0, .ret 1 0, .loop 0 1 0 3, .loop 5 0 0 1,
      .lstr 1 2 0 5] = true ∧
    opensAll s [.brv 1 0 5, .brv 1 1 5, .brv 2 3 5, .brv 2 1 5] = true ∧
    s.me.rp 1 &&& s.me.rp 1 = s.me.rp 1 ∧ s.me.rp 1 ≠ 0 ∧ s.me.rp 2 &&& s.me.rp 3 = 0 ∧
    s.me.rp 2 &&& s.me.rp 1 ≠ 0 ∧ s.me.rp 2 &&& s.me.rp 1 ≠ s.me.rp 1 := by decide +kernel
theorem meets_SystemOperations :
    let s := on { supervisor with kpwin := 0x10010, window := List.replicate 16 7, s := (task.s.set 1 4).set 2 8, kepc := 0x10050003 }
    opensAll s [.trap 0 0xFFF, .krd 1 0 0x10, .kwr 1 0 6, .kwr 1 0 0xB, .eret, .ldpw 1 1 0 0, .ldpw 1 2 0 0, .ldpw 1 2 0 8] = true ∧
    opensAll user [.ldpw 1 0 0 0] = true ∧ s.me.kpwin.getLsbD 16 = true ∧ user.me.kpwin.getLsbD 16 = false ∧ s.me.board = [] ∧
    (s.me.rs 2).toNat + 8 ≤ s.me.kpwin.toNat % 2 ^ 13 := by decide +kernel
/-- A supervisor whose s1 to s3 hold register addresses: TK_ID, TK_THERM and one that names no register. -/
def manager : State := on { supervisor with s := ((task.s.set 1 0).set 2 0x90).set 3 0x4 }
theorem meets_SystemOperations_registers :
    let busy : State := manager.updCore 0 fun c => { c with board := [⟨7, 0, true, 95, 96, 0⟩], s := c.s.set 4 2 }
    let strict := busy.updCore 0 fun c => { c with kstat := c.kstat ||| (1 <<< 1) }
    opensAll manager [.mrd 4 1 0, .mwr 1 4 0, .mwr 2 4 0, .mrd 4 3 0] = true ∧ (∀ n, n < 3 → manager.scopeOf 0 0 ≤ 2) ∧
    manager.mgmtWrite 0x10 0x123 = .busy ∧ manager.mgmtWrite 0x20 1 = .waits ∧ (match manager.mgmtWrite 0x90 5 with | .done _ => true | _ => false) = true ∧
    manager.me.queues.toList.all (·.isEmpty) = true ∧ manager.me.board = [] ∧ manager.pubsOpen 0 2 manager.me.ords = false ∧
    (manager.mgmtRead 0).isSome = true ∧ (manager.mgmtRead 0x90).isSome = true ∧ manager.mgmtRead 4 = none ∧ manager.mgmtRead 0x38 = none ∧
    (busy.opens (.kwr 4 0 6) = true ∧ bankCode busy.me.kbank 0 ≠ bankCode (busy.me.rs 4) 0 ∧ busy.me.dbg = false ∧
      strict.opens (.kwr 4 0 6) = true ∧ strict.me.dbg = true) := by decide +kernel
theorem meets_SupervisorTrapEntry : sup.me.sup = true ∧ sup.me.inh = false ∧
    (on { supervisor with kstat := 0x81 }).me.inh = true ∧ (on { supervisor with kstat := 0x81 }).me.sup = true := by decide +kernel
theorem meets_UserTrapEndsTask : user.me.sup = false ∧ user.me.branch = none ∧
    (on { task with branch := some 5, delay := true }).me.sup = false := by decide +kernel
theorem meets_TrapWordFields : (let t : Trap := ⟨.illegal, 7, 7, some ⟨.n, 127⟩, 31, 4095, 0, []⟩
    t.xc < 8 ∧ t.ilc < 8 ∧ t.miss < 32 ∧ t.code < 4096 ∧ ∀ r ∈ t.reg, r.num < 128) := by decide +kernel
theorem meets_PrivilegedOperationsTrapInUserMode : user.me.sup = false ∧ isTrunkCore user.cur = false ∧
    [Sys2Proof.Instr.mrd 1 2 0, .mwr 1 2 0, .eret, .migrate 1 2 0, .snap 1 0, .krd 1 0 2, .kwr 1 0 0xF].all (·.wf) = true := by
  decide +kernel
theorem meets_NextBundleChoice :
    let lv : LoopLvl := ⟨true, 1, 3, 2⟩
    let c : Core := { task with loops := task.loops.set 0 lv, pc := 3 }
    (c.running.reverse = [(0, lv)] ∧ c.pc = lv.stop ∧ (c.rn 0 + 1).toNat < lv.count.toNat) ∧
    (let d := { c with n := c.n.set 0 1 }; d.running.reverse = [(0, lv)] ∧ ¬ (d.rn 0 + 1).toNat < lv.count.toNat) ∧
    (∀ e ∈ task.running, task.pc ≠ e.2.stop) ∧ isTrunkCore user.cur = false := by decide +kernel
theorem meets_PendingWriteLands : (⟨.s, 31⟩ : Reg).num < (RegFile.size .s) ∧
    (∀ p ∈ (task.issueWrite 5 2 ⟨.s, 31⟩ 9 0).pend, p.due 6 = true → p.reg ≠ ⟨.s, 30⟩) := by decide +kernel
theorem meets_InterlockHoldsOrTraps :
    let p : Pend := ⟨⟨.s, 3⟩, 1, 0, .timed 9, 4⟩
    let q : Pend := { p with wait := .phase 1 2 3 }
    let strict : Core := { task with kstat := 2, pend := [p] }
    p ∈ strict.pend ∧ p.reg ∈ [(⟨.s, 3⟩ : Reg)] ∧ p.issued ≠ 5 ∧ p.reg.num ≠ 0 ∧ task.dbg = false ∧ strict.dbg = true ∧
    p.missing 5 = some 5 ∧ q.missing 5 = none ∧ (∀ x ∈ strict.pend, x.reg = ⟨.s, 4⟩ → x.issued = 5) := by decide +kernel
/-- R84: in debug mode the HAZARD names the register that misses the most clocks, and those clocks. -/
theorem test_hazard :
    let c : Core := { task with kstat := 2, pend := [⟨⟨.s, 3⟩, 1, 0, .timed 6, 4⟩, ⟨⟨.s, 4⟩, 1, 0, .timed 8, 4⟩] }
    (match c.interlock 5 [⟨.s, 3⟩, ⟨.s, 4⟩] with | some (.trap t) => (t.reg, t.miss) | _ => (none, 0)) = (some ⟨.s, 4⟩, 4) := by
  decide +kernel
/-- R124: the quotient of −2^63 and −1 keeps its low 64 bits. -/
theorem test_div_overflow :
    (match exec (.div 3 1 2 0) (on { task with s := (task.s.set 1 (BitVec.intMin 64)).set 2 (BitVec.allOnes 64) }) with
     | .next t => t.me.pend.map (·.val) | _ => []) = [2 ^ 63] := by decide +kernel
/-- R162: a software trap in supervisor mode enters the handler. -/
theorem test_trap_entry : (match exec (.trap 0 7) (on { supervisor with pc := 9, ktvec := 0x40 }) with
    | .next t => (t.me.pc, t.me.kepc, t.me.ktrap.extractLsb' 32 12, t.me.kstat) | _ => (0, 0, 0, 0)) = (0x40, 9, 7, 0xC1) := by
  decide +kernel
/-- R133: a loop of count 2 goes back at the end of its first pass, with its strides added. -/
theorem test_loop_back : (let lv : LoopLvl := ⟨true, 1, 3, 2⟩
    let c : Core := { task with loops := task.loops.set 0 lv, pc := 3, strides := task.strides.set 1 8 }
    ((Core.advance c c).pc, (Core.advance c c).rn 0, (Core.advance c c).ra 1)) = (1, 1, 8) := by decide +kernel

/-! ### Memory operations and queues -/

/-- A task whose address register 1 points to a doubleword of its scratchpad that holds a value. -/
def loaded : State :=
  let s := on { task with a := task.a.set 1 0x40, s := task.s.set 5 0x1122334455667788 }
  { s with mem := storeWord s.mem (spKey 0 0x40) 0x80 }

theorem meets_ScalarLoadsComplete : opensAll loaded [.ld 3 1 1 0 0, .ldx 3 1 0 0 false 0] = true ∧
    Memory.wf loaded.mem = true ∧ loaded.me.scalarCheck 0x40 1 false = none ∧ readByte? loaded.mem (spKey 0 0x40) = some 0x80 := by decide +kernel
theorem meets_ScalarStoresComplete : opensAll loaded [.st 5 1 6 0 0x1FFFF, .stx 5 1 0 0 false 2] = true ∧ Memory.wf loaded.mem = true ∧
    loaded.me.scalarCheck 0x40 2 true = none ∧ loaded.me.scalarCheck 0x5FFF8 8 true = none ∧
    isPoison loaded.mem (spKey 0 0x40) = false := by decide +kernel
theorem meets_ScalarAccessTraps :
    let at_ (x : Word) : State := on { task with a := task.a.set 1 x }
    let bad : State := { at_ 0x5FFF8 with mem := poisonWord [] (spKey 0 0x5FFF8) }
    opensAll (at_ 0x60000) [.ld 1 1 6 0 0, .st 1 1 6 0 0] = true ∧ 0x60000 ≤ ((at_ 0x60000).me.ra 1).toNat ∧
    opensAll (at_ 0x5FFFC) [.ld 1 1 6 0 0, .st 1 1 6 0 0] = true ∧ ((at_ 0x5FFFC).me.ra 1).toNat % 8 ≠ 0 ∧
    opensAll (at_ 0x60000) [.ldx 1 1 0 0 false 6, .stx 1 1 0 0 true 6] = true ∧
    opensAll bad [.ld 1 1 6 0 0, .st 1 1 4 0 0, .ldx 1 1 0 0 true 6, .stx 1 1 0 0 false 4] = true ∧ isPoison bad.mem (spKey 0 0x5FFF8) = true ∧
    bad.me.scalarCheck 0x5FFF8 4 true = none ∧ bad.me.scalarCheck 0x5FFF8 8 false = none := by decide +kernel
/-- A queue entry. -/
def entry (st : QState) : QEntry := { QEntry.fresh .load 6 false false 0 0x1000000000000040 0 0 0 with state := st }
/-- A task with entries in queue 2. -/
def queued (l : List QEntry) : State := on (task.setQueue 2 l)
theorem meets_QueueRequestsEnter : opensAll user [.qld 7 1 0 0 0 6, .qst 2 1 3 0 2 1 6, .amoAdd 0 1 2 0 3 0 6, .amoSwap 0 1 2 0 3 0 6,
    .amoCas 0 1 30 0 3 0 6, .amoAnd 0 1 2 0 3 0 4, .amoOr 0 1 2 0 0 0 6, .amoXor 0 1 2 0 0 0 6, .amoMin 0 1 2 0 0 0 6,
    .amoMax 0 1 2 0 0 0 6, .amoMinu 0 1 2 0 0 0 6, .amoMaxu 0 1 2 0 0 0 6, .amoSeq 0 1 2 0 2] = true ∧
    (user.me.queue 2).length < 16 ∧ (queued (List.replicate 16 (entry .held))).opens (.qst 2 1 3 0 2 1 6) = true := by decide +kernel
theorem meets_QueuePopsAndWaits :
    (opensAll user [.qwait 1 2 0, .qwaitAll 1 2 0] = true ∧ (user.issueTrap user.me (.qpop 1 2 0)).isNone = true ∧
      (user.issueTrap user.me (.qpopT 1 2 3 0)).isNone = true ∧ user.me.pendingOn user.clk ⟨.p, 0⟩ = none ∧ (user.me.rp 0).getLsbD 0 = true) ∧
    opensAll (queued [entry .sent]) [.qpop 1 2 0, .qpopT 1 2 3 0, .qwait 1 2 0, .qwaitAll 1 2 0] = true ∧
    opensAll (queued [entry .done, entry .sent]) [.qpop 1 2 0, .qpopT 1 2 3 0, .qwait 1 2 0, .qwaitAll 1 2 0] = true ∧
    opensAll (queued [entry .failed]) [.qpop 1 2 0, .qpopT 1 2 3 0, .qwait 1 2 0, .qwaitAll 1 2 0] = true := by decide +kernel
theorem meets_FenceHoldsUntilReleased :
    let held := queued [{ entry .sent with addr := 0x4000000000100040 }]
    let s := held.updCore 0 fun c => { c with bord := 1 }
    opensAll user [.fence 0 0, .fence 0 1, .fence 0 2] = true ∧ user.me.queues.toList.all (·.isEmpty) = true ∧ user.me.board = [] ∧
    user.pubsOpen 0 2 0 = false ∧
    s.opens (.fence 0 0) = true ∧ (∃ e ∈ s.me.queue 2, e.ord < s.me.bord ∧ s.scopeOf 0 e.addr ≤ 0 ∧ e.state = .sent) := by decide +kernel
/-- A module with grove 0, a rim field and a stack ready, a running context 0 and a page table for its first 2 MiB page. -/
def world : State :=
  let s := user.updCtx 0 fun c => { c with state := .running, ptroot := 0x10000, seed := 1, rootList := [0], rimList := [9] }
  { s with
    ready := { s.ready with groves := [(0, 1)], rims := 0x200, hbmStacks := 1 }
    trunk := { s.trunk with ilv := s.trunk.ilv.set 0 0x800C000000000001, up := 3, started := true }
    mem := storeWord (storeWord (storeWord s.mem 0x10000 0x11001) 0x11000 0x12001) 0x12000 0x20000F }
/-- An entry of queue 2 that stores to an address. -/
def stores (a : Word) (st : QState) : QEntry := { QEntry.fresh .store 6 false false 0 a 7 0 0 with state := st }
theorem meets_QueueRequestsPerform :
    let s (e : QEntry) : State := world.setCore 0 (task.setQueue 2 [e])
    let held := s (stores 0x4000000000100000 .held)
    let far := (s (stores 0x8180000000000000 .held)).updCtx 0 fun c => { c with nmem := 2 }
    let load : QEntry := { stores 0x8180000000000000 .held with kind := .load }
    let away := (s load).updCore 0 fun c => c.setQueue 3 [{ load with state := .sent, ord := 1, addr := 0x8180000000000040 }]
    let away := away.updCtx 0 fun c => { c with nmem := 2 }
    let near := s (stores 0x4000000000100000 .sent)
    let bad := s (stores 0x0000000000200000 .sent)
    (held.sendable 0 2 = some (stores 0x4000000000100000 .held) ∧
      held.requestPlace 0 (stores 0x4000000000100000 .held) = some (.ok (.sp 0 0x48000))) ∧
    (far.sendable 0 2 = some (stores 0x8180000000000000 .held) ∧
      far.requestPlace 0 (stores 0x8180000000000000 .held) = some (.ok (.remote 1 0 0)) ∧ far.me.seqs = []) ∧
    (away.sendable 0 2 = some load ∧ away.requestPlace 0 load = some (.ok (.remote 1 0 0)) ∧
      away.placeHeld 0 away.me.ctxNo (.remote 1 0 64) = false ∧ (∀ e ∈ away.me.queue 3, away.mayPerform 0 e = true ∧ away.requestPlace 0 e = some (.ok (.remote 1 0 64)))) ∧
    (near.mayPerform 0 (stores 0x4000000000100000 .sent) = true ∧
      near.requestPlace 0 (stores 0x4000000000100000 .sent) = some (.ok (.sp 0 0x48000)) ∧
      near.placeHeld 0 near.me.ctxNo (.sp 0 0x48000) = false) ∧
    (bad.mayPerform 0 (stores 0x200000 .sent) = true ∧
      bad.requestPlace 0 (stores 0x200000 .sent) = some (.error (5, 1))) ∧
    (world.walk 0 0 0x1FFFFF = .ok ⟨0x12000, 0x20000F, 0x200000, 21⟩ ∧ (match world.walk 0 0 0x200000 with | .ok _ => false | .error _ => true) = true) := by
  decide +kernel
theorem meets_AtomicsAtTheirHome : Memory.wf loaded.mem = true ∧ 0x40 % 2 ^ ((6 : BitVec 3).toNat / 2) = 0 ∧
    synOf loaded.mem (spKey 0 0x40) = 0 ∧ payloadNat (readBytes loaded.mem (spKey 0 0x40) 8) = 0x80 ∧
    0x5FFF8 < 0x60000 ∧ payloadNat (readBytes loaded.mem (spKey 10371 0x5FFF8) 8) = 0 := by decide +kernel
/-- R145: the old value of a doubleword atomic is its result, the sum is stored. -/
theorem test_amo_add : (let r := loaded.performAt (.sp 0 0x40) (.amo 0) 6 0xFFFFFFFFFFFFFFFF 0 0
    (r.1 = .ok 0x80) ∧ payloadNat (readBytes r.2.mem (spKey 0 0x40) 8) = 0x7F) := by decide +kernel

/-! ### Vector operations -/

theorem meets_VectorElementForms : clearAll user [.vadd 1 2 3 0 false false 2, .vsub 1 1 3 0 true false 12, .vmul 1 2 3 0 false true 9,
    .vfma 1 2 3 0 true false false 2, .vmin 1 2 3 0 false false 13, .vmax 1 2 3 0 false false 4, .vabs 1 2 0 true 11, .vneg 1 2 0 false 2,
    .vand 1 2 3 0 true, .vor 1 2 3 0 false, .vxor 31 31 31 0 false, .vshl 1 2 3 0 true 15, .vshr 1 2 3 0 false 15, .vshr 1 2 3 0 false 11,
    .vsel 1 2 3 0 2 5, .vmovV 1 2 0, .vmovSplat 1 2 0 9, .vmovIdx 1 0 15, .vmovIdx 1 0 2, .vperm 1 2 3 0 false true,
    .vperm 1 2 3 0 true false, .vperm 1 2 3 0 false false, .vins 1 2 3 0 9, .vsfu 1 2 0 0] = true ∧
    (Fmt.ofType 2).float?.isSome = true := by decide +kernel
/-- R200, R108: saturating addition of signed bytes. -/
theorem test_vadd_saturates : VOp.apply .add (Fmt.ofType 11) .rne true false 0 0x7F 1 = (0x7F, flagSX) ∧
    VOp.apply .add (Fmt.ofType 11) .rne false false 0 0x7F 1 = (0x80, 0) ∧ 9 ≤ (11 : BitVec 4).toNat := by decide +kernel
theorem meets_FloatResultsRoundOnce : (∀ f ∈ [Fmt.f64, .f32, .bf16, .f16, .e5m2, .e4m3, .e2m3, .e3m2, .e2m1], f.float?.isSome = true) ∧
    Fmt.f32.float? = some ffF32 ∧ (-200 : Int) ≤ ffF32.emin ∧
    (ffF32.encode .rne false (.fin false 1 (-30))).2.getLsbD 1 = false ∧ (ffF32.encode .rne false (.fin true 1 200)).2.getLsbD 1 = true ∧
    ffF32.decode 0x3F800000 = .fin false 0x800000 (-23) ∧
    (Fmt.e4m3.float?.all fun ff => (ff.encode .rdn false (.fin false 1 20)).2.getLsbD 1) = true := by decide +kernel
theorem meets_IntegerElementArithmetic : (9 ≤ (11 : BitVec 4).toNat) ∧ (127 : Int) < 127 + 1 ∧ (-128 : Int) - 1 < -128 := by decide
theorem meets_VectorScalarResults : clearAll user [.vcmp 1 2 3 0 0 2, .vcomp 1 2 0 true, .vexpd 1 2 0 false, .vred 1 2 0 0 2,
    .vext 1 2 3 0 9, .vqdb 1 2 0 true false, .vcvt 1 2 0 false 2 1 1, .vcvt 1 2 0 false 1 1 2, .vcvt 1 2 0 true 12 0 12,
    .pand 1 2 3 0 true, .por 1 2 3 0 false, .pxor 0 2 3 0 false, .pcnt 1 2 0] = true ∧
    opensAll user [.vmovHS 1 2 0, .vmovSH 1 2 0, .vmovPS 1 2 0, .vmovSP 1 2 0] = true ∧
    user.me.rp 0 = BitVec.allOnes 32 := by decide +kernel
theorem meets_VectorLoadsAndStores :
    let s := on { task with a := task.a.set 1 0x47F80, p := task.p.set 1 0x55555555 }
    clearAll s [.vld 1 1 0 0, .vst 1 1 1 0, .vldl 1 2 3 1 4, .vstl 1 2 3 1 0] = true ∧ Memory.wf s.mem = true ∧
    s.me.vecCheck 0x47F80 false = none ∧ s.me.vecCheck 0x47F80 true = none ∧
    (∀ j, j < 32 → synOf s.mem (spKey 0 (0x47F80 + 4 * j)) = 0) ∧
    (∀ k, k < 16 → isPoison s.mem (spKey 0 (0x47F80 + 8 * k)) = false) ∧ s.mem = [] := by decide +kernel

/-! ### Jobs -/

/-- The state after a step that completes. -/
def after (i : Sys2Proof.Instr) (s : State) : State := match exec i s with | .next t => t | _ => s
/-- The same state some clocks later. -/
def later (n : Nat) (s : State) : State := { s with clk := s.clk + n }
/-- A task with F32 banks (bank 2: DB8), shape records under h1 to h4 (one element at 0 and at 0xC000, 32 elements at 0x18000 and
at 0) and, under a1, the descriptor of a copy of 32 bytes from 0x1000 to 0x2000. -/
def bench : State :=
  let s := on { task with
    kbank := 0x22222722
    h := (((task.h.set 1 0x100).set 2 0x120).set 3 0x140).set 4 0x160
    a := task.a.set 1 0x200 }
  let l : List (Nat × Nat) :=
    [(0x120, 0xC000), (0x140, 0x1F00018000), (0x160, 0x1F00000000), (0x200, 0x1000), (0x208, 0x2000), (0x210, 31)]
  { s with mem := l.foldl (fun m e => storeWord m (spKey 0 e.1) e.2) s.mem }
/-- Do the checks of a shape job pass (`w`: the type of D, then that of the sources)? -/
def jobPasses (s : State) (i : Sys2Proof.Instr) (w : BitVec 4 × BitVec 4) (l : List Word) : Bool :=
  match readRecords s s.cur s.me l with
  | .ok (rd :: rs, _) =>
    (match checkRegions s.me.kbank ((w.1, rd, true) :: rs.map fun r => (w.2, r, false)) with
     | .ok (g :: rest) => jobRule i g.1 (rest.headD g).1 ((rest.drop 1).headD (rest.headD g)).1 &&
         (s.me.cardWaits ((g :: rest).map (·.2))).isNone
     | _ => false)
  | _ => false
theorem meets_ShapeJobsEnter :
    [Sys2Proof.Instr.vjadd 2 1 1 0 false 0 0, .vjsub 2 1 1 0 false 0 0, .vjmul 2 1 1 0 false 0 0, .vjfma 2 1 1 0 false 0 0,
      .vjmin 2 1 1 0 false 0 0, .vjmax 2 1 1 0 false 0 0, .vjsel 2 1 1 0 false 0 0, .vjcmp 2 1 1 0 0 0, .vjcomp 2 1 1 0 0,
      .vjexpd 2 1 1 0 0].all (fun i => bench.opens i && jobPasses bench i (0, 0) [0x120, 0x100, 0x100]) = true ∧
    [Sys2Proof.Instr.vjcvt 2 1 0 true 0 0 0, .vjred 2 1 0 false 0 0 0, .vjsfu 2 1 0 false 0 0 0].all
      (fun i => bench.opens i && jobPasses bench i (0, 0) [0x120, 0x100]) = true ∧
    bench.opens (.vjqdb 3 4 0 0 false 0) = true ∧ jobPasses bench (.vjqdb 3 4 0 0 false 0) (0, 0) [0x140, 0x160] = true ∧
    bench.opens (.vjfill 2 0 0) = true ∧ jobPasses bench (.vjfill 2 0 0) (0, 0) [0x120] = true := by decide +kernel
/-- The jobs of core 0 changed. -/
def State.jobs (s : State) (f : Job → Job) : State := s.updCore 0 fun c => { c with jobs := c.jobs.map f }
/-- Is a job a shape job? -/
def isVec (j : Job) : Bool := match j.kind with | .vec _ _ _ _ => true | _ => false
theorem meets_ShapeJobsRun :
    let s := later 1 (after (.vjadd 2 1 1 0 false 0 0) bench)
    let t := later 9 (after (.vectorJobStart 0) s)
    (State.jobs t fun j => { j with poison := some 5 }).me.activeVec.any (fun j => decide (j.poison = some 5)) = true ∧
    s.me.nextVec.any (fun j => isVec j && s.vecMayStart 0 j) = true ∧
    t.me.activeVec.any (fun j => decide (j.poison = none) && j.accept.any (fun e => decide (e + 4 ≤ t.clk))) = true := by decide +kernel
/-- R222, R223: the sum of 1 and 1 is written four clocks after the pass, and the job is gone. -/
theorem test_shape_job :
    let t := after (.vectorJobComplete 0) (later 9 (after (.vectorJobStart 0) (later 1 (after (.vjadd 2 1 1 0 false 0 0)
      { bench with mem := storeWord bench.mem (spKey 0 0) 0x3F800000 }))))
    t.me.jobs = [] ∧ t.me.board = [] ∧ payloadNat (readBytes t.mem (spKey 0 0xC000) 4) = 0x40000000 := by decide +kernel
theorem meets_FillJobFillsItsRegion :
    let r : ShapeRec := ⟨0xBFF8, 1, 0, 0, 0, 0, 0, 0, 0x3F800000, 0⟩
    let g := jobRegion 0x22222722 0 r
    g.f.isDb = false ∧ g.f.width = 32 ∧ r.base + (r.x0 + 1) * 4 ≤ 0xC000 ∧ Memory.wf bench.mem = true ∧
    syndromesIn bench.mem (spKey 0 r.base) 8 = [] ∧
    (let r : ShapeRec := ⟨0x17FF0, 0, 1, 0, 0, 8, 0, 0, 0x3F800000, 0⟩
     let g := jobRegion 0x22222722 0 r
     g.f.isDb = false ∧ g.f.width = 32 ∧ ((4 : Nat) : Int) ≤ r.s1 ∧ 0xC000 * 1 ≤ r.base ∧ r.base + 8 + 4 ≤ 0xC000 * 2 ∧
       syndromesIn bench.mem (spKey 0 r.base) 12 = []) := by decide +kernel
theorem meets_PipelineEvents :
    let p : Pend := ⟨⟨.s, 3⟩, 5, flagSX, .timed 9, 4⟩
    let s := later 9 (on { task with pend := [p] })
    let f : FaultInfo := ⟨4, 1, 0x54, 0, 0, false, 7, none, []⟩
    let u := on { task with latch := .held, board := [⟨7, 0, false, 0, 0, 0⟩], imprecise := [f] }
    (s.waitValue 0 p = none ∧ s.me.pend.filter (fun q => q.due s.clk) = [p]) ∧
    (u.mayIssue 0 = true ∧ u.me.latch = .held) ∧
    (u.me.board.find? (fun e => decide (e.id = 7))).any (u.entryDone 0) = true ∧
    (u.me.imprecise = [f] ∧ u.me.delay = false ∧ u.me.mode = .running ∧ u.me.sup = false) := by decide +kernel
theorem meets_CopyEnters :
    let with_ (k : Tracker) : State := bench.updCore 0 fun c => { c with trackers := c.trackers.set 2 k }
    let s := bench
    [s, with_ { Tracker.idle with state := 1 }, with_ { Tracker.idle with state := 3, fault := true, xc := 1 }].all
      (fun s => s.opens (.copy 2 1 0 0 0)) = true ∧ (s.me.tracker 2).state ≠ 1 ∧ (s.me.tracker 2).fault = false ∧
    (match s.readCopy s.me (s.me.ra 1) with
     | .ok (d, b, _, _) => !copyReserved d b && !d.win && decide (d.wmap = 0) && !s.copyAcquires s.me d &&
         (let p : CopyPlan := ⟨d, none, 0, 0, s.me.kbank⟩; p.check.isNone && (s.me.cardWaits p.regions).isNone)
     | _ => false) = true := by decide +kernel
theorem meets_CopyWaitsAndTests : opensAll user [.cwait 1 2 9 0, .cwaitW 1 15 9 0 15, .ctest 1 2 9 0, .ctestW 1 2 9 0, .ctestRec 1 2 0,
    .ctestAddr 1 2 0] = true ∧ (2 : BitVec 7).toNat < 16 := by decide +kernel
theorem meets_CompletionRecordFields : (⟨3, 1024, 0, false, false, true, 7, true, 0x10000, 0⟩ : Tracker).nch ≤ 1024 := by decide
/-- R253: more failed runs than the field holds read as 0xFFFF. -/
theorem test_record : (⟨3, 1024, 0, false, false, true, 7, true, 0x10000, 0⟩ : Tracker).record = 0x00000400017BFFFF := by decide +kernel
/-- The copy of `bench` one clock after its entry, with a control word. -/
def copying (ctl : Nat) : State := later 1 (after (.copy 2 1 0 0 0) { bench with mem := storeWord bench.mem (spKey 0 0x210) ctl })
/-- A copy in `world`, one clock after its entry: its two ends and its control word. -/
def copyingAt (src dst ctl : Nat) : State :=
  let s := world.updCore 0 fun c => { c with kbank := 0x22222722, a := c.a.set 1 0x200 }
  let s := { s with mem := [(0x200, src), (0x208, dst), (0x210, ctl)].foldl (fun m e => storeWord m (spKey 0 e.1) e.2) s.mem }
  later 1 (after (.copy 2 1 0 0 0) s)
/-- The job and plan of the copy of core 0 that may perform its run 0. -/
def copyRun (s : State) : Option (Job × CopyPlan) := (s.me.jobs.head?).bind fun j => j.copyPlan.bind fun p =>
  if s.runMay 0 j p 0 && !s.runHeld 0 s.me.ctxNo (!s.me.sup) j p 0 && decide (s.me.job? j.id = some j) then some (j, p) else none
/-- Do the ends of the run resolve, while its data are not read yet? -/
def resolves (s : State) : Option Bool := (copyRun s).bind fun e => if (e.1.moved 0).isSome then none else
  (s.resolveRun 0 s.me.ctxNo (!s.me.sup) e.2 0).map fun r => (match r with | .ok _ => true | .error _ => false)
/-- Has the run, which has begun, been read to its end? -/
def readOn (s : State) : Option Bool := (copyRun s).bind fun e => (e.1.moved 0).map e.2.readUp
theorem meets_CopyRunsAndEnd :
    let staged := copyingAt 0x4000000000100000 0x4000000000100040 0x301F
    let out := later 9 (after (.copyRunPerform 0 0 0) (copyingAt 0x1000 0x4000000000100040 0x201F))
    let long := later 1 (after (.copyRunPerform 0 0 0) (copying 255))
    let filled := State.jobs (copying 31) fun j => { j with kind := match j.kind with
      | .copy t u d _ x y => .copy t u d (some ⟨0, 9, [⟨0, 0, 1, 0, 0, 0, 0⟩]⟩) x y | k => k }
    let moving := after (.copyRunPerform 0 0 0) (copying 31)
    let ended := (later 9 moving).copyWrite 0
    let bad := after (.copyRunPerform 0 0 0) (copying 0x101F)
    (resolves (copying 0x101F) = some false ∧ resolves staged = some true ∧ resolves (copying 31) = some true) ∧
    (readOn out = some true ∧ (copyRun out).any (·.2.d.dk) = true ∧ readOn long = some false) ∧
    ((copyRun filled).any (fun e => e.2.filled 0) = true ∧ resolves filled = some true) ∧
    (moving.me.writePort.any (fun e => match e.1.moving with
      | x :: _ => decide (e.2.writeNow x moving.clk = 0 ∧ e.2.writeNow x (later 9 moving).clk = 32) && !(later 9 moving).me.sideWaits e.1.id true
      | _ => false) = true) ∧
    (ended.me.jobs.head?.any fun j => j.copyPlan.any fun p => decide (p.d.runs ≤ j.steps ∧ j.firstFailure = none)) = true ∧
    (bad.me.jobs.head?.any fun j => j.copyPlan.any fun p => decide (p.d.runs ≤ j.steps) && j.firstFailure.isSome) = true := by
  decide +kernel
/-- R242, R249, R252: the copy moves its bytes, and its tracker is done. -/
theorem test_copy :
    let s : State := { copying 31 with mem := storeWord bench.mem (spKey 0 0x1018) 0x1122334455667788 }
    let t := after (.copyFinish 0 0) ((later 9 (after (.copyRunPerform 0 0 0) s)).copyWrite 0)
    (payloadNat (readBytes t.mem (spKey 0 0x2018) 8), (t.me.tracker 2).state, t.me.board) = (0x1122334455667788, 2, []) := by
  decide +kernel

/-! ### Matrix engine -/

/-- `bench` with the control word of a gang of its member 0 in s2, while the tag of plane 0 is F32. -/
def planed : State := bench.updCore 0 fun c => { c with s := c.s.set 2 0x21000000, planes := c.planes.set 0 { Plane.empty with tag := 2, fmt := 2 } }
/-- A task record of context 0 with its core and state. -/
def record (slot : Nat) (st : TState) : TaskRec :=
  { uid := 0, inst := 0, lost := false, ctx := 0, wid := 0, replay := 0, hold := false, splvl := 0, tmpl := 0, entry := 0, foot := 0xFF,
    copy := 3, gang := true, triad := false, guarded := false, base := 0, cls := 1, state := st, readyT := none, instT := 0, subs := [],
    spv := false, spl := 0, spt := 0, saved := false, frame := none, oncore := true, slot := slot, parent := none, tag := none, started := 0,
    exact := false, imageSnap := none, pubSeq := [], pinned := [], pend := [], rounds := [], collRec := [], able := none, waited := 0,
    longest := 0 }
/-- `planed` as a gang task of an image with two WID levels. -/
def ganged : State :=
  let s := planed.updGrove 0 fun g => { g with tasks := [(0, record 0 .running)] }
  s.updCtx 0 fun c => { c with image := { Image.empty with widths := [8, 8, 8] } }
/-- Do the records of a matrix job pass the checks? -/
def matPasses (s : State) (w : Word) (own : Bool) : Bool :=
  match readRecords s 0 s.me [0x120, 0x100] with
  | .ok ([rc, ra], _) => (match checkMat s.me 0 w own rc ra with | .ok m => (s.me.cardWaits [m.ra, m.rc]).isNone | _ => false)
  | _ => false
theorem meets_MatrixOperationsEnter :
    bench.opens (.mldb 0 1 false 0 false 0) = true ∧
    (match bench.readRecord 0 bench.me 0x100 with
     | .ok r _ => (match checkPlane bench.me.kbank 0 false r with | .ok (_, g) => (bench.me.cardWaits [g]).isNone | _ => false)
     | _ => false) = true ∧
    planed.opens (.mjob 2 1 0 0 0) = true ∧ matPasses planed 0 true = true ∧ planed.me.rs 0 = 0 ∧
    opensAll ganged [.mgang 2 1 2 0 0, .mgangJoin 2 1 2 0 0] = true ∧
    matPasses ganged 0x21000000 true = true ∧ matPasses ganged 0x21000000 false = true ∧ ganged.me.rs 2 = 0x21000000 ∧
    ganged.gangRule ganged.me 0x21000000 true = true ∧ ganged.gangRule ganged.me 0x21000000 false = true ∧
    ganged.me.cardWaits [] = none := by decide +kernel
theorem meets_MatrixEngineRuns :
    let load := later 1 (after (.mldb 0 1 false 0 false 0) bench)
    let started := later 40 (after (.mldbLoadStart 0) load)
    let read := State.jobs started fun j => { j with accept := some 5 }
    let mat := later 1 (after (.mjob 2 1 0 0 0) planed)
    let ended := State.jobs (later 40 mat) fun j => { j with start := some 3, accept := some 4 }
    load.me.nextLoad.any (load.loadMayStart 0) = true ∧
    read.me.activeLoad.any (fun j => decide (j.start = some 1 ∧ j.accept = some 5) && decide (1 + 32 ≤ read.clk + 1)) = true ∧
    mat.me.nextMat.any (mat.matMayStart 0) = true ∧
    ended.me.endingMat.any (fun j => decide (j.accept = some 4 ∧ 4 + 4 ≤ ended.clk ∧ j.failed = []) &&
      decide ((ended.grove 0).gangOf 0 j.id = none)) = true ∧
    ((later 64 user).grove 0).govWindow ≠ (later 64 user).clk / 64 := by decide +kernel
theorem test_matrix_job :
    let s := after (.mjob 2 1 0 0 0) planed
    (s.me.jobs.map (·.id), s.me.board.map (·.write)) = ([0], [false, true]) := by decide +kernel
/-- The grove's gang jobs. -/
def gangs (l : List GangJob) (s : State) : State := s.updGrove 0 fun g => { g with gangs := l }
theorem meets_GangJobEvents :
    let s := later 1 (after (.mgang 2 1 2 0 0) (ganged.setCore 1 { task with planes := planed.me.planes }))
    let l : GangMember := ⟨1, 1, 0, true, some 9, none, none, 0⟩
    let m : GangMember := ⟨0, 0, 0, false, some 0, none, none, 0⟩
    let G : GangJob := ⟨5, 0, 1, 0, 0x23000000, 0, [l, m], 0, false, none, 0, []⟩
    let one : GangJob := ⟨5, 0, 1, 0, 0x21000000, 0, [{ m with leader := true, ok := some true }], 0, false, none, 0, []⟩
    let wide := later 65536 (gangs [{ G with members := [l] }] ganged)
    ((gangs [G] s).mayTransfer G m = true ∧ G.members.find? (fun y => decide (y.index = 0) && y.job.isSome) = some m ∧
      G.members.find? (·.leader) = some l ∧
      (s.me.job? 0).any (fun j => match j.kind with
        | .mat t w ra rc (some _) => (match classA (jobRegion j.kbank t ra).f with
          | some cls => planesFit ((ctlPlanes w).map fun k => ((s.core 1).plane k).fmt) cls (rc.x0 + 1) (ctlN w)
          | none => false)
        | _ => false) = true) ∧
    ((wide.grove 0).gangs.any (fun H => !H.closed && H.completed.isNone && decide (H.opened + 65536 ≤ wide.clk) && H.onCores &&
      H.members.any (·.leader)) = true) ∧
    (one.over 1 = true ∧ ganged.holds 0 0 = true) ∧
    (ctlMask one.ctl = 2 ^ 0 ∧ ({ one with completed := some 3 } : GangJob).completed = some 3 ∧ 3 + 4 ≤ (later 7 ganged).clk) := by
  decide +kernel

/-! ### Exchange, tasks and triggers -/

/-- A channel table entry: its first bytes, the format of its shape (one element in every dimension), the rest zero. -/
def chanEntry (l : List Nat) (fmt : Nat) : List Byte := (l ++ List.replicate (60 - l.length) 0 ++ [fmt, 0, 0, 0]).map (BitVec.ofNat 8)
/-- An image with an exchange channel, a halo channel of one face and a collective of two members that broadcasts 32 bytes. -/
def chans : Image := { Image.empty with
  widths := [8, 8, 8]
  chans := [chanEntry [1, 0, 0, 1, 0, 2] 2, chanEntry [2, 0, 0, 1, 0, 2, 1, 1] 2, chanEntry [3, 0, 0, 2, 0, 3, 0, 0, 1, 0, 1, 1, 32] 0] }
/-- `world` with that image, its task's record, every counter and slot granted, and a page of a trigger image at a1. -/
def linked : State :=
  let s := world.updCtx 0 fun c => { c with image := chans }
  let s := s.updGrove 0 fun g => { g with tasks := [(0, record 0 .running)], geGrant := [(0, 0x0008000000008000)] }
  let s := s.updCore 0 fun c => { c with a := c.a.set 1 0x1000 }
  { s with mem := storeWord s.mem (spKey 0 0x1000) 3 }
theorem meets_XOperationsSend : opensAll linked [.sub 2 3 0 0, .unsub 2 3 0 0, .peek 1 3 0 0, .nameq 2 3 0 0, .spawn 1 2 3 0 1, .tinst 1 2 0 1,
    .barr 15 0, .bwait 1 15 0, .btest 1 0 0, .bset 3 1 0, .tsrc 127 1 2 0, .tadd 0 1 0, .tset 127 1 0, .tget 1 127 0, .tdis 1 0,
    .tgetSlot 1 2 0, .tgetRes 1 2 0, .colt 1 0 2] = true ∧
    opensAll (linked.updCore 0 fun c => { c with kstat := 1 }) [.migrate 1 2 0, .snap 1 0, .snrd 1 0, .snrdRb 1 0] = true ∧
    linked.me.waitHolds = false ∧ chKind (linked.chanOf 0 0) = 1 ∧ chHw (linked.chanOf 0 0) = 0 ∧ chKind (linked.chanOf 0 2) = 2 ∧
    widWidth (linked.imageOf 0).widths 2 ≠ 0 ∧ linked.counterTrap linked.me 127 = none ∧ sourceTrap 0 0 = none ∧
    linked.slotTrap linked.me 511 = none := by decide +kernel
/-- Is a check passed by a region that needs nothing to wait for? -/
def passes (s : State) (r : Except Trap (ShapeRec × Region)) : Bool :=
  match r with | .ok (_, g) => (s.me.cardWaits [g]).isNone | _ => false
theorem meets_XOperationsWithRegions :
    let e := linked.chanOf 0 0
    let h := linked.chanOf 0 1
    let c := linked.chanOf 0 2
    let full := (List.range 5).foldl (fun s _ => after (.coll 2 1 0 0 2) s) linked
    opensAll linked [.pub 1 2 0 0, .recv 1 2 0 0, .recva 1 2 0 true 0, .halo 1 2 0 1, .haloR 1 2 0 1, .coll 2 1 0 0 2] = true ∧
    (passes linked (chanRegion e 0x1000 false) && passes linked (chanRegion e 0x1000 true) &&
      passes linked (chanRegion h 0x1000 false) &&
      passes linked (haloRegion h 0x1000)) = true ∧ chKind h = 1 ∧ chHw h ≠ 0 ∧
    linked.me.acquireHolds 1 linked.me.bord = false ∧
    (linked.updCore 0 fun c => c.setQueue 2 [{ entry .sent with acq := true, scope := 1 }]).me.acquireHolds 1 5 = true ∧
    collTrap c (linked.memberOf 0 c) 0 0x1000 = none ∧ linked.me.cardWaits (collRegions c (linked.memberOf 0 c) 0 0x1000) = none ∧
    (linked.collsOf 0 (chExpress c)).length < 5 ∧ 5 ≤ (full.collsOf 0 (chExpress c)).length ∧
    full.opens (.coll 2 1 0 0 2) = true := by decide +kernel
theorem meets_ExitArmNameAndWait :
    let bytes := readBytes linked.mem (spKey 0 0x1000) 256
    opensAll linked [.exit 0, .nameqN 1 2 0 0, .tarm 1 2 0, .colw 1 0 2] = true ∧ (linked.me.ra 1).toNat = 0x1000 ∧
    0x1000 % 64 = 0 ∧ linked.me.accessWaits 0x1000 256 false = false ∧ bytes.all (·.isSome) = true ∧
    (linked.grove 0).imageTrap linked.me.ctxNo 0 (bytes.map (·.getD 0)) = none := by decide +kernel
/-- `linked` with one operation on its way that has reached its engine. -/
def xop (i : Sys2Proof.Instr) : State := later 6 (after i linked)
theorem meets_XOperationsAccepted :
    (([.barr 15 0, .btest 1 15 0, .tget 1 0 0, .tadd 0 1 0, .tset 0 1 0, .tdis 1 0, .bset 3 1 0, .recv 1 2 0 0] : List Sys2Proof.Instr).all
      fun i => (xop i).xNext 0 |>.any fun x => decide (x.op = i)) = true ∧
    ((linked.grove 0).barrier 0 15).lvl = false ∧ ((linked.grove 0).barrier 0 3).arrived = 0 ∧ ((linked.grove 0).barrier 0 3).npend = false ∧
    (xop (.tget 1 0 0)).me.pend.length = 1 ∧ (xop (.recv 1 2 0 0)).matchFor 0 0 (linked.chanName 0 0 0) = none ∧
    (let s := after (.xOpAccept 0) (xop (.barr 15 0))
     (s.grove 0).barrierActs 15 s.clk = true ∧ ((s.grove 0).barrier 0 15).count ≤ 1 ∧ ((s.grove 0).barrier 0 15).free ≤ s.clk) := by
  decide +kernel
/-- R184: the one arrival of a barrier of count 1 completes its phase. -/
theorem test_barrier : (let s := after (.barrierArrival 0 15) (after (.xOpAccept 0) (xop (.barr 15 0)))
    (((s.grove 0).barrier 0 15).arrived, ((s.grove 0).barrier 0 15).phase) = (0, 1)) := by decide +kernel
/-- `linked` with an armed slot of a kind (at offset 0x20: counter or barrier 5) whose counter has an event. -/
def triggered (kind : Nat) (st : SlotState) (fin : Option (Nat × Nat × Word)) : State :=
  let im : List Byte := ([kind] ++ List.replicate 31 0 ++ [5] ++ List.replicate 223 0).map (BitVec.ofNat 8)
  linked.updGrove 0 fun g => { g with
    counters := [(0, { Counter.reset with value := 2 ^ 48 - 1, adds := 1 })]
    slots := [(7, { Slot.reset with state := st, image := im, thr := 1, owner := 9, eligible := some 0, fin := fin })] }
theorem meets_TriggerEngineRuns :
    let held := (triggered 1 .held none).updGrove 0 fun g => g.updSlot 7 fun x => { x with owner := 0 }
    ((triggered 3 .armed none).grove 0).counterDue 0 = true ∧
    ([3, 4, 1].all fun k => (triggered k .armed none).trigStart 0 == some (none, 7)) = true ∧
    held.trigStart 0 = some (some 0, 7) ∧
    (triggered 1 .armed none).ownerEnded 0 9 = true ∧
    (((triggered 3 .active (some (0, 0, 0))).grove 0).slot 7).state = .active ∧
    (((triggered 3 .active (some (0, 0, 0))).grove 0).slot 7).fin = some (0, 0, 0) := by decide +kernel
/-- R320: a counter saturates with OVF. -/
theorem test_counter_saturates : (let s := after (.counterEvent 0 0) (triggered 3 .empty none)
    (((s.grove 0).counter 0).value, ((s.grove 0).counter 0).ovf) = (2 ^ 48 - 1, true)) := by decide +kernel

/-! ### Tasks -/

/-- `linked` with given task records in grove 0. -/
def tasked (l : List (Nat × TaskRec)) : State := linked.updGrove 0 fun g => { g with tasks := l }
/-- A record in a state, off its core. -/
def off (st : TState) : TaskRec := { record 0 st with oncore := false, gang := false }
theorem meets_TaskLifeEvents :
    let launched := (tasked [(3, off .idle)]).updCtx 0 fun c => { c with state := .launched, start := 0 }
    let ready := (tasked [(3, off .ready)]).setCore 0 { Core.reset with tags := Core.reset.tags.set 2 (some 0) }
    let exiting := (tasked [(0, record 0 .running)]).updCore 0 fun c => { c with mode := .exiting }
    let faulted := ((tasked [(0, { record 0 .running with guarded := true })]).updCore 0 fun c => { c with mode := .faulted }).updCtx 0
      fun c => { c with image := { c.image with faultH := 0x80000000 } }
    ((launched.ctx 0).state = .launched ∧ launched.allRecords = [(0, 3, off .idle)] ∧ (launched.grove 0).task? 3 = some (off .idle)) ∧
    (ready.nextStart 0 = some (3, off .ready, 0) ∧ (ready.grove 0).heldOf 0 = []) ∧
    ((off .ready).cls < 3 ∧ (off .ready).started + 2 ^ 20 ≤ (later 1887437 ready).tick) ∧
    (exiting.exitingCore 0 0 = some (0, record 0 .running) ∧ exiting.exitOver 0 = true ∧ (exiting.trackerFault 0).isNone = true) ∧
    ((tasked [(3, off .done)]).committed 0 = true) ∧
    ((faulted.faultedCore 0 0).isSome = true ∧ (faulted.allRecords.all fun e => decide (e.2.2.parent ≠ some 0)) = true ∧ faulted.groveReady 0 = true ∧ ((faulted.ctx 0).image.faultH.getLsbD 31 = true)) := by
  decide +kernel
/-- R29, R167: a task starts on an idle core 192 clk later for each bank of another context. -/
theorem test_task_start :
    let s := (tasked [(3, off .ready)]).setCore 0 { Core.reset with tags := (Vector.replicate 8 (some 0)).set 2 none }
    let t := after (.taskStart 0) s
    (t.me.mode, t.me.next) = (.running, s.clk + 192) := by decide +kernel
theorem meets_PreemptionSavesAndRestores :
    let s := (tasked [(0, { record 0 .running with gang := false }), (5, { off .ready with cls := 3 })]).updGrove 0
      fun g => { g with teSave := 0x0000100000000000 }
    let s := ((s.setCore 1 { task with task := 1 }).setCore 2 { task with task := 2 }).setCore 3 { task with task := 3 }
    let parked := (tasked [(0, { record 0 .suspended with frame := some 0 })]).updCore 0 fun c => { c with mode := .preempting }
    let back := (tasked [(0, { record 0 .running with saved := true, frame := some 0 })]).updCore 0
      fun c => { c with mode := .starting 0 true }
    (s.toStop 0 = none ∧ s.victim 0 = some (5, 0) ∧ (s.grove 0).freeFrame = some 0 ∧ s.me.mayStop = true) ∧
    ((parked.spillCore 0 0).isSome = true ∧ parked.drained 0 = true ∧ parked.me.imprecise = [] ∧ (parked.trackerFault 0).isNone = true) ∧
    (((parked.updCore 0 fun c => { c with mode := .spilling 0 }).spillCore 0 0).isSome = true ∧ parked.groveReady 0 = true) ∧
    (back.me.mode = .starting 0 true ∧ back.me.task = 0 ∧ (back.grove 0).heldOf 0 = []) := by decide +kernel
theorem meets_LeasesAndMigration :
    let l : Lease := ⟨0, 1, 0, [(7, 0)], 0, none⟩
    let s := linked.updGrove 0 fun g => { g with leases := [l], pools := [⟨0, 1, 0, [2, 5], true, none, [(0, 0x100, 0)]⟩] }
    let far := (((tasked [(3, { off .running with spv := true, spl := 1, spt := 5 })]).updCtx 0 fun c => { c with nmem := 2, member := 1 })).updGrove 0
      fun g => { g with leases := [l] }
    let arrived := ((linked.updGrove 1 fun g => { g with reservedIn := [(4, 3)] }))
    let arrived : State := { arrived with ready := { arrived.ready with groves := [(0, 1), (1, 1)] } }
    let p : Pkt := { mkPkt 0 ⟨0, 0, 0, 0, 0⟩ (.migrate (off .ready) 3 [] [] false) 0 1 true 0 [] 0 0 with at_ := 1 }
    (s.poolHere 0 1 0 = true ∧ s.poolHome 0 1 0 % 2592 = 0 ∧ s.tick < l.used + 2 ^ 16 ∧
      ((s.grove 0).pool 0 1 0 (poolSize (s.ctx 0).image.widths 1)).free = [2, 5]) ∧
    (∃ e ∈ l.tags, e.2 + 2 ^ 16 ≤ (later 200000 s).tick) ∧ s.cutHome 0 0 1 0 = false ∧ s.recorded 0 0 = s.recorded 0 0 ∧
    (far.poolHere 0 1 0 = false ∧ far.tick < l.used + 2 ^ 16 ∧ (far.grove 0).pools[0]? = none ∧ far.farWaiter 0 0 = some (l, 0) ∧ l.tags.length < 4) ∧
    (({ arrived with net := [p] } : State).pkt 0 = some p ∧ (arrived.grove p.dst).reservedIn = [(4, 256 * p.src + 3)] ∧ p.src ≠ p.dst ∧
      arrived.groveReady p.dst = true) := by
  decide +kernel

/-! ### Exchange and galleries -/

/-- The name of the exchange channel. -/
def nm : Name := ⟨1, 0, 0, 0, 0⟩
/-- A publication of four bytes that its grove has accepted. -/
def pubOf : PubOp :=
  ⟨4, 0, none, 0, nm, 0, List.replicate 4 (some 9), [1, 1, 1, 1], false, false, false, some 0, 0, 0, 3, 0, 0, none, none, none, none, 0, false⟩
/-- A version of the name at its root. -/
def version (ver : Option Nat) : Version :=
  { ctx := 0, name := nm, ver := ver, data := List.replicate 4 (some 9), valid := [1, 1, 1, 1], inj := 0, acceptT := 0, express := false,
    keep := false, rim := false, pubGrove := 0, pubId := some 4, pubWid := 0, seq := 0, pins := [], owed := [], acks := [], wbDone := false,
    used := 0, vote := [], forwarded := [], bases := [], order := 11, accOrd := 11, base := 0, cross := 0, late := [], held := false }
/-- A packet that has come from grove 1 to grove 0. -/
def came (k : PktKind) : Pkt := { mkPkt 0 nm k 1 0 false 0 (List.replicate 4 (some 9)) 0 0 with at_ := 0 }
/-- `linked` with packets, a clock after they came. -/
def net (l : List Pkt) : State := { linked with net := l, clk := 1 }
/-- A subscription of task 7 to the name. -/
def subOf (st : SubState) : Sub := ⟨2, 0, .kernel 7, 0, nm, 0, 2, 0, st, [], []⟩
theorem meets_PublicationsReachTheirRoot :
    let s := linked.updGrove 0 fun g => { g with pubs := [pubOf] }
    let retry := linked.updGrove 0 fun g => { g with pubs := [{ pubOf with retryAt := some 0 }] }
    let chunk := came (.pubChunk 4 3 0 1 false false 0 [1, 1, 1, 1])
    let far : Pkt := { chunk with at_ := 1 }
    let leaving : Pkt := { chunk with dst := farCode 1 0, at_ := 2592, port := 0 }
    let refused := (net [chunk]).updGrove 1 fun g => { g with
      pubs := [{ pubOf with core := some 4, order := 5 }, { pubOf with id := 3, core := some 4, order := 4, retryAt := some 9 }] }
    let full := (net [chunk]).updGrove 0 fun g => { g with subs := [{ subOf .registered with place := 4096 * 512 }] }
    let tent := (net [came (.commit 4)]).updGrove 0 fun g => { g with versions := [{ version none with pubGrove := 1 }] }
    let vote := linked.updGrove 0 fun g => { g with
      versions := [{ version (some 0) with vote := [(0, [(0, [some 1]), (1, [some 1])])] }] }
    (s.admitNow 0 0 = some pubOf ∧ pubOf.sent = 0 ∧ s.rootHere 0 nm = true) ∧
    ((later 8000 linked).grove 0).window ≠ (later 8000 linked).tick / 4096 ∧
    ((retry.admitNow 0 0).map (·.retryAt) = some (some 0)) ∧
    ((net [far]).outputs far = true ∧ far.at_ ≠ far.nextHop.1 ∧ (net [leaving]).outputs leaving = true ∧ leaving.at_ = leaving.nextHop.1) ∧
    ((net [chunk]).rootNext 0 = some 0 ∧ (net [chunk]).earlierPub chunk 4 ≠ 2 ∧ refused.rootNext 0 = some 0 ∧ refused.earlierPub chunk 4 = 2 ∧ ((linked.grove 0).makeRoom 0 ((linked.grove 0).pubUnits 0 nm 4) 1).isSome = true) ∧
    (full.rootNext 0 = some 0 ∧ ((full.grove 0).makeRoom 0 ((full.grove 0).pubUnits 0 nm 4) 1).isNone = true) ∧
    ((tent.grove 0).versions.find? (fun v => v.ver.isNone && decide (v.pubGrove = 1) && decide (v.pubId = some 4))).isSome = true ∧
    ((net [came (.discard 4 3 0)]).pkt 0).isSome = true ∧ ((net [came (.discard 4 1 0)]).pkt 0).isSome = true ∧
    ((vote.grove 0).versions.all fun v => v.decidable == some (0, [(0, [some 1]), (1, [some 1])]) &&
      majority [(0, [some 1]), (1, [some 1])] == some [some 1] && !v.forwarded.contains 0) = true ∧
    ((net [came (.nameq 4 0)]).pkt 0).isSome = true := by decide +kernel
/-- R305: the first version of a name is 0, the next one 1. -/
theorem test_root_accept :
    let s := net [came (.pubChunk 4 3 0 1 false false 0 [1, 1, 1, 1]), came (.pubChunk 5 3 0 1 false false 0 [1, 1, 1, 1])]
    let t := after (.rootAccept 0 0) s
    (((t.grove 0).versions.map (·.ver), t.net.length)) = ([some 0], 2) := by decide +kernel
/-- Its registration at the root. -/
def regOf (g : Nat) : SubReg := ⟨0, nm, 0, g, 2, false, false, false, 0, none, [], 0, 0, false, none⟩
theorem meets_SubscriptionsAndLandings :
    let s := linked.updGrove 0 fun g => { g with subs := [subOf .waiting] }
    let d := came (.deliver 0 0 1 [1, 1, 1, 1])
    let landing := ((net [d]).updGrove 0 fun g => { g with subs := [subOf .registered] }).updGrove 1
      fun g => { g with versions := [{ version (some 0) with acks := [(0, 2, 0)] }] }
    let late := (later 10000000 linked).updGrove 0 fun g => { g with
      versions := [{ version (some 0) with acks := [(1, 2, 5)] }]
      names := [⟨0, nm, some 1, false, false, false, false⟩] }
    ((s.grove 0).subs = [subOf .waiting] ∧ (s.heldCtx 0 = false) ∧
      ((s.grove 0).makeRoom s.tick (units (2 * chPayload ((s.ctx 0).image.chan 0))) 1).isSome = true) ∧
    ((net [came (.sub (regOf 1))]).pkt 0 = some (came (.sub (regOf 1))) ∧ (linked.grove 0).nameRec 0 nm = none ∧ (regOf 1).mask = 0) ∧
    ((net [came (.unsub (regOf 1))]).pkt 0 = some (came (.unsub (regOf 1)))) ∧
    (d.name.matches (subOf .registered).name 0 = true ∧ landing.ackOf 1 0 nm 0 0 2 = some 0 ∧
      (subOf .registered).wants nm 0 = true ∧ (landing.grove 0).task? 7 = none ∧ d.src ≠ d.dst) ∧
    ((net [came (.ack 0 2 true)]).pkt 0).isSome = true ∧ ((net [came (.unpin 0 2)]).pkt 0).isSome = true ∧
    ((late.grove 0).versions.any fun v => (late.overdue v).isSome) = true ∧
    ((late.updGrove 0 fun g => { g with versions := [version (some 0)] }).grove 0).dropsNow (version (some 0)) late.tick = true := by
  decide +kernel
/-- A whole landing of the name. -/
def landed : Landing := ⟨nm, 0, [0], 1, List.replicate 4 (some 9), [1, 1, 1, 1], 0, 3, 0, 0⟩
/-- `linked` with a receive of the channel at the router, and a landing for it. -/
def receiving : State :=
  let s := after (.xOpAccept 0) (xop (.recv 1 2 0 0))
  let s := s.updGrove 0 fun g => { g with subs := [{ subOf .registered with owner := .kernel 0, landings := [landed] }] }
  after (.xOpAccept 0) ((later 6 (after (.recv 1 2 0 0) (s.updCore 0 fun c => { c with imprecise := [] }))))
/-- `linked` with a collective of core 0 at its engine. -/
def collecting : State := after (.xOpAccept 0) (xop (.coll 2 1 0 0 2))
/-- The entry of a sum of one F32 element over two members. -/
def sumDesc : List Byte := chanEntry [3, 0, 0, 2, 0, 0, 0, 2, 1, 0, 1, 1, 1] 0
/-- A round of it at a root that has member 1's contribution. -/
def round : CollRound := ⟨0, nm, 0, sumDesc, [(1, 0, List.replicate 4 (some 0))], [], [], none, 0, 0, 0⟩
theorem meets_ReceivesAndCollectives :
    let done := State.jobs receiving fun j => { j with accept := some 0 }
    let act := after (.collActivate 0 false) collecting
    let segs := (later 3 act).updGrove 0 fun g => { g with window := (later 3 act).tick / 4096 }
    let res := { later 3 act with net := [came (.collRes 0 0 0 0 0 0 0)] }
    let part := came (.collPart 5 0 2 0 0 0 0 sumDesc false)
    let join := came (.collPart 5 0 2 0 0 0 0 sumDesc true)
    let other := chanEntry [3, 0, 0, 2, 0, 0, 0, 2, 1, 0, 1, 1, 2] 0
    let root := (net [part]).updGrove 0 fun g => { g with rounds := [round] }
    let ended := State.jobs act fun j => { j with accept := some 0, doneSet := [0, 1, 2] }
    ((receiving.matchFor 0 0 (linked.chanName 0 0 0)).any (fun x => decide (x.ripe = some landed)) = true ∧
      receiving.me.jobs.any (fun j => j.accept.isNone && !receiving.me.jobWaits j.id && receiving.me.jobAccepted j.id &&
        !receiving.earlierRecv 0 j 2) = true) ∧
    (done.me.jobs.any fun j => decide (j.accept = some 0) && decide (j.poison = none)) = true ∧
    (((collecting.grove 0).collSet 0 false).active = none ∧ ((collecting.grove 0).collSet 0 false).queue = [0]) ∧
    (res.nextResult 0 false).isSome = true ∧
    ((segs.nextResult 0 false).isNone = true ∧ (segs.nextPart 0 false).isSome = true ∧ (segs.nextPart 0 true).isNone = true) ∧
    (root.partFirst 0 part = true ∧ (root.grove 0).roundGone 0 nm 0 = false ∧ ((root.grove 0).makeRoom 0 (round.partUnits sumDesc 0 4) 1).isSome = true ∧
      boundOf part.express 4 part.cross ≥ root.tick ∧ root.pkt 0 = some part ∧ (round.desc ≠ other ∧ round.desc ≠ []) ∧
      (net [join]).partFirst 0 join = true ∧ ((net [join]).grove 0).rounds = [] ∧
      ((root.grove 0).makeRoom 0 (round.partUnits sumDesc 0 4) 1).map (·.rounds) = some [round] ∧
      ((List.range (clMembers sumDesc)).mapM fun i =>
        (({ round with early := round.early ++ [(0, 0, part.data)] } : CollRound).part i).map (·.2)).isSome = true ∧ clType sumDesc = 0) ∧
    (((root.updGrove 0 fun g => { g with rounds := [{ round with early := [], doneT := 5 }] }).grove 0).roundGone 0 nm 0 = true) ∧
    (((root.updGrove 0 fun g => { g with subs := [{ subOf .registered with place := 4096 * 512 }] }).grove 0).makeRoom 0 (round.partUnits sumDesc 0 4) 1).isNone = true ∧
    (((ended.grove 0).collSet 0 false).active = some 0 ∧
      ended.me.jobs.any (fun j => j.collOver (linked.chanOf 0 2) (ended.memberOf 0 (linked.chanOf 0 2)) ended.clk) = true) := by decide +kernel

/-! ### Snapshots -/

/-- A node of a snapshot. -/
def node (n : Nat) : SnapNode := ⟨n, 0, 0, .reset, [], [], [], [], [], [], [], [], [], false, 0⟩
/-- A running snapshot of a context. -/
def snapOf (ctx : Nat) (l : List SnapNode) : Snap := ⟨ctx, 1, true, 0, 0, 0, 0, none, l, [], [], false, false⟩
/-- `linked` with that snapshot. -/
def snapping (ctx : Nat) (l : List SnapNode) : State := { later 9 linked with snaps := [snapOf ctx l] }
theorem meets_LeasesAndMigration_cut :
    let cut := (snapping 0 [node 0]).updGrove 1 fun g => { g with leases := [⟨0, 1, 0, [(7, 0)], 0, none⟩] }
    (cut.grove 1).leases[0]? = some ⟨0, 1, 0, [(7, 0)], 0, none⟩ ∧ cut.poolHere 0 1 0 = true ∧ cut.cutHome 1 0 1 0 = true := by decide +kernel
theorem meets_SnapshotProgress :
    let armed := (snapping 0 [{ node 0 with pending := [(0, 5)] }]).updCore 0 fun c => { c with armed := 0x20 }
    let mid := ((snapping 0 [node 1]).updCore 0 fun c => { c with delay := true }).updGrove 0 fun g => { g with snBuf := 1 <<< 40 }
    let unit_ : State := { (snapping 0 [node 0xFFF]).updRim 9 fun r => { r with slwin := [(0, 0x10000)] } with wins := [(72 * 2 ^ 11, 1)] }
    let unit_ := unit_.updSlice 72 fun x => { x with split := 1 }
    let page : State := { snapping 0 [node 0xFFF] with mem := storeWord world.mem 0x12000 0x20004F }
    let seven : SnapNode := { node 7 with closed := [16, 17, 18, 19] }
    let two := snapping 16 [node 0xFFF, seven]
    let last := snapping 16 [seven]
    let area (w : Word) : State := last.updCtx 16 fun c => { c with snArea := w }
    let sn : Snap := snapOf 16 [{ seven with reported := true }]
    ((snapping 0 [node 0]).lanternGoes 0 1 12 = true ∧ (snapping 0 [node 0]).nodeRec 0 1 = none ∧ (snapping 0 [node 0]).mayRecord 0 1 = true ∧
      (snapping 0 [node 0, node 1]).lanternGoes 0 1 12 = true ∧ (snapping 0 [node 0, node 1]).nodeRec 0 1 = some (node 1) ∧
      mid.lanternGoes 0 0 5 = true ∧ mid.nodeRec 0 0 = none ∧ mid.mayRecord 0 0 = false) ∧
    (armed.openSnap 0 = some (snapOf 0 [{ node 0 with pending := [(0, 5)] }]) ∧ armed.me.armed.getLsbD 5 = true) ∧
    (unit_.recorded 0 0xFFF = true ∧ (unit_.unitsOf 0).contains (72 * 2 ^ 11) = true) ∧
    (page.recorded 0 0xFFF = true ∧ page.walk 0 0 0 = .ok ⟨0x12000, 0x20004F, 0x200000, 21⟩ ∧ leafSnap 0x20004F = 1) ∧
    (two.captured 16 7 = true ∧ last.captured 16 7 = true) ∧
    ((area 0).ringPlace sn (ringSize ((area 0).ringItems sn)) = none ∧
     ((area 0x0001000000000000).ringPlace sn (ringSize ((area 0x0001000000000000).ringItems sn)) = some 0) ∧
     (area 0x0001000000000000).writable 16 0 8192 = false) := by decide +kernel
/-- The last node of a snapshot of a context whose space is mapped; no grove is in its partition. -/
def mapped : State :=
  let s := (snapping 16 [{ node 7 with closed := [16, 17, 18, 19] }]).updCtx 16 fun c => { c with snArea := 0x0001000000000000, ptroot := 0x10000 }
  s.updTrunk fun t => { t with ilv := t.ilv.set 1 0x800C000000000001 }
theorem meets_SnapshotProgress_nodes (g : Nat) (h : g < 2592) : mapped.snapNode 16 g = false := by
  have h0 : ∀ q, q < 4 → mapped.trunk.partOf q = 0 := by decide +kernel
  have h1 := h0 (quarterOf g) (by simp only [quarterOf, groveX]; omega)
  simp [State.snapNode, Trunk.groveIn, h1, partOfCtx]
  omega
theorem meets_SnapshotProgress_record :
    let sn := snapOf 16 [{ node 7 with closed := [16, 17, 18, 19], reported := true }]
    mapped.ringPlace sn (ringSize (mapped.ringItems sn)) = some 0 ∧ mapped.writable 16 0 8192 = true ∧ mapped.captured 16 7 = true := by
  decide +kernel

/-! ### Rim, host and trunk -/

/-- The name of tile 0 of a backed tensor, and the tensor: two tiles of 32 bytes. -/
def tile : Name := ⟨1, 0, 0, 0, 0⟩
def tensor (base : Nat) : Tensor := ⟨1, true, false, false, 2, 1, 0, base, [16, 1, 1, 1], [8, 1, 1, 1]⟩
/-- `linked` with that tensor and an operation of rim field 9's agent. -/
def rimmed (fetch : Bool) (base : Nat) : State :=
  let s := linked.updCtx 0 fun c => { c with image := { chans with tensors := [tensor base] } }
  s.updRim 9 fun r => { r with ops := [⟨fetch, 0, tile, 3, 0, 0, if fetch then [] else List.replicate 32 (some 1), [8, 1, 1, 1], none⟩] }
/-- `linked` as one of two members whose window in slice 72 has a sync cell. -/
def shared : State :=
  let s := linked.updCtx 0 fun c => { c with nmem := 2 }
  (s.updRim 9 fun r => { r with slwin := [(0, 0x100010000)] }).updSlice 72 fun x => { x with split := 1 }
/-- An entry that has gone to another module. -/
def farEntry : QEntry := { stores 0x8180000000000000 .sent with first := 0, last := 0 }
theorem meets_RimAgentsRemoteRequestsAndToken :
    let far := (later 40000 shared).setCore 0 (task.setQueue 2 [farEntry])
    let seen := shared.updSlice 72 fun x => { x with dups := [⟨65536, 0, false, 5, 0, 0⟩] }
    let lost := (later 3600 linked).updTrunk fun t => { t with tokenLost := true }
    let bad (n : Nat) : State := { linked with mem := Memory.write linked.mem (synKey 0) (BitVec.ofNat 8 n) }
    (((rimmed true 0).fetchGoes 9 0 = true ∧ (match ((rimmed true 0).readTile 0 (tensor 0) tile [8, 1, 1, 1]).2 with
        | .ok _ => true | .error _ => false) = true) ∧ (match ((rimmed true (2 ^ 40)).readTile 0 (tensor (2 ^ 40)) tile [8, 1, 1, 1]).2 with
        | .ok _ => false | .error _ => true) = true) ∧
    ((rimmed false 0).writebackGoes 9 0 = true ∧ (((rimmed false 0).dropRimOp 9 0).writeTile 0 (tensor 0) tile [8, 1, 1, 1] (List.replicate 32 (some 1))).2.isNone = true ∧
      (((rimmed false 0).dropRimOp 9 0).writeTile 0 (tensor (2 ^ 40)) tile [8, 1, 1, 1] (List.replicate 32 (some 1))).2.isSome = true) ∧
    ((net [came (.wbDone 0)]).pkt 0).isSome = true ∧
    (shared.rimReady (72 / 8) = true ∧ (seen.sliceOf 72).dups.any (fun d => decide (d.source = 65536 ∧ d.seq = 0)) = true ∧
      (shared.sliceOf 72).waiting = [] ∧ (shared.sliceOf 72).dups = [] ∧
      shared.needsToken 72 ⟨65536, 0, false, 1, 6, 0, 1, 0, 0, 0, 0⟩ = false ∧ (shared.sliceOf 72).full 0 = false ∧
      shared.windowOwner 72 0 = some 0 ∧ shared.tick < 0 + 20000 ∧ 0 + 20000 ≤ (later 36000 shared).tick) ∧
    ((far.core 0).entryAt 32 = some farEntry ∧ far.isRemote 0 farEntry = true ∧ 2000 ≤ (later 3600 shared).tick ∧ 20000 ≤ far.tick ∧
      far.requestPlace 0 farEntry = some (.ok (.remote 1 0 0))) ∧
    (0 + 40000 ≤ (later 72000 seen).tick) ∧
    ((linked.updTrunk fun t => { t with token := 9 }).rimReady 9 = true ∧ linked.trunk.tokenLost = false ∧ linked.trunk.tokenAt ≤ linked.clk) ∧
    (lost.trunk.tokenZero + 1000 ≤ lost.tick) ∧
    (linked.scrubDue 0 = true ∧ linked.stackWord 0 0 = some 0 ∧ syndrome (synOf (bad 3).mem 0) = .uncorrectable ∧
      syndrome (synOf (bad 1).mem 0) = .corrected none) := by decide +kernel
/-- Bytes with little-endian 8-byte words at given offsets, zero elsewhere. -/
def blank (n : Nat) (l : List (Nat × Nat)) : List Byte :=
  (List.range n).map fun i => BitVec.ofNat 8 (l.foldl (fun a e => if e.1 ≤ i ∧ i < e.1 + 8 then a + e.2 / 256 ^ (i - e.1) else a) 0)
/-- A command of 64 bytes or more: code, tag, partition and context. -/
def command (code part ctx : Nat) (l : List (Nat × Nat)) (n : Nat) : List Byte :=
  blank n ([(0, code + 7 * 2 ^ 32), (8, part + 256 * ctx)] ++ l)
/-- An image of one kernel of one bundle and one template. -/
def plainImage : List Byte :=
  let sec (i type count off len ent : Nat) : List (Nat × Nat) :=
    [(0x40 + 32 * i, type + 2 ^ 16 + count * 2 ^ 32), (0x48 + 32 * i, off), (0x50 + 32 * i, len), (0x58 + 32 * i, ent)]
  blank 464 ([(0, 0x000400024958594E), (8, 464), (0xC8, 0x0001000100000000), (0x100, 0x10000)] ++ sec 0 1 1 0xC0 32 32 ++
    sec 1 2 1 0x100 16 16 ++ sec 2 3 1 0x140 16 16 ++ sec 3 7 1 0x180 80 80)
/-- LOAD_IMAGE of that image as context 1 with one writable page; the state in which it stands in the image buffer. -/
def loadCmd (kind : Nat) : List Byte := command 1 0 1 [(0x18, 464), (0x20, kind), (0x48, 0x200001)] 96
def placed : State := { linked with
  mem := ((plainImage.zipIdx).filter fun e => e.1 ≠ 0).map fun e => (trunkKey 0x10000000 + e.2, e.1) }
/-- A command's end is a success without DETAIL and RESULT. -/
def succeeds (e : CmdEnd) : Bool := match e with | .done _ d r => decide (d = 0) && r.isEmpty | _ => false
/-- The module with every part ready and no context, and the same split. -/
def whole : State := { State.reset with
  trunk := { Trunk.reset with up := 3, started := true, ilv := Trunk.reset.ilv.set 0 0x800C000000FFFFFF },
  ready := { State.reset.ready with groves := [(0, 1), (24, 1)], rims := 0xFFF, hbmStacks := 0xFFFFFF } }
/-- PARTITION over all quarters. -/
def partCmd (op : Nat) : List Byte := command 6 0 0 [(0x10, op + 0xF * 256)] 64
theorem meets_HostCommands_images :
    (linked.qpFree 127 = true ∧ cmdSized (loadCmd 0) = true ∧ cmdCode (loadCmd 0) = 1 ∧ cmdKind (loadCmd 0) = 0) ∧
    ((placed.cmdGate (loadCmd 0) false .nothing).isNone = true ∧ (loadArgs (loadCmd 0)).isNone = true ∧
      (placed.cmdGate (loadCmd 0) false .part).isNone = true ∧ (placed.ctx 1).state = .free) ∧
    (imageRefusal 0x0401 464 (linked.imageBytes (loadCmd 0)) = some 1 ∧ imageRefusal 0x0401 464 plainImage = none ∧
      rangesFit (mapOf (loadCmd 0)) = true ∧ imageData plainImage = []) ∧
    ((linked.cmdGate (loadCmd 1) true .nothing).isNone = true ∧ signedOf 0 0 plainImage = none ∧ cmdKind (loadCmd 1) = 1) ∧
    (cmdKind (loadCmd 2) = 2 ∧ (linked.cmdGate (loadCmd 2) false .supervisor).isNone = true ∧ (loadArgs (loadCmd 2)).isNone = true) := by
  decide +kernel
theorem meets_HostCommands_bytes : placed.imageBytes (loadCmd 0) = plainImage := by
  have h : ∀ i, i < 464 → synOf placed.mem (trunkKey 0x10000000 + i) = 0 := by decide +kernel
  have e : fieldOfBytes (loadCmd 0) 0x10 8 = 0 ∧ fieldOfBytes (loadCmd 0) 0x18 8 = 464 := by decide +kernel
  have r : ((List.range 464).map fun i => Memory.read placed.mem (trunkKey 0x10000000 + i)) = plainImage := by decide +kernel
  rw [State.imageBytes, State.goodRun, e.1, e.2, readBytes_good h, List.map_map]
  exact r
/-- What LOAD_IMAGE takes for its context: frames, windows, frame and snapshot areas, counters and slots. -/
def given (cmd : List Byte) (choice : List Nat) (s : State) : Option State :=
  (s.takeFrames (partOfCtx (cmdCtx cmd)) (mapFrames (mapOf cmd)) (choice.getD 0 0)).bind fun _ =>
  (s.giveWindows (cmdCtx cmd) (fieldOfBytes cmd 0x38 4 % 65536) (fieldOfBytes cmd 0x38 4 / 65536 % 256) (choice.getD 1 0)).bind fun s =>
  (eachOf (s.partGroves (partOfCtx (cmdCtx cmd))) s fun s g =>
    s.giveAreas (partOfCtx (cmdCtx cmd)) g (min (choice.getD 2 0) 31) (min (choice.getD 3 0) 511) (choice.getD 1 0)).bind fun s =>
  eachOf (s.partGroves (partOfCtx (cmdCtx cmd))) s fun s g =>
    s.giveGrant (cmdCtx cmd) g (fieldOfBytes cmd 0x3C 4 % 256) (fieldOfBytes cmd 0x3C 4 / 256 % 1024)
theorem meets_HostCommands_create : (given (loadCmd 0) [0, 0, 1, 1] placed).isSome = true ∧
    placed.trunk.clearing.getLsbD (cmdPart (loadCmd 0)) = false := by decide +kernel
/-- A trailer that the check of R438 accepts makes a signed image. -/
theorem meets_HostCommands_signed (b : List Byte) (h : b = blank 512 [(0, 0x4E474953)])
    (ok : Config.signatureOk 0 (sha256 (b.take 128)) 0 = true) : (signedOf 0 0 b).isSome = true := by
  have e : fieldOfBytes (b.drop 0) 128 384 = 0 ∧ fieldOfBytes (b.drop 0) 4 2 = 0 ∧ fieldOfBytes (b.drop 0) 0 4 = 0x4E474953 ∧
      fieldOfBytes (b.drop 0) 0xC 116 = 0 ∧ fieldOfBytes (b.drop 0) 8 4 = 0 ∧ b.length = 512 := by rw [h]; decide +kernel
  simp only [List.drop_zero] at e
  simp [signedOf, e, ok]
theorem meets_HostCommands_contexts :
    let launch := command 2 0 0 [(0x10, 500)] 64
    let loaded := linked.updCtx 0 fun c => { c with state := .loaded }
    let bare : State := loaded.updGrove 0 fun g => { g with tasks := [] }
    let sup : State := { linked with trunk := { linked.trunk with supImage := some Image.empty } }
    let running : State := { sup with trunk := { sup.trunk with supRun := some (3, 1) } }
    let migrate := command 3 0 0 [(0x10, 0)] 64
    let snap : State := { snapping 0 [] with snaps := [{ snapOf 0 [] with id := 0, done := some 5 }] }
    let rolls : State := { snap with trunk := { snap.trunk with rollbacks := [(1, 0, 5, command 5 0 0 [] 64)] } }
    ((linked.cmdGate launch false .ctx).isNone = true ∧ zeroBytes launch 0x1A 0x20 = true ∧ (linked.ctx 0).state ≠ .loaded ∧
      (loaded.ctx 0).state = .loaded ∧ loaded.trunk.clearing = 0 ∧ loaded.trunk.syncErr = false ∧ 500 ≤ (later 900 loaded).tick ∧
      succeeds (loaded.launchCtx launch []) = true ∧ (loaded.gangRoutes [0] 0 []).isSome = true ∧ 0 < fieldOfBytes launch 0x10 8 ∧
      fieldOfBytes launch 0x18 1 = 0 ∧ fieldOfBytes launch 0x19 1 = 0 ∧ (loaded.startNumbers.placeAll 0 none).isSome = true ∧
      (bare.ctx 0).image.placements = [] ∧ (bare.groves.all fun e => e.2.tasks.isEmpty) = true ∧
      (bare.ctx 0).image.widths.foldl (· + ·) 0 ≤ 64 ∧ (bare.ctx 0).state = .loaded ∧ bare.tick < 500) ∧
    ((sup.cmdGate (command 2 15 0 [] 64) false .supervisor).isNone = true ∧ sup.trunk.supRun = none ∧ running.trunk.supRun ≠ none ∧
      running.qpFree 0 = true) ∧
    ((linked.cmdGate migrate false .ctx).isNone = true ∧ zeroBytes migrate 0x13 0x14 = true ∧ (linked.ctx 0).state = .running ∧
      (linked.partGroves 0).contains 0 = true ∧ (linked.grove 0).task? 9 = none ∧ ((linked.grove 0).task? 0).any (fun t => decide (t.ctx = 0)) = true) ∧
    ((linked.cmdGate (command 4 0 0 [] 64) false .nothing).isNone = true) ∧
    ((snap.cmdGate (command 5 0 0 [] 64) false .ctx).isNone = true ∧ 0 ≤ snLast (snap.ctx 0).snStat ∧
      snap.snaps.any (fun x => decide (x.ctx = 0 ∧ x.id = 0) && x.done.isSome && !x.released) = true ∧ snLast (snap.ctx 0).snStat < 9 ∧ snap.rollingFrom 0 = none ∧ rolls.rollingFrom 0 = some 5 ∧
      (let two := rolls.updCtx 0 fun c => { c with nmem := 2 }
       two.rollbackRuns 1 (command 5 0 0 [] 64) = true ∧ two.otherMembers 0 = [1] ∧ (two.ctx 0).marks = [] ∧ rolls.otherMembers 0 = [] ∧
       loaded.joinDue 2 1 = true ∧ loaded.anyLaunched = false ∧ linked.anyLaunched = true ∧ loaded.joinDue 1 0 = false) ∧
      rolls.qpFree 0 = true ∧ rolls.rollbackRuns 1 (command 5 0 0 [] 64) = true ∧ (rolls.cmdGate (command 8 0 0 [] 64) false .ctx).isNone = true) ∧
    ((linked.cmdGate (command 7 0 0 [] 64) true .nothing).isNone = true ∧ (linked.cmdGate (command 8 0 0 [] 64) false .ctx).isNone = true ∧
      resetClear (command 8 0 0 [] 64) = false ∧ resetFree (command 8 0 0 [] 64) = false ∧ cmdCode (command 9 0 0 [] 64) = 9 ∧
      (blank 15 []).length < 16) := by decide +kernel
/-- Does a new map of the quarters of a mask pass the checks of PARTITION, and which state does it give? -/
def cutBy (s : State) (m : Nat) (merge : Bool) : Option State :=
  let low := (maskQuarters m).headD 0
  let map := s.newMap m fun q => if merge then low else q
  if s.mayPartition m map && decide ((s.covered m).length = if merge then 2 else 1) && (seamsChanged s.trunk.partmap map).all (fun k =>
      decide (s.trunk.seamState k ≠ 1) && (s.trunk.seamBusy[k]?.getD none).isNone) then
    (s.updTrunk fun t => (seamsChanged s.trunk.partmap map).foldl (fun t k => t.setSeam k 1) t).repartition (seamsChanged s.trunk.partmap map) map merge (if merge then [low] else maskQuarters m) (s.covered m) []
  else none
theorem meets_HostCommands_partitions : (whole.cmdGate (partCmd 1) false .nothing).isNone = true ∧ cmdCode (partCmd 1) = 6 ∧
    fieldOfBytes (partCmd 1) 0x10 1 = 1 ∧ (cutBy whole 0xF false).isSome = true ∧
    ((cutBy whole 0xF false).any fun s => (cutBy s 0x3 true).isSome &&
      (s.cmdGate (command 6 0 0 [(0x10, 0x300)] 64) false .nothing).isNone) = true ∧
    (let p : Parting := ⟨0, partCmd 1, [0, 1, 2], 0, none, whole.trunk.seamctl, whole.trunk.seamstat, []⟩
     let at_ (p : Parting) : State := whole.updTrunk fun t => { t with parting := some p }
     let busy := (at_ p).updTrunk fun t => { t with seamBusy := Vector.replicate 3 (some (2, 9)) }
     let ready := (at_ p).updTrunk fun t => { t with seamstat := Vector.replicate 3 1 }
     (at_ p).trunk.parting ≠ none ∧ busy.trunk.seamBusy[(0 : Fin 3)] ≠ none ∧ (∀ k ∈ p.seams, ready.trunk.seamState k = 1) ∧
     (∀ k ∈ p.seams, (at_ p).trunk.seamBusy[k]?.getD none = none ∧ (at_ p).trunk.seamState k ≠ 1) ∧ p.wake = none ∧ p.tries ≠ 3 ∧
     ({ p with tries := 3 } : Parting).tries = 3 ∧ whole.clk < 8192 ∧ 8192 ≤ (later 8192 (at_ { p with wake := some 8192 })).clk) := by
  decide +kernel
theorem meets_RdmaReadinessAndFaultNotices :
    let tiled := linked.updTrunk fun t => { t with notifyQp := some 3, tiles := [[1]] }
    let cooled : State := { (later 2000000000 linked).updGrove 0 fun g => { g with cool := some 0 } with
      ready := { linked.ready with groves := [(0, 0x30)] } }
    (linked.rkeyCtx 0x5000 = some 0 ∧ linked.vaOpen 0 0x1FFFF8 8 true = true ∧ linked.vaOpen 0 0x200000 8 true = false ∧ linked.rkeyCtx 0x5001 = none ∧
      (match (linked.readVa 0 0 8).2 with | .ok _ => true | .error _ => false) = true) ∧
    (tiled.trunk.notifyQp = some 3 ∧ tiled.trunk.tiles = [[1]]) ∧
    (linked.ready.reported = [] ∧ linked.trunk.minimal = false) ∧
    (State.reset.trunk.started = false ∧ State.reset.trunk.failed = false ∧ State.reset.trunk.fails < 2 ∧
      (State.reset.updTrunk fun t => { t with fails := 2 }).trunk.fails = 2 ∧ 60000000000 ≤ ((later 108000000000 State.reset).clk - 0) * 5 / 9) ∧
    (linked.groveReady 0 = true ∧ linked.ready.rims.getLsbD 9 = true ∧ linked.ready.rims.getLsbD 0 = false) ∧
    (linked.ready.groveByte 2591 % 2 = 0 ∧ linked.ready.groveByte 2591 / 16 ≠ 3) ∧
    ((cooled.grove 0).cool = some 0 ∧ cooled.ready.groveByte 0 / 16 = 3 ∧ cooled.groveReady 0 = false ∧ 2 ^ 30 ≤ (cooled.clk - 0) * 5 / 9) ∧
    Memory.wf State.reset.mem = true := by decide +kernel
theorem meets_TimePowerAndContextRegisters :
    let held := linked.updCtx 0 fun c => { c with hold := .holding }
    let quiet := held.updGrove 0 fun g => { g with tasks := [] }
    let flushing := (linked.updGrove 0 fun g => { g with tasks := [] }).updCtx 0 fun c => { c with flushing := true }
    let done := linked.updCtx 0 fun c => { c with flushDone := false }
    (State.reset.anyLaunched = false ∧ State.reset.trunk.everPtp = false ∧ State.reset.trunk.joined = false ∧ linked.anyLaunched = true ∧
      linked.trunk.everPtp = false) ∧
    (linked.trunk.pwrcap.getLsbD 16 = true ∧ linked.trunk.measured ≠ linked.tick / 2 ^ 20 + 1) ∧
    (linked.groveReady 0 = true ∧ linked.trunk.hotAt ≤ 1050 ∧ 999 < linked.trunk.coolAt ∧ linked.trunk.coolAt ≤ 1049 ∧ 1049 < linked.trunk.hotAt) ∧
    ((quiet.ctx 0).hold = .holding ∧ quiet.holdQuiet 0 = true) ∧
    (snInprog (linked.ctx 0).snStat = false ∧ snInprog ((linked.setSn 0 1 true).ctx 0).snStat = true) ∧
    ((flushing.ctx 0).flushing = true ∧ flushing.flushIdle 0 = true ∧ (flushing.ctx 0).state ≠ .resetting) ∧
    ((linked.ctx 0).flushDone = true ∧ (done.ctx 0).flushDone = false) ∧
    (linked.sliceInUse 72 = false ∧ shared.sliceInUse 72 = true) := by decide +kernel
theorem meets_ManagementRegisterSteps :
    let quiesced := State.reset.updTrunk fun t => { t with seamstat := Vector.replicate 3 1 }
    let busy (d : Nat) : State := (later 900 State.reset).updTrunk fun t => { t with seamBusy := Vector.replicate 3 (some (2, d)) }
    let cut := quiesced.updTrunk fun t => { t with partmap := 0xFE4 }
    let granted := linked.updGrove 0 fun g => { g with geGrant := [(3, 0x0000000000008000)] }
    ((0xFE4 : Word) &&& 0xFFF ∈ layouts ∧ (∀ q, q < 4 → quiesced.ctxMask (mapPart quiesced.trunk.partmap q) = 0) ∧
      (∀ k ∈ seamsChanged quiesced.trunk.partmap 0xFE4, quiesced.trunk.seamState k = 1) ∧ (0x123 : Word) ∉ layouts ∧
      (∃ k ∈ seamsChanged State.reset.trunk.partmap 0xFE4, State.reset.trunk.seamState k ≠ 1)) ∧
    (State.reset.trunk.seamState 2 ≠ 1 ∧ State.reset.trunk.seamBusy = Vector.replicate 3 none ∧ quiesced.trunk.seamState 2 = 1) ∧
    ((busy 501).tick = 500 ∧ 2 / 4 ≤ (busy 501).tick ∧ (busy 501).tick < 501 ∧ 500 ≤ (busy 500).tick) ∧
    (mapPart quiesced.trunk.partmap 0 = mapPart quiesced.trunk.partmap 1 ∧ mapPart cut.trunk.partmap 0 ≠ mapPart cut.trunk.partmap 1 ∧
      cut.trunk.seamState 0 = 1) ∧
    ((0x800C000000000001 : Word).getLsbD 63 = true ∧ ilvStacks (0x800C000000000001 &&& 0x803F03F000FFFFFF) = [0] ∧ 0 ∈ State.reset.trunk.partRims 0 ∧
      ∀ q, q < 4 → (State.reset.ilv q).getLsbD 63 = false) ∧
    (let s := linked.updTrunk fun t => { t with partmap := 0xFE4 }
     linked.ctxMask (mapPart linked.trunk.partmap 1) ≠ 0 ∧ mapPart linked.trunk.partmap 1 ≠ mapPart 0xFE4 1 ∧
     4 ∈ ilvStacks (0x800C000000000010 &&& 0x803F03F000FFFFFF) ∧ (∀ r ∈ s.trunk.partRims 0, 4 ≠ 2 * r ∧ 4 ≠ 2 * r + 1) ∧
     (s.ilv 0).getLsbD 63 = true ∧ (ilvRange (0x800C000000000010 &&& 0x803F03F000FFFFFF)).1 < (ilvRange (s.ilv 0)).2 ∧
     (ilvRange (s.ilv 0)).1 < (ilvRange (0x800C000000000010 &&& 0x803F03F000FFFFFF)).2) ∧
    ((State.reset.updTrunk fun t => { t with clearing := 1 }).trunk.clearing.getLsbD 0 = true) ∧
    (State.reset.trunk.partExists 0 = true) ∧
    ((granted.grove 0).geGrant.all (fun e => grantsMeet e.2 (0x100 &&& 0x000FFFFE0000FF7F)) = true ∧ (State.reset.grove 0).geGrant = []) ∧
    ((State.reset.mgmtRead 0x88).isSome = true ∧ (State.reset.mgmtRead 0x90).isSome = true ∧
      (linked.mgmtRead 0x100008000).isSome = true ∧ (linked.mgmtRead 0x100030000).isSome = true) := by decide +kernel
/-- `linked` with a bundle of code: a nop in every slot, or a word in slot S0. -/
def coded (w : BitVec 128) : State := linked.updCtx 0 fun c => { c with image := { c.image with code := [w] } }
/-- `coded` with a fill job whose record has a reserved bit. -/
def reserved : State :=
  let w := match encode (.vjfill 2 0 0) .v with | some e => e.1 | none => 0
  let s := (coded (encodeBundle .v w none)).updCore 0 fun c => { c with kbank := 0x22222722, h := c.h.set 2 0x120 }
  { s with mem := storeWord s.mem (spKey 0 0x138) (2 ^ 63) }
theorem meets_StepRunsTheDecodedBundle :
    let s := coded 0x02529800
    let ops := decodeBundle (s.fetch 0)
    let c := { s.me with latch := .none, bord := s.me.ords }
    let bad := coded 0x7E000000
    let rops := decodeBundle (reserved.fetch 0)
    let wait : State := later 2 ((coded 0x02529800).updCore 0 fun c => { c with pend := [⟨⟨.s, 5⟩, 1, 0, .timed 9, 0⟩] })
    let input : State := { linked with agenda := [(0, .nop)] }
    let late : State := { State.reset with late := true }
    let told : State := { linked with inbox := [⟨0, 1, 0, .lantern 0 1 0 true⟩] }
    let armed : State := (snapping 0 [{ node 0 with pending := [(0, 5)] }]).updCore 0 fun c => { c with armed := 0x20 }
    (told.nextMessage.isSome = true ∧ input.nextMessage = none ∧ input.nextInput = some (0, .nop)) ∧
    (armed.nextMessage = none ∧ armed.nextInput = none ∧ armed.turn = none ∧ armed.late = false ∧ (snapFirst armed).isSome = true) ∧
    ((match runSlots s (c.executing ops) [] with | .ran _ _ => true | _ => false) = true ∧ c.split = [] ∧ (snapFirst s).isNone = true) ∧
    (s.nextInput = none ∧ s.turn = none ∧ s.late = false ∧ s.dueCore = some 0 ∧ ops.map (·.op.toOption) = [some (.add 5 5 6 0), some .nop, some .nop, some .nop] ∧
      ops.all c.flagsAllow = true ∧ (s.bundleIllegal c (s.fetch 0) ops).isNone = true ∧
      (c.bundleInterlock s.clk (c.executing ops)).isNone = true) ∧
    ((bad.bundleIllegal bad.me (bad.fetch 0) (decodeBundle (bad.fetch 0))).isSome = true ∧ bad.dueCore = some 0) ∧
    (reserved.dueCore = some 0 ∧ (reserved.bundleIllegal reserved.me (reserved.fetch 0) rops).isNone = true ∧
      (reserved.recordIllegal reserved.me (reserved.me.executing rops)).any (fun x => decide (x.1 = 1)) = true ∧
      (s.recordIllegal c (c.executing ops)).isNone = true ∧ (bad.recordIllegal bad.me (bad.me.executing (decodeBundle (bad.fetch 0)))).isNone = true) ∧
    ((wait.me.bundleInterlock wait.clk (wait.me.executing ops)).isSome = true) ∧
    (late.nextInput = none ∧ late.turn = none ∧ (lateEvent late).isNone = true) ∧
    (State.reset.nextInput = none ∧ State.reset.dueCore = none ∧ (earlyEvent State.reset).isNone = true) := by decide +kernel
/-- R66, R76: the step at a bundle with an `add` in S0 writes its sum and goes on to the next bundle. -/
theorem test_step :
    let s := (coded 0x02529800).updCore 0 fun c => { c with s := (c.s.set 5 40).set 6 2 }
    (match step s with | .next t => (t.me.rs 5, t.me.pc) | _ => (0, 0)) = (42, 1) := by decide +kernel
theorem meets_FrameOfSlotOperations : (Sys2Proof.Instr.add 5 5 6 0).slots ≠ [] ∧
    (match exec (.add 5 5 6 0) user with | .next t => decide (t.mem = user.mem) | _ => false) = true := by decide +kernel
theorem meets_EncodedOperationsDecode : (Sys2Proof.Instr.add 31 31 31 7).illegal? = none ∧ (encode (.add 31 31 31 7) .c).isSome = true ∧
    standsAlone .c 0x02529800 0 = true ∧ (encode (.ld 31 15 6 7 0x1FFFF) .m).isSome = true := by decide +kernel
theorem meets_MemoryStaysCanonical : Memory.wf loaded.mem = true ∧
    (match step loaded with | .next _ => true | _ => false) = true := by decide +kernel
/-- An operation placed by `withFetchWord` runs at the next step. -/
theorem test_fetch_word :
    (match step (State.reset.withFetchWord 32 0x3E300001) with | .next t => t.me.rs 3 | _ => 0) = 1 := by decide +kernel

end Sys2Proof.Tests
end

section
/-!
PROOF. The life of a task record (O43; R15, R19, R29, R167, R182, R191): what the engines' services (packets, withdrawals, tags,
fault tiles, trigger images) keep of the state around a record, then each event of the record.
-/

namespace Sys2Proof.Machine

/-! ### Tables -/

/-- What a table holds after an entry is set: the entry, and what it held. -/
theorem Tbl.mem_set {α : Type} {t : Tbl α} {k : Nat} {v : α} {e : Nat × α} (h : e ∈ Tbl.set t k v) : e = (k, v) ∨ e ∈ t := by
  induction t with
  | nil => simpa [Tbl.set] using h
  | cons x r ih =>
    obtain ⟨j, w⟩ := x
    simp only [Tbl.set] at h
    split at h
    · simpa using h
    · split at h <;> grind

/-- A listed entry is an entry of the table. -/
theorem Tbl.mem_of_get? {α : Type} {t : Tbl α} {k : Nat} {v : α} (h : Tbl.get? t k = some v) : (k, v) ∈ t := by
  obtain ⟨⟨j, w⟩, hf, rfl⟩ := Option.map_eq_some_iff.mp h
  obtain rfl : j = k := by simpa using List.find?_some hf
  exact List.mem_of_find?_eq_some hf

@[simp] theorem Tbl.get?_del_same {α : Type} (t : Tbl α) (k : Nat) : Tbl.get? (Tbl.del t k) k = none := by
  simp [Tbl.get?, Tbl.del, List.find?_eq_none]

/-- A change of every entry that leaves the keys alone changes the entry of a key. -/
theorem Tbl.get?_map {α : Type} (t : Tbl α) {f : Nat × α → Nat × α} (hf : ∀ e, (f e).1 = e.1) (k : Nat) :
    Tbl.get? (t.map f) k = (Tbl.get? t k).map fun v => (f (k, v)).2 := by
  induction t with
  | nil => rfl
  | cons e r ih =>
    obtain ⟨j, w⟩ := e
    by_cases hj : j = k
    · subst hj; simp [Tbl.get?, hf]
    · simpa [Tbl.get?, List.find?_cons, hf, hj] using ih

/-! ### Groves and records -/

theorem State.mem_allRecords {s : State} {g i : Nat} {r : TaskRec} :
    (g, i, r) ∈ s.allRecords ↔ ∃ gr, (g, gr) ∈ s.groves ∧ (i, r) ∈ gr.tasks := by
  simp [State.allRecords]

/-- A record of a grove that is read is a listed record: an unlisted grove has none. -/
theorem State.mem_allRecords_of_grove {s : State} {g i : Nat} {r : TaskRec} (h : (i, r) ∈ (s.grove g).tasks) :
    (g, i, r) ∈ s.allRecords := by
  simp only [State.grove, Tbl.getD] at h
  cases hg : Tbl.get? s.groves g with
  | none => simp [hg, Grove.reset] at h
  | some gr => exact State.mem_allRecords.mpr ⟨gr, Tbl.mem_of_get? hg, by simpa [hg] using h⟩

/-- A record after it is changed. -/
theorem State.task?_updTask {s : State} {g i : Nat} {t : TaskRec} (f : TaskRec → TaskRec) (h : (s.grove g).task? i = some t) :
    ((s.updTask g i f).grove g).task? i = some (f t) := by
  simp only [Grove.task?] at h ⊢
  simp [State.updTask, h]

theorem State.core_updTask (s : State) (g i : Nat) (f : TaskRec → TaskRec) (k : Nat) : (s.updTask g i f).core k = s.core k := rfl

theorem State.groveReady_updTask (s : State) (g i : Nat) (f : TaskRec → TaskRec) (k : Nat) :
    (s.updTask g i f).groveReady k = s.groveReady k := rfl

/-- A change of a record leaves the publications of its grove alone. -/
theorem State.pubs_updTask (s : State) (g i : Nat) (f : TaskRec → TaskRec) : ((s.updTask g i f).grove g).pubs = (s.grove g).pubs := by
  simp only [State.updTask, State.grove_updGrove_same]
  split <;> rfl

/-- A change of a record leaves the trigger slots of its grove alone. -/
theorem State.slots_updTask (s : State) (g i : Nat) (f : TaskRec → TaskRec) : ((s.updTask g i f).grove g).slots = (s.grove g).slots := by
  simp only [State.updTask, State.grove_updGrove_same]
  split <;> rfl

/-! ### What a service keeps -/

/-- `hr` has the records of `gr` and the publications of `gr` that `kept` selects. -/
structure Grove.Keeps (kept : PubOp → Prop) (gr hr : Grove) : Prop where
  tasks : hr.tasks = gr.tasks
  pubs : ∀ p ∈ gr.pubs, kept p → p ∈ hr.pubs

/-- `u` has the cores, the readiness, the images and the records of `s`, and the publications of `s` that `kept` selects. -/
structure State.Keeps (kept : PubOp → Prop) (s u : State) : Prop where
  cores : u.cores = s.cores
  ready : u.ready = s.ready
  image : ∀ c, (u.ctx c).image = (s.ctx c).image
  groves : ∀ g, (s.grove g).Keeps kept (u.grove g)
  records : ∀ e ∈ u.allRecords, e ∈ s.allRecords

section
variable {kept : PubOp → Prop}

theorem Grove.Keeps.refl (gr : Grove) : gr.Keeps kept gr := ⟨rfl, fun _ h _ => h⟩

theorem Grove.Keeps.trans {a b c : Grove} (h : a.Keeps kept b) (k : b.Keeps kept c) : a.Keeps kept c :=
  ⟨k.tasks.trans h.tasks, fun p hp hk => k.pubs p (h.pubs p hp hk) hk⟩

namespace State.Keeps

theorem refl (s : State) : s.Keeps kept s := ⟨rfl, rfl, fun _ => rfl, fun _ => .refl _, fun _ he => he⟩

theorem trans {s u v : State} (h : s.Keeps kept u) (k : u.Keeps kept v) : s.Keeps kept v :=
  ⟨k.cores.trans h.cores, k.ready.trans h.ready, fun c => (k.image c).trans (h.image c), fun g => (h.groves g).trans (k.groves g),
    fun e he => h.records e (k.records e he)⟩

/-- What every step of a fold keeps, the fold keeps. -/
theorem foldl {α : Type} {f : State → α → State} (hf : ∀ (s : State) (x : α), s.Keeps kept (f s x)) (l : List α) (s : State) :
    s.Keeps kept (l.foldl f s) := by
  induction l generalizing s with
  | nil => exact .refl s
  | cons x l ih => exact (hf s x).trans (ih _)

theorem core {s u : State} (h : s.Keeps kept u) (k : Nat) : u.core k = s.core k := by simp [State.core, h.cores]

theorem groveReady {s u : State} (h : s.Keeps kept u) (g : Nat) : u.groveReady g = s.groveReady g := by
  simp [State.groveReady, h.ready]

theorem task? {s u : State} (h : s.Keeps kept u) (g i : Nat) : (u.grove g).task? i = (s.grove g).task? i := by
  simp [Grove.task?, (h.groves g).tasks]

/-- A part of the state that holds no record and no core may change freely. -/
theorem of_same {s u : State} (hc : u.cores = s.cores) (hr : u.ready = s.ready) (hx : u.contexts = s.contexts)
    (hg : u.groves = s.groves) : s.Keeps kept u :=
  ⟨hc, hr, fun c => by simp [State.ctx, hx], fun g => by simpa [State.grove, hg] using Grove.Keeps.refl _,
    by simp [State.allRecords, hg]⟩

theorem updGrove {s : State} {g : Nat} {f : Grove → Grove} (h : (s.grove g).Keeps kept (f (s.grove g))) :
    s.Keeps kept (s.updGrove g f) where
  cores := rfl
  ready := rfl
  image _ := rfl
  groves k := by
    by_cases hk : k = g
    · subst hk; simpa using h
    · simpa [State.grove_updGrove_other s f hk] using Grove.Keeps.refl _
  records := by
    rintro ⟨k, i, r⟩ hr
    obtain ⟨gr, hgr, hi⟩ := State.mem_allRecords.mp hr
    rcases Tbl.mem_set hgr with he | he
    · obtain ⟨rfl, rfl⟩ := Prod.mk.inj he
      exact State.mem_allRecords_of_grove (h.tasks ▸ hi)
    · exact State.mem_allRecords.mpr ⟨gr, he, hi⟩

/-- A change of a grove that leaves its records and publications alone. -/
theorem updGrove_rest {s : State} {g : Nat} {f : Grove → Grove} (ht : ∀ gr, (f gr).tasks = gr.tasks := by intro; rfl)
    (hp : ∀ gr, (f gr).pubs = gr.pubs := by intro; rfl) : s.Keeps kept (s.updGrove g f) :=
  .updGrove ⟨ht _, fun _ h _ => (hp _).symm ▸ h⟩

/-- A change of every grove. -/
theorem mapGroves (s : State) {f : Nat × Grove → Nat × Grove} (hf : ∀ e, (f e).1 = e.1) (h : ∀ e : Nat × Grove, e.2.Keeps kept (f e).2) :
    s.Keeps kept { s with groves := s.groves.map f } where
  cores := rfl
  ready := rfl
  image _ := rfl
  groves k := by
    simp only [State.grove, Tbl.getD, Tbl.get?_map _ hf]
    cases Tbl.get? s.groves k with
    | none => exact .refl _
    | some gr => exact h (k, gr)
  records := by
    rintro ⟨k, i, r⟩ hr
    obtain ⟨gr, hgr, hi⟩ := State.mem_allRecords.mp hr
    obtain ⟨⟨j, x⟩, hx, he⟩ := List.mem_map.mp hgr
    obtain rfl : j = k := by simpa [he] using (hf (j, x)).symm
    exact State.mem_allRecords.mpr ⟨x, hx, (h (j, x)).tasks ▸ he ▸ hi⟩

theorem updCtx {s : State} {c : Nat} {f : Context → Context} (h : (f (s.ctx c)).image = (s.ctx c).image) :
    s.Keeps kept (s.updCtx c f) where
  cores := rfl
  ready := rfl
  image k := by
    by_cases hk : k = c
    · subst hk; simpa using h
    · rw [State.ctx_updCtx_other s f hk]
  groves _ := .refl _
  records _ he := he

end State.Keeps

/-! ### Packets and withdrawals -/

theorem State.keeps_send (s : State) (p : Pkt) : s.Keeps kept (s.send p) := .of_same rfl rfl rfl rfl

theorem State.keeps_sendTo (s : State) (ctx : Nat) (name : Name) (kind : PktKind) (src pos : Nat) (express : Bool) (inj : Nat)
    (data : Payload) (wid : Word) : s.Keeps kept (s.sendTo ctx name kind src pos express inj data wid) := by
  simp only [State.sendTo, State.emit]
  split <;> exact s.keeps_send _

theorem Grove.keeps_leaveMatch (gr : Grove) (ctx : Nat) (name : Name) (mask : Word) (port from_ prev : Nat) :
    gr.Keeps kept (gr.leaveMatch ctx name mask port from_ prev).1 := by
  simp only [Grove.leaveMatch]
  split
  · exact .refl gr
  · split_ifs <;> exact ⟨rfl, fun _ h _ => h⟩

theorem Grove.keeps_dropVersion (gr : Grove) (v : Version) : gr.Keeps kept (gr.dropVersion v) := by
  simp only [Grove.dropVersion, Grove.setNameRec]
  repeat' split
  all_goals exact ⟨rfl, fun _ h _ => h⟩

theorem Grove.keeps_sweep (gr : Grove) (tick : Nat) : gr.Keeps kept (gr.sweep tick) := by
  simp only [Grove.sweep]
  generalize gr.versions = l
  induction l generalizing gr with
  | nil => exact .refl gr
  | cons v l ih =>
    simp only [List.foldl_cons]
    split
    · exact (gr.keeps_dropVersion v).trans (ih _)
    · exact ih gr

theorem State.keeps_endReg (s : State) (pos : Nat) (r : SubReg) : s.Keeps kept (s.endReg pos r) := by
  simp only [State.endReg]
  split
  · have unregister : ∀ gr : Grove, gr.Keeps kept (gr.unregister r) := fun _ => ⟨rfl, fun _ h _ => h⟩
    exact (State.Keeps.updGrove ((unregister _).trans (Grove.keeps_sweep _ _))).trans (.updCtx rfl)
  · exact .refl s

/-- A withdrawal goes on to a root, or ends there. -/
theorem State.keeps_withdrawFrom (s : State) (on : Bool) (x : Sub) (g pos : Nat) (r : SubReg) :
    s.Keeps kept (if on then s.sendTo x.ctx x.name (.unsub r) g pos true s.tick [] 0 else s.endReg pos r) := by
  split
  · exact s.keeps_sendTo ..
  · exact s.keeps_endReg pos r

theorem State.keeps_withdraw (s : State) (g id : Nat) : s.Keeps kept (s.withdraw g id) := by
  simp only [State.withdraw]
  split
  · exact .refl s
  · rename_i x _
    have drop : s.Keeps kept (s.updGrove g fun gr => { gr with subs := gr.subs.filter fun y => !decide (y.id = id) }) :=
      .updGrove_rest
    split
    · exact drop
    · refine drop.trans (State.Keeps.trans ?_ (State.Keeps.foldl (fun s pos => ?_) _ _))
      · refine State.Keeps.updGrove (f := fun _ => _) ?_
        split
        · exact .refl _
        · exact Grove.keeps_leaveMatch _ _ _ _ _ _ _
      · exact s.keeps_withdrawFrom ..

theorem State.keeps_withdrawOf (s : State) (g i : Nat) (sel : Sub → Bool) : s.Keeps kept (s.withdrawOf g i sel) :=
  .foldl (fun s x => s.keeps_withdraw g (Sub.id x)) _ s

theorem State.keeps_endKernel (s : State) (g i : Nat) : s.Keeps kept (s.endKernel g i) := by
  rw [State.endKernel]
  exact (s.keeps_withdrawOf ..).trans .updGrove_rest

/-! ### Frames and tags -/

theorem State.keeps_dropFrame (s : State) (g : Nat) (f : Option Nat) : s.Keeps kept (s.dropFrame g f) := by
  cases f with
  | none => exact .refl s
  | some f => rw [State.dropFrame]; exact .updGrove_rest

theorem State.keeps_leaveSpawn (s : State) (ctx : Nat) (wid : Word) (sel : Nat → Bool) : s.Keeps kept (s.leaveSpawn ctx wid sel) :=
  State.Keeps.mapGroves s (fun _ => rfl) fun _ => ⟨rfl, fun _ h _ => h⟩

theorem State.keeps_updPool (s : State) (ctx level : Nat) (group : Word) (f : Pool → Pool) :
    s.Keeps kept (s.updPool ctx level group f) := by
  simp only [State.updPool]
  split
  · refine .updGrove ?_
    simp only [Grove.setPool]
    split <;> exact ⟨rfl, fun _ h _ => h⟩
  · exact .refl s

theorem State.keeps_settlePools (s : State) (ctx : Nat) : s.Keeps kept (s.settlePools ctx) := by
  simp only [State.settlePools]
  split
  · exact .refl s
  · refine State.Keeps.trans ?_ (State.Keeps.foldl (fun s p => ?_) _ _)
    · refine State.Keeps.trans ?_ (.updCtx rfl)
      exact .mapGroves s (fun _ => rfl) fun _ => ⟨rfl, fun _ h _ => h⟩
    · split
      · exact .refl s
      · exact s.keeps_updPool ..

theorem State.keeps_returnTag (s : State) (g i : Nat) (r : TaskRec) : s.Keeps kept (s.returnTag g i r) := by
  simp only [State.returnTag]
  split
  · exact .refl s
  · split
    · exact .refl s
    · refine State.Keeps.trans ?_ (State.keeps_settlePools _ _)
      split
      · exact s.keeps_updPool ..
      · split
        · refine .updGrove ?_
          simp only [Grove.setLease]
          split <;> exact ⟨rfl, fun _ h _ => h⟩
        · exact s.keeps_updPool ..

theorem State.keeps_freeTransit (s : State) (sel : TaskRec → Bool) : s.Keeps kept (s.freeTransit sel) := by
  refine State.Keeps.foldl (fun s p => ?_) _ s
  split
  · split
    · refine State.Keeps.trans (State.Keeps.trans ?_ .updGrove_rest) (State.keeps_returnTag ..)
      exact .of_same rfl rfl rfl rfl
    · exact .refl s
  · exact .refl s

/-- A record without HOLD children: only records in transit are freed. -/
theorem State.keeps_freeHeld (s : State) {uid : Nat} (h : ∀ e ∈ s.allRecords, e.2.2.parent ≠ some uid) :
    s.Keeps kept (s.freeHeld uid) := by
  have none : s.allRecords.filter (fun e => e.2.2.heldBy uid) = [] := by
    simp only [List.filter_eq_nil_iff, TaskRec.heldBy]
    intro e he
    simp [h e he]
  simp only [State.freeHeld, none, List.foldl_nil]
  exact s.keeps_freeTransit _

/-! ### Fault tiles, trigger images and subscriptions -/

theorem State.keeps_trunkTile (s : State) (tile : List Byte) : s.Keeps kept (s.trunkTile tile) := .of_same rfl rfl rfl rfl

theorem State.keeps_faultTileAt (s : State) (tick g ctx : Nat) (t : TileInfo) (task : Option (Nat × TaskRec)) (wid : Word) :
    s.Keeps kept (s.faultTileAt tick g ctx t task wid) := by
  simp only [State.faultTileAt]
  split
  · refine (s.keeps_trunkTile _).trans (State.Keeps.trans (.updCtx ?_) (.updGrove ⟨?_, ?_⟩))
    · rfl
    · rfl
    · exact fun _ h _ => List.mem_append_left _ h
  · exact (s.keeps_trunkTile _).trans (.updCtx rfl)

/-- With a fault tensor the grove publishes the tile on its own channel (R195, R196). -/
theorem State.tile_faultTileAt (s : State) (tick g ctx : Nat) (t : TileInfo) (task : Option (Nat × TaskRec)) (wid : Word)
    (h : (s.ctx ctx).image.faultH.getLsbD 31 = true) :
    ∃ q ∈ ((s.faultTileAt tick g ctx t task wid).grove g).pubs, q.ch = 64 ∧ q.ctx = ctx := by
  simp only [State.faultTileAt, if_pos h, State.grove_updGrove_same]
  exact ⟨_, List.mem_append_right _ (List.mem_singleton_self _), rfl, rfl⟩

theorem State.keeps_installTrigs (s : State) (g i : Nat) : s.Keeps kept (s.installTrigs g i) := by
  simp only [State.installTrigs]
  split
  · exact .refl s
  · refine State.Keeps.foldl (fun s e => ?_) _ s
    split
    · exact s.keeps_faultTileAt ..
    · split
      · exact .updGrove_rest
      · exact s.keeps_faultTileAt ..

theorem State.keeps_sendRecSubs (s : State) (g i : Nat) : s.Keeps kept (s.sendRecSubs g i) := by
  simp only [State.sendRecSubs]
  split
  · exact .refl s
  · refine State.Keeps.foldl (fun s e => ?_) _ s
    split
    · exact .refl s
    · exact .updGrove_rest

/-! ### Commits and discards -/

/-- Discards take publications away, and nothing else of what is kept. -/
theorem State.keeps_discardTentative (s : State) (uid : Nat) : s.Keeps (fun _ => False) (s.discardTentative uid) := by
  refine State.Keeps.foldl (fun s e => ?_) _ s
  have resolve : s.Keeps (fun _ => False) (if e.2.sent = 2 then s.sendResolve e.1 e.2 e.2.discardKind else s) := by
    split
    · exact s.keeps_sendTo ..
    · exact .refl s
  exact resolve.trans (.updGrove ⟨rfl, fun _ _ hk => hk.elim⟩)

theorem State.keeps_sendCommits (s : State) (l : List (Nat × PubOp)) :
    s.Keeps kept (l.foldl (fun s p => if p.2.sent = 2 then s.sendResolve p.1 p.2 (.commit p.2.id) else s) s) := by
  refine State.Keeps.foldl (fun s p => ?_) l s
  split
  · exact s.keeps_sendTo ..
  · exact .refl s

theorem State.keeps_keepVotes (s : State) (triad : Bool) (uid : Nat) :
    s.Keeps (fun _ => False) (if triad then s.keepVotes uid else s) := by
  split
  · exact State.Keeps.mapGroves s (fun _ => rfl) fun _ => ⟨rfl, fun _ _ hk => hk.elim⟩
  · exact .refl s

theorem State.keeps_sweepTriads (s : State) : s.Keeps kept s.sweepTriads := .of_same rfl rfl rfl rfl

end

/-! ### Arming -/

/-- Sending the subscriptions of a record leaves the contexts alone. -/
theorem State.contexts_sendRecSubs (s : State) (g i : Nat) : (s.sendRecSubs g i).contexts = s.contexts := by
  simp only [State.sendRecSubs]
  split
  · rfl
  · refine List.foldlRecOn (motive := fun u : State => u.contexts = s.contexts) _ _ rfl fun u hu e _ => ?_
    split <;> exact hu

theorem State.contexts_armTask (s : State) (g i : Nat) : (s.armTask g i).contexts = s.contexts :=
  State.contexts_sendRecSubs _ g i

/-- Arming a record changes its state and HOLD; without subscriptions it is READY (R15, R167). -/
theorem State.task?_armTask {s : State} {g i : Nat} {t : TaskRec} (h : (s.grove g).task? i = some t) :
    ∃ r, ((s.armTask g i).grove g).task? i = some r ∧ r.wid = t.wid ∧ r.replay = t.replay ∧ (t.subs = [] → r.state = .ready) := by
  have armed := State.task?_updTask (fun t => { t with state := .armed, hold := false }) h
  rw [← ((State.keeps_sendRecSubs (kept := fun _ => True) _ g i).task? g i)] at armed
  refine ⟨_, State.task?_updTask _ armed, ?_, ?_, fun hs => ?_⟩
  · dsimp only; split <;> rfl
  · dsimp only; split <;> rfl
  · simp [hs]

/-- Arming a record keeps the cores, and the publications of its grove. -/
theorem State.keeps_armTask (s : State) (g i : Nat) :
    (s.armTask g i).cores = s.cores ∧ ∀ p ∈ (s.grove g).pubs, p ∈ ((s.armTask g i).grove g).pubs := by
  have send := State.keeps_sendRecSubs (kept := fun _ => True) (s.updTask g i fun t => { t with state := .armed, hold := false }) g i
  refine ⟨send.cores, fun p hp => ?_⟩
  rw [State.armTask, State.settleReady, State.pubs_updTask]
  exact (send.groves g).pubs p ((s.pubs_updTask g i _).symm ▸ hp) trivial

/-! ### The start tick (R19) -/

theorem exec_launchStartTick (ctx : Nat) (s : State) : exec (.launchStartTick ctx) s = execLaunchStartTick ctx s := rfl

/-- At the start tick the context runs and its one IDLE record is armed; beside them only packets change. -/
theorem exec_launchStartTick_one {s : State} {ctx g i : Nat} {r : TaskRec} (hl : (s.ctx ctx).state = .launched)
    (ht : (s.ctx ctx).start ≤ s.tick)
    (hw : s.allRecords.filter (fun e => decide (e.2.2.ctx = ctx) && decide (e.2.2.state = .idle) && !e.2.2.hold) = [(g, i, r)]) :
    ∃ u, exec (.launchStartTick ctx) s = .next u ∧
      u.groves = ((s.setCtx ctx { s.ctx ctx with state := .running }).armTask g i).groves ∧
      u.contexts = ((s.setCtx ctx { s.ctx ctx with state := .running }).armTask g i).contexts := by
  rw [exec_launchStartTick, execLaunchStartTick, if_neg (by simp [hl, ht])]
  simp only [hw, List.foldl_cons, List.foldl_nil]
  exact ⟨_, rfl, rfl, rfl⟩

/-- At the start tick the one IDLE record of a context without subscriptions becomes READY. -/
theorem launchStartTick_ready {s : State} {ctx g i : Nat} {r : TaskRec} (hl : (s.ctx ctx).state = .launched)
    (ht : (s.ctx ctx).start ≤ s.tick)
    (hw : s.allRecords.filter (fun e => decide (e.2.2.ctx = ctx) && decide (e.2.2.state = .idle) && !e.2.2.hold) = [(g, i, r)])
    (hr : (s.grove g).task? i = some r) (hs : r.subs = []) :
    ∃ u r', exec (.launchStartTick ctx) s = .next u ∧ (u.ctx ctx).state = .running ∧ (u.grove g).task? i = some r' ∧
      r'.state = .ready ∧ r'.wid = r.wid := by
  obtain ⟨u, hu, hgroves, hctx⟩ := exec_launchStartTick_one hl ht hw
  obtain ⟨r', hr', hwid, -, hready⟩ := State.task?_armTask (s := s.setCtx ctx { s.ctx ctx with state := .running }) hr
  refine ⟨u, r', hu, ?_, ?_, hready hs, hwid⟩
  · simp [State.ctx, hctx, State.contexts_armTask, State.setCtx]
  · simpa only [State.grove, hgroves] using hr'

/-! ### Start on a core (R15, R29, R167) -/

theorem exec_taskStart (g : Nat) (s : State) : exec (.taskStart g) s = execTaskStart g s := rfl

/-- The core on which a record can start is one of its grove's four. -/
theorem State.slot_of_nextStart {s : State} {g i slot : Nat} {t : TaskRec} (h : s.nextStart g = some (i, t, slot)) : slot < 4 := by
  simp only [State.nextStart] at h
  split at h
  · obtain ⟨e, -, he⟩ := List.exists_of_findSome?_eq_some h
    obtain ⟨k, hk, heq⟩ := Option.map_eq_some_iff.mp he
    obtain ⟨-, rfl⟩ : _ ∧ k = slot := by simpa using congrArg Prod.snd heq
    simpa using List.mem_of_find?_eq_some hk
  · cases h

/-- `u` has the groves, the contexts and the clock of `s`. -/
structure State.Around (s u : State) : Prop where
  groves : u.groves = s.groves
  contexts : u.contexts = s.contexts
  clk : u.clk = s.clk

theorem State.Around.foldl {α : Type} {f : State → α → State} (hf : ∀ (s : State) (x : α), s.Around (f s x)) (l : List α) (s : State) :
    s.Around (l.foldl f s) := by
  induction l generalizing s with
  | nil => exact ⟨rfl, rfl, rfl⟩
  | cons x l ih =>
    have hx := hf s x
    have hl := ih (f s x)
    exact ⟨hl.groves.trans hx.groves, hl.contexts.trans hx.contexts, hl.clk.trans hx.clk⟩

theorem State.around_captureChunk (s : State) (core chunk : Nat) : s.Around (s.captureChunk core chunk) := by
  simp only [State.captureChunk]
  split <;> exact ⟨rfl, rfl, rfl⟩

theorem State.around_clearBank (s : State) (core ctx k : Nat) : s.Around (s.clearBank core ctx k) := by
  simp only [State.clearBank]
  split
  · exact ⟨rfl, rfl, rfl⟩
  · have h := State.Around.foldl (fun s j => s.around_captureChunk core (96 * k + j)) (List.range 96) s
    exact ⟨h.groves, h.contexts, h.clk⟩

/-- A task without HELD slots enters none. -/
theorem State.enterHeld_nil {s : State} {core uid : Nat} (h : (s.grove (groveOf core)).heldOf uid = []) : s.enterHeld core uid = s := by
  simp [State.enterHeld, h]

theorem Grove.heldOf_congr {a b : Grove} (h : a.slots = b.slots) (uid : Nat) : a.heldOf uid = b.heldOf uid := by
  simp only [Grove.heldOf, h]

/-- The banks of a core that a context does not hold (R29). -/
def State.foreignBanks (s : State) (core ctx : Nat) : List Nat :=
  (List.range 8).filter fun k => decide (((s.core core).tags[k]?.getD none) ≠ some ctx)

/-- The core of a fresh record at its first bundle, with what the record carries along. -/
def Core.beginFresh (c : Core) (im : Image) (i : Nat) (t : TaskRec) (first : Nat) (ptroot : Word) : Core :=
  { c.begin im i t first ptroot with collRec := t.collRec, rounds := t.rounds }

/-- A fresh record takes its core, whose banks are clear from clock `first` on (R15, R167). -/
def State.takeCore (v : State) (g i slot first : Nat) (t : TaskRec) : State :=
  let v := v.updCore (4 * g + slot) fun c => c.beginFresh (v.ctx t.ctx).image i t first (v.ctx t.ctx).ptroot
  let v := v.updGrove g fun gr =>
    { gr with preempt := match gr.preempt with | some p => if p.2 = i then none else some p | none => none }
  v.updTask g i fun t => { t with state := .running, oncore := true, slot := slot, started := v.tick, able := none }

/-- The core of a fresh record is at the task's first bundle. -/
theorem State.core_takeCore (v : State) (g i slot first : Nat) (t : TaskRec) :
    (v.takeCore g i slot first t).core (4 * g + slot) =
      (v.core (4 * g + slot)).beginFresh (v.ctx t.ctx).image i t first (v.ctx t.ctx).ptroot := by
  simp only [State.takeCore, State.core, State.cores_updTask, State.cores_updGrove]
  exact State.core_updCore_same v _ _

/-- A fresh record is RUNNING on its core. -/
theorem State.task?_takeCore {v : State} {g i : Nat} {t : TaskRec} (slot first : Nat) (h : (v.grove g).task? i = some t) :
    ((v.takeCore g i slot first t).grove g).task? i =
      some { t with state := .running, oncore := true, slot := slot, started := v.tick, able := none } := by
  refine State.task?_updTask _ ?_
  rw [State.grove_updGrove_same]
  exact h

/-- Taking a core leaves the trigger slots alone. -/
theorem State.slots_takeCore (v : State) (g i slot first : Nat) (t : TaskRec) :
    ((v.takeCore g i slot first t).grove g).slots = (v.grove g).slots := by
  rw [State.takeCore, State.slots_updTask, State.grove_updGrove_same]
  rfl

/-- The start of a fresh record without HELD slots: its foreign banks are cleared, and it takes its core. -/
theorem State.startTask_fresh {s : State} {g slot : Nat} {t : TaskRec} (i : Nat) (hslot : slot < 4) (hsaved : t.saved = false)
    (himage : t.imageSnap = none) (hheld : (s.grove g).heldOf t.uid = []) :
    let first := s.clk + 192 * (s.foreignBanks (4 * g + slot) t.ctx).length
    ∃ v, s.Around v ∧ (s.startTask g i slot t).groves = (v.takeCore g i slot first t).groves ∧
      (s.startTask g i slot t).cores = (v.takeCore g i slot first t).cores := by
  have fresh : (t.saved || t.imageSnap.isSome) = false := by simp [hsaved, himage]
  have banks := State.Around.foldl (fun s k => s.around_clearBank (4 * g + slot) t.ctx k) (s.foreignBanks (4 * g + slot) t.ctx) s
  refine ⟨_, banks, ?_⟩
  simp only [State.startTask, fresh, Bool.false_eq_true, if_false, ← State.foreignBanks.eq_1]
  rw [State.enterHeld_nil, ← banks.clk]
  · exact ⟨rfl, rfl⟩
  · have hcore : groveOf (4 * g + slot) = g := by simp only [groveOf]; omega
    rw [hcore, ← hheld]
    refine Grove.heldOf_congr (((State.slots_takeCore _ g i slot _ t).trans ?_)) t.uid
    simp [State.grove, banks.groves]

/-- A selected fresh record is RUNNING on its core, which issues when its foreign banks are clear. -/
theorem taskStart_running {s : State} {g i slot : Nat} {t : TaskRec} (hn : s.nextStart g = some (i, t, slot))
    (ht : (s.grove g).task? i = some t) (hsaved : t.saved = false) (himage : t.imageSnap = none)
    (hheld : (s.grove g).heldOf t.uid = []) :
    ∃ u r, exec (.taskStart g) s = .next u ∧ (u.grove g).task? i = some r ∧ r.state = .running ∧ r.oncore = true ∧ r.slot = slot ∧
      (u.core (4 * g + slot)).mode = .running ∧ (u.core (4 * g + slot)).task = i ∧
      (u.core (4 * g + slot)).pc = BitVec.ofNat 12 t.entry ∧
      (u.core (4 * g + slot)).next = s.clk + 192 * (s.foreignBanks (4 * g + slot) t.ctx).length ∧
      (u.core (4 * g + slot)).kwid = t.wid ∧ (u.core (4 * g + slot)).s = Vector.replicate 32 0 := by
  obtain ⟨v, around, hgroves, hcores⟩ := State.startTask_fresh i (State.slot_of_nextStart hn) hsaved himage hheld
  have record := State.task?_takeCore (v := v) (g := g) (i := i) slot (s.clk + 192 * (s.foreignBanks (4 * g + slot) t.ctx).length)
    (by simpa [State.grove, around.groves] using ht)
  have core := v.core_takeCore g i slot (s.clk + 192 * (s.foreignBanks (4 * g + slot) t.ctx).length) t
  rw [State.grove, ← hgroves] at record
  rw [State.core, ← hcores] at core
  refine ⟨s.startTask g i slot t, _, ?_, record, rfl, rfl, rfl, ?_⟩
  · rw [exec_taskStart, execTaskStart, hn]
  · refine ⟨?_, ?_, ?_, ?_, ?_, ?_⟩ <;> rw [State.core, core] <;> rfl

/-! ### Aging (R15) -/

theorem exec_taskAging (g i : Nat) (s : State) : exec (.taskAging g i) s = execTaskAging g i s := rfl

/-- A record that has been READY for 2^20 ticks rises one class. -/
theorem taskAging_rises {s : State} {g i : Nat} {t : TaskRec} (ht : (s.grove g).task? i = some t) (hready : t.state = .ready)
    (hcls : t.cls < 3) (hage : t.started + 2 ^ 20 ≤ s.tick) :
    exec (.taskAging g i) s = .next (s.updTask g i fun t => { t with cls := t.cls + 1, started := t.started + 2 ^ 20 }) := by
  have ages : t.ages s.tick = true := by simpa [TaskRec.ages, hready, hcls] using hage
  simp only [exec_taskAging, execTaskAging, ht, ages, if_true]

/-! ### The end of a task (R167, R182) -/

theorem exec_exitDrainEnd (g i : Nat) (s : State) : exec (.exitDrainEnd g i) s = execExitDrainEnd g i s := rfl

/-- An exiting core holds its record. -/
theorem State.task?_of_exitingCore {s : State} {g i core : Nat} {t : TaskRec} (h : s.exitingCore g i = some (core, t)) :
    (s.grove g).task? i = some t := by
  simp only [State.exitingCore] at h
  split at h
  · split at h <;> simp_all
  · cases h

/-- A record whose task has exited. -/
def TaskRec.ended (t : TaskRec) : TaskRec := { t with state := .done, oncore := false, spv := false }

/-- What an exit drain of an unguarded task does after the core and the record are done keeps both. -/
theorem keeps_exitDrainEnd {s : State} {g i core : Nat} {t : TaskRec} (hg : g ≠ 2592) (he : s.exitingCore g i = some (core, t))
    (ho : s.exitOver core = true) (hf : s.trackerFault core = none) (hu : t.guarded = false) :
    ∃ u, exec (.exitDrainEnd g i) s = .next u ∧ ((s.updCore core Core.leave).updTask g i TaskRec.ended).Keeps (fun _ => False) u := by
  simp only [exec_exitDrainEnd, execExitDrainEnd, if_neg hg, he, ho, hf, hu, Bool.not_true, Bool.false_eq_true, if_false]
  exact ⟨_, rfl, (((State.keeps_endKernel _ g i).trans (State.keeps_leaveSpawn ..)).trans (State.keeps_sendCommits ..)).trans
    (State.keeps_keepVotes ..)⟩

/-- At the end of its drain an unguarded record is DONE and off its core, which is idle. -/
theorem exitDrainEnd_done {s : State} {g i core : Nat} {t : TaskRec} (hg : g ≠ 2592) (he : s.exitingCore g i = some (core, t))
    (ho : s.exitOver core = true) (hf : s.trackerFault core = none) (hu : t.guarded = false) :
    ∃ u r, exec (.exitDrainEnd g i) s = .next u ∧ (u.grove g).task? i = some r ∧ r.state = .done ∧ r.oncore = false ∧
      (u.core core).mode = .idle := by
  obtain ⟨u, hrun, keeps⟩ := keeps_exitDrainEnd hg he ho hf hu
  have held := State.task?_of_exitingCore he
  have record := State.task?_updTask (s := s.updCore core Core.leave) TaskRec.ended held
  have idle : (s.updCore core Core.leave).core core = (s.core core).leave := s.core_updCore_same core Core.leave
  refine ⟨u, t.ended, hrun, (keeps.task? g i).trans record, rfl, rfl, ?_⟩
  rw [keeps.core, State.core_updTask]
  exact congrArg Core.mode idle

theorem exec_recordFree (g i : Nat) (s : State) : exec (.recordFree g i) s = execRecordFree g i s := rfl

/-- A freed record's entry is free. -/
theorem State.task?_freeRecord (s : State) (g i : Nat) : ((s.freeRecord g i).grove g).task? i = none := by
  simp only [State.freeRecord]
  split
  · assumption
  · rw [(State.keeps_returnTag (kept := fun _ => True) ..).task?, (State.keeps_leaveSpawn (kept := fun _ => True) ..).task?,
      (State.keeps_dropFrame (kept := fun _ => True) ..).task?, State.grove_updGrove_same]
    exact Tbl.get?_del_same _ i

/-- A DONE record without open commits is freed. -/
theorem recordFree_frees {s : State} {g i : Nat} {t : TaskRec} (ht : (s.grove g).task? i = some t) (hd : t.state = .done)
    (hc : s.committed t.uid = true) : ∃ u, exec (.recordFree g i) s = .next u ∧ (u.grove g).task? i = none := by
  refine ⟨(s.freeRecord g i).sweepTriads, ?_, ?_⟩
  · simp only [exec_recordFree, execRecordFree, ht, hd, hc, and_self, if_true]
  · exact s.task?_freeRecord g i

/-! ### Containment (R191) -/

theorem exec_containmentComplete (g i : Nat) (s : State) : exec (.containmentComplete g i) s = execContainmentComplete g i s := rfl

/-- A faulted core holds its record. -/
theorem State.task?_of_faultedCore {s : State} {g i core : Nat} {t : TaskRec} (h : s.faultedCore g i = some (core, t)) :
    (s.grove g).task? i = some t := by
  simp only [State.faultedCore] at h
  split at h
  · split at h <;> simp_all
  · cases h

/-- A fault is reported (R191, R195): tentative publications and HOLD children are gone, and the tile is published. -/
def State.reportFault (s : State) (g i core : Nat) (t : TaskRec) (final : Bool) : State :=
  let f := (s.core core).faultInfo
  ((s.discardTentative t.uid).freeHeld t.uid).faultTileAt f.tick g t.ctx (f.tile final) (some (i, t)) t.wid

/-- A faulted task leaves its core with its trigger slots and subscriptions (R191). -/
def State.releaseFaulted (s : State) (g i core : Nat) (t : TaskRec) : State :=
  let s := (s.updCore core Core.leave).updGrove g fun gr => gr.dropSlots t.uid
  let s := ((s.endKernel g i).withdrawOf g i fun _ => true).leaveSpawn t.ctx t.wid fun _ => true
  s.updTask g i fun t => { t with oncore := false, spv := false }

/-- Discarding for a record without HOLD children keeps the records, the cores and the images. -/
theorem State.keeps_discardChildless {s : State} {uid : Nat} (hchild : ∀ e ∈ s.allRecords, e.2.2.parent ≠ some uid) :
    s.Keeps (fun _ => False) ((s.discardTentative uid).freeHeld uid) :=
  (s.keeps_discardTentative uid).trans
    (State.keeps_freeHeld _ fun e he => hchild e ((s.keeps_discardTentative uid).records e he))

/-- Reporting a fault of a record without HOLD children keeps the records and the cores. -/
theorem State.keeps_reportFault {s : State} {t : TaskRec} (g i core : Nat) (final : Bool)
    (hchild : ∀ e ∈ s.allRecords, e.2.2.parent ≠ some t.uid) : s.Keeps (fun _ => False) (s.reportFault g i core t final) :=
  (State.keeps_discardChildless hchild).trans (State.keeps_faultTileAt ..)

/-- A reported fault's tile is among the grove's publications when the context has a fault tensor (R195, R196). -/
theorem State.tile_reportFault {s : State} {t : TaskRec} (g i core : Nat) (final : Bool)
    (hchild : ∀ e ∈ s.allRecords, e.2.2.parent ≠ some t.uid) (hf : (s.ctx t.ctx).image.faultH.getLsbD 31 = true) :
    ∃ q ∈ ((s.reportFault g i core t final).grove g).pubs, q.ch = 64 ∧ q.ctx = t.ctx :=
  State.tile_faultTileAt _ _ _ _ _ _ _ ((State.keeps_discardChildless hchild).image t.ctx ▸ hf)

/-- The core of a faulted task is left; beside what the services keep (`w`), the release changes the record alone. -/
theorem State.releaseFaulted_keeps (s : State) (g i core : Nat) (t : TaskRec) :
    ∃ w, (s.updCore core Core.leave).Keeps (fun _ => True) w ∧
      s.releaseFaulted g i core t = w.updTask g i fun t => { t with oncore := false, spv := false } := by
  refine ⟨_, ?_, rfl⟩
  refine State.Keeps.trans (State.Keeps.trans (State.Keeps.trans ?_ (State.keeps_endKernel ..)) (State.keeps_withdrawOf ..))
    (State.keeps_leaveSpawn ..)
  exact .updGrove_rest

/-- A faulted task has left its core: the core is idle, the record off it; readiness and publications stay. -/
theorem State.task?_releaseFaulted {s : State} {g i : Nat} {r : TaskRec} (core : Nat) (t : TaskRec)
    (h : (s.grove g).task? i = some r) :
    let v := s.releaseFaulted g i core t
    (v.grove g).task? i = some { r with oncore := false, spv := false } ∧ (v.core core).mode = .idle ∧
      v.groveReady g = s.groveReady g ∧ ∀ p ∈ (s.grove g).pubs, p ∈ (v.grove g).pubs := by
  obtain ⟨w, keeps, eq⟩ := s.releaseFaulted_keeps g i core t
  have idle : w.core core = (s.core core).leave := (keeps.core core).trans (s.core_updCore_same core Core.leave)
  rw [eq]
  refine ⟨State.task?_updTask _ ((keeps.task? g i).trans h), ?_, ?_, fun p hp => ?_⟩
  · rw [State.core_updTask, idle]; rfl
  · rw [State.groveReady_updTask, keeps.groveReady]; rfl
  · rw [State.pubs_updTask]; exact (keeps.groves g).pubs p hp trivial

/-- Is a contained record started again (R191)? -/
def TaskRec.replays (t : TaskRec) : Bool := t.guarded && !t.triad && decide (t.replay < 2) && !t.lost

/-- The state in which a fault has been reported and its core released. -/
def State.contained (s : State) (g i core : Nat) (t : TaskRec) : State :=
  (s.reportFault g i core t !t.replays).releaseFaulted g i core t

/-- From there a record without triad is replayed, or it is FAULTED. -/
theorem exec_containmentComplete_faulted {s : State} {g i core : Nat} {t : TaskRec} (hf : s.faultedCore g i = some (core, t))
    (htriad : t.triad = false) (hready : (s.contained g i core t).groveReady g = true) :
    exec (.containmentComplete g i) s = .next (if t.replays then (s.contained g i core t).replay g i
      else (s.contained g i core t).updTask g i fun t => { t with state := .faulted }) := by
  have run : exec (.containmentComplete g i) s = .next (if t.replays then (s.contained g i core t).replay g i
      else
        let v := (s.contained g i core t).updTask g i fun t => { t with state := .faulted }
        let v := if t.triad then v.triadFault t.inst else v
        if v.groveReady g then v else v.freeRecord g i) := by
    rw [exec_containmentComplete, execContainmentComplete, hf]
    rfl
  simpa only [htriad, Bool.false_eq_true, if_false, State.groveReady_updTask, hready, if_true] using run

/-- A replayed record is armed again, one REPLAY higher; cores and publications stay. -/
theorem State.task?_replay {s : State} {g i : Nat} {t : TaskRec} (hready : s.groveReady g = true) (h : (s.grove g).task? i = some t) :
    (∃ r, ((s.replay g i).grove g).task? i = some r ∧ r.replay = t.replay + 1 ∧ (t.subs = [] → r.state = .ready)) ∧
      (s.replay g i).cores = s.cores ∧ ∀ p ∈ (s.grove g).pubs, p ∈ ((s.replay g i).grove g).pubs := by
  have trigs := State.keeps_installTrigs (kept := fun _ => True) (s.updTask g i TaskRec.again) g i
  have record := (trigs.task? g i).trans (State.task?_updTask TaskRec.again h)
  obtain ⟨r, hr, -, hreplay, hstate⟩ := State.task?_armTask record
  obtain ⟨hcores, hpubs⟩ := State.keeps_armTask ((s.updTask g i TaskRec.again).installTrigs g i) g i
  have run : s.replay g i = ((s.updTask g i TaskRec.again).installTrigs g i).armTask g i := if_pos hready
  rw [run]
  refine ⟨⟨r, hr, hreplay, fun hs => hstate (by simp [TaskRec.again, hs])⟩, hcores.trans trigs.cores, fun p hp => ?_⟩
  exact hpubs p ((trigs.groves g).pubs p ((s.pubs_updTask g i _).symm ▸ hp) trivial)

/-- A contained fault of a record without triad and HOLD children frees its core and publishes its tile; a guarded record is replayed,
another one is FAULTED. -/
theorem containmentComplete_contains {s : State} {g i core : Nat} {t : TaskRec} (hf : s.faultedCore g i = some (core, t))
    (htriad : t.triad = false) (hready : s.groveReady g = true) (hchild : ∀ e ∈ s.allRecords, e.2.2.parent ≠ some t.uid) :
    ∃ u r, exec (.containmentComplete g i) s = .next u ∧ (u.grove g).task? i = some r ∧ (u.core core).mode = .idle ∧
      ((s.ctx t.ctx).image.faultH.getLsbD 31 = true → ∃ q ∈ (u.grove g).pubs, q.ch = 64 ∧ q.ctx = t.ctx) ∧
      (t.guarded = true → t.replay < 2 → t.lost = false → t.subs = [] → r.state = .ready ∧ r.replay = t.replay + 1) ∧
      (t.guarded = false → r.state = .faulted ∧ r.replay = t.replay) := by
  have report := State.keeps_reportFault g i core (!t.replays) hchild
  have tile := State.tile_reportFault g i core (!t.replays) hchild
  obtain ⟨record, idle, ready, pubs⟩ :=
    State.task?_releaseFaulted core t ((report.task? g i).trans (State.task?_of_faultedCore hf))
  have vready : (s.contained g i core t).groveReady g = true := ready.trans ((report.groveReady g).trans hready)
  have run := exec_containmentComplete_faulted hf htriad vready
  have vtile : (s.ctx t.ctx).image.faultH.getLsbD 31 = true → ∃ q ∈ ((s.contained g i core t).grove g).pubs, q.ch = 64 ∧ q.ctx = t.ctx :=
    fun h => (tile h).imp fun q ⟨hq, hch⟩ => ⟨pubs q hq, hch⟩
  by_cases hr : t.replays = true
  · obtain ⟨⟨r, hr', hreplay, hstate⟩, hcores, hpubs⟩ := State.task?_replay vready record
    rw [if_pos hr] at run
    refine ⟨_, r, run, hr', ?_, fun h => ?_, fun _ _ _ hs => ⟨hstate hs, hreplay⟩, fun hg => ?_⟩
    · rw [State.core, hcores]; exact idle
    · exact (vtile h).imp fun q ⟨hq, hch⟩ => ⟨hpubs q hq, hch⟩
    · simp [TaskRec.replays, hg] at hr
  · rw [if_neg hr] at run
    refine ⟨_, _, run, State.task?_updTask _ record, ?_, fun h => ?_, fun hg hlt hl _ => ?_, fun _ => ⟨rfl, rfl⟩⟩
    · rw [State.core_updTask]; exact idle
    · rw [State.pubs_updTask]; exact vtile h
    · simp [TaskRec.replays, hg, htriad, hlt, hl] at hr

/-- Settles O43: each event of a record's life by the lemma about it above. -/
theorem taskLifeEvents : Obligations.TaskLifeEvents := by
  unfold Obligations.TaskLifeEvents
  refine ⟨fun s ctx g i r hl ht hw hr hs => launchStartTick_ready hl ht hw hr hs,
    fun s g i slot t hn ht hsaved himage hheld => taskStart_running hn ht hsaved himage hheld,
    fun s g i t ht hready hcls hage => taskAging_rises ht hready hcls hage,
    fun s g i core t hg he ho hf hu => exitDrainEnd_done hg he ho hf hu,
    fun s g i t ht hd hc => recordFree_frees ht hd hc,
    fun s g i core t hf htriad hready hchild => containmentComplete_contains hf htriad hready hchild⟩

end Sys2Proof.Machine
end

section
/-!
PROOF. Memory stays in its canonical form (O59; R27, R50, R51; log entries 1 and 45): only `Memory.write`, `Memory.clear` and what is built
of them change memory, and they keep it canonical; each function of the model that gives a state keeps it so, in the order of the model,
up to the step. What is said of an answer, an end or a choice is said of the state it carries, where it carries one.
-/

namespace Sys2Proof.Machine

/-! ### What an answer, an end of an operation, of a register write or of a command leaves -/

/-- The state of an answer, where it is one, has canonical memory. -/
def OutcomeCanonical : Host.Outcome State Fault Refusal → Prop
  | .next t => t.memoryCanonical
  | _ => True

/-- The state in which an operation ends, where it is one, has canonical memory. -/
def EffCanonical : Eff → Prop
  | .ok t => t.memoryCanonical
  | _ => True

/-- The state of an optional answer, where there is one, has canonical memory. -/
def OptionCanonical : Option State → Prop
  | some t => t.memoryCanonical
  | none => True

/-- The state that the read of a record leaves, where it succeeds, has canonical memory. -/
def RecordCanonical : RecRead → Prop
  | .ok _ t => t.memoryCanonical
  | _ => True

/-- The state that a register write leaves, where it is done, has canonical memory. -/
def MgmtCanonical : MgmtEnd → Prop
  | .done t => t.memoryCanonical
  | _ => True

/-- The state that a command leaves, where it changes the state, has canonical memory. -/
def CmdCanonical : CmdEnd → Prop
  | .done t _ _ => t.memoryCanonical
  | .refuseIn t _ _ => t.memoryCanonical
  | .later t => t.memoryCanonical
  | _ => True

/-- The end that a gate gives a command, where it gives one, leaves canonical memory. -/
def GateCanonical (o : Option CmdEnd) : Prop := ∀ e, o = some e → CmdCanonical e

theorem OutcomeCanonical.next {t : State} (h : t.memoryCanonical) : OutcomeCanonical (.next t) := h

theorem OutcomeCanonical.get {o : Host.Outcome State Fault Refusal} {t : State} (h : OutcomeCanonical o) (e : o = .next t) :
    t.memoryCanonical := by
  subst e; exact h

theorem OutcomeCanonical.ite {c : Prop} [Decidable c] {o p : Host.Outcome State Fault Refusal} (ho : OutcomeCanonical o)
    (hp : OutcomeCanonical p) : OutcomeCanonical (if c then o else p) := by
  split
  · exact ho
  · exact hp

theorem EffCanonical.ok {t : State} (h : t.memoryCanonical) : EffCanonical (.ok t) := h

theorem EffCanonical.get {o : Eff} {t : State} (h : EffCanonical o) (e : o = .ok t) : t.memoryCanonical := by
  subst e; exact h

theorem EffCanonical.ite {c : Prop} [Decidable c] {o p : Eff} (ho : EffCanonical o) (hp : EffCanonical p) :
    EffCanonical (if c then o else p) := by
  split
  · exact ho
  · exact hp

theorem OptionCanonical.some {t : State} (h : t.memoryCanonical) : OptionCanonical (.some t) := h

theorem OptionCanonical.get {o : Option State} {t : State} (h : OptionCanonical o) (e : o = .some t) : t.memoryCanonical := by
  subst e; exact h

theorem OptionCanonical.getD {o : Option State} {s : State} (h : OptionCanonical o) (hs : s.memoryCanonical) :
    (o.getD s).memoryCanonical := by
  cases o with
  | none => exact hs
  | some t => exact h

theorem OptionCanonical.map {α : Type} {f : α → State} {o : Option α} (h : ∀ a, (f a).memoryCanonical) :
    OptionCanonical (o.map f) := by
  cases o with
  | none => trivial
  | some a => exact h a

/-- A change of the state that there may be. -/
theorem OptionCanonical.mapState {f : State → State} {o : Option State} (ho : OptionCanonical o)
    (h : ∀ s : State, s.memoryCanonical → (f s).memoryCanonical) : OptionCanonical (o.map f) := by
  cases o with
  | none => trivial
  | some a => exact h a ho

theorem OptionCanonical.ite {c : Prop} [Decidable c] {o p : Option State} (ho : OptionCanonical o) (hp : OptionCanonical p) :
    OptionCanonical (if c then o else p) := by
  split
  · exact ho
  · exact hp

/-- A fold that stops at the first failure. -/
theorem OptionCanonical.foldl {α : Type} {f : Option State → α → Option State} {o : Option State} {l : List α}
    (h : OptionCanonical o) (hf : ∀ o a, OptionCanonical o → OptionCanonical (f o a)) : OptionCanonical (l.foldl f o) :=
  List.foldlRecOn l f h fun o ho a _ => hf o a ho

theorem RecordCanonical.ok {r : ShapeRec} {t : State} (h : t.memoryCanonical) : RecordCanonical (.ok r t) := h

theorem RecordCanonical.get {o : RecRead} {r : ShapeRec} {t : State} (h : RecordCanonical o) (e : o = .ok r t) :
    t.memoryCanonical := by
  subst e; exact h

theorem RecordCanonical.ite {c : Prop} [Decidable c] {o p : RecRead} (ho : RecordCanonical o) (hp : RecordCanonical p) :
    RecordCanonical (if c then o else p) := by
  split
  · exact ho
  · exact hp

theorem MgmtCanonical.done {t : State} (h : t.memoryCanonical) : MgmtCanonical (.done t) := h

theorem MgmtCanonical.get {o : MgmtEnd} {t : State} (h : MgmtCanonical o) (e : o = .done t) : t.memoryCanonical := by
  subst e; exact h

theorem MgmtCanonical.ite {c : Prop} [Decidable c] {o p : MgmtEnd} (ho : MgmtCanonical o) (hp : MgmtCanonical p) :
    MgmtCanonical (if c then o else p) := by
  split
  · exact ho
  · exact hp

theorem CmdCanonical.done {t : State} {d : Word} {r : List Byte} (h : t.memoryCanonical) : CmdCanonical (.done t d r) := h

theorem CmdCanonical.refuseIn {t : State} {x d : Nat} (h : t.memoryCanonical) : CmdCanonical (.refuseIn t x d) := h

theorem CmdCanonical.later {t : State} (h : t.memoryCanonical) : CmdCanonical (.later t) := h

theorem CmdCanonical.ite {c : Prop} [Decidable c] {o p : CmdEnd} (ho : CmdCanonical o) (hp : CmdCanonical p) :
    CmdCanonical (if c then o else p) := by
  split
  · exact ho
  · exact hp

theorem GateCanonical.orElse {o p : Option CmdEnd} (ho : GateCanonical o) (hp : GateCanonical p) :
    GateCanonical (o.orElse fun _ => p) := by
  cases o with
  | none => exact hp
  | some e => exact ho

theorem GateCanonical.getD {o : Option CmdEnd} {e : CmdEnd} (ho : GateCanonical o) (he : CmdCanonical e) : CmdCanonical (o.getD e) := by
  cases o with
  | none => exact he
  | some x => exact ho x rfl

namespace State.memoryCanonical

/-! ### Branches and folds -/

/-- Only the memory of a state counts. -/
theorem mk {clk base mem cores groves rims slices hbmStacks fieldTlb contexts snaps trunk ready net cache wins out agenda inbox cur
    slot turn late fresh uids triads} (h : Memory.wf mem = true) :
    (State.mk clk base mem cores groves rims slices hbmStacks fieldTlb contexts snaps trunk ready net cache wins out agenda inbox cur
      slot turn late fresh uids triads).memoryCanonical := h

theorem of_eq {s t : State} (e : s = t) (h : s.memoryCanonical) : t.memoryCanonical := e ▸ h

theorem ite {c : Prop} [Decidable c] {s t : State} (hs : s.memoryCanonical) (ht : t.memoryCanonical) :
    (if c then s else t).memoryCanonical := by
  split
  · exact hs
  · exact ht

theorem ite_fst {β : Type} {c : Prop} [Decidable c] {s t : State × β} (hs : s.1.memoryCanonical) (ht : t.1.memoryCanonical) :
    (if c then s else t).1.memoryCanonical := by
  split
  · exact hs
  · exact ht

theorem ite_snd {β : Type} {c : Prop} [Decidable c] {s t : β × State} (hs : s.2.memoryCanonical) (ht : t.2.memoryCanonical) :
    (if c then s else t).2.memoryCanonical := by
  split
  · exact hs
  · exact ht

/-- What every step of a fold keeps canonical, the fold keeps canonical. -/
theorem foldl {α : Type} {f : State → α → State} {s : State} {l : List α} (h : s.memoryCanonical)
    (hf : ∀ (s : State) (a : α), s.memoryCanonical → (f s a).memoryCanonical) : (l.foldl f s).memoryCanonical :=
  List.foldlRecOn l f h fun s hs a _ => hf s a hs

theorem foldl_fst {α β : Type} {f : State × β → α → State × β} {s : State × β} {l : List α} (h : s.1.memoryCanonical)
    (hf : ∀ (s : State × β) (a : α), s.1.memoryCanonical → (f s a).1.memoryCanonical) : (l.foldl f s).1.memoryCanonical :=
  List.foldlRecOn (motive := fun x => x.1.memoryCanonical) l f h fun s hs a _ => hf s a hs

theorem foldl_snd {α β : Type} {f : β × State → α → β × State} {s : β × State} {l : List α} (h : s.2.memoryCanonical)
    (hf : ∀ (s : β × State) (a : α), s.2.memoryCanonical → (f s a).2.memoryCanonical) : (l.foldl f s).2.memoryCanonical :=
  List.foldlRecOn (motive := fun x => x.2.memoryCanonical) l f h fun s hs a _ => hf s a hs

end State.memoryCanonical

/-! ### Memory -/

theorem setAccessed_wf {m : List Host.Cell} (l : Leaf) (h : Memory.wf m = true) : Memory.wf (setAccessed m l) = true := by
  simp only [setAccessed]
  split
  · exact h
  · exact storeWord_wf _ _ h

theorem correctWord_wf {m : List Host.Cell} (key : Nat) (h : Memory.wf m = true) : Memory.wf (correctWord m key) = true := by
  simp only [correctWord]
  split
  · split
    · exact storeWord_wf _ _ h
    · exact h
  · exact h

theorem copyWords_wf {m : List Host.Cell} (src dst len : Nat) (h : Memory.wf m = true) :
    Memory.wf (copyWords m src dst len) = true := by
  refine Memory.foldl_wf _ (fun m i h => ?_) _ h
  split
  · exact storeWord_wf _ _ h
  · exact poisonWord_wf _ h

/-- A cleared page or area, with its syndromes. -/
theorem clear_clear_wf {m : List Host.Cell} (lo len lo' len' : Nat) (h : Memory.wf m = true) :
    Memory.wf (Memory.clear (Memory.clear m lo len) lo' len') = true := Memory.clear_wf _ _ (Memory.clear_wf _ _ h)

section
variable {s : State} (h : s.memoryCanonical)
include h

/-! ### State operations -/

theorem State.memoryCanonical.setCore {k c} : (s.setCore k c).memoryCanonical := .mk h

theorem State.memoryCanonical.updCore {k f} : (s.updCore k f).memoryCanonical := .setCore h

theorem State.memoryCanonical.setGrove {g v} : (s.setGrove g v).memoryCanonical := .mk h

theorem State.memoryCanonical.updGrove {g f} : (s.updGrove g f).memoryCanonical := .setGrove h

theorem State.memoryCanonical.setCtx {c v} : (s.setCtx c v).memoryCanonical := .mk h

theorem State.memoryCanonical.updCtx {c f} : (s.updCtx c f).memoryCanonical := .setCtx h

theorem State.memoryCanonical.updSlice {i f} : (s.updSlice i f).memoryCanonical := .mk h

theorem State.memoryCanonical.updRim {k f} : (s.updRim k f).memoryCanonical := .mk h

theorem State.memoryCanonical.updStack {k f} : (s.updStack k f).memoryCanonical := .mk h

theorem State.memoryCanonical.updTrunk {f} : (s.updTrunk f).memoryCanonical := .mk h

theorem State.memoryCanonical.send {p} : (s.send p).memoryCanonical := .mk h

theorem State.memoryCanonical.updTask {g i f} : (s.updTask g i f).memoryCanonical := .updGrove h

theorem State.memoryCanonical.freeWord : s.freeWord.2.memoryCanonical := .mk h

theorem State.memoryCanonical.countCorr {key n} : (s.countCorr key n).memoryCanonical :=
  .ite h (.ite (.updTrunk h) (.updTrunk h))

theorem State.memoryCanonical.scrub {key len} : (s.scrub key len).memoryCanonical := .countCorr (.mk (scrubRun_wf _ _ h))

theorem State.memoryCanonical.scrubLong {key len} : (s.scrubLong key len).memoryCanonical := .foldl h fun _ _ h => .scrub h

theorem State.memoryCanonical.writeBytes {key bytes} : (s.writeBytes key bytes).1.memoryCanonical :=
  .mk (writeRun_wf _ _ (State.memoryCanonical.foldl h fun _ _ h => .scrub h))

theorem State.memoryCanonical.scrubs {l} : (s.scrubs l).memoryCanonical := .foldl h fun _ _ h => .scrub h

/-! ### Memory, caches and translation -/

theorem State.memoryCanonical.tlbUse {g ctx va} : (s.tlbUse g ctx va).memoryCanonical := by
  rw [State.tlbUse]
  split
  · exact .updGrove h
  · split
    · exact .mk h
    · exact h

theorem State.memoryCanonical.tlbFill {g e} : (s.tlbFill g e).memoryCanonical := .mk (State.memoryCanonical.updGrove h)

theorem State.memoryCanonical.readMem {key len} : (s.readMem key len).2.memoryCanonical := .scrub h

theorem State.memoryCanonical.captureChunk {core chunk} : (s.captureChunk core chunk).memoryCanonical :=
  .ite (.updCore (.mk h)) h

theorem State.memoryCanonical.touchSp {core addr len ctx watch} : (s.touchSp core addr len ctx watch).memoryCanonical :=
  .ite (.updGrove (.updCore (.foldl h fun _ _ h => .captureChunk h))) (.updCore (.foldl h fun _ _ h => .captureChunk h))

theorem State.memoryCanonical.writeSp {core addr bytes ctx watch} : (s.writeSp core addr bytes ctx watch).1.memoryCanonical :=
  .writeBytes (.touchSp h)

theorem State.memoryCanonical.traffic {ctx} : (s.traffic ctx).memoryCanonical := .updCtx h

theorem State.memoryCanonical.cacheTouch {ctx pa write} : (s.cacheTouch ctx pa write).memoryCanonical := by
  simp only [State.cacheTouch]
  split
  · exact h
  · split
    · exact .ite (.mk h) (.traffic (.mk h))
    · exact .traffic (.mk h)

theorem State.memoryCanonical.cacheRun {ctx pa len write} : (s.cacheRun ctx pa len write).memoryCanonical :=
  .foldl h fun _ _ h => .cacheTouch h

theorem State.memoryCanonical.capturePage {ctx id key len} : (s.capturePage ctx id key len).memoryCanonical :=
  .mk (State.memoryCanonical.ite (.traffic (.scrubLong h)) (.scrubLong h))

theorem State.memoryCanonical.snapWritePage {ctx leaf bits va} : (s.snapWritePage ctx leaf bits va).memoryCanonical := by
  simp only [State.snapWritePage]
  split
  · exact .ite h (.scrub h)
  · exact .ite (.ite h (.scrub h)) (.mk (storeWord_wf _ _
      (State.memoryCanonical.ite (.capturePage (.ite h (.scrub h))) (.ite h (.scrub h)))))

theorem State.memoryCanonical.snapWriteUnit {ctx slice off} : (s.snapWriteUnit ctx slice off).memoryCanonical :=
  .ite h (.mk (State.memoryCanonical.ite (.capturePage h) h))

theorem State.memoryCanonical.writePlace {pl bytes ctx watch} : (s.writePlace pl bytes ctx watch).1.memoryCanonical := by
  unfold State.writePlace
  split
  · exact .writeSp h
  · exact .writeBytes (.snapWriteUnit h)
  · exact .writeBytes (.cacheRun (.snapWritePage h))
  · exact h

theorem State.memoryCanonical.readPlace {pl len ctx} : (s.readPlace pl len ctx).2.memoryCanonical := by
  unfold State.readPlace
  split
  · exact .readMem (.cacheRun h)
  · exact h
  · exact .readMem h

theorem State.memoryCanonical.dropFrame {g f} : (s.dropFrame g f).memoryCanonical := by
  unfold State.dropFrame
  split
  · exact h
  · exact .updGrove h

theorem State.memoryCanonical.walked {g ctx va used} : (s.walked g ctx va used).memoryCanonical := by
  rw [State.walked]
  split
  · exact .ite (.foldl h fun _ _ h => .scrub (.cacheRun h))
      (.mk (setAccessed_wf _ (State.memoryCanonical.foldl h fun _ _ h => .scrub (.cacheRun h))))
  · exact .foldl h fun _ _ h => .scrub (.cacheRun h)

theorem State.memoryCanonical.located {g ctx ea} : (s.located g ctx ea).memoryCanonical := by
  rw [State.located]
  split
  · exact .ite (.tlbUse h) (.walked h)
  · exact h

theorem State.memoryCanonical.probed {ctx va len write} : (s.probed ctx va len write).memoryCanonical :=
  .foldl_fst h fun _ _ h => .ite_fst h (.walked h)

theorem State.memoryCanonical.readVa {ctx va len} : (s.readVa ctx va len).1.memoryCanonical := by
  refine .foldl_fst h fun acc p h => ?_
  dsimp only
  split
  · exact h
  · split
    · exact .walked h
    · exact .readPlace (.walked h)

theorem State.memoryCanonical.writeVa {ctx va bytes} : (s.writeVa ctx va bytes).1.memoryCanonical := by
  rw [State.writeVa]
  refine .foldl_fst h fun s a h => ?_
  split
  · exact h
  · split
    · exact .walked h
    · exact .writePlace (.walked h)

/-! ### Running an operation -/

theorem State.memoryCanonical.takeTrap {t} : (s.takeTrap t).memoryCanonical :=
  .ite (.updTrunk (.setCore (.scrubs h))) (.setCore (.scrubs h))

/-- An operation that ends in a state, is held or traps keeps memory canonical when the state in which it ends does. -/
theorem toOutcome_canonical {e : Eff} (he : EffCanonical e) : OutcomeCanonical (e.toOutcome s) := by
  cases e with
  | ok t => exact he
  | stall => exact .next (.updCore h)
  | trap t => exact .next (.takeTrap h)

/-- A slot operation keeps memory canonical when its body does. -/
theorem runChecked_canonical {i : Sys2Proof.Instr} {body : Core → Eff} (hb : ∀ c, EffCanonical (body c)) :
    OutcomeCanonical (runChecked i s body) := by
  obtain ⟨t, hr⟩ | hr | ⟨-, hr⟩ := runChecked_cases i s body <;> rw [hr]
  · exact .next (.takeTrap h)
  · exact .next (.updCore h)
  · exact toOutcome_canonical h (hb _)

theorem runOp_canonical {i : Sys2Proof.Instr} {body : Core → Eff} (hb : ∀ c, EffCanonical (body c)) :
    OutcomeCanonical (runOp i s body) :=
  runChecked_canonical h fun c => .ite (hb c) h

theorem State.memoryCanonical.writeReg {lat r v f} : (s.writeReg lat r v f).memoryCanonical := .updCore h

theorem State.memoryCanonical.writeLater {r v w} : (s.writeLater r v w).memoryCanonical := .updCore h

omit h in
/-- A card that waits is held or traps: no state comes with it. -/
theorem cardWaits_canonical {c : Core} {regions : List Region} {e : Eff} (he : c.cardWaits regions = some e) :
    EffCanonical e := by
  simp only [Core.cardWaits] at he
  split_ifs at he <;> obtain rfl := Option.some.inj he <;> trivial

theorem readRecord_canonical {core c h0} : RecordCanonical (s.readRecord core c h0) :=
  .ite trivial (.ite trivial (.ite trivial (.ite trivial (.ok (.readMem h)))))

/-! ### Faults and events -/

theorem State.memoryCanonical.jobFault {core t slot src name detail} :
    (s.jobFault core t slot src name detail).memoryCanonical :=
  .updCore h

theorem State.memoryCanonical.matFault {core t gang detail} : (s.matFault core t gang detail).memoryCanonical := .updCore h

theorem State.memoryCanonical.jobFaultKind {core kind slot src tval name detail} :
    (s.jobFaultKind core kind slot src tval name detail).memoryCanonical :=
  .updCore h

/-! ### Names -/

theorem State.memoryCanonical.readRegion {core r f} : (s.readRegion core r f).2.memoryCanonical :=
  .foldl_snd h fun _ _ h => .readMem h

theorem State.memoryCanonical.stopCtx {ctx} : (s.stopCtx ctx).memoryCanonical := .updCtx h

theorem State.memoryCanonical.trunkTile {tile} : (s.trunkTile tile).memoryCanonical := .updTrunk h

theorem State.memoryCanonical.faultTileAt {tick g ctx t task wid} : (s.faultTileAt tick g ctx t task wid).memoryCanonical :=
  .ite (.updGrove (.updCtx (.trunkTile h))) (.stopCtx (.trunkTile h))

theorem State.memoryCanonical.faultTile {g ctx t task wid} : (s.faultTile g ctx t task wid).memoryCanonical :=
  .faultTileAt h

/-! ### Vector operations -/

theorem vecForm_canonical {i lat w d f} : OutcomeCanonical (vecForm i s lat w d f) := by
  rw [vecForm]
  exact runChecked_canonical h fun _ => .ok (.writeReg h)

theorem vecArith_canonical {i lat op neg d a b sb sat t} : OutcomeCanonical (vecArith i s lat op neg d a b sb sat t) :=
  vecForm_canonical h

theorem execVadd_canonical {d a b p sb sat t} : OutcomeCanonical (execVadd d a b p sb sat t s) := vecArith_canonical h

theorem execVsub_canonical {d a b p sb sat t} : OutcomeCanonical (execVsub d a b p sb sat t s) := vecArith_canonical h

theorem execVmul_canonical {d a b p sb sat t} : OutcomeCanonical (execVmul d a b p sb sat t s) := vecArith_canonical h

theorem execVfma_canonical {d a b p neg sb sat t} : OutcomeCanonical (execVfma d a b p neg sb sat t s) :=
  vecArith_canonical h

theorem execVmin_canonical {d a b p sb sat t} : OutcomeCanonical (execVmin d a b p sb sat t s) := vecArith_canonical h

theorem execVmax_canonical {d a b p sb sat t} : OutcomeCanonical (execVmax d a b p sb sat t s) := vecArith_canonical h

theorem execVabs_canonical {d a p sat t} : OutcomeCanonical (execVabs d a p sat t s) := vecForm_canonical h

theorem execVneg_canonical {d a p sat t} : OutcomeCanonical (execVneg d a p sat t s) := vecForm_canonical h

theorem vecBits_canonical {i d a b nb f} : OutcomeCanonical (vecBits i s d a b nb f) := vecForm_canonical h

theorem execVand_canonical {d a b p nb} : OutcomeCanonical (execVand d a b p nb s) := vecBits_canonical h

theorem execVor_canonical {d a b p nb} : OutcomeCanonical (execVor d a b p nb s) := vecBits_canonical h

theorem execVxor_canonical {d a b p nb} : OutcomeCanonical (execVxor d a b p nb s) := vecBits_canonical h

theorem vecShift_canonical {i left d a b sb t} : OutcomeCanonical (vecShift i s left d a b sb t) := vecForm_canonical h

theorem execVshl_canonical {d a b p sb t} : OutcomeCanonical (execVshl d a b p sb t s) := vecShift_canonical h

theorem execVshr_canonical {d a b p sb t} : OutcomeCanonical (execVshr d a b p sb t s) := vecShift_canonical h

theorem execVcmp_canonical {d a b p cc t} : OutcomeCanonical (execVcmp d a b p cc t s) := by
  rw [execVcmp]
  exact runChecked_canonical h fun _ => .ok (.writeReg h)

theorem execVsel_canonical {d a b p t q} : OutcomeCanonical (execVsel d a b p t q s) := vecForm_canonical h

theorem execVmovV_canonical {d a p} : OutcomeCanonical (execVmovV d a p s) := vecForm_canonical h

theorem execVmovSplat_canonical {d a p t} : OutcomeCanonical (execVmovSplat d a p t s) := vecForm_canonical h

theorem execVmovHS_canonical {d a p} : OutcomeCanonical (execVmovHS d a p s) := by
  rw [execVmovHS]
  exact runOp_canonical h fun _ => .ok (.writeReg h)

theorem execVmovSH_canonical {d a p} : OutcomeCanonical (execVmovSH d a p s) := by
  rw [execVmovSH]
  exact runOp_canonical h fun _ => .ok (.writeReg h)

theorem execVmovPS_canonical {d a p} : OutcomeCanonical (execVmovPS d a p s) := by
  rw [execVmovPS]
  exact runOp_canonical h fun _ => .ok (.writeReg h)

theorem execVmovSP_canonical {d a p} : OutcomeCanonical (execVmovSP d a p s) := by
  rw [execVmovSP]
  exact runOp_canonical h fun _ => .ok (.writeReg h)

theorem execVmovIdx_canonical {d p t} : OutcomeCanonical (execVmovIdx d p t s) := vecForm_canonical h

theorem execVcvt_canonical {d a p sat ts part td} : OutcomeCanonical (execVcvt d a p sat ts part td s) := by
  rw [execVcvt]
  exact runChecked_canonical h fun _ => .ok (.writeReg h)

theorem execVqdb_canonical {d a p single db4} : OutcomeCanonical (execVqdb d a p single db4 s) := by
  rw [execVqdb]
  exact runChecked_canonical h fun _ => .ok (.writeReg h)

theorem execVcomp_canonical {d a p w64} : OutcomeCanonical (execVcomp d a p w64 s) := by
  rw [execVcomp]
  exact runChecked_canonical h fun _ => .ok (.writeReg h)

theorem execVexpd_canonical {d a p w64} : OutcomeCanonical (execVexpd d a p w64 s) := by
  rw [execVexpd]
  exact runChecked_canonical h fun _ => .ok (.writeReg h)

theorem execVperm_canonical {d a b p w64 byte} : OutcomeCanonical (execVperm d a b p w64 byte s) :=
  .ite (vecForm_canonical h) (.ite (vecForm_canonical h) (vecForm_canonical h))

theorem execVred_canonical {d a p op t} : OutcomeCanonical (execVred d a p op t s) := by
  rw [execVred]
  exact runChecked_canonical h fun _ => .ok (.writeReg h)

theorem execVext_canonical {d a b p t} : OutcomeCanonical (execVext d a b p t s) := by
  rw [execVext]
  exact runChecked_canonical h fun _ => .ite (.ok (.writeReg h)) (.ok h)

theorem execVins_canonical {d a b p t} : OutcomeCanonical (execVins d a b p t s) := vecForm_canonical h

theorem execVsfu_canonical {d a p f} : OutcomeCanonical (execVsfu d a p f s) := vecForm_canonical h

omit h in
theorem vecCheck_canonical {c : Core} {ea : Word} {write : Bool} {e : Eff} (he : c.vecCheck ea write = some e) :
    EffCanonical e := by
  simp only [Core.vecCheck] at he
  split_ifs at he <;> obtain rfl := Option.some.inj he <;> trivial

theorem execVld_canonical {d a p off} : OutcomeCanonical (execVld d a p off s) := by
  simp only [execVld]
  refine runChecked_canonical h fun c => ?_
  split
  · rename_i e
    exact vecCheck_canonical e
  · exact .ite trivial (.ok (.writeReg (.scrubs h)))

theorem State.memoryCanonical.storeLanes {core ea mask v ctx} : (s.storeLanes core ea mask v ctx).memoryCanonical :=
  .foldl h fun _ _ h => .ite (.writeSp h) (.ite (.writeSp h) (.ite (.writeSp h) h))

theorem execVst_canonical {d a p off} : OutcomeCanonical (execVst d a p off s) := by
  simp only [execVst]
  refine runChecked_canonical h fun c => ?_
  split
  · rename_i e
    exact vecCheck_canonical e
  · exact .ite trivial (.ok (.storeLanes h))

theorem execVldl_canonical {d a b p sz} : OutcomeCanonical (execVldl d a b p sz s) := by
  simp only [execVldl]
  refine runChecked_canonical h fun c => ?_
  split
  · trivial
  · exact .ok (.writeReg (.scrubs h))

theorem execVstl_canonical {d a b p sz} : OutcomeCanonical (execVstl d a b p sz s) := by
  simp only [execVstl]
  refine runChecked_canonical h fun c => ?_
  split
  · trivial
  · exact .ok (.foldl h fun _ _ h => .ite (.writeBytes h) h)

theorem predForm_canonical {i d a b nb f} : OutcomeCanonical (predForm i s d a b nb f) := by
  rw [predForm]
  exact runChecked_canonical h fun _ => .ok (.writeReg h)

theorem execPand_canonical {d a b p nb} : OutcomeCanonical (execPand d a b p nb s) := predForm_canonical h

theorem execPor_canonical {d a b p nb} : OutcomeCanonical (execPor d a b p nb s) := predForm_canonical h

theorem execPxor_canonical {d a b p nb} : OutcomeCanonical (execPxor d a b p nb s) := predForm_canonical h

theorem execPcnt_canonical {d a p} : OutcomeCanonical (execPcnt d a p s) := by
  rw [execPcnt]
  exact runChecked_canonical h fun _ => .ok (.writeReg h)

/-! ### Shape jobs -/

theorem State.memoryCanonical.scrubSpans {core spans} : (s.scrubSpans core spans).memoryCanonical :=
  .foldl h fun _ _ h => .scrubLong h

theorem readRecords_canonical {t : State} {core : Nat} {c : Core} {l : List Word} {r : List ShapeRec}
    (e : readRecords s core c l = .ok (r, t)) :
    t.memoryCanonical := by
  induction l generalizing s r with
  | nil =>
    obtain ⟨-, rfl⟩ := Prod.mk.inj (Except.ok.inj e)
    exact h
  | cons a l ih =>
    simp only [readRecords] at e
    split at e
    · cases e
    · cases e
    · rename_i hr
      split at e
      · cases e
      · rename_i hl
        obtain ⟨-, rfl⟩ := Prod.mk.inj (Except.ok.inj e)
        exact ih ((readRecord_canonical h).get hr) hl

omit h in
/-- The read of records that fails is held or traps. -/
theorem readRecords_error {s : State} {core : Nat} {c : Core} {l : List Word} {x : Eff}
    (e : readRecords s core c l = .error x) : EffCanonical x := by
  induction l generalizing s with
  | nil => cases e
  | cons a l ih =>
    simp only [readRecords] at e
    split at e
    · obtain rfl := Except.error.inj e; trivial
    · obtain rfl := Except.error.inj e; trivial
    · split at e
      · rename_i hl
        obtain rfl := Except.error.inj e
        exact ih hl
      · cases e

theorem shapeJob_canonical {i srcs d} : OutcomeCanonical (shapeJob i s srcs d) := by
  simp only [shapeJob]
  refine runOp_canonical h fun c => ?_
  split
  · rename_i e
    exact readRecords_error e
  · split
    · trivial
    · split
      · exact .ok h
      · split
        · trivial
        · split
          · rename_i e
            exact cardWaits_canonical e
          · rename_i e _ _ _ _ _ _ _ _
            exact .ok (.updCore (readRecords_canonical h e))

theorem execVjadd_canonical {d a b p sat rm t} : OutcomeCanonical (execVjadd d a b p sat rm t s) := shapeJob_canonical h

theorem execVjsub_canonical {d a b p sat rm t} : OutcomeCanonical (execVjsub d a b p sat rm t s) := shapeJob_canonical h

theorem execVjmul_canonical {d a b p sat rm t} : OutcomeCanonical (execVjmul d a b p sat rm t s) := shapeJob_canonical h

theorem execVjfma_canonical {d a b p sat rm t} : OutcomeCanonical (execVjfma d a b p sat rm t s) := shapeJob_canonical h

theorem execVjmin_canonical {d a b p sat rm t} : OutcomeCanonical (execVjmin d a b p sat rm t s) := shapeJob_canonical h

theorem execVjmax_canonical {d a b p sat rm t} : OutcomeCanonical (execVjmax d a b p sat rm t s) := shapeJob_canonical h

theorem execVjcvt_canonical {d a p sat ts rm td} : OutcomeCanonical (execVjcvt d a p sat ts rm td s) :=
  shapeJob_canonical h

theorem execVjqdb_canonical {d a p ts single td} : OutcomeCanonical (execVjqdb d a p ts single td s) :=
  shapeJob_canonical h

theorem execVjred_canonical {d a p sat rm op t} : OutcomeCanonical (execVjred d a p sat rm op t s) := shapeJob_canonical h

theorem execVjsfu_canonical {d a p sat rm t f} : OutcomeCanonical (execVjsfu d a p sat rm t f s) := shapeJob_canonical h

theorem execVjcomp_canonical {d a b p t} : OutcomeCanonical (execVjcomp d a b p t s) := shapeJob_canonical h

theorem execVjexpd_canonical {d a b p t} : OutcomeCanonical (execVjexpd d a b p t s) := shapeJob_canonical h

theorem execVjsel_canonical {d a b p sat rm t} : OutcomeCanonical (execVjsel d a b p sat rm t s) := shapeJob_canonical h

theorem execVjcmp_canonical {d a b p cc t} : OutcomeCanonical (execVjcmp d a b p cc t s) := shapeJob_canonical h

theorem execVjfill_canonical {d p t} : OutcomeCanonical (execVjfill d p t s) := shapeJob_canonical h

theorem execVectorJobStart_canonical {core} : OutcomeCanonical (execVectorJobStart core s) := by
  rw [execVectorJobStart]
  split
  · exact .next h
  · split
    · exact .ite (.next h) (.next (.updCore (.scrubSpans h)))
    · exact .next h

theorem State.memoryCanonical.replaceCovered {core rows} : (s.replaceCovered core rows).memoryCanonical :=
  .foldl h fun _ _ h => .foldl h fun _ _ h1 => .ite (.mk (storeWord_wf _ _ h1)) h1

theorem State.memoryCanonical.writeRows {core rows} : (s.writeRows core rows).memoryCanonical :=
  .foldl h fun _ _ h => .writeSp h

theorem execVectorJobComplete_canonical {core} : OutcomeCanonical (execVectorJobComplete core s) := by
  simp only [execVectorJobComplete]
  split
  · exact .next h
  · split
    · exact .next h
    · split
      · exact .next h
      · refine .next ?_
        split
        · exact .jobFault (.updGrove (.updCore (.writeRows (.replaceCovered h))))
        · exact .updGrove (.updCore (.writeRows (.replaceCovered h)))

/-! ### The matrix unit -/

theorem execMldb_canonical {k a plane p bt t} : OutcomeCanonical (execMldb k a plane p bt t s) := by
  rw [execMldb]
  refine runOp_canonical h fun c => ?_
  split
  · trivial
  · trivial
  · split
    · trivial
    · split
      · rename_i e
        exact cardWaits_canonical e
      · rename_i e _ _ _ _ _ _
        exact .ok (.updCore ((readRecord_canonical h).get e))

theorem execMldbLoadStart_canonical {core} : OutcomeCanonical (execMldbLoadStart core s) := by
  rw [execMldbLoadStart]
  split
  · exact .next h
  · split
    · exact .ite (.next h) (.next (.updCore h))
    · exact .next h

theorem State.memoryCanonical.readElems {core kbank g row} : (s.readElems core kbank g row).2.memoryCanonical :=
  .scrubSpans h

theorem State.memoryCanonical.loadRow {core} : (s.loadRow core).memoryCanonical := by
  rw [State.loadRow]
  split
  · exact h
  · split
    · exact .ite h (.updCore (.readElems h))
    · exact h

theorem execPlaneLoaded_canonical {core} : OutcomeCanonical (execPlaneLoaded core s) := by
  simp only [execPlaneLoaded]
  split
  · exact .next h
  · split
    · exact .next h
    · split
      · exact .next (.updCore (.updGrove h))
      · exact .next h

theorem matIssue_canonical {c t w m} : EffCanonical (matIssue s c t w m) := by
  rw [matIssue]
  split
  · rename_i e
    exact cardWaits_canonical e
  · exact .ok (.updCore h)

theorem execMjob_canonical {d a b p t} : OutcomeCanonical (execMjob d a b p t s) := by
  simp only [execMjob]
  refine runOp_canonical h fun c => ?_
  split
  · trivial
  · split
    · rename_i e
      exact readRecords_error e
    · split
      · trivial
      · rename_i e _ _ _
        exact .ite trivial (matIssue_canonical (readRecords_canonical h e))
    · exact .ok h

theorem gangIssue_canonical {i d a b t join} : OutcomeCanonical (gangIssue i d a b t join s) := by
  simp only [gangIssue]
  refine runOp_canonical h fun c => ?_
  split
  · trivial
  · split
    · rename_i e
      exact readRecords_error e
    · split
      · trivial
      · split
        · trivial
        · split
          · rename_i e
            exact cardWaits_canonical e
          · rename_i e _ _ _ _ _ _
            exact .ok (.updCore (readRecords_canonical h e))
    · exact .ok h

theorem execMgang_canonical {d a b p t} : OutcomeCanonical (execMgang d a b p t s) := gangIssue_canonical h

theorem execMgangJoin_canonical {d a b p t} : OutcomeCanonical (execMgangJoin d a b p t s) := gangIssue_canonical h

theorem execMatrixJobStart_canonical {core} : OutcomeCanonical (execMatrixJobStart core s) := by
  rw [execMatrixJobStart]
  split
  · exact .next h
  · exact .ite (.next (.updCore h)) (.next h)

theorem execGovernorWindow_canonical {g} : OutcomeCanonical (execGovernorWindow g s) :=
  .ite (.next h) (.next (.updGrove h))

theorem State.memoryCanonical.matRow {core j row} : (s.matRow core j row).memoryCanonical := by
  simp only [State.matRow]
  split
  · split
    · exact h
    · exact .updCore (.ite (.scrubSpans (.readElems h)) (.readElems h))
  · exact h

theorem State.memoryCanonical.digitClock {core j} : (s.digitClock core j).memoryCanonical := .updCore (.ite (.matRow h) h)

theorem State.memoryCanonical.requestDigit {core} : (s.requestDigit core).memoryCanonical := by
  simp only [State.requestDigit]
  split
  · exact h
  · exact .ite h (.digitClock (.updGrove h))

theorem State.memoryCanonical.writeDue {core} : (s.writeDue core).memoryCanonical := by
  rw [State.writeDue]
  split
  · exact h
  · exact .updCore (.writeRows h)

theorem State.memoryCanonical.matrixClock : s.matrixClock.memoryCanonical :=
  .foldl (.foldl (.foldl h fun _ _ h => .loadRow h) fun _ _ h => .requestDigit h) fun _ _ h => .writeDue h

theorem execMatrixJobComplete_canonical {core} : OutcomeCanonical (execMatrixJobComplete core s) := by
  rw [execMatrixJobComplete]
  split
  · exact .next h
  · split
    · split
      · exact .next h
      · extract_lets g leader later s1 s2 ok s3 s4
        have hs1 : s1.memoryCanonical := .writeRows h
        have hs2 : s2.memoryCanonical := .updCore hs1
        have hs3 : s3.memoryCanonical := .updGrove hs2
        have hs4 : s4.memoryCanonical := .ite (.updGrove hs3) hs3
        refine .next ?_
        split
        · exact hs4
        · exact .matFault hs4
    · exact .next h

theorem State.memoryCanonical.cancelShare {core job} : (s.cancelShare core job).memoryCanonical := by
  simp only [State.cancelShare]
  split
  · exact h
  · exact .updGrove (.updCore h)

theorem State.memoryCanonical.gangFault {core late index mask cause dm lm} :
    (s.gangFault core late index mask cause dm lm).memoryCanonical :=
  .matFault h

theorem State.memoryCanonical.gangAccept {core join w i job share wid} :
    (s.gangAccept core join w i job share wid).memoryCanonical := by
  simp only [State.gangAccept]
  split
  · exact .updCore (.gangFault (.setGrove (.cancelShare h)))
  · split
    · exact .updCore (.setGrove h)
    · exact .ite (.updCore (.updGrove h)) (.gangFault (.ite (.updCore (.cancelShare h)) (.updGrove (.cancelShare h))))

theorem execPlaneTransfer_canonical {g job m} : OutcomeCanonical (execPlaneTransfer g job m s) := by
  simp only [execPlaneTransfer]
  split
  · exact .next h
  · split
    · split
      · exact .next h
      · split
        · split
          · exact .ite (.next (.updGrove (.updCore h))) (.next (.gangFault (.updGrove (.cancelShare h))))
          · exact .next h
        · exact .next h
    · exact .next h

theorem execGangWindowExpire_canonical {g job} : OutcomeCanonical (execGangWindowExpire g job s) := by
  rw [execGangWindowExpire]
  split
  · exact .next h
  · split
    · exact .next h
    · extract_lets late noLeader s1 s2
      have hs1 : s1.memoryCanonical := by
        unfold s1
        split
        · refine .foldl h fun s a h => ?_
          split
          · exact .cancelShare h
          · exact h
        · exact h
      have hs2 : s2.memoryCanonical := .updGrove hs1
      exact .next (.ite (.updGrove hs2) hs2)

theorem execGangCompletion_canonical {g job} : OutcomeCanonical (execGangCompletion g job s) := by
  rw [execGangCompletion]
  split
  · exact .next h
  · split
    · exact .next h
    · extract_lets dm mask flt k s1 s2
      have hs1 : s1.memoryCanonical := .foldl h fun _ _ h => .updCore h
      have hs2 : s2.memoryCanonical := .updGrove hs1
      refine .next ?_
      split
      · exact .ite (.gangFault hs2) hs2
      · exact hs2

theorem execGangArrivalCount_canonical {g job} : OutcomeCanonical (execGangArrivalCount g job s) := by
  rw [execGangArrivalCount]
  split
  · exact .next h
  · split
    · exact .next h
    · exact .ite (.next h) (.next (.setGrove h))

/-! ### Loads, stores and queues -/

omit h in
theorem scalarCheck_canonical {c : Core} {ea : Word} {size : Nat} {write : Bool} {e : Eff}
    (he : c.scalarCheck ea size write = some e) : EffCanonical e := by
  simp only [Core.scalarCheck] at he
  split_ifs at he <;> obtain rfl := Option.some.inj he <;> trivial

theorem loadAt_canonical {c d sz ea} : EffCanonical (s.loadAt c d sz ea) := by
  simp only [State.loadAt]
  split
  · rename_i e
    exact scalarCheck_canonical e
  · exact .ite trivial (.ok (.writeReg (.readMem h)))

theorem storeAt_canonical {c x sz ea} : EffCanonical (s.storeAt c x sz ea) := by
  rw [State.storeAt]
  split
  · rename_i e
    exact scalarCheck_canonical e
  · exact .ite trivial (.ok (.writeSp h))

theorem execLd_canonical {d a sz p off} : OutcomeCanonical (execLd d a sz p off s) := by
  rw [execLd]
  exact runOp_canonical h fun _ => loadAt_canonical h

theorem execSt_canonical {d a sz p off} : OutcomeCanonical (execSt d a sz p off s) := by
  rw [execSt]
  exact runOp_canonical h fun _ => storeAt_canonical h

theorem execLdx_canonical {d a b p sc sz} : OutcomeCanonical (execLdx d a b p sc sz s) := by
  rw [execLdx]
  exact runOp_canonical h fun _ => loadAt_canonical h

theorem execStx_canonical {d a b p sc sz} : OutcomeCanonical (execStx d a b p sc sz s) := by
  rw [execStx]
  exact runOp_canonical h fun _ => storeAt_canonical h

theorem queueOp_canonical {i d f} : OutcomeCanonical (queueOp i s d f) := by
  rw [queueOp]
  exact runOp_canonical h fun _ => .ite trivial (.ok (.updCore h))

theorem execQld_canonical {d a p ord scope sz} : OutcomeCanonical (execQld d a p ord scope sz s) := queueOp_canonical h

theorem execQst_canonical {d a b p ord scope sz} : OutcomeCanonical (execQst d a b p ord scope sz s) := queueOp_canonical h

theorem execAmoAdd_canonical {d a b p ord scope sz} : OutcomeCanonical (execAmoAdd d a b p ord scope sz s) :=
  queueOp_canonical h

theorem execAmoSwap_canonical {d a b p ord scope sz} : OutcomeCanonical (execAmoSwap d a b p ord scope sz s) :=
  queueOp_canonical h

theorem execAmoCas_canonical {d a b p ord scope sz} : OutcomeCanonical (execAmoCas d a b p ord scope sz s) :=
  queueOp_canonical h

theorem execAmoAnd_canonical {d a b p ord scope sz} : OutcomeCanonical (execAmoAnd d a b p ord scope sz s) :=
  queueOp_canonical h

theorem execAmoOr_canonical {d a b p ord scope sz} : OutcomeCanonical (execAmoOr d a b p ord scope sz s) :=
  queueOp_canonical h

theorem execAmoXor_canonical {d a b p ord scope sz} : OutcomeCanonical (execAmoXor d a b p ord scope sz s) :=
  queueOp_canonical h

theorem execAmoMin_canonical {d a b p ord scope sz} : OutcomeCanonical (execAmoMin d a b p ord scope sz s) :=
  queueOp_canonical h

theorem execAmoMax_canonical {d a b p ord scope sz} : OutcomeCanonical (execAmoMax d a b p ord scope sz s) :=
  queueOp_canonical h

theorem execAmoMinu_canonical {d a b p ord scope sz} : OutcomeCanonical (execAmoMinu d a b p ord scope sz s) :=
  queueOp_canonical h

theorem execAmoMaxu_canonical {d a b p ord scope sz} : OutcomeCanonical (execAmoMaxu d a b p ord scope sz s) :=
  queueOp_canonical h

theorem execAmoSeq_canonical {d a b p op} : OutcomeCanonical (execAmoSeq d a b p op s) := queueOp_canonical h

theorem popHead_canonical {c : Core} {q : Nat} {f : QEntry → Eff} (hf : ∀ e, EffCanonical (f e)) :
    EffCanonical (popHead s c q f) := by
  simp only [popHead]
  split
  · exact .ok h
  · split
    · trivial
    · split
      · rename_i e
        exact .ok (.updCore ((hf _).get e))
      · exact hf _

theorem execQpop_canonical {d a p} : OutcomeCanonical (execQpop d a p s) := by
  simp only [execQpop]
  exact runOp_canonical h fun _ => popHead_canonical h fun _ => .ite trivial (.ok (.writeReg h))

theorem execQpopT_canonical {d a b p} : OutcomeCanonical (execQpopT d a b p s) := by
  simp only [execQpopT]
  exact runOp_canonical h fun _ => popHead_canonical h fun _ => .ok (.writeReg (.writeReg h))

theorem waitEntries_canonical {d l} : EffCanonical (waitEntries s d l) := .ite (.ok (.writeReg h)) trivial

theorem execQwait_canonical {d a p} : OutcomeCanonical (execQwait d a p s) := by
  rw [execQwait]
  exact runOp_canonical h fun _ => waitEntries_canonical h

theorem execQwaitAll_canonical {d a p} : OutcomeCanonical (execQwaitAll d a p s) := by
  rw [execQwaitAll]
  exact runOp_canonical h fun _ => waitEntries_canonical h

theorem execFence_canonical {p scope} : OutcomeCanonical (execFence p scope s) := by
  rw [execFence]
  exact runOp_canonical h fun _ => .ite (.ok h) trivial

theorem State.memoryCanonical.performAt {pl kind sz v w ctx} : (s.performAt pl kind sz v w ctx).2.memoryCanonical := by
  simp only [State.performAt]
  split
  · exact .ite_snd (.readPlace h) (.readPlace h)
  · exact .ite_snd (.scrub h) (.writePlace h)
  · split
    · exact .readPlace h
    · split
      · exact .writePlace (.mk (correctWord_wf _ (State.memoryCanonical.readPlace h)))
      · exact .readPlace h

theorem State.memoryCanonical.logOn {node chan q} : (s.logOn node chan q).memoryCanonical := .ite (.mk h) h

theorem State.memoryCanonical.remoteOut {ctx m sl src seq cls op sz off v w first} :
    (s.remoteOut ctx m sl src seq cls op sz off v w first).memoryCanonical :=
  .send h

theorem State.memoryCanonical.logAnswer {ctx g m sl src seq asker ord r} :
    (s.logAnswer ctx g m sl src seq asker ord r).memoryCanonical :=
  .logOn h

theorem sendEntry_canonical {core q e} : OptionCanonical (s.sendEntry core q e) := by
  rw [State.sendEntry]
  split
  · exact .ite (.some (.updCore (.remoteOut h))) (.ite trivial (.some (.updCore (.remoteOut h))))
  · exact .some (.updCore h)

theorem execQueueRequestSend_canonical {core q} : OutcomeCanonical (execQueueRequestSend core q s) := by
  rw [execQueueRequestSend]
  split
  · exact .next h
  · exact .next ((sendEntry_canonical h).getD h)

theorem execSequenceNumberFree_canonical {core k} : OutcomeCanonical (execSequenceNumberFree core k s) := by
  rw [execSequenceNumberFree]
  split
  · exact .next h
  · exact .next ((sendEntry_canonical h).getD h)

theorem State.memoryCanonical.remoteAnswer : s.remoteAnswer.2.memoryCanonical := .freeWord (.freeWord h)

theorem State.memoryCanonical.lookedUp {g ctx addr r} : (s.lookedUp g ctx addr r).memoryCanonical := by
  unfold State.lookedUp
  split
  · exact .located h
  · exact .ite (.located h) h
  · exact h

theorem execQueueAccessPerform_canonical {core q i} : OutcomeCanonical (execQueueAccessPerform core q i s) := by
  rw [execQueueAccessPerform]
  split
  · exact .next h
  · split
    · exact .next h
    · split
      · exact .next h
      · exact .next (.updCore (.lookedUp h))
      · exact .ite (.next h) (.next (.updCore (.logAnswer (.remoteAnswer h))))
      · exact .ite (.next h) (.next (.updCore (.performAt (.lookedUp h))))

theorem execPageWalk_canonical {g ctx va} : OutcomeCanonical (execPageWalk g ctx va s) := by
  rw [execPageWalk]
  split
  · exact .next (.walked h)
  · exact .next (.tlbFill (.walked h))

/-! ### The fabric -/

theorem State.memoryCanonical.emit {pos p} : (s.emit pos p).memoryCanonical := .ite (.send h) (.send h)

theorem State.memoryCanonical.sendTo {ctx name kind src pos express inj data wid} :
    (s.sendTo ctx name kind src pos express inj data wid).memoryCanonical :=
  .emit h

theorem State.memoryCanonical.sendBack {ctx name kind src code express inj data wid} :
    (s.sendBack ctx name kind src code express inj data wid).memoryCanonical :=
  .ite (.sendTo h) (.send h)

theorem State.memoryCanonical.dropPkt {k} : (s.dropPkt k).memoryCanonical := .mk h

theorem State.memoryCanonical.withdrawAt {h0 p r} : (s.withdrawAt h0 p r).1.memoryCanonical := .setGrove h

theorem State.memoryCanonical.endReg {pos r} : (s.endReg pos r).memoryCanonical := .ite (.traffic (.updGrove h)) h

theorem State.memoryCanonical.withdraw {g id} : (s.withdraw g id).memoryCanonical := by
  simp only [State.withdraw]
  split
  · exact h
  · exact .ite (.updGrove h) (.foldl (.setGrove (.updGrove h)) fun _ _ h => .ite (.sendTo h) (.endReg h))

theorem State.memoryCanonical.withdrawOf {g task sel} : (s.withdrawOf g task sel).memoryCanonical :=
  .foldl h fun _ _ h => .withdraw h

theorem State.memoryCanonical.unpinTask {g i} : (s.unpinTask g i).memoryCanonical := by
  simp only [State.unpinTask]
  split
  · exact h
  · exact .updTask (.foldl h fun _ _ h => .sendTo h)

/-! ### The copy engine -/

/-- The state that the read of a copy's descriptor leaves has canonical memory; a failure is held or traps. -/
def CopyCanonical : Except Eff (CopyDesc × List Byte × List Byte × State) → Prop
  | .ok r => r.2.2.2.memoryCanonical
  | .error e => EffCanonical e

omit h in
theorem CopyCanonical.ite {c : Prop} [Decidable c] {o p : Except Eff (CopyDesc × List Byte × List Byte × State)}
  (ho : CopyCanonical o)
    (hp : CopyCanonical p) : CopyCanonical (if c then o else p) := by
  split
  · exact ho
  · exact hp

theorem readCopy_outcome {c a} : CopyCanonical (s.readCopy c a) := by
  unfold State.readCopy
  refine .ite trivial <| .ite trivial <| .ite trivial ?_
  extract_lets +onlyGivenNames len b
  have hb : b.2.memoryCanonical := .readMem h
  clear_value b
  extract_lets bytes d w
  exact .ite trivial <| .ite trivial <| .ite hb <| .ite trivial <| .ite trivial <|
    .ite trivial (State.memoryCanonical.readMem hb)

theorem readCopy_canonical {t : State} {c : Core} {a : Word} {d : CopyDesc} {b m : List Byte}
    (e : s.readCopy c a = .ok (d, b, m, t)) :
    t.memoryCanonical := by
  have := readCopy_outcome (c := c) (a := a) h
  rwa [e] at this

theorem readCopy_error {c : Core} {a : Word} {x : Eff} (e : s.readCopy c a = .error x) : EffCanonical x := by
  have := readCopy_outcome (c := c) (a := a) h
  rwa [e] at this

theorem execCopy_canonical {d a b p e} : OutcomeCanonical (execCopy d a b p e s) := by
  simp only [execCopy]
  refine runOp_canonical h fun c => ?_
  split
  · trivial
  · split
    · trivial
    · split
      · rename_i e
        exact readCopy_error h e
      · split
        · trivial
        · split
          · trivial
          · split
            · trivial
            · split
              · rename_i e
                exact cardWaits_canonical e
              · rename_i e _ _ _ _ _ _ _
                exact .ite trivial (.ok (.updCore (readCopy_canonical h e)))

theorem chunkWait_canonical {c d a set} : EffCanonical (chunkWait s c d a set) := .ok (.updCore h)

theorem execCwait_canonical {d a b p} : OutcomeCanonical (execCwait d a b p s) := by
  rw [execCwait]
  exact runOp_canonical h fun _ => chunkWait_canonical h

theorem execCwaitW_canonical {d a b p k} : OutcomeCanonical (execCwaitW d a b p k s) := by
  rw [execCwaitW]
  exact runOp_canonical h fun _ => chunkWait_canonical h

theorem execCtest_canonical {d a b p} : OutcomeCanonical (execCtest d a b p s) := by
  rw [execCtest]
  exact runOp_canonical h fun _ => .ok (.writeReg h)

theorem execCtestW_canonical {d a b p} : OutcomeCanonical (execCtestW d a b p s) := by
  rw [execCtestW]
  exact runOp_canonical h fun _ => .ok (.writeReg h)

theorem execCtestRec_canonical {d a p} : OutcomeCanonical (execCtestRec d a p s) := by
  rw [execCtestRec]
  exact runOp_canonical h fun _ => .ok (.updCore (.writeReg h))

theorem execCtestAddr_canonical {d a p} : OutcomeCanonical (execCtestAddr d a p s) := by
  rw [execCtestAddr]
  exact runOp_canonical h fun _ => .ok (.updCore (.writeReg h))

theorem State.memoryCanonical.readRun {ctx l} : (s.readRun ctx l).2.memoryCanonical := by
  rw [State.readRun]
  refine .foldl_snd h fun s a h => ?_
  split
  · exact .foldl_snd h fun _ _ h => .freeWord h
  · exact .readPlace h

theorem State.memoryCanonical.sendGranule {ctx m sl src off b} : (s.sendGranule ctx m sl src off b).memoryCanonical :=
  .remoteOut h

theorem State.memoryCanonical.writeRunAt {ctx src l data} : (s.writeRunAt ctx src l data).memoryCanonical := by
  simp only [State.writeRunAt]
  refine .foldl h fun s a h => ?_
  split
  · exact .foldl h fun _ _ h => .sendGranule h
  · exact .writePlace h

theorem State.memoryCanonical.runLooked {g ctx base x len write user} :
    (s.runLooked g ctx base x len write user).memoryCanonical := by
  simp only [State.runLooked]
  split
  · exact h
  · refine .foldl h fun s a h => ?_
    split
    · exact .lookedUp h
    · exact .lookedUp h
    · exact h

theorem State.memoryCanonical.endsLooked {core ctx user p r} : (s.endsLooked core ctx user p r).memoryCanonical :=
  .ite (.runLooked (.ite (.runLooked h) h)) (.ite (.runLooked h) h)

theorem State.memoryCanonical.ahead {core j p r} : (s.ahead core j p r).memoryCanonical :=
  .ite h (.mk (Memory.foldl_wf _ (fun _ _ h => writeRun_wf _ _ h) _ h))

theorem State.memoryCanonical.readPiece {core j p e} : (s.readPiece core j p e).2.2.memoryCanonical := by
  simp only [State.readPiece]
  split
  · exact .scrubs h
  · exact .scrub h

theorem State.memoryCanonical.chunkEvents {g ctx d n} : (s.chunkEvents g ctx d n).1.memoryCanonical :=
  .ite_fst h (.ite_fst (.updGrove h) h)

theorem State.memoryCanonical.wrotePiece {core ctx tr d j p a len} : (s.wrotePiece core ctx tr d j p a len).memoryCanonical :=
  .updCore (.chunkEvents h)

theorem State.memoryCanonical.readRunOn {core j p e} : (s.readRunOn core j p e).memoryCanonical := .updCore (.readPiece h)

theorem State.memoryCanonical.beginRun {core j p run} : (s.beginRun core j p run).memoryCanonical := by
  simp only [State.beginRun]
  split
  · split
    · exact h
    · exact .updCore (.endsLooked h)
    · exact .ite (.readRunOn (.endsLooked h))
        (.ite (.wrotePiece (.writeRunAt (.ite_snd (.endsLooked h) (.readRun (.endsLooked h)))))
        (.updCore (.ite_snd (.endsLooked h) (.readRun (.endsLooked h)))))
  · exact h

theorem State.memoryCanonical.sendRun {core j p e} : (s.sendRun core j p e).memoryCanonical := by
  simp only [State.sendRun]
  split
  · exact .wrotePiece (.writeRunAt h)
  · exact h

theorem State.memoryCanonical.oneRun {core j p run} : (s.oneRun core j p run).memoryCanonical := by
  rw [State.oneRun]
  split
  · exact .ite (.readRunOn h) (.ite (.sendRun h) h)
  · exact .beginRun h

theorem execCopyRunPerform_canonical {core job run} : OutcomeCanonical (execCopyRunPerform core job run s) := by
  rw [execCopyRunPerform]
  split
  · exact .next h
  · split
    · exact .ite (.next h) (.next (.oneRun h))
    · exact .next h

theorem State.memoryCanonical.copyWrite {core} : (s.copyWrite core).memoryCanonical := by
  simp only [State.copyWrite]
  split
  · exact h
  · split
    · exact .ite h (.wrotePiece (.writeSp h))
    · exact h

theorem State.memoryCanonical.copyClock : s.copyClock.memoryCanonical := .foldl h fun _ _ h => .copyWrite h

theorem State.memoryCanonical.finishEvents {g ctx d} : (s.finishEvents g ctx d).1.memoryCanonical :=
  .ite (.updGrove (.ite (.updGrove h) h)) (.ite (.updGrove h) h)

theorem execCopyFinish_canonical {core job} : OutcomeCanonical (execCopyFinish core job s) := by
  rw [execCopyFinish]
  split
  · exact .next h
  · split
    · split
      · exact .next h
      · extract_lets g ctx s1 ev1 s2
        have hs1 : s1.memoryCanonical := .updCore h
        have hev1 : ev1.1.memoryCanonical := .finishEvents hs1
        have hs2 : s2.memoryCanonical := by
          unfold s2
          split
          · exact .updCore hev1
          · exact hev1
        split
        · refine .next ?_
          split
          · exact .updGrove hs2
          · exact hs2
        · extract_lets a s3
          have hs3 : s3.memoryCanonical := by
            unfold s3
            split
            · exact .updCore hs1
            · exact hs1
          refine .next ?_
          split
          · exact .updGrove hs3
          · exact .ite (.jobFault hs3) hs3
    · exact .next h

/-! ### The pipeline -/

theorem State.memoryCanonical.landWaits {core} : (s.landWaits core).memoryCanonical := by
  rw [State.landWaits]
  refine .foldl h fun s a h => ?_
  split
  · exact h
  · exact .updCore h

theorem execExposedResultLand_canonical {core} : OutcomeCanonical (execExposedResultLand core s) :=
  .ite (.next (.updCore (.landWaits h))) (.next h)

theorem execStalledBundleIssue_canonical {core} : OutcomeCanonical (execStalledBundleIssue core s) :=
  .ite (.next (.mk (State.memoryCanonical.updCore h))) (.next h)

theorem execScoreboardEntryRelease_canonical {core id} : OutcomeCanonical (execScoreboardEntryRelease core id s) := by
  rw [execScoreboardEntryRelease]
  split
  · exact .next h
  · exact .ite (.next (.updCore h)) (.next h)

theorem State.memoryCanonical.giveFrame {g i} : (s.giveFrame g i).memoryCanonical := by
  rw [State.giveFrame]
  split
  · exact h
  · exact .updTask (.dropFrame h)

/-! ### Operations of the X slot -/

theorem xIssue_canonical {i regs f} : OutcomeCanonical (xIssue i s regs f) := by
  rw [xIssue]
  refine runOp_canonical h fun c => ?_
  split
  · trivial
  · exact .ite trivial (.ok (.updCore h))

theorem State.memoryCanonical.xeFault {core kind name} : (s.xeFault core kind name).memoryCanonical := .jobFaultKind h

theorem State.memoryCanonical.acceptPub {core job ch name r valid halo task order slot} :
    (s.acceptPub core job ch name r valid halo task order slot).1.memoryCanonical :=
  .ite_fst h (.updTask (.updGrove h))

/-! ### The trigger engine -/

theorem State.memoryCanonical.trigTile {g ctx slot owner wid cause b fkind fxc addr name value} :
    (s.trigTile g ctx slot owner wid cause b fkind fxc addr name value).memoryCanonical :=
  .faultTile h

theorem execTsrc_canonical {d a b p} : OutcomeCanonical (execTsrc d a b p s) := xIssue_canonical h

theorem execTadd_canonical {d a p} : OutcomeCanonical (execTadd d a p s) := xIssue_canonical h

theorem execTset_canonical {d a p} : OutcomeCanonical (execTset d a p s) := xIssue_canonical h

theorem execTdis_canonical {a p} : OutcomeCanonical (execTdis a p s) := xIssue_canonical h

theorem execTget_canonical {d a p} : OutcomeCanonical (execTget d a p s) := xIssue_canonical h

theorem execTgetSlot_canonical {d b p} : OutcomeCanonical (execTgetSlot d b p s) := xIssue_canonical h

theorem execTgetRes_canonical {d b p} : OutcomeCanonical (execTgetRes d b p s) := xIssue_canonical h

theorem execTarm_canonical {a b p} : OutcomeCanonical (execTarm a b p s) := by
  unfold execTarm
  refine runOp_canonical h fun c => .ite trivial <| .ite trivial <| .ite trivial <| .ite trivial ?_
  extract_lets +onlyGivenNames img
  split
  · trivial
  · exact .ok (.updCore (.readMem h))

theorem State.memoryCanonical.acceptTarm {core k img} : (s.acceptTarm core k img).memoryCanonical :=
  .ite (.updGrove h) (.jobFaultKind h)

theorem execCounterEvent_canonical {g n} : OutcomeCanonical (execCounterEvent g n s) :=
  .ite (.next h) (.next (.ite (.faultTile (.setGrove h)) (.setGrove h)))

theorem State.memoryCanonical.enterSlotCopy {core g k t} : (s.enterSlotCopy core g k t).memoryCanonical := by
  simp only [State.enterSlotCopy]
  split
  · exact .updGrove h
  · exact .updCore h

theorem State.memoryCanonical.enterSlotPub {core g k t} : (s.enterSlotPub core g k t).memoryCanonical := by
  simp only [State.enterSlotPub]
  split
  · exact .updGrove h
  · split
    · exact .updGrove h
    · exact .ite (.acceptPub (.updCore h)) (.updGrove (.updCore (.updCore h)))

theorem State.memoryCanonical.startSlot {g k} : (s.startSlot g k).memoryCanonical := by
  rw [State.startSlot]
  split
  · split
    · exact .updGrove (.updGrove h)
    · split
      · exact .ite (.enterSlotPub (.updGrove h)) (.enterSlotCopy (.updGrove h))
      · exact .updGrove h
  · split
    · exact .enterSlotCopy (.updGrove h)
    · exact .updGrove (.updGrove h)
    · exact .updGrove (.updGrove h)
    · exact .updGrove h

theorem State.memoryCanonical.enterOne {core g k} : (s.enterOne core g k).memoryCanonical :=
  .ite (.enterSlotPub (.updGrove h)) (.enterSlotCopy (.updGrove h))

theorem State.memoryCanonical.enterHeld {core uid} : (s.enterHeld core uid).memoryCanonical :=
  .foldl_fst h fun _ _ h => .ite_fst (.enterOne h) h

theorem execTriggerOpStart_canonical {g} : OutcomeCanonical (execTriggerOpStart g s) := by
  rw [execTriggerOpStart]
  split
  · exact .next h
  · exact .next (.enterOne h)
  · exact .next (.startSlot h)

theorem performAmo_canonical {g k t} : OptionCanonical (s.performAmo g k t) := by
  rw [State.performAmo]
  split
  · trivial
  · exact .some (.updGrove (.lookedUp h))
  · exact .ite (.ite trivial (.some (.updGrove (.remoteOut h))))
      (.ite trivial (.some (.updGrove (.logAnswer (.remoteAnswer h)))))
  · exact .ite trivial (.some (.updGrove (.performAt (.lookedUp h))))

theorem State.memoryCanonical.endActive {g k t kind xc addr} : (s.endActive g k t kind xc addr).memoryCanonical :=
  .ite (.updGrove h) (.trigTile (.updGrove h))

theorem execTriggerOpComplete_canonical {g slot} : OutcomeCanonical (execTriggerOpComplete g slot s) := by
  rw [execTriggerOpComplete]
  split
  · exact .next h
  · split
    · exact .next (.endActive h)
    · exact .ite (.next ((performAmo_canonical h).getD h)) (.next h)

theorem State.memoryCanonical.installTrigs {g i} : (s.installTrigs g i).memoryCanonical := by
  rw [State.installTrigs]
  split
  · exact h
  · exact .foldl h fun _ _ h => .ite (.trigTile h) (.ite (.updGrove h) (.trigTile h))

/-! ### Task records -/

theorem State.memoryCanonical.sendRecSubs {g i} : (s.sendRecSubs g i).memoryCanonical := by
  rw [State.sendRecSubs]
  split
  · exact h
  · exact .foldl h fun _ _ h => .ite h (.updGrove h)

theorem State.memoryCanonical.settleReady {g i} : (s.settleReady g i).memoryCanonical := .updTask h

theorem State.memoryCanonical.armTask {g i} : (s.armTask g i).memoryCanonical := .settleReady (.sendRecSubs (.updTask h))

theorem State.memoryCanonical.enterRecord {g r arm} : (s.enterRecord g r arm).memoryCanonical := by
  simp only [State.enterRecord]
  split
  · exact h
  · exact .ite (.armTask (.installTrigs (.updGrove (.mk h)))) (.installTrigs (.updGrove (.mk h)))

theorem State.memoryCanonical.enterTriad {r g a b arm} : (s.enterTriad r g a b arm).memoryCanonical :=
  .enterRecord (.enterRecord (.enterRecord (.mk h)))

theorem installInstance_canonical {g ctx tmpl t wid splvl hold parent tag} :
    OptionCanonical (s.installInstance g ctx tmpl t wid splvl hold parent tag) := by
  rw [State.installInstance]
  split
  · trivial
  · split
    · split
      · trivial
      · exact .some (.enterTriad h)
    · exact .some (.enterRecord h)

theorem State.memoryCanonical.updPool {ctx level group f} : (s.updPool ctx level group f).memoryCanonical :=
  .ite (.updGrove h) h

theorem State.memoryCanonical.leaveSpawn {ctx wid sel} : (s.leaveSpawn ctx wid sel).memoryCanonical := .mk h

theorem State.memoryCanonical.updTransit {sel f} : (s.updTransit sel f).memoryCanonical := .mk h

theorem State.memoryCanonical.settlePools {ctx} : (s.settlePools ctx).memoryCanonical :=
  .ite h (.foldl (.updCtx (.mk h)) fun _ _ h => .ite h (.updPool h))

theorem State.memoryCanonical.returnTag {g i r} : (s.returnTag g i r).memoryCanonical := by
  simp only [State.returnTag]
  split
  · exact h
  · exact .ite h (.settlePools (.ite (.updPool h) (.ite (.updGrove h) (.updPool h))))

theorem State.memoryCanonical.endKernel {g i} : (s.endKernel g i).memoryCanonical := .updGrove (.withdrawOf h)

theorem State.memoryCanonical.freeRecord {g i} : (s.freeRecord g i).memoryCanonical := by
  simp only [State.freeRecord]
  split
  · exact h
  · exact .returnTag (.leaveSpawn (.dropFrame (.updGrove (.withdrawOf (.endKernel (.unpinTask h))))))

theorem State.memoryCanonical.freeTransit {sel} : (s.freeTransit sel).memoryCanonical := by
  rw [State.freeTransit]
  refine .foldl h fun s a h => ?_
  split
  · exact .ite (.returnTag (.updGrove (.mk h))) h
  · exact h

theorem State.memoryCanonical.freeHeld {uid} : (s.freeHeld uid).memoryCanonical :=
  .freeTransit (.foldl h fun _ _ h => .freeRecord h)

theorem State.memoryCanonical.armHeld {uid} : (s.armHeld uid).memoryCanonical :=
  .updTransit (.foldl h fun _ _ h => .armTask h)

theorem State.memoryCanonical.sweepTriads : s.sweepTriads.memoryCanonical := .mk h

theorem State.memoryCanonical.evict {g i} : (s.evict g i).memoryCanonical := by
  simp only [State.evict]
  split
  · exact h
  · exact .freeRecord (.updGrove (.ite (.updCore h) h))

/-! ### Tasks -/

theorem execSpawn_canonical {d a b p l} : OutcomeCanonical (execSpawn d a b p l s) := xIssue_canonical h

theorem execTinst_canonical {a b p l} : OutcomeCanonical (execTinst a b p l s) := xIssue_canonical h

theorem execExit_canonical {p} : OutcomeCanonical (execExit p s) := by
  rw [execExit]
  exact runOp_canonical h fun _ => .ok (.updCore h)

theorem execBarr_canonical {a p} : OutcomeCanonical (execBarr a p s) := xIssue_canonical h

theorem execBwait_canonical {d a p} : OutcomeCanonical (execBwait d a p s) := by
  rw [execBwait]
  exact runOp_canonical h fun _ => .ite trivial (.ok (.writeLater (.updCore h)))

theorem execBtest_canonical {d a p} : OutcomeCanonical (execBtest d a p s) := xIssue_canonical h

theorem execBset_canonical {a b p} : OutcomeCanonical (execBset a b p s) := xIssue_canonical h

theorem execMigrate_canonical {a b p} : OutcomeCanonical (execMigrate a b p s) := xIssue_canonical h

theorem State.memoryCanonical.waitSpawn {g i level t} : (s.waitSpawn g i level t).memoryCanonical := by
  rw [State.waitSpawn]
  exact .updPool (.updGrove (.updTask h))

theorem State.memoryCanonical.acceptSpawn {core level x} : (s.acceptSpawn core level x).1.memoryCanonical := by
  rw [State.acceptSpawn]
  split
  · exact h
  · extract_lets s1 gr im size group l
    have hs1 : s1.memoryCanonical := .settlePools h
    split
    · exact hs1
    · split
      · exact hs1
      · split
        · exact .waitSpawn hs1
        · extract_lets child s2 s3 s4 s5
          have hs2 : s2.memoryCanonical := .updGrove hs1
          have hs3 : s3.memoryCanonical := .ite (.updPool hs2) hs2
          have hs4 : s4.memoryCanonical := .leaveSpawn hs3
          have hs5 : s5.memoryCanonical := .updTask hs4
          split
          · rename_i e
            exact (installInstance_canonical hs5).get e
          · exact hs5

theorem State.memoryCanonical.acceptTinst {core level x} : (s.acceptTinst core level x).memoryCanonical := by
  simp only [State.acceptTinst]
  split
  · exact h
  · split
    · exact .faultTile h
    · split
      · exact .faultTile h
      · split
        · rename_i e
          exact (installInstance_canonical h).get e
        · exact .faultTile h

theorem State.memoryCanonical.acceptBarr {core b wid} : (s.acceptBarr core b wid).memoryCanonical :=
  .ite h (.updGrove (.updCore h))

theorem State.memoryCanonical.acceptBwait {core b ord} : (s.acceptBwait core b ord).memoryCanonical := .updCore h

theorem State.memoryCanonical.acceptBset {core b v wid} : (s.acceptBset core b v wid).memoryCanonical := .updGrove h

theorem execBarrierArrival_canonical {g bar} : OutcomeCanonical (execBarrierArrival g bar s) :=
  .ite (.next h) (.next (.setGrove h))

theorem State.memoryCanonical.watchStarts {dt} : (s.watchStarts dt).memoryCanonical := .ite (.updTrunk (.mk h)) (.mk h)

theorem State.memoryCanonical.clearBank {core ctx k} : (s.clearBank core ctx k).memoryCanonical :=
  .updCore (.mk (Memory.clear_wf _ _ (Memory.clear_wf _ _
    (State.memoryCanonical.ite h (.foldl h fun _ _ h => .captureChunk h)))))

theorem State.memoryCanonical.clearLanes {core} : (s.clearLanes core).memoryCanonical :=
  .mk (Memory.clear_wf _ _ (Memory.clear_wf _ _ h))

theorem State.memoryCanonical.startTask {g i slot t} : (s.startTask g i slot t).memoryCanonical :=
  .ite (.updTask (.updGrove (.updCore (.foldl h fun _ _ h => .clearBank h))))
    (.mk (State.memoryCanonical.enterHeld (.mk
    (State.memoryCanonical.clearLanes (.updTask (.updGrove (.updCore (.foldl h fun _ _ h => .clearBank h))))))))

theorem execTaskStart_canonical {g} : OutcomeCanonical (execTaskStart g s) := by
  rw [execTaskStart]
  split
  · exact .next h
  · exact .next (.startTask h)

theorem execTaskAging_canonical {g i} : OutcomeCanonical (execTaskAging g i s) := by
  rw [execTaskAging]
  split
  · exact .next h
  · exact .ite (.next (.updTask h)) (.next h)

theorem execLaunchStartTick_canonical {ctx} : OutcomeCanonical (execLaunchStartTick ctx s) :=
  .ite (.next h) (.next (.updTransit (.foldl (.setCtx h) fun _ _ h => .armTask h)))

theorem trackerFault_canonical {core} : OptionCanonical (s.trackerFault core) := .map fun _ => .jobFault h

theorem State.memoryCanonical.keepVotes {uid} : (s.keepVotes uid).memoryCanonical := .mk h

theorem State.memoryCanonical.sendResolve {g p kind} : (s.sendResolve g p kind).memoryCanonical := .sendTo h

theorem State.memoryCanonical.respond {qp cmd tag status detail result} :
    (s.respond qp cmd tag status detail result).memoryCanonical :=
  .mk h

theorem State.memoryCanonical.endSupervisor {core} : (s.endSupervisor core).memoryCanonical := by
  simp only [State.endSupervisor]
  split
  · exact h
  · exact .updCore (.updTrunk (.respond h))

theorem execImpreciseFault_canonical {core} : OutcomeCanonical (execImpreciseFault core s) := by
  simp only [execImpreciseFault]
  split
  · exact .next h
  · split
    · exact .next h
    · exact .next (.ite (.endSupervisor (.ite (.giveFrame (.setCore h)) (.setCore h)))
        (.ite (.giveFrame (.setCore h)) (.setCore h)))

theorem execExitDrainEnd_canonical {g i} : OutcomeCanonical (execExitDrainEnd g i s) := by
  rw [execExitDrainEnd]
  split
  · extract_lets core
    exact .next (.ite (.endSupervisor h) h)
  · split
    · exact .next h
    · split
      · exact .next h
      · split
        · rename_i e
          exact .next ((trackerFault_canonical h).get e)
        · extract_lets s1 s2 s3 s4
          have hs1 : s1.memoryCanonical := .updTask (.updCore h)
          have hs2 : s2.memoryCanonical := .leaveSpawn (.endKernel hs1)
          have hs3 : s3.memoryCanonical := .foldl hs2 fun _ _ h => .ite (.sendResolve h) h
          have hs4 : s4.memoryCanonical := .ite (.keepVotes hs3) hs3
          exact .next (.ite (.armHeld hs4) hs4)

theorem execRecordFree_canonical {g i} : OutcomeCanonical (execRecordFree g i s) := by
  rw [execRecordFree]
  split
  · exact .next h
  · exact .ite (.next (.sweepTriads (.freeRecord h))) (.next h)

theorem State.memoryCanonical.chooseTags {n l} : (s.chooseTags n l).2.memoryCanonical := by
  induction n with
  | zero => exact h
  | succ n ih =>
    simp only [State.chooseTags]
    split
    · exact .freeWord ih
    · exact ih

theorem execTagLeaseRefill_canonical {g k} : OutcomeCanonical (execTagLeaseRefill g k s) := by
  simp only [execTagLeaseRefill]
  split
  · split
    · exact .next h
    · exact .next (.updGrove (.chooseTags (.freeWord h)))
  · exact .next (.updGrove (.updPool h))

theorem execTagLeaseReturn_canonical {g k} : OutcomeCanonical (execTagLeaseReturn g k s) := by
  simp only [execTagLeaseReturn]
  split
  · exact .next h
  · exact .ite (.next h) (.next (.updGrove (.updPool h)))

theorem execReservedTagGrant_canonical {g k} : OutcomeCanonical (execReservedTagGrant g k s) := by
  simp only [execReservedTagGrant]
  split
  · split
    · exact .next h
    · exact .next (.updGrove h)
  · split
    · exact .next h
    · exact .next (.updGrove (.updGrove h))

/-! ### Save frames -/

theorem State.memoryCanonical.setMig {g dest idx code} : (s.setMig g dest idx code).memoryCanonical := .updGrove h

theorem State.memoryCanonical.moveSpawner {g d ctx wid} : (s.moveSpawner g d ctx wid).memoryCanonical :=
  .foldl (.mk h) fun _ _ h => .updGrove (.updGrove h)

theorem State.memoryCanonical.sendRecord {g i d idx t inst} : (s.sendRecord g i d idx t inst).memoryCanonical :=
  .sendTo (.updGrove (.updGrove (.moveSpawner (.withdrawOf h))))

theorem State.memoryCanonical.moveRecord {g i dest withdrawal inst ok} :
    (s.moveRecord g i dest withdrawal inst ok).memoryCanonical := by
  rw [State.moveRecord]
  split
  · exact .setMig h
  · split
    · exact .setMig h
    · split
      · split
        · exact .setMig h
        · split
          · exact .setMig h
          · exact .sendRecord (.setMig h)
      · split
        · exact .setMig h
        · split
          · exact .setMig h
          · exact .sendRecord (.setMig h)

theorem State.memoryCanonical.migrateRecord {g i dest withdrawal ok} :
    (s.migrateRecord g i dest withdrawal ok).memoryCanonical :=
  .moveRecord h

theorem State.memoryCanonical.leaveWithdrawn {g i} : (s.leaveWithdrawn g i).memoryCanonical := .ite h (.migrateRecord h)

theorem State.memoryCanonical.copyWords {src dst len} : (s.copyWords src dst len).memoryCanonical :=
  .mk (copyWords_wf _ _ _ (State.memoryCanonical.scrubLong h))

theorem State.memoryCanonical.frameUnits {ctx key} : (s.frameUnits ctx key).memoryCanonical :=
  .foldl h fun _ _ h => .ite (.snapWriteUnit h) h

theorem State.memoryCanonical.writeFrame {core key foot} : (s.writeFrame core key foot).memoryCanonical :=
  .mk (writeRun_wf _ _ (State.memoryCanonical.foldl (.copyWords (.mk (writeRun_wf _ _ (State.memoryCanonical.frameUnits h))))
    fun _ _ h => .copyWords h))

theorem State.memoryCanonical.readFrame {core key ctx foot} : (s.readFrame core key ctx foot).memoryCanonical :=
  .updCore (.copyWords (.foldl (.scrubLong (.scrubLong h)) fun _ _ h => .copyWords (.touchSp h)))

theorem State.memoryCanonical.stopVictim {g k} : (s.stopVictim g k).memoryCanonical := by
  rw [State.stopVictim]
  split
  · exact h
  · exact .ite h (.updTask (.updGrove (.updCore h)))

theorem execPreemptStart_canonical {g} : OutcomeCanonical (execPreemptStart g s) := by
  rw [execPreemptStart]
  split
  · exact .next (.stopVictim h)
  · split
    · exact .next h
    · exact .next (.stopVictim (.updGrove h))

theorem State.memoryCanonical.dropSpill {g i core f} : (s.dropSpill g i core f).memoryCanonical :=
  .updTask (.giveFrame (.updCore h))

theorem execSpillComplete_canonical {g i} : OutcomeCanonical (execSpillComplete g i s) := by
  simp only [execSpillComplete]
  split
  · exact .next h
  · split
    · exact .next h
    · split
      · split
        · rename_i e
          exact .next ((trackerFault_canonical h).get e)
        · exact .next (.updCore h)
      · split
        · exact .next (.dropSpill h)
        · exact .next (.leaveWithdrawn (.updTask (.updCore (.writeFrame h))))

/-! ### Containment -/

theorem State.memoryCanonical.failRecord {g i t} : (s.failRecord g i t).memoryCanonical := by
  simp only [State.failRecord]
  split
  · exact h
  · exact .updTask (.updGrove (.withdrawOf (.faultTile h)))

theorem State.memoryCanonical.dropVotes {ctx wid} : (s.dropVotes ctx wid).memoryCanonical := .mk h

theorem State.memoryCanonical.triadFail {x} : (s.triadFail x).memoryCanonical := by
  simp only [State.triadFail]
  split
  · exact .stopCtx (.dropVotes h)
  · split
    · exact .stopCtx (.dropVotes h)
    · split
      · exact .stopCtx (.dropVotes h)
      · exact .foldl (.mk (State.memoryCanonical.enterRecord (.enterRecord (.enterRecord (.dropVotes h))))) fun _ _ h => .evict
          (.freeHeld h)

theorem State.memoryCanonical.triadFault {inst} : (s.triadFault inst).memoryCanonical := by
  simp only [State.triadFault]
  split
  · exact h
  · exact .ite (.triadFail (.mk h)) (.mk h)

theorem State.memoryCanonical.answerMigrate {g i} : (s.answerMigrate g i).memoryCanonical :=
  .updTrunk (.foldl h fun _ _ h => .respond h)

theorem State.memoryCanonical.endMigrations {ctx} : (s.endMigrations ctx).memoryCanonical := by
  rw [State.endMigrations]
  refine .foldl h fun s a h => ?_
  split
  · exact .answerMigrate (.setMig h)
  · exact h

theorem State.memoryCanonical.triadMoved {inst g} : (s.triadMoved inst g).memoryCanonical := .mk h

theorem execMigrationArrive_canonical {k} : OutcomeCanonical (execMigrationArrive k s) := by
  rw [execMigrationArrive]
  split
  · exact .next h
  · split
    · split
      · exact .next h
      · extract_lets key
        split
        · exact .next (.dropPkt h)
        · extract_lets s1 s2 s3 s4
          have hs1 : s1.memoryCanonical := .updGrove (.dropPkt h)
          have hs2 : s2.memoryCanonical := .ite (.installTrigs hs1) hs1
          have hs3 : s3.memoryCanonical := .ite (.triadMoved hs2) hs2
          have hs4 : s4.memoryCanonical := .ite hs3 (.settleReady (.sendRecSubs hs3))
          exact .next (.leaveWithdrawn (.answerMigrate (.setMig hs4)))
    · exact .next h

theorem State.memoryCanonical.discardTentative {uid} : (s.discardTentative uid).memoryCanonical :=
  .foldl h fun _ _ h => .updGrove (.ite (.sendResolve h) h)

theorem State.memoryCanonical.replay {g i} : (s.replay g i).memoryCanonical :=
  .ite (.armTask (.installTrigs (.updTask h))) (.moveRecord (.updTask (.updTask h)))

theorem execContainmentComplete_canonical {g i} : OutcomeCanonical (execContainmentComplete g i s) := by
  rw [execContainmentComplete]
  split
  · exact .next h
  · extract_lets f again s1 s2 s3 s4 s5 s6 s7
    have hs1 : s1.memoryCanonical := .freeHeld (.discardTentative h)
    have hs2 : s2.memoryCanonical := .faultTileAt hs1
    have hs3 : s3.memoryCanonical := .updGrove (.updCore hs2)
    have hs4 : s4.memoryCanonical := .leaveSpawn (.withdrawOf (.endKernel hs3))
    have hs5 : s5.memoryCanonical := .updTask hs4
    have hs6 : s6.memoryCanonical := .updTask hs5
    have hs7 : s7.memoryCanonical := .ite (.triadFault hs6) hs6
    exact .next (.ite (.replay hs5) (.ite hs7 (.freeRecord hs7)))

/-! ### The gallery -/

theorem State.memoryCanonical.sendRim {ctx name kind src rim express data wid} :
    (s.sendRim ctx name kind src rim express data wid).memoryCanonical :=
  .send h

theorem State.memoryCanonical.sendPub {g p inj} : (s.sendPub g p inj).memoryCanonical := .foldl h fun _ _ h => .sendTo h

theorem State.memoryCanonical.noteTile {p ver} : (s.noteTile p ver).memoryCanonical := .updCtx h

theorem State.memoryCanonical.pubAnswered {g id ok ver} : (s.pubAnswered g id ok ver).memoryCanonical := by
  rw [State.pubAnswered]
  split
  · exact h
  · extract_lets s1 s2 s3
    have hs1 : s1.memoryCanonical := .ite (.noteTile h) h
    have hs2 : s2.memoryCanonical := by
      unfold s2
      split
      · exact .updGrove hs1
      · exact hs1
    have hs3 : s3.memoryCanonical := .updGrove hs2
    split
    · exact .updGrove hs1
    · split
      · exact .updGrove hs2
      · split
        · exact .updGrove (.sendResolve hs2)
        · exact .ite (.updGrove (.sendResolve hs2)) (.ite (.updGrove hs2) (.ite (.sendResolve hs3) hs3))

theorem State.memoryCanonical.pubPayload {p} : (s.pubPayload p).2.memoryCanonical := by
  rw [State.pubPayload]
  split
  · exact .readRegion h
  · exact h

theorem State.memoryCanonical.pubReadEnd {g p len} : (s.pubReadEnd g p len).memoryCanonical := by
  simp only [State.pubReadEnd]
  split
  · exact h
  · exact .updCore h

theorem State.memoryCanonical.admitLeg {g k p} : (s.admitLeg g k p).memoryCanonical := .sendBack (.updGrove h)

theorem execPubAdmit_canonical {g k} : OutcomeCanonical (execPubAdmit g k s) := by
  rw [execPubAdmit]
  split
  · split
    · exact .next h
    · exact .next (.admitLeg h)
  · split
    · exact .next h
    · exact .ite (.next h) (.next (.sendPub (.pubReadEnd (.updGrove (.pubPayload h)))))

theorem execAdmitWindowRoll_canonical {g} : OutcomeCanonical (execAdmitWindowRoll g s) :=
  .ite (.next h) (.next (.updGrove h))

theorem execPubRetry_canonical {g k} : OutcomeCanonical (execPubRetry g k s) := by
  rw [execPubRetry]
  split
  · exact .next h
  · exact .ite (.next h) (.next (.sendPub (.updGrove h)))

theorem State.memoryCanonical.sendChunk {g v i far} : (s.sendChunk g v i far).memoryCanonical :=
  .foldl (.send h) fun _ _ h => .emit h

theorem State.memoryCanonical.serveOne {g order e} : (s.serveOne g order e).memoryCanonical := by
  rw [State.serveOne]
  split
  · exact h
  · split
    · exact .updGrove h
    · exact h
    · exact .updGrove h

theorem State.memoryCanonical.serveVersion {g order} : (s.serveVersion g order).memoryCanonical := by
  simp only [State.serveVersion]
  split
  · exact h
  · split
    · exact .foldl h fun _ _ h => .serveOne h
    · exact .ite (.foldl h fun _ _ h => .serveOne h) (.foldl (.foldl h fun _ _ h => .serveOne h) fun _ _ h => .sendChunk h)

theorem State.memoryCanonical.serveRoot {g} : (s.serveRoot g).memoryCanonical :=
  .foldl h fun _ _ h => .ite h (.serveVersion h)

theorem State.memoryCanonical.serveAll : s.serveAll.memoryCanonical := .foldl h fun _ _ h => .serveRoot h

theorem State.memoryCanonical.sendWriteback {g v ver} : (s.sendWriteback g v ver).memoryCanonical := by
  rw [State.sendWriteback]
  split
  · split
    · exact .traffic (.sendRim h)
    · exact h
  · exact h

theorem State.memoryCanonical.giveVersion {g v ver} : (s.giveVersion g v ver).memoryCanonical :=
  .serveRoot (.sendWriteback (.updGrove h))

theorem State.memoryCanonical.answerPub {g p id ok ver} : (s.answerPub g p id ok ver).memoryCanonical :=
  .sendBack (.ite h (.updGrove h))

theorem State.memoryCanonical.acceptAtRoot {g p id tent keep seq n valid} :
    (s.acceptAtRoot g p id tent keep seq n valid).memoryCanonical := by
  unfold State.acceptAtRoot
  extract_lets sib data s1 gr rim old
  have hs1 : s1.memoryCanonical := .mk h
  split
  · exact .answerPub hs1
  · split
    · exact .answerPub hs1
    · split
      · exact .answerPub hs1
      · exact .ite (.answerPub (.updGrove (.traffic (.setGrove hs1))))
          (.answerPub (.giveVersion (.updGrove (.traffic (.setGrove hs1)))))

theorem State.memoryCanonical.voteChunk {g k p id copy chunk n keep seq valid} :
    (s.voteChunk g k p id copy chunk n keep seq valid).memoryCanonical := by
  simp only [State.voteChunk]
  split
  · exact .ite (.updGrove (.dropPkt h)) (.answerPub (.updGrove (.dropPkt h)))
  · split
    · exact .answerPub (.mk h)
    · exact .ite (.updGrove (.setGrove (.dropPkt (.traffic h)))) (.answerPub (.updGrove (.setGrove (.dropPkt (.traffic h)))))

theorem execRootAccept_canonical {g k} : OutcomeCanonical (execRootAccept g k s) := by
  rw [execRootAccept]
  split
  · exact .next h
  · split
    · exact .next h
    · split
      · exact .ite (.next (.voteChunk h)) (.next (.acceptAtRoot h))
      · exact .next h

theorem State.memoryCanonical.rootTile {g ctx kind name ver wid task detail} :
    (s.rootTile g ctx kind name ver wid task detail).memoryCanonical :=
  .faultTile h

theorem State.memoryCanonical.forwardChunk {g v chunk data} : (s.forwardChunk g v chunk data).memoryCanonical :=
  .ite (.giveVersion h) (.sendChunk (.sendWriteback (.updGrove h)))

theorem execTriadVote_canonical {g k} : OutcomeCanonical (execTriadVote g k s) := by
  simp only [execTriadVote]
  split
  · exact .next h
  · split
    · split
      · exact .next (.updGrove (.foldl h fun _ _ h => .ite h (.rootTile h)))
      · split
        · exact .next (.forwardChunk h)
        · split
          · exact .next (.sweepTriads (.triadFail (.rootTile (.forwardChunk (.updGrove h)))))
          · exact .next (.rootTile (.forwardChunk (.updGrove h)))
    · exact .ite (.next h) (.ite (.next (.updGrove h)) (.ite (.next (.updGrove h)) (.next h)))

theorem execCommit_canonical {g k} : OutcomeCanonical (execCommit g k s) := by
  simp only [execCommit]
  split
  · exact .next h
  · split
    · split
      · exact .next h
      · refine .next ?_
        refine .sendBack ?_
        split
        · exact .giveVersion (.dropPkt h)
        · exact .dropPkt h
    · exact .next h

theorem execDiscard_canonical {g k} : OutcomeCanonical (execDiscard g k s) := by
  rw [execDiscard]
  split
  · exact .next h
  · split
    · exact .ite (.next h) (.next (.updGrove (.dropPkt h)))
    · exact .next h

theorem State.memoryCanonical.oweVersion {g r order} : (s.oweVersion g r order).memoryCanonical :=
  .serveVersion (.updGrove h)

theorem State.memoryCanonical.askFetch {g ctx name ver} : (s.askFetch g ctx name ver).memoryCanonical := by
  rw [State.askFetch]
  split
  · split
    · exact h
    · split
      · exact .sendRim (.updGrove h)
      · exact h
  · split
    · exact .sendRim (.traffic (.setGrove h))
    · exact h

theorem State.memoryCanonical.evicted {r name} : (s.evicted r name).memoryCanonical := by
  rw [State.evicted]
  split
  · exact h
  · exact .failRecord h

theorem State.memoryCanonical.serveName {g r name} : (s.serveName g r name).memoryCanonical := by
  rw [State.serveName]
  split
  · split
    · exact .oweVersion h
    · exact .ite h (.ite (.askFetch h) (.evicted h))
    · exact .ite h (.evicted h)
  · split
    · split
      · exact .ite h (.oweVersion h)
      · exact .ite (.askFetch h) h
    · exact .ite (.askFetch h) h

theorem execSubRegister_canonical {g k} : OutcomeCanonical (execSubRegister g k s) := by
  rw [execSubRegister]
  split
  · exact .next h
  · split
    · exact .ite (.next h) (.next (.foldl (.ite (.updGrove (.traffic (.dropPkt h)))
        (.updGrove (.updGrove (.traffic (.dropPkt h))))) fun _ _ h => .serveName h))
    · exact .next h

theorem execLandingReserve_canonical {g} : OutcomeCanonical (execLandingReserve g s) := by
  simp only [execLandingReserve]
  split
  · exact .next h
  · split
    · exact .next h
    · exact .next (.foldl (.setGrove (.setGrove h)) fun _ _ h => .sendTo h)

theorem State.memoryCanonical.lateTile {at_ ctx name ver inj wid task bound cross} :
    (s.lateTile at_ ctx name ver inj wid task bound cross).memoryCanonical :=
  .rootTile h

theorem State.memoryCanonical.landed {g root x l express promise} : (s.landed g root x l express promise).memoryCanonical := by
  simp only [State.landed]
  split
  · exact .settleReady (.updTask (.updGrove
      (.ite (.updTask (.updGrove (.ite (.lateTile (.sendBack h)) (.sendBack h))))
      (.updGrove (.ite (.lateTile (.sendBack h)) (.sendBack h))))))
  · exact .ite (.updTask (.updGrove (.ite (.lateTile (.sendBack h)) (.sendBack h))))
      (.updGrove (.ite (.lateTile (.sendBack h)) (.sendBack h)))

theorem execChunkLand_canonical {g k} : OutcomeCanonical (execChunkLand g k s) := by
  rw [execChunkLand]
  split
  · exact .next h
  · split
    · split
      · exact .next h
      · extract_lets s1 s2
        have hs1 : s1.memoryCanonical := .dropPkt h
        have hs2 : s2.memoryCanonical := by
          refine .foldl hs1 fun s a h => ?_
          extract_lets watch under x s3
          have hs3 : s3.memoryCanonical := .updGrove h
          split
          · exact h
          · split
            · exact .ite (.landed hs3) hs3
            · exact hs3
        exact .next (.ite hs2 (.foldl hs2 fun _ _ h => .send h))
    · exact .next h

theorem execLandingAcknowledgement_canonical {g k} : OutcomeCanonical (execLandingAcknowledgement g k s) := by
  rw [execLandingAcknowledgement]
  split
  · exact .next h
  · split
    · exact .ite (.next h) (.next (.updGrove (.dropPkt h)))
    · exact .next h

theorem execDeliveryAckTimeout_canonical {g k} : OutcomeCanonical (execDeliveryAckTimeout g k s) := by
  simp only [execDeliveryAckTimeout]
  split
  · exact .next h
  · split
    · exact .next h
    · exact .next (.lateTile (.updGrove h))

theorem execVersionUnpin_canonical {g k} : OutcomeCanonical (execVersionUnpin g k s) := by
  rw [execVersionUnpin]
  split
  · exact .next h
  · split
    · exact .ite (.next h) (.next (.updGrove (.dropPkt h)))
    · exact .next h

theorem execNameqQuery_canonical {g k} : OutcomeCanonical (execNameqQuery g k s) := by
  rw [execNameqQuery]
  split
  · exact .next h
  · split
    · exact .ite (.next h) (.next (.sendBack (.dropPkt h)))
    · exact .next h

theorem execWritebackComplete_canonical {g k} : OutcomeCanonical (execWritebackComplete g k s) := by
  rw [execWritebackComplete]
  split
  · exact .next h
  · split
    · exact .ite (.next h) (.next (.updGrove (.dropPkt h)))
    · exact .next h

theorem State.memoryCanonical.nameqAnswered {g id ans} : (s.nameqAnswered g id ans).memoryCanonical :=
  .updGrove (.foldl h fun _ _ h => .updCore h)

theorem State.memoryCanonical.logPkt {p q} : (s.logPkt p q).memoryCanonical := .ite h (.logOn h)

theorem State.memoryCanonical.leaveModule {k p} : (s.leaveModule k p).memoryCanonical :=
  .mk (State.memoryCanonical.dropPkt h)

theorem State.memoryCanonical.flushLinks {ctx} : (s.flushLinks ctx).memoryCanonical := .mk h

theorem State.memoryCanonical.packetIn {m dest port p} : (s.packetIn m dest port p).memoryCanonical :=
  .ite h (.send (.logOn h))

theorem State.memoryCanonical.moveOne {k p} : (s.moveOne k p).memoryCanonical := by
  simp only [State.moveOne]
  split
  · exact .leaveModule h
  · split
    · exact .ite (.mk (State.memoryCanonical.logPkt h)) (.mk (State.memoryCanonical.setGrove (.logPkt h)))
    · exact .mk (State.memoryCanonical.logPkt h)

theorem execSubWithdraw_canonical {g k} : OutcomeCanonical (execSubWithdraw g k s) := by
  rw [execSubWithdraw]
  split
  · exact .next h
  · split
    · exact .ite (.next h) (.ite (.next (.updGrove (.traffic (.dropPkt h))))
        (.ite (.ite (.next (.leaveModule h))
        (.ite (.next (.mk (State.memoryCanonical.logPkt h)))
        (.next (.ite (.mk (State.memoryCanonical.withdrawAt (.logPkt h))) (.endReg (.dropPkt (.withdrawAt (.logPkt h))))))))
        (.next h)))
    · exact .next h

theorem State.memoryCanonical.takeSimple {k p} : (s.takeSimple k p).memoryCanonical := by
  rw [State.takeSimple]
  split
  · exact .ite (.pubAnswered (.dropPkt h)) (.updRim (.dropPkt h))
  · exact .updGrove (.dropPkt h)
  · exact .nameqAnswered (.dropPkt h)
  · exact .updGrove (.dropPkt h)
  · exact .updRim (.dropPkt h)
  · exact .updRim (.dropPkt h)
  · exact h

theorem execPacketForward_canonical {g k} : OutcomeCanonical (execPacketForward g k s) := by
  rw [execPacketForward]
  split
  · exact .next h
  · split
    · exact .next h
    · split
      · exact .next h
      · exact .ite (.next (.takeSimple h)) (.ite (.next (.moveOne h)) (.next h))

/-! ### Receives and halos -/

theorem cardX_canonical {i ch a b publishes region kind} : OutcomeCanonical (cardX i s ch a b publishes region kind) := by
  simp only [cardX]
  refine runOp_canonical h fun c => ?_
  split
  · trivial
  · split
    · rename_i e
      exact cardWaits_canonical e
    · exact .ite trivial (.ok (.updCore h))

theorem execPub_canonical {a b p ch} : OutcomeCanonical (execPub a b p ch s) := cardX_canonical h

theorem execRecv_canonical {a b p ch} : OutcomeCanonical (execRecv a b p ch s) := cardX_canonical h

theorem execRecva_canonical {a b p sat ch} : OutcomeCanonical (execRecva a b p sat ch s) := cardX_canonical h

theorem execHalo_canonical {a b p ch} : OutcomeCanonical (execHalo a b p ch s) := cardX_canonical h

theorem execHaloR_canonical {a b p ch} : OutcomeCanonical (execHaloR a b p ch s) := cardX_canonical h

theorem nameX_canonical {i ch b mask regs} : OutcomeCanonical (nameX i s ch b mask regs) := xIssue_canonical h

theorem execSub_canonical {d b p ch} : OutcomeCanonical (execSub d b p ch s) := nameX_canonical h

theorem execUnsub_canonical {d b p ch} : OutcomeCanonical (execUnsub d b p ch s) := nameX_canonical h

theorem execPeek_canonical {d b p ch} : OutcomeCanonical (execPeek d b p ch s) := nameX_canonical h

theorem execNameq_canonical {d b p ch} : OutcomeCanonical (execNameq d b p ch s) := by
  rw [execNameq]
  exact runOp_canonical h fun _ => .ite trivial (.ok (.updCore (.writeLater h)))

theorem execNameqN_canonical {d b p ch} : OutcomeCanonical (execNameqN d b p ch s) := by
  rw [execNameqN]
  exact runOp_canonical h fun _ => .ite trivial (.ok (.writeReg (.writeReg h)))

theorem State.memoryCanonical.failCard {core job kind name} : (s.failCard core job kind name).memoryCanonical :=
  .xeFault (.updCore h)

theorem State.memoryCanonical.acceptPubOp {core ch x} : (s.acceptPubOp core ch x).memoryCanonical := by
  simp only [State.acceptPubOp]
  split
  · exact .ite (.acceptPub h) (.failCard h)
  · exact h

theorem State.memoryCanonical.acceptSub {core ch n mask} : (s.acceptSub core ch n mask).memoryCanonical :=
  .ite (.xeFault h) (.ite h (.ite (.xeFault h) (.updGrove h)))

theorem State.memoryCanonical.acceptUnsub {core n mask} : (s.acceptUnsub core n mask).memoryCanonical := by
  rw [State.acceptUnsub]
  split
  · exact .withdraw h
  · exact h

theorem State.memoryCanonical.acceptRecv {core ch x} : (s.acceptRecv core ch x).memoryCanonical := by
  rw [State.acceptRecv]
  split
  · exact h
  · exact .ite h (.failCard h)

theorem State.memoryCanonical.acceptNameq {core x} : (s.acceptNameq core x).memoryCanonical := by
  simp only [State.acceptNameq]
  split
  · exact h
  · exact .sendTo h

theorem State.memoryCanonical.registerHalo {core ch n} : (s.registerHalo core ch n).memoryCanonical := by
  simp only [State.registerHalo]
  refine .updGrove ?_
  refine .foldl_fst h fun s a h => ?_
  split
  · exact h
  · exact .updGrove h

theorem State.memoryCanonical.publishFaces {core ch x n base} : (s.publishFaces core ch x n base).memoryCanonical :=
  .foldl h fun _ _ h => .acceptPub h

theorem State.memoryCanonical.acceptHalo {core ch x} : (s.acceptHalo core ch x).memoryCanonical := by
  simp only [State.acceptHalo]
  split
  · split
    · exact .failCard h
    · split
      · exact .ite (.publishFaces h) (.publishFaces (.registerHalo (.withdrawOf h)))
      · exact .ite (.failCard h) (.publishFaces (.registerHalo h))
  · exact h

theorem State.memoryCanonical.acceptHaloR {core ch x} : (s.acceptHaloR core ch x).memoryCanonical := by
  rw [State.acceptHaloR]
  split
  · exact h
  · exact .ite h (.failCard h)

theorem State.memoryCanonical.recvaRows {core r kbank sat valid data} :
    (s.recvaRows core r kbank sat valid data).2.2.2.memoryCanonical := by
  refine List.foldlRecOn (motive := fun a : List (Nat × Payload) × Flags × Bool × State => a.2.2.2.memoryCanonical) _ _ h
    fun acc hacc e _ => ?_
  dsimp only
  split
  · exact hacc
  · refine List.foldlRecOn (motive := fun a : List (Nat × Payload) × Flags × Bool × State => a.2.2.2.memoryCanonical) _ _
      (.readMem hacc) fun acc h j _ => ?_
    split
    · exact h
    · exact h

theorem execRecvDeliver_canonical {core k} : OutcomeCanonical (execRecvDeliver core k s) := by
  simp only [execRecvDeliver]
  split
  · exact .next h
  · split
    · split
      · exact .next h
      · split
        · exact .next (.ite (.jobFault (.serveAll (.updGrove (.updCore (.writeRows h)))))
            (.serveAll (.updGrove (.updCore (.writeRows h)))))
        · exact .next (.serveAll (.updGrove (.updCore (.writeRows h))))
        · exact .next h
    · split
      · exact .next h
      · split
        · split
          · exact .next h
          · split
            · exact .next h
            · exact .ite (.next h) (.ite (.next (.updCore (.recvaRows h))) (.next (.updCore h)))
        · split
          · exact .next h
          · split
            · exact .next h
            · exact .next (.updCore h)
        · exact .next h

/-! ### Collectives -/

theorem execColl_canonical {d a b p ch} : OutcomeCanonical (execColl d a b p ch s) := by
  simp only [execColl]
  refine runOp_canonical h fun c => ?_
  split
  · trivial
  · split
    · trivial
    · split
      · rename_i e
        exact cardWaits_canonical e
      · exact .ok (.updCore h)

theorem execColw_canonical {d p ch} : OutcomeCanonical (execColw d p ch s) := by
  rw [execColw]
  exact runOp_canonical h fun _ => .ite trivial (.ok (.updCore (.writeLater h)))

theorem execColt_canonical {d p ch} : OutcomeCanonical (execColt d p ch s) := xIssue_canonical h

theorem State.memoryCanonical.acceptColl {core ch job} : (s.acceptColl core ch job).memoryCanonical := .updGrove h

theorem State.memoryCanonical.sendPart {core j ch n e i seg pos data join} :
    (s.sendPart core j ch n e i seg pos data join).memoryCanonical :=
  .sendTo h

theorem execCollActivate_canonical {core cls} : OutcomeCanonical (execCollActivate core cls s) := by
  simp only [execCollActivate]
  split
  · split
    · exact .next (.updGrove h)
    · split
      · exact .next (.foldl (.updCore (.updGrove h)) fun _ _ h => .sendPart h)
      · exact .next (.updGrove h)
  · exact .next h

theorem State.memoryCanonical.readPart {core e src p} : (s.readPart core e src p).2.memoryCanonical :=
  .ite_snd (.readMem h) (.foldl_snd h fun _ _ h => .readMem h)

theorem State.memoryCanonical.sendNext {core cls overtakes j ch n p} :
    (s.sendNext core cls overtakes j ch n p).memoryCanonical :=
  .sendPart (.updGrove (.updCore (.readPart h)))

theorem State.memoryCanonical.noteColl {core job k v} : (s.noteColl core job k v).memoryCanonical := .updCore h

theorem State.memoryCanonical.leg {g ctx name core kind express data} :
    (s.leg g ctx name core kind express data).memoryCanonical :=
  .updGrove h

theorem State.memoryCanonical.legLate {at_ p core job ch member round seg} :
    (s.legLate at_ p core job ch member round seg).memoryCanonical :=
  .ite h (.faultTile (.ite (.leg h) (.noteColl h)))

theorem State.memoryCanonical.writeResult {core e i dst seg off row data} :
    (s.writeResult core e i dst seg off row data).memoryCanonical := by
  simp only [State.writeResult]
  split
  · exact .ite h (.writeSp h)
  · exact .ite h (.writeSp h)
  · exact .foldl h fun _ _ h => .ite h (.writeSp h)
  · exact .ite h (.writeSp h)

theorem State.memoryCanonical.takeResult {core p k job seg off flags fault row overtakes cls} :
    (s.takeResult core p k job seg off flags fault row overtakes cls).memoryCanonical := by
  rw [State.takeResult]
  split
  · exact .updGrove (.dropPkt h)
  · split
    · extract_lets e i s1 piece s2
      have hs1 : s1.memoryCanonical := .legLate (.updGrove (.dropPkt h))
      have hs2 : s2.memoryCanonical := .writeResult hs1
      split
      · exact .noteColl hs1
      · exact .noteColl hs1
      · exact .noteColl hs1
      · exact .noteColl hs1
      · exact .noteColl hs1
      · exact .noteColl hs1
      · exact .ite hs1 (.updCore hs2)
    · exact .updGrove (.dropPkt h)

theorem execCollSegmentStart_canonical {core cls} : OutcomeCanonical (execCollSegmentStart core cls s) := by
  simp only [execCollSegmentStart]
  split
  · split
    · exact .next (.takeResult h)
    · exact .next h
  · split
    · exact .next h
    · exact .ite (.next h) (.next (.sendNext h))

theorem State.memoryCanonical.answerColl {g r core job off flags fault row data} :
    (s.answerColl g r core job off flags fault row data).memoryCanonical :=
  .leg h

theorem State.memoryCanonical.tellRow {g r m core job} : (s.tellRow g r m core job).memoryCanonical := by
  rw [State.tellRow]
  split
  · exact .answerColl h
  · exact .ite (.answerColl h) h

theorem State.memoryCanonical.serveMember {g r x} : (s.serveMember g r x).memoryCanonical := by
  simp only [State.serveMember]
  split
  · exact .ite (.ite (.answerColl (.foldl (.tellRow h) fun _ _ h => .answerColl h))
      (.foldl (.tellRow h) fun _ _ h => .answerColl h)) (.tellRow h)
  · exact .ite (.foldl h fun _ _ h => .answerColl h) h
  · split
    · exact .answerColl h
    · exact h

theorem State.memoryCanonical.finishRound {g} : (s.finishRound g).memoryCanonical := by
  simp only [State.finishRound]
  split
  · exact h
  · exact .foldl (.updGrove h) fun _ _ h => .serveMember h

theorem State.memoryCanonical.failMember {g p core job seg kind} : (s.failMember g p core job seg kind).memoryCanonical :=
  .leg h

theorem State.memoryCanonical.toRegs {r : CollRound} {m : Nat} {f : State → Nat → Nat → State}
    (hf : ∀ (s : State) a b, s.memoryCanonical → (f s a b).memoryCanonical) :
    (s.toRegs r m f).memoryCanonical :=
  .foldl h fun _ _ h => hf _ _ _ h

theorem State.memoryCanonical.placeRow {g m core job r data} : (s.placeRow g r m core job data).memoryCanonical := by
  unfold State.placeRow
  exact .toRegs (.tellRow (.updGrove h)) fun _ _ _ h => .ite (.answerColl (.ite (.answerColl h) h)) (.ite (.answerColl h) h)

theorem State.memoryCanonical.addPart {g m core job pos r data} : (s.addPart g r m core job pos data).memoryCanonical := by
  unfold State.addPart
  refine .ite (.ite (.tellRow h) h) ?_
  split
  · exact .placeRow h
  · exact .toRegs (.updGrove h) fun _ _ _ h => .answerColl h
  · exact .foldl (.updGrove h) fun _ _ h => .finishRound h

theorem State.memoryCanonical.fixDesc {g p r seg desc} : (s.fixDesc g p r seg desc).1.memoryCanonical :=
  .updGrove (.foldl h fun _ _ h => .failMember h)

theorem State.memoryCanonical.takePart {g k p core job ch m round seg pos desc join} :
    (s.takePart g k p core job ch m round seg pos desc join).memoryCanonical := by
  rw [State.takePart]
  split
  · exact .failMember (.dropPkt h)
  · extract_lets r x r2
    split
    · exact .updGrove (.mk h)
    · extract_lets s1 s2 s3 a1
      have hs1 : s1.memoryCanonical := .setGrove (.dropPkt h)
      have hs2 : s2.memoryCanonical := .ite hs1 (.legLate hs1)
      have hs3 : s3.memoryCanonical := .ite hs2 (.updGrove hs2)
      have ha1 : a1.1.memoryCanonical := .ite_fst (.fixDesc hs3) hs3
      exact .ite (.failMember hs3) (.ite (.serveMember (.updGrove hs3)) (.addPart ha1))

theorem execCollContribution_canonical {g k} : OutcomeCanonical (execCollContribution g k s) := by
  rw [execCollContribution]
  split
  · exact .next h
  · split
    · exact .ite (.next (.takePart h)) (.next h)
    · exact .next h

theorem execRetentionExpire_canonical {g k} : OutcomeCanonical (execRetentionExpire g k s) := by
  rw [execRetentionExpire]
  split
  · exact .ite (.next (.updGrove h)) (.next h)
  · split
    · exact .ite (.next (.updGrove h)) (.next h)
    · exact .next h

theorem execCollComplete_canonical {core k} : OutcomeCanonical (execCollComplete core k s) := by
  simp only [execCollComplete]
  split
  · exact .next h
  · split
    · split
      · exact .next h
      · refine .next ?_
        split
        · exact .jobFaultKind (.updGrove (.updCore h))
        · exact .jobFaultKind (.updGrove (.updCore h))
        · exact .updGrove (.updCore h)
    · exact .next h

/-! ### Snapshots -/

theorem execSnap_canonical {a p} : OutcomeCanonical (execSnap a p s) := xIssue_canonical h

theorem execSnrd_canonical {d p} : OutcomeCanonical (execSnrd d p s) := xIssue_canonical h

theorem execSnrdRb_canonical {d p} : OutcomeCanonical (execSnrdRb d p s) := xIssue_canonical h

theorem State.memoryCanonical.setSn {ctx code inprog} : (s.setSn ctx code inprog).memoryCanonical := .updCtx h

theorem State.memoryCanonical.setLeafSnap {key v} : (s.setLeafSnap key v).memoryCanonical := by
  rw [State.setLeafSnap]
  split
  · exact h
  · exact .mk (storeWord_wf _ _ h)

theorem State.memoryCanonical.shootCtx {ctx} : (s.shootCtx ctx).memoryCanonical := .mk h

theorem State.memoryCanonical.updSnap {ctx f} : (s.updSnap ctx f).memoryCanonical := .mk h

theorem State.memoryCanonical.sendLanterns {ctx id full} : (s.sendLanterns ctx id full).memoryCanonical :=
  .mk (State.memoryCanonical.flushLinks h)

theorem State.memoryCanonical.beforeLantern {ctx node} : (s.beforeLantern ctx node).memoryCanonical := .mk h

theorem State.memoryCanonical.recordRim {ctx id full} : (s.recordRim ctx id full).memoryCanonical :=
  .sendLanterns (.updSnap (.beforeLantern (.shootCtx
    (.mk (State.memoryCanonical.foldl (.foldl h fun _ _ h => .ite (.setLeafSnap h) h) fun _ _ h => .ite (.mk h) h)))))

theorem State.memoryCanonical.openNew {ctx id full} : (s.openNew ctx id full).memoryCanonical :=
  .recordRim (.mk (State.memoryCanonical.setSn h))

theorem State.memoryCanonical.startSnap {ctx full bad} : (s.startSnap ctx full bad).memoryCanonical :=
  .ite (.setSn h) (.ite (.setSn h) (.ite (.setSn h) (.openNew h)))

theorem State.memoryCanonical.acceptSnap {w} : (s.acceptSnap w).memoryCanonical := .startSnap h

theorem State.memoryCanonical.writeMoving {core id} : (s.writeMoving core id).memoryCanonical := by
  rw [State.writeMoving]
  split
  · exact h
  · split
    · refine .foldl h fun s a h => ?_
      extract_lets s1 ctx
      have hs1 : s1.memoryCanonical := by
        refine .foldl h fun s a h => ?_
        split
        · split
          · exact .ite h (.readRunOn h)
          · exact h
        · exact h
      split
      · exact hs1
      · split
        · exact hs1
        · extract_lets a2
          exact .wrotePiece (.writeSp hs1)
    · exact h

theorem State.memoryCanonical.workOff {core j} : (s.workOff core j).memoryCanonical := by
  simp only [State.workOff]
  split
  · exact .updCore h
  · split
    · exact .foldl h fun _ _ h => .matRow h
    · exact .updCore (.writeRows (.foldl h fun _ _ h => .matRow h))
  · split
    · exact h
    · refine .updCore ?_
      refine .foldl h fun s a h => ?_
      split
      · exact .writeMoving (.ite h (.beginRun h))
      · exact h
  · exact .updCore (.writeRows h)

theorem State.memoryCanonical.recordGrove {ctx g} : (s.recordGrove ctx g).memoryCanonical :=
  .updSnap (.updGrove (.beforeLantern (.foldl (.foldl h fun _ _ h => .updCore h) fun _ _ h => .updCore h)))

theorem State.memoryCanonical.closeChan {ctx node chan} : (s.closeChan ctx node chan).memoryCanonical := .updSnap h

theorem execLanternArrive_canonical {ctx node chan} : OutcomeCanonical (execLanternArrive ctx node chan s) :=
  .ite (.next h) (.ite (.next (.closeChan h)) (.ite (.next (.closeChan (.updSnap (.recordGrove h)))) (.next (.updSnap h))))

theorem State.memoryCanonical.lanternIn {port ctx id vc full} : (s.lanternIn port ctx id vc full).memoryCanonical := by
  rw [State.lanternIn]
  split
  · exact .ite (.closeChan (.ite (.openNew h) h)) (.ite (.openNew h) h)
  · exact .ite (.openNew h) h

theorem execChunkWriteout_canonical {ctx core chunk} : OutcomeCanonical (execChunkWriteout ctx core chunk s) := by
  rw [execChunkWriteout]
  split
  · exact .next h
  · exact .ite (.next (.captureChunk h)) (.next h)

theorem execPageWriteout_canonical {ctx va} : OutcomeCanonical (execPageWriteout ctx va s) := by
  simp only [execPageWriteout]
  split
  · exact .next h
  · split
    · exact .ite (.next (.mk (State.memoryCanonical.capturePage h))) (.next h)
    · split
      · exact .ite (.next (.setLeafSnap (.capturePage h))) (.next h)
      · exact .next h

theorem State.memoryCanonical.abandonHere {ctx code} : (s.abandonHere ctx code).memoryCanonical := by
  simp only [State.abandonHere]
  split
  · exact h
  · exact .setSn (.mk (State.memoryCanonical.foldl
      (.foldl (.foldl h fun _ _ h => .ite (.setLeafSnap h) h) fun _ _ h => .ite (.mk h) h) fun _ _ h => .ite
      (.foldl (.foldl h fun _ _ h1 => .updCore h1) fun _ _ h1 => .ite (.updCore h1) h1)
      (.updGrove (.foldl (.foldl h fun _ _ h1 => .updCore h1) fun _ _ h1 => .ite (.updCore h1) h1))))

theorem State.memoryCanonical.abandonSnap {ctx code} : (s.abandonSnap ctx code).memoryCanonical := by
  simp only [State.abandonSnap]
  split
  · exact h
  · exact .mk (State.memoryCanonical.abandonHere h)

theorem State.memoryCanonical.abandonIn {ctx id code} : (s.abandonIn ctx id code).memoryCanonical := by
  rw [State.abandonIn]
  split
  · exact .ite (.abandonHere h) h
  · exact h

/-! ### Chains of snapshots -/

theorem State.memoryCanonical.snapFail {ctx id cause} : (s.snapFail ctx id cause).memoryCanonical := .trunkTile h

theorem State.memoryCanonical.completeSnap {ctx} : (s.completeSnap ctx).memoryCanonical := by
  rw [State.completeSnap]
  split
  · exact h
  · exact .ite h (.updCtx (.mk (State.memoryCanonical.foldl (.foldl (.writeVa h) fun _ _ h => .ite (.setLeafSnap h) h) fun _ _
      h => .ite (.mk h) h)))

theorem State.memoryCanonical.ringDoneIn {ctx id m} : (s.ringDoneIn ctx id m).memoryCanonical := .completeSnap (.updSnap h)

theorem State.memoryCanonical.writeRing {sn} : (s.writeRing sn).memoryCanonical := by
  rw [State.writeRing]
  split
  · exact .snapFail (.abandonSnap h)
  · exact .ite (.snapFail (.abandonSnap (.probed h))) (.completeSnap (.mk (State.memoryCanonical.updSnap (.writeVa h))))

theorem execCaptureReport_canonical {ctx node} : OutcomeCanonical (execCaptureReport ctx node s) := by
  rw [execCaptureReport]
  split
  · exact .next h
  · extract_lets s1 s2
    have hs1 : s1.memoryCanonical := .updSnap h
    have hs2 : s2.memoryCanonical := .ite hs1 (.updGrove hs1)
    split
    · exact .next hs2
    · extract_lets all
      exact .next (.ite (.writeRing hs2) hs2)

/-! ### Rollback -/

theorem State.memoryCanonical.nextOr {o : Host.Outcome State Fault Refusal} (ho : OutcomeCanonical o) :
    (nextOr o s).memoryCanonical := by
  cases o with
  | next t => exact ho
  | fault _ => exact h
  | refused _ => exact h

theorem State.memoryCanonical.imageFrame {ctx n core c foot key} : (s.imageFrame ctx n core c foot key).memoryCanonical :=
  .mk (clear_clear_wf _ _ _ _ (clear_clear_wf _ _ _ _
    (State.memoryCanonical.writeFrame (.setCore (.mk (Memory.foldl_wf _ (fun _ _ h => writeRun_wf _ _ h) _ h))))))

theorem State.memoryCanonical.unpark {n k core d} : (s.unpark n k core d).memoryCanonical := .mk h

theorem State.memoryCanonical.stopTasks {ctx} : (s.stopTasks ctx).memoryCanonical :=
  .foldl h fun _ _ h => .updGrove (.updCore (.foldl h fun _ _ h1 => .updCore h1))

theorem State.memoryCanonical.quiesceCtx {ctx} : (s.quiesceCtx ctx).memoryCanonical :=
  .mk (State.memoryCanonical.stopTasks (.endMigrations (.ite (.abandonSnap h) h)))

theorem State.memoryCanonical.restoreMemory {ctx n} : (s.restoreMemory ctx n).memoryCanonical := by
  unfold State.restoreMemory
  extract_lets s1
  have hs1 : s1.memoryCanonical := by
    refine .foldl h fun s a h => ?_
    split
    · exact h
    · extract_lets s2
      have hs2 : s2.memoryCanonical := by
        unfold s2
        split
        · exact .mk (writeRun_wf _ _ h)
        · exact h
      exact .setLeafSnap hs2
  refine .foldl hs1 fun s a h => ?_
  extract_lets inWin s2
  have hs2 : s2.memoryCanonical := by
    unfold s2
    split
    · exact .ite (.mk (writeRun_wf _ _ h)) h
    · exact h
  exact .ite h (.mk hs2)

theorem State.memoryCanonical.markRb {key} : (s.markRb key).memoryCanonical := by
  rw [State.markRb]
  split
  · exact .mk (writeRun_wf _ _ h)
  · exact h

theorem State.memoryCanonical.placeFrame {ctx n g i t} : (s.placeFrame ctx n g i t).memoryCanonical := by
  simp only [State.placeFrame]
  split
  · split
    · exact .imageFrame (.updTask (.updGrove h))
    · exact .updTask h
  · exact .updTask (.updGrove (.markRb (.foldl h fun _ _ h => .mk (writeRun_wf _ _ h))))
  · exact h

theorem State.memoryCanonical.restoreGrove {ctx n nodes logged node} :
    (s.restoreGrove ctx n nodes logged node).memoryCanonical := by
  rw [State.restoreGrove]
  exact .updCore (.foldl (.setGrove h) fun _ _ h => .placeFrame h)

theorem State.memoryCanonical.parkColls {n cores ctx} : (s.parkColls n cores ctx).memoryCanonical :=
  .foldl h fun _ _ h => .mk h

theorem State.memoryCanonical.settleTags {ctx} : (s.settleTags ctx).memoryCanonical :=
  .foldl (.mk h) fun _ _ h => .updPool h

theorem State.memoryCanonical.settleTriads {ctx} : (s.settleTriads ctx).memoryCanonical := .sweepTriads (.mk h)

theorem State.memoryCanonical.fixReserved : s.fixReserved.memoryCanonical := by
  simp only [State.fixReserved]
  refine .foldl (.mk h) fun s a h => ?_
  split
  · exact h
  · split
    · exact .setGrove h
    · exact h

theorem State.memoryCanonical.rollbackTo {ctx n} : (s.rollbackTo ctx n).memoryCanonical := by
  rw [State.rollbackTo]
  split
  · exact .restoreMemory (.quiesceCtx h)
  · extract_lets s1 groves s2 cores s3 s4 s5 s6
    have hs1 : s1.memoryCanonical := .mk (State.memoryCanonical.restoreMemory (.quiesceCtx h))
    have hs2 : s2.memoryCanonical := .foldl hs1 fun _ _ h => .restoreGrove h
    have hs3 : s3.memoryCanonical := .foldl hs2 fun _ _ h => .foldl h fun _ _ h1 => .updRim h1
    have hs4 : s4.memoryCanonical := .mk hs3
    have hs5 : s5.memoryCanonical := .shootCtx (.settleTriads (.settleTags (.fixReserved (.parkColls hs4))))
    have hs6 : s6.memoryCanonical := .foldl hs5 fun _ _ h => .foldl h fun _ _ h1 => .serveName (.updGrove h1)
    exact .updCtx hs6

theorem State.memoryCanonical.owedEvents {core} : (s.owedEvents core).memoryCanonical := by
  rw [State.owedEvents]
  refine .foldl h fun s a h => ?_
  split
  · exact .nextOr h (execVectorJobComplete_canonical h)
  · exact .nextOr h (execMatrixJobComplete_canonical h)
  · exact .nextOr h (execCopyFinish_canonical h)
  · exact .nextOr h (execRecvDeliver_canonical h)
  · exact .nextOr h (execRecvDeliver_canonical h)
  · exact h

theorem State.memoryCanonical.restoreImage {core i t n k} : (s.restoreImage core i t n k).memoryCanonical := by
  simp only [State.restoreImage]
  split
  · exact h
  · exact .owedEvents (.unpark (.updGrove (.updCore
      (.ite (.readFrame (.ite h (.imageFrame h)))
      (.mk (Memory.clear_wf _ _ (Memory.clear_wf _ _ (State.memoryCanonical.readFrame (.ite h (.imageFrame h))))))))))

theorem execRestoreComplete_canonical {g i} : OutcomeCanonical (execRestoreComplete g i s) := by
  simp only [execRestoreComplete]
  split
  · exact .next h
  · split
    · split
      · exact .next h
      · refine .next ?_
        refine .enterHeld ?_
        refine .updCore ?_
        refine .updTask ?_
        refine .giveFrame ?_
        split
        · exact .restoreImage h
        · exact .updCore (.readFrame h)
    · exact .next h

/-! ### The rim -/

theorem State.memoryCanonical.rimTile {o xc addr} : (s.rimTile o xc addr).memoryCanonical := .faultTile h

theorem State.memoryCanonical.dropRimOp {rim k} : (s.dropRimOp rim k).memoryCanonical := .updRim h

theorem State.memoryCanonical.failFetch {rim k o xc addr} : (s.failFetch rim k o xc addr).memoryCanonical :=
  .updGrove (.rimTile (.dropRimOp h))

theorem State.memoryCanonical.readTile {ctx t n valid} : (s.readTile ctx t n valid).1.memoryCanonical := by
  simp only [State.readTile]
  refine .foldl_fst h fun s a h => ?_
  split
  · exact h
  · exact .readVa h

theorem State.memoryCanonical.sendRimPub {rim o} : (s.sendRimPub rim o).memoryCanonical := .foldl h fun _ _ h => .send h

theorem execRimFetch_canonical {rim k} : OutcomeCanonical (execRimFetch rim k s) := by
  simp only [execRimFetch]
  split
  · exact .next h
  · split
    · exact .next h
    · split
      · exact .next (.sendRimPub (.updRim h))
      · split
        · exact .next (.failFetch h)
        · split
          · exact .next (.failFetch (.readTile h))
          · exact .next (.sendRimPub (.updRim (.readTile h)))

theorem State.memoryCanonical.writeTile {ctx t n valid data} : (s.writeTile ctx t n valid data).1.memoryCanonical := by
  rw [State.writeTile]
  refine .foldl_fst h fun s a h => ?_
  split
  · exact h
  · exact .writeVa h

theorem execKeepWriteback_canonical {rim k} : OutcomeCanonical (execKeepWriteback rim k s) := by
  simp only [execKeepWriteback]
  split
  · exact .next h
  · split
    · exact .next h
    · split
      · exact .next (.rimTile (.dropRimOp h))
      · split
        · exact .next (.rimTile (.writeTile (.dropRimOp h)))
        · exact .next (.send (.writeTile (.dropRimOp h)))

theorem State.memoryCanonical.resendCore {core k} : (s.resendCore core k).memoryCanonical := by
  rw [State.resendCore]
  split
  · exact h
  · split
    · split
      · exact .updCore (.remoteOut h)
      · exact h
    · exact h

theorem State.memoryCanonical.resendSlot {g k} : (s.resendSlot g k).memoryCanonical := by
  rw [State.resendSlot]
  split
  · exact h
  · exact .ite (.updGrove (.remoteOut h)) h

theorem execRemoteRetransmit_canonical {core k} : OutcomeCanonical (execRemoteRetransmit core k s) :=
  .ite (.next (.resendSlot h)) (.next (.resendCore h))

theorem execRemoteRequestExpire_canonical {core k} : OutcomeCanonical (execRemoteRequestExpire core k s) := by
  simp only [execRemoteRequestExpire]
  split
  · exact .ite (.next (.updGrove h)) (.next h)
  · split
    · exact .next h
    · exact .ite (.next (.updCore h)) (.next h)

theorem State.memoryCanonical.performRemote {slice r} : (s.performRemote slice r).2.2.memoryCanonical := by
  simp only [State.performRemote]
  split
  · exact h
  · split
    · exact h
    · split <;> exact .performAt h

theorem State.memoryCanonical.answerRemote {slice r v fail} : (s.answerRemote slice r v fail).memoryCanonical := .mk h

theorem State.memoryCanonical.dropExpired {slice} : (s.dropExpired slice).memoryCanonical := .updSlice h

theorem State.memoryCanonical.serveRemote {slice r} : (s.serveRemote slice r).memoryCanonical :=
  .updSlice (.answerRemote (.performRemote h))

theorem State.memoryCanonical.serveHeld {slice fuel} : (s.serveHeld slice fuel).memoryCanonical := by
  induction fuel generalizing s with
  | zero => exact h
  | succ n ih =>
    simp only [State.serveHeld]
    split
    · exact h
    · exact .ite (ih (.updSlice h)) (ih (.serveRemote h))

theorem State.memoryCanonical.takeRemote {slice r} : (s.takeRemote slice r).memoryCanonical := by
  rw [State.takeRemote]
  split
  · exact .updSlice (.answerRemote h)
  · exact .ite (.serveHeld (.dropExpired h)) (.serveHeld (.dropExpired (.updSlice h)))

theorem State.memoryCanonical.serveRequest {slice r} : (s.serveRequest slice r).memoryCanonical := by
  simp only [State.serveRequest]
  split
  · exact h
  · split
    · exact .takeRemote h
    · split
      · exact .answerRemote (.performRemote h)
      · split
        · exact h
        · exact .writePlace h

theorem execRemoteRequestArrive_canonical {slice src seq cls op sz off v w} :
    OutcomeCanonical (execRemoteRequestArrive slice src seq cls op sz off v w s) := by
  rw [execRemoteRequestArrive]
  refine .next ?_
  refine .serveRequest ?_
  split
  · exact .logOn h
  · exact h

theorem State.memoryCanonical.requestTaken {k p} : (s.requestTaken k p).memoryCanonical := by
  rw [State.requestTaken]
  split
  · exact .serveRequest (.dropPkt h)
  · exact h

theorem execDupEntryRetire_canonical {slice k} : OutcomeCanonical (execDupEntryRetire slice k s) := by
  rw [execDupEntryRetire]
  split
  · exact .next h
  · exact .ite (.next (.updSlice h)) (.next h)

theorem State.memoryCanonical.performSeq {x1} : (s.performSeq x1).memoryCanonical := by
  simp only [State.performSeq]
  split
  · split
    · exact h
    · split
      · exact .updCore (.performAt h)
      · exact h
  · split
    · exact .updGrove (.performAt h)
    · exact h
  · exact .serveHeld (.ite (.dropExpired h) (.ite (.updSlice h) (.serveRemote h)))

theorem State.memoryCanonical.performSeqs {rim fuel} : (s.performSeqs rim fuel).memoryCanonical := by
  induction fuel generalizing s with
  | zero => exact h
  | succ n ih =>
    simp only [State.performSeqs]
    split
    · exact h
    · exact ih (.performSeq h)

theorem execTokenVisit_canonical {rim} : OutcomeCanonical (execTokenVisit rim s) :=
  .ite (.next h) (.next (.updTrunk (.performSeqs h)))

theorem execTokenRegenerate_canonical : OutcomeCanonical (execTokenRegenerate s) := .ite (.next (.updTrunk h)) (.next h)

theorem execScrubStep_canonical {stack} : OutcomeCanonical (execScrubStep stack s) := by
  simp only [execScrubStep]
  split
  · exact .next h
  · split
    · exact .next (.updStack h)
    · split
      · exact .next (.updStack (.updStack (.mk (poisonWord_wf _ h))))
      · exact .next (.updStack (.updTrunk (.updStack (.mk (storeWord_wf _ _ h)))))
      · exact .next (.updStack h)

/-! ### Management registers -/

theorem orSame_canonical {r : Option State} (hr : OptionCanonical r) : OutcomeCanonical (orSame s r) := .next (hr.getD h)

theorem State.memoryCanonical.reissue {g i} : (s.reissue g i).memoryCanonical := by
  rw [State.reissue]
  split
  · exact h
  · exact .ite h (.sendRecSubs (.updGrove h))

theorem State.memoryCanonical.rehash {ctx} : (s.rehash ctx).memoryCanonical := .foldl (.updCtx h) fun _ _ h => .reissue h

theorem writeSeed_canonical {ctx v} : OptionCanonical (s.writeSeed ctx v) :=
  .ite (.some (.settlePools (.rehash (.updCtx h)))) trivial

theorem writeRootovr_canonical {ctx i v} : OptionCanonical (s.writeRootovr ctx i v) :=
  .ite (.some (.settlePools (.rehash (.updCtx h)))) trivial

theorem State.memoryCanonical.startFlush {ctx} : (s.startFlush ctx).memoryCanonical := by
  rw [State.startFlush]
  refine .foldl (.updCtx h) fun s a h => ?_
  refine .foldl h fun s a h => ?_
  split
  · exact .ite h (.sendRim h)
  · exact h

theorem State.memoryCanonical.flushCache {ctx} : (s.flushCache ctx).memoryCanonical := .mk h

theorem State.memoryCanonical.flushNow {ctx} : (s.flushNow ctx).memoryCanonical := .updCtx (.flushCache (.mk h))

theorem writeFlush_canonical {ctx v} : OptionCanonical (s.writeFlush ctx v) :=
  .ite (.some h) (.ite trivial (.some (.startFlush h)))

theorem State.memoryCanonical.resetGrants {ctx} : (s.resetGrants ctx).memoryCanonical := .mk h

theorem State.memoryCanonical.freeCtx {ctx} : (s.freeCtx ctx).memoryCanonical := .mk h

theorem State.memoryCanonical.endResets {ctx} : (s.endResets ctx).memoryCanonical :=
  .ite h (.foldl (.ite (.freeCtx (.updCtx (.resetGrants (.updTrunk h)))) (.updCtx (.resetGrants (.updTrunk h)))) fun _ _ h =>
    .respond h)

theorem execCtxFlush_canonical {ctx} : OutcomeCanonical (execCtxFlush ctx s) := orSame_canonical h (writeFlush_canonical h)

theorem execFlushComplete_canonical {ctx} : OutcomeCanonical (execFlushComplete ctx s) :=
  .ite (.next (.endResets (.flushNow h))) (.next h)

theorem execSeedWrite_canonical {ctx v} : OutcomeCanonical (execSeedWrite ctx v s) :=
  orSame_canonical h (writeSeed_canonical h)

theorem execRootovrWrite_canonical {ctx i v} : OutcomeCanonical (execRootovrWrite ctx i v s) :=
  orSame_canonical h (writeRootovr_canonical h)

theorem writeSplit_canonical {slice v} : OptionCanonical (s.writeSplit slice v) := .ite trivial (.some (.updSlice (.mk h)))

theorem execSliceSplitWrite_canonical {slice v} : OutcomeCanonical (execSliceSplitWrite slice v s) :=
  orSame_canonical h (writeSplit_canonical h)

theorem writePartmap_canonical {v} : OptionCanonical (s.writePartmap v) :=
  .ite trivial (.ite trivial (.ite trivial (.some (.updTrunk h))))

theorem execPartmapWrite_canonical {v} : OutcomeCanonical (execPartmapWrite v s) :=
  orSame_canonical h (writePartmap_canonical h)

theorem writeIlv_canonical {p v} : OptionCanonical (s.writeIlv p v) := .ite trivial (.some (.updTrunk h))

theorem execIlvWrite_canonical {part v} : OutcomeCanonical (execIlvWrite part v s) :=
  orSame_canonical h (writeIlv_canonical h)

theorem State.memoryCanonical.clearHbm {p} : (s.clearHbm p).memoryCanonical :=
  .updTrunk (.mk (Memory.clear_wf _ _ (Memory.clear_wf _ _ h)))

theorem execHbmClearComplete_canonical {part} : OutcomeCanonical (execHbmClearComplete part s) :=
  .ite (.next (.clearHbm h)) (.next h)

theorem startQuiesce_canonical {k v} : OptionCanonical (s.startQuiesce k v) :=
  .ite trivial (.some (.updTrunk (.freeWord h)))

theorem execSeamQuiesce_canonical {seam v} : OutcomeCanonical (execSeamQuiesce seam v s) :=
  orSame_canonical h (startQuiesce_canonical h)

theorem execSeamQuiesced_canonical {seam} : OutcomeCanonical (execSeamQuiesced seam s) := by
  rw [execSeamQuiesced]
  split
  · exact .ite (.next (.updTrunk h)) (.next h)
  · exact .next h

theorem execSeamQuiesceTimeout_canonical {seam} : OutcomeCanonical (execSeamQuiesceTimeout seam s) := by
  rw [execSeamQuiesceTimeout]
  split
  · exact .ite (.next (.updTrunk (.freeWord h))) (.next h)
  · exact .next h

theorem turnSeam_canonical {k opens} : OptionCanonical (s.turnSeam k opens) := .ite (.some (.updTrunk h)) trivial

theorem execSeamOpen_canonical {seam} : OutcomeCanonical (execSeamOpen seam s) := orSame_canonical h (turnSeam_canonical h)

theorem execSeamClose_canonical {seam} : OutcomeCanonical (execSeamClose seam s) :=
  orSame_canonical h (turnSeam_canonical h)

theorem writeShoot_canonical {v} : OptionCanonical (s.writeShoot v) := .ite trivial (.some (.updTrunk (.mk h)))

theorem execShootdown_canonical {v} : OutcomeCanonical (execShootdown v s) := orSame_canonical h (writeShoot_canonical h)

theorem writeGrant_canonical {g ctx v} : OptionCanonical (s.writeGrant g ctx v) := .ite trivial (.some (.updGrove h))

theorem execGrantWrite_canonical {g ctx v} : OutcomeCanonical (execGrantWrite g ctx v s) :=
  orSame_canonical h (writeGrant_canonical h)

omit h in
theorem orBusy_canonical {r : Option State} (hr : OptionCanonical r) : MgmtCanonical (orBusy r) := by
  cases r with
  | none => trivial
  | some s => exact hr

theorem writeSeamctl_canonical {k v} : MgmtCanonical (s.writeSeamctl k v) := by
  unfold State.writeSeamctl
  extract_lets keep
  have hkeep (s : State) (h : s.memoryCanonical) : (keep s).memoryCanonical := .updTrunk h
  split
  · exact hkeep s h
  · split
    · exact hkeep s h
    · trivial
    · exact .ite trivial trivial
  · exact orBusy_canonical (.mapState (turnSeam_canonical h) hkeep)

theorem writeGov_canonical {p v} : OptionCanonical (s.writeGov p v) := .ite trivial (.some (.updTrunk h))

theorem writeSnArea_canonical {ctx v} : OptionCanonical (s.writeSnArea ctx v) := .ite trivial (.some (.updCtx h))

theorem writeModule_canonical {off v} : MgmtCanonical (s.writeModule off v) := by
  unfold State.writeModule
  split
  · exact orBusy_canonical (writePartmap_canonical h)
  · exact writeSeamctl_canonical h
  · exact writeSeamctl_canonical h
  · exact writeSeamctl_canonical h
  · exact orBusy_canonical (writeIlv_canonical h)
  · exact orBusy_canonical (writeIlv_canonical h)
  · exact orBusy_canonical (writeIlv_canonical h)
  · exact orBusy_canonical (writeIlv_canonical h)
  · exact orBusy_canonical (writeShoot_canonical h)
  · exact .done (.updTrunk h)
  · exact .done (.updTrunk h)
  · exact .done h
  · exact .done h
  · exact .done h
  · exact .done h
  · exact .done h
  · exact .done h
  · trivial

theorem writePart_canonical {p off v} : MgmtCanonical (s.writePart p off v) :=
  .ite (orBusy_canonical (writeSnArea_canonical h))
    (.ite (.done h) (.ite (orBusy_canonical (writeSeed_canonical h))
    (.ite (orBusy_canonical (writeFlush_canonical h))
    (.ite (orBusy_canonical (writeRootovr_canonical h)) (orBusy_canonical (writeGov_canonical h))))))

theorem writeRim_canonical {k off v} : MgmtCanonical (s.writeRim k off v) :=
  .ite (orBusy_canonical (writeSplit_canonical h)) (.ite (.done (.updRim h)) (.ite (.done (.updStack h)) trivial))

theorem writeGroveReg_canonical {g off v} : MgmtCanonical (s.writeGroveReg g off v) :=
  .ite (.done (.updGrove h)) (.ite (.done h)
    (.ite (.done (.updGrove h)) (.ite (.done (.updGrove h))
    (.ite (.done (.updGrove h)) (.ite (orBusy_canonical (writeGrant_canonical h)) trivial)))))

theorem mgmtWrite_canonical {a v} : MgmtCanonical (s.mgmtWrite a v) :=
  .ite trivial (.ite (writeModule_canonical h)
    (.ite (writePart_canonical h) (.ite (writeRim_canonical h) (writeGroveReg_canonical h))))

theorem execRegisterWrite_canonical {addr v} : OutcomeCanonical (execRegisterWrite addr v s) := by
  simp only [execRegisterWrite]
  split
  · rename_i e
    exact .next ((mgmtWrite_canonical h).get e)
  · exact .next h

theorem execMrd_canonical {d a p} : OutcomeCanonical (execMrd d a p s) := by
  simp only [execMrd]
  refine runOp_canonical h fun c => ?_
  split
  · trivial
  · split
    · trivial
    · exact .ok (.writeReg h)

theorem execMwr_canonical {a b p} : OutcomeCanonical (execMwr a b p s) := by
  simp only [execMwr]
  refine runOp_canonical h fun _ => .ite trivial ?_
  split
  · trivial
  · trivial
  · trivial
  · rename_i e
    exact .ok ((mgmtWrite_canonical h).get e)

/-! ### Readiness, time, power and heat -/

theorem State.memoryCanonical.mapChange {f} : (s.mapChange f).memoryCanonical := .mk h

theorem State.memoryCanonical.placeToken : s.placeToken.memoryCanonical := .ite h (.updTrunk h)

theorem State.memoryCanonical.noteStart : s.noteStart.memoryCanonical := .ite h (.updTrunk h)

theorem State.memoryCanonical.endBringup : s.endBringup.memoryCanonical := .ite h (.updTrunk h)

omit h in
/-- A module reset lists nothing in memory. -/
theorem State.memoryCanonical.resetModule {s : State} {restart : Bool} : (s.resetModule restart).memoryCanonical := .mk rfl

theorem State.memoryCanonical.failStart {why} : (s.failStart why).memoryCanonical := .ite .resetModule (.updTrunk h)

theorem execBringupReport_canonical {kind idx ready info} : OutcomeCanonical (execBringupReport kind idx ready info s) :=
  .ite (.next (.ite (.failStart h) (.noteStart (.updTrunk h))))
    (.ite (.next (.ite (.noteStart (.updTrunk h)) h))
    (.ite (.next h) (.next (.endBringup (.noteStart (.placeToken (.ite (.updStack (.mapChange h)) (.mapChange h))))))))

theorem execStartTimeout_canonical : OutcomeCanonical (execStartTimeout s) := .ite (.next h) (.next (.failStart h))

omit h in
theorem execModuleReset_canonical : OutcomeCanonical (execModuleReset s) := .next .resetModule

theorem State.memoryCanonical.startHold {ctx} : (s.startHold ctx).memoryCanonical := .ite h (.updCtx (.abandonSnap h))

theorem State.memoryCanonical.moveEntry {ctx g n names vers rounds} : (s.moveEntry ctx g n names vers rounds).memoryCanonical :=
  .ite (.updGrove h) (.sendTo h)

theorem State.memoryCanonical.moveRoots {ctx g} : (s.moveRoots ctx g).memoryCanonical :=
  .foldl (.foldl (.foldl (.setGrove h) fun _ _ h => .moveEntry h) fun _ _ h => .moveEntry h) fun _ _ h => .moveEntry h

theorem State.memoryCanonical.moveFlush {ctx} : (s.moveFlush ctx).memoryCanonical :=
  .settlePools (.updCtx (.mk (State.memoryCanonical.foldl (.updCtx (.flushCache h)) fun _ _ h => .moveRoots h)))

theorem execForcedFlushMove_canonical {ctx} : OutcomeCanonical (execForcedFlushMove ctx s) :=
  .ite (.next (.moveFlush h)) (.next h)

theorem State.memoryCanonical.loseCtx {ctx idx} : (s.loseCtx ctx idx).memoryCanonical := .stopCtx (.faultTile h)

theorem State.memoryCanonical.tellLost {ctx g gone} : (s.tellLost ctx g gone).memoryCanonical := .mk h

theorem State.memoryCanonical.rootLostIn {ctx pos gone} : (s.rootLostIn ctx pos gone).memoryCanonical :=
  .ite h (.ite (.stopCtx (.updCtx (.startHold h))) (.updCtx (.startHold h)))

theorem State.memoryCanonical.loseTriggers {g} : (s.loseTriggers g).memoryCanonical :=
  .updGrove (.foldl h fun _ _ h => .ite (.trigTile (.updGrove h)) h)

theorem State.memoryCanonical.withdrawRecord {g i lost} : (s.withdrawRecord g i lost).memoryCanonical := by
  rw [State.withdrawRecord]
  split
  · exact h
  · split
    · exact .ite (.ite (.loseCtx h) h) (.jobFaultKind h)
    · exact .freeRecord h
    · exact h
    · exact .ite (.loseCtx h) h
    · exact .migrateRecord h

theorem execGroveWithdraw_canonical {g reason} : OutcomeCanonical (execGroveWithdraw g reason s) :=
  .ite (.next h) (.next (.updGrove (.foldl (.loseTriggers
    (.foldl (.foldl (.foldl (.ite (.updGrove (.mapChange h)) (.mapChange h)) fun _ _ h => .startHold h) fun _ _ h => .tellLost
    h) fun _ _ h => .loseCtx h)) fun _ _ h => .withdrawRecord h)))

theorem execReadinessLost_canonical {kind idx} : OutcomeCanonical (execReadinessLost kind idx s) :=
  .ite (.next h) (.next (.foldl (.foldl (.ite (.updTrunk (.mapChange h)) (.mapChange h)) fun _ _ h => .startHold h) fun _ _ h
    => .loseCtx h))

theorem execReadinessRegained_canonical {kind idx} : OutcomeCanonical (execReadinessRegained kind idx s) :=
  .ite (.next h) (.ite (.ite (.next h) (.next (.mapChange h)))
    (.ite (.next h) (.next (.placeToken (.ite (.updStack (.mapChange h)) (.mapChange h))))))

theorem State.memoryCanonical.setTemp {g temp} : (s.setTemp g temp).memoryCanonical := .updGrove (.updTrunk h)

theorem execHotGroveEvent_canonical {g temp} : OutcomeCanonical (execHotGroveEvent g temp s) :=
  .ite (.next h) (.ite (.next (.setTemp h)) (.next (.foldl (.updGrove (.setTemp h)) fun _ _ h => .migrateRecord h)))

theorem execHotGroveClear_canonical {g temp} : OutcomeCanonical (execHotGroveClear g temp s) := .next (.ite h (.setTemp h))

theorem execGroveReturn_canonical {g} : OutcomeCanonical (execGroveReturn g s) := by
  rw [execGroveReturn]
  split
  · exact .ite (.next (.updGrove (.mapChange h))) (.next h)
  · exact .next h

theorem execPowerMeasure_canonical {watts} : OutcomeCanonical (execPowerMeasure watts s) :=
  .ite (.next h) (.next (.updTrunk h))

theorem State.memoryCanonical.setTime {time} : (s.setTime time).memoryCanonical := .mk h

theorem State.memoryCanonical.slew {time} : (s.slew time).memoryCanonical :=
  .ite h (.ite (.updTrunk (.mk h)) (.ite (.updTrunk (.mk h)) h))

theorem execPtpMessage_canonical {port time} : OutcomeCanonical (execPtpMessage port time s) :=
  .ite (.next h) (.ite (.next (.slew (.updTrunk h))) (.ite (.next (.updTrunk h)) (.next (.updTrunk (.setTime (.updTrunk h))))))

theorem execPtpMasterLoss_canonical {port} : OutcomeCanonical (execPtpMasterLoss port s) := .next (.updTrunk h)

theorem execSyncSymbol_canonical {time err} : OutcomeCanonical (execSyncSymbol time err s) :=
  .ite (.next (.slew (.updTrunk h))) (.ite (.next (.updTrunk (.updTrunk h))) (.next (.updTrunk (.setTime (.updTrunk h)))))

theorem execSoftError_canonical {addr bit} : OutcomeCanonical (execSoftError addr bit s) := by
  simp only [execSoftError]
  split
  · exact .next h
  · refine .next (.mk (Memory.write_wf _ _ ?_))
    split
    · exact Memory.write_wf _ _ h
    · exact h

theorem execFaultNotify_canonical {k} : OutcomeCanonical (execFaultNotify k s) := by
  rw [execFaultNotify]
  split
  · exact .ite (.next h) (.next (.updTrunk (.mk h)))
  · exact .next h

/-! ### Commands: gates, images and launch -/

omit h in
theorem cmdGate_canonical {s : State} {b : List Byte} {always : Bool} {need : CmdNeed} :
    GateCanonical (s.cmdGate b always need) := by
  intro e he
  cases need <;> simp only [State.cmdGate] at he <;> split_ifs at he <;> obtain rfl := Option.some.inj he <;> trivial

theorem State.memoryCanonical.finish {qp : Nat} {b : List Byte} {e : CmdEnd} (he : CmdCanonical e) :
    (s.finish qp b e).memoryCanonical := by
  cases e with
  | done t d r => exact .respond he
  | refuseIn t x d => exact .respond he
  | refuse x d => exact .respond h
  | busyOpen => exact .respond (.freeWord h)
  | later t => exact he

/-- A command keeps memory canonical when what its gate and its body end it with does. -/
theorem runCommand_canonical {qp : Nat} {b : List Byte} {sel : Bool} {gate : Option CmdEnd} {body : CmdEnd}
    (hg : GateCanonical gate) (hb : CmdCanonical body) :
    OutcomeCanonical (runCommand s qp b sel gate body) :=
  .ite (.next (.finish h (hg.getD hb))) (.next h)

omit h in
theorem loadArgs_canonical {b : List Byte} : GateCanonical (loadArgs b) := by
  intro e he
  simp only [loadArgs] at he
  split_ifs at he <;> obtain rfl := Option.some.inj he <;> trivial

theorem State.memoryCanonical.writeTables {l frames} : (s.writeTables l frames).memoryCanonical :=
  have store {α : Type} (a : List Host.Cell → α → Nat) (w : List Host.Cell → α → Nat) (l : List α) {m : List Host.Cell}
      (h : Memory.wf m = true) : Memory.wf (l.foldl (fun m x => storeWord m (a m x) (w m x)) m) = true :=
    Memory.foldl_wf _ (fun _ _ h => storeWord_wf _ _ h) l h
  .mk (store _ _ _ (store _ _ _ (store _ _ _ (Memory.foldl_wf _ (fun _ _ h => clear_clear_wf _ _ _ _ h) _ h))))

theorem State.memoryCanonical.coverUnit {slice top} : (s.coverUnit slice top).memoryCanonical := .ite h (.updSlice (.mk h))

theorem giveWindows_canonical {ctx size sync start} : OptionCanonical (s.giveWindows ctx size sync start) := by
  refine .ite (.some h) (.foldl (.some h) fun o sl ho => ?_)
  cases o with
  | none => trivial
  | some t => exact .map fun _ => .updRim (.coverUnit ho)

theorem giveAreas_canonical {p g nframe size start} : OptionCanonical (s.giveAreas p g nframe size start) := by
  simp only [State.giveAreas]
  split
  · trivial
  · rename_i t e
    have ht : t.memoryCanonical := by
      split at e
      · rwa [← Option.some.inj e]
      · obtain ⟨x, -, rfl⟩ := Option.map_eq_some_iff.mp e
        exact .updGrove (.coverUnit h)
    exact .ite (.some ht) (.map fun _ => .updGrove (.coverUnit ht))

theorem giveGrant_canonical {ctx g counters slots} : OptionCanonical (s.giveGrant ctx g counters slots) := by
  rw [State.giveGrant]
  split
  · exact .some (.updGrove h)
  · trivial

theorem eachOf_canonical {α : Type} {l : List α} {f : State → α → Option State}
    (hf : ∀ (s : State) a, s.memoryCanonical → OptionCanonical (f s a)) :
    OptionCanonical (eachOf l s f) := by
  refine .foldl (.some h) fun o a ho => ?_
  cases o with
  | none => trivial
  | some t => exact hf t a ho

theorem createCtx_canonical {b im choice} : OptionCanonical (s.createCtx b im choice) := by
  simp only [State.createCtx]
  split
  · trivial
  · split
    · trivial
    · rename_i e1
      have h1 := (giveWindows_canonical h).get e1
      split
      · trivial
      · rename_i e2
        have h2 := (eachOf_canonical h1 fun _ _ h => giveAreas_canonical h).get e2
        exact .mapState (eachOf_canonical h2 fun _ _ h => giveGrant_canonical h) fun _ h => .setCtx (.writeTables h)

theorem loadLaunch_canonical {b choice} : CmdCanonical (s.loadLaunch b choice) := by
  rw [State.loadLaunch]
  split
  · trivial
  · split
    · trivial
    · split
      · trivial
      · split
        · trivial
        · split
          · trivial
          · split
            · trivial
            · rename_i e
              exact .done (.foldl ((createCtx_canonical h).get e) fun _ _ h => .writeVa h)

theorem execLoadImage_canonical {qp cmd choice} : OutcomeCanonical (execLoadImage qp cmd choice s) :=
  runCommand_canonical h (.orElse cmdGate_canonical (.orElse loadArgs_canonical cmdGate_canonical)) (loadLaunch_canonical h)

theorem execLoadImageFirmware_canonical {qp cmd} : OutcomeCanonical (execLoadImageFirmware qp cmd s) := by
  unfold execLoadImageFirmware
  extract_lets +onlyGivenNames gate body
  have hbody : CmdCanonical body := by
    unfold body
    split
    · trivial
    · exact .done (.updTrunk h)
  exact .ite (.next .resetModule) (runCommand_canonical h (.orElse cmdGate_canonical loadArgs_canonical) hbody)

theorem loadSupervisor_canonical {b} : CmdCanonical (s.loadSupervisor b) := by
  unfold State.loadSupervisor
  extract_lets +onlyGivenNames bytes body
  split
  · trivial
  · refine .ite trivial ?_
    split
    · trivial
    · exact .done (.updTrunk h)

theorem execLoadImageSupervisor_canonical {qp cmd} : OutcomeCanonical (execLoadImageSupervisor qp cmd s) :=
  runCommand_canonical h (.orElse cmdGate_canonical (.orElse loadArgs_canonical cmdGate_canonical)) (loadSupervisor_canonical h)

theorem placeOne_canonical {ctx g tmpl wid} : OptionCanonical (s.placeOne ctx g tmpl wid) := by
  simp only [State.placeOne]
  split
  · trivial
  · exact .ite (.some (.enterRecord h)) (.map fun _ => .enterTriad h)

omit h in
theorem place_canonical {x y : Placing} {ctx k : Nat} {p : Placement} {wid : Word} (h : x.s.memoryCanonical)
    (e : x.place ctx k p wid = some y) : y.s.memoryCanonical := by
  simp only [Placing.place] at e
  have placed {g : Nat} {u : State} (hu : x.s.placeOne ctx g p.tmpl wid = some u) : u.memoryCanonical :=
    (placeOne_canonical h).get hu
  split at e <;> split at e <;> first | cases e | skip
  all_goals
    obtain ⟨u, hu, rfl⟩ := Option.map_eq_some_iff.mp e
    exact placed hu

/-- The state of a placing, where there is one, has canonical memory. -/
def PlacingCanonical (o : Option Placing) : Prop := ∀ y, o = some y → y.s.memoryCanonical

omit h in
theorem PlacingCanonical.foldl {α : Type} {f : Option Placing → α → Option Placing} {o : Option Placing} {l : List α}
    (h : PlacingCanonical o) (hf : ∀ o a, PlacingCanonical o → PlacingCanonical (f o a)) : PlacingCanonical (l.foldl f o) :=
  List.foldlRecOn l f h fun o ho a _ => hf o a ho

theorem placeAll_canonical {ctx member} : OptionCanonical (s.placeAll ctx member) := by
  simp only [State.placeAll]
  refine .ite trivial ?_
  split
  · trivial
  · rename_i hy
    refine .ite (.some (PlacingCanonical.foldl ?_ (fun o x ho => ?_) _ hy)) trivial
    · rintro _ ⟨⟩; exact h
    · intro y hy
      split at hy
      · cases hy
      · exact place_canonical (ho _ rfl) hy

theorem State.memoryCanonical.startNumbers : s.startNumbers.memoryCanonical := .ite h (.mk h)

theorem launchCtx_canonical {b choice} : CmdCanonical (s.launchCtx b choice) := by
  unfold State.launchCtx
  refine .ite trivial <| .ite trivial <| .ite trivial <| .ite trivial <| .ite (.refuseIn (.updTrunk h)) <| .ite trivial <|
    .ite trivial ?_
  split
  · trivial
  · extract_lets +onlyGivenNames own others roots s1 s2 s3
    have hs3 : s3.memoryCanonical := .setCtx (.mk (State.memoryCanonical.resetGrants (.startNumbers h)))
    clear_value s3
    split
    · trivial
    · rename_i e
      exact .done (.settlePools ((placeAll_canonical hs3).get e))

theorem execLaunch_canonical {qp cmd choice} : OutcomeCanonical (execLaunch qp cmd choice s) :=
  runCommand_canonical h cmdGate_canonical (launchCtx_canonical h)

theorem launchSup_canonical {qp b} : CmdCanonical (s.launchSup qp b) := by
  rw [State.launchSup]
  split
  · trivial
  · split
    · trivial
    · split
      · trivial
      · trivial
      · exact .later (.updTrunk (.setCore h))

theorem execLaunchSupervisor_canonical {qp cmd} : OutcomeCanonical (execLaunchSupervisor qp cmd s) :=
  runCommand_canonical h cmdGate_canonical (launchSup_canonical h)

/-! ### Commands of the trunk -/

theorem commandMigrate_canonical {qp b} : CmdCanonical (s.commandMigrate qp b) := by
  unfold State.commandMigrate
  extract_lets g i s1 w
  have hs1 : s1.memoryCanonical := .migrateRecord h
  split
  · trivial
  · split
    · trivial
    · split
      · trivial
      · split
        · trivial
        · exact .ite trivial (.ite (.later (.updTrunk hs1)) (.done hs1))

theorem execMigrateCmd_canonical {qp cmd} : OutcomeCanonical (execMigrateCmd qp cmd s) :=
  runCommand_canonical h cmdGate_canonical (commandMigrate_canonical h)

theorem commandSnapshot_canonical {qp b} : CmdCanonical (s.commandSnapshot qp b) :=
  .ite trivial (.later (.respond (.startSnap h)))

theorem execSnapshot_canonical {qp cmd} : OutcomeCanonical (execSnapshot qp cmd s) :=
  runCommand_canonical h cmdGate_canonical (commandSnapshot_canonical h)

theorem State.memoryCanonical.beginRollback {qp ctx n b} : (s.beginRollback qp ctx n b).memoryCanonical :=
  .mk (State.memoryCanonical.updTrunk (.updCtx (.quiesceCtx h)))

theorem State.memoryCanonical.rollbackIn {m ctx n} : (s.rollbackIn m ctx n).memoryCanonical :=
  .ite h (.updCtx (.ite h (.beginRollback h)))

theorem commandRollback_canonical {qp b} : CmdCanonical (s.commandRollback qp b) :=
  .ite trivial (.ite trivial (.ite trivial (.later (.beginRollback h))))

theorem State.memoryCanonical.endRollback {qp b} : (s.endRollback qp b).memoryCanonical :=
  .ite (.rollbackTo (.updCtx (.updTrunk h))) (.respond (.rollbackTo (.updCtx (.updTrunk h))))

theorem execRollback_canonical {qp cmd} : OutcomeCanonical (execRollback qp cmd s) :=
  .ite (.next (.ite (.endRollback h) h)) (runCommand_canonical h cmdGate_canonical (commandRollback_canonical h))

theorem giveMemory_canonical {ps start} : OptionCanonical (s.giveMemory ps start) := by
  refine .foldl (.some h) fun o p ho => ?_
  cases o with
  | none => trivial
  | some t =>
    dsimp only
    split
    · trivial
    · exact writeIlv_canonical ho

theorem repartition_canonical {seams w opens new old choice} :
    OptionCanonical (s.repartition seams w opens new old choice) := by
  simp only [State.repartition]
  split
  · trivial
  · split
    · trivial
    · rename_i e1 _ _ e2
      exact .some (.foldl (.updTrunk ((giveMemory_canonical (.updTrunk ((writePartmap_canonical h).get e1))).get e2)) fun _ _ h
        => (writeShoot_canonical h).getD h)

theorem State.memoryCanonical.quiesceSeams {seams} : (s.quiesceSeams seams).memoryCanonical :=
  .foldl h fun _ _ h => .ite h ((startQuiesce_canonical h).getD h)

theorem commandPartition_canonical {qp b choice} : CmdCanonical (s.commandPartition qp b choice) := by
  rw [State.commandPartition]
  split
  · split
    · trivial
    · split
      · trivial
      · exact .later (.updTrunk (.quiesceSeams h))
  · split
    · trivial
    · split
      · trivial
      · exact .later (.updTrunk (.quiesceSeams h))

theorem State.memoryCanonical.endPartition {p : Parting} {e : CmdEnd} (he : CmdCanonical e) :
    (s.endPartition p e).memoryCanonical := by
  cases e with
  | done t d r => exact .finish (.updTrunk h) he
  | refuseIn t x d => exact .finish (.updTrunk (.updTrunk h)) he
  | refuse x d => exact .finish (.updTrunk (.updTrunk h)) trivial
  | busyOpen => exact .finish (.updTrunk (.updTrunk h)) trivial
  | later t => exact .finish (.updTrunk (.updTrunk h)) he

theorem partitionGoes_canonical : OptionCanonical s.partitionGoes := by
  simp only [State.partitionGoes]
  split
  · trivial
  · split
    · trivial
    · split
      · split
        · rename_i e
          exact .some (.finish ((repartition_canonical (.updTrunk h)).get e)
            (.done ((repartition_canonical (.updTrunk h)).get e)))
        · exact .some (.endPartition h trivial)
      · exact .ite (.some (.endPartition h trivial)) (.some (.updTrunk h))
      · exact .ite trivial (.some (.updTrunk (.quiesceSeams h)))

theorem execPartitionMerge_canonical {qp cmd choice} : OutcomeCanonical (execPartitionMerge qp cmd choice s) :=
  .ite (.next ((partitionGoes_canonical h).getD h)) (runCommand_canonical h cmdGate_canonical (commandPartition_canonical h))

theorem execPartitionSplit_canonical {qp cmd choice} : OutcomeCanonical (execPartitionSplit qp cmd choice s) :=
  .ite (.next ((partitionGoes_canonical h).getD h)) (runCommand_canonical h cmdGate_canonical (commandPartition_canonical h))

theorem commandSummary_canonical {qp b} : CmdCanonical (s.commandSummary qp b) :=
  .done (.ite (.updTrunk (.mk (writeRun_wf _ _ h))) (.mk (writeRun_wf _ _ h)))

theorem execSummary_canonical {qp cmd} : OutcomeCanonical (execSummary qp cmd s) :=
  runCommand_canonical h cmdGate_canonical (commandSummary_canonical h)

theorem State.memoryCanonical.startReset {qp b free} : (s.startReset qp b free).memoryCanonical := by
  rw [State.startReset]
  exact .updTrunk (.startFlush (.updCtx (.mk
    (State.memoryCanonical.foldl (.stopTasks (.endMigrations (.ite (.abandonSnap h) h))) fun _ _ h => .evict h))))

theorem State.memoryCanonical.clearFaulted {ctx} : (s.clearFaulted ctx).memoryCanonical :=
  .foldl h fun _ _ h => .freeRecord h

omit h in
theorem resetGate_canonical {s : State} {b : List Byte} : GateCanonical (s.resetGate b) := by
  refine .orElse cmdGate_canonical fun e he => ?_
  split_ifs at he
  obtain rfl := Option.some.inj he
  trivial

theorem commandReset_canonical {later} : CmdCanonical (commandReset s later) := .ite (.later h) (.done h)

theorem execResetContext_canonical {qp cmd} : OutcomeCanonical (execResetContext qp cmd s) :=
  runCommand_canonical h resetGate_canonical (commandReset_canonical (.startReset h))

theorem execResetContextClear_canonical {qp cmd} : OutcomeCanonical (execResetContextClear qp cmd s) :=
  runCommand_canonical h resetGate_canonical (commandReset_canonical (.clearFaulted h))

theorem execResetContextFree_canonical {qp cmd} : OutcomeCanonical (execResetContextFree qp cmd s) :=
  runCommand_canonical h resetGate_canonical (commandReset_canonical (.startReset h))

theorem execUnknownCommand_canonical {qp cmd} : OutcomeCanonical (execUnknownCommand qp cmd s) := by
  unfold execUnknownCommand
  extract_lets noOp known gate
  have hgate : GateCanonical gate := by
    intro e he
    by_cases hc : (cmdSized cmd && noOp) = true
    · exact cmdGate_canonical e (by simpa only [gate, if_pos hc] using he)
    · cases (by simpa only [gate, if_neg hc] using he : none = some e)
  exact .ite (.next (.finish h (hgate.getD trivial))) (.next h)

theorem State.memoryCanonical.nak {qp kind} : (s.nak qp kind).memoryCanonical := .mk h

theorem State.memoryCanonical.vaDenied {qp ctx va len write} : (s.vaDenied qp ctx va len write).memoryCanonical :=
  .nak (.ite (.probed h) h)

theorem execRdmaWrite_canonical {qp rkey addr data} : OutcomeCanonical (execRdmaWrite qp rkey addr data s) := by
  rw [execRdmaWrite]
  split
  · exact .next h
  · split
    · exact .next (.ite (.mk (writeRun_wf _ _ h)) (.nak h))
    · split
      · exact .next (.ite (.writeVa h) (.vaDenied h))
      · exact .next (.nak h)

theorem execRdmaRead_canonical {qp rkey addr len} : OutcomeCanonical (execRdmaRead qp rkey addr len s) := by
  simp only [execRdmaRead]
  split
  · exact .next h
  · split
    · exact .next (.ite (.mk h) (.nak h))
    · split
      · exact .next (.nak h)
      · split
        · exact .next (.vaDenied h)
        · split
          · exact .next (.mk (State.memoryCanonical.readVa h))
          · exact .next (.nak (.readVa h))

theorem execRdmaInvalid_canonical {qp _opcode} : OutcomeCanonical (execRdmaInvalid qp _opcode s) :=
  .ite (.next h) (.next (.nak h))

/-! ### Acceptance at the engine -/

theorem State.memoryCanonical.answerX {core x vals} : (s.answerX core x vals).memoryCanonical := .updCore h

theorem State.memoryCanonical.acceptOp {core x} : (s.acceptOp core x).memoryCanonical := by
  rw [State.acceptOp]
  split
  · exact .gangAccept h
  · exact .gangAccept h
  · exact .acceptPubOp h
  · split
    · exact .acceptSub h
    · exact h
  · split
    · exact .acceptUnsub h
    · exact h
  · exact .acceptRecv h
  · exact .acceptRecv h
  · split
    · exact .answerX h
    · exact h
  · exact .acceptHalo h
  · exact .acceptHaloR h
  · exact .acceptNameq h
  · extract_lets r1
    have hr1 : r1.1.memoryCanonical := .acceptSpawn h
    exact .answerX hr1
  · exact .acceptTinst h
  · exact .acceptBarr h
  · exact .acceptBwait h
  · exact .answerX h
  · exact .acceptBset h
  · exact .migrateRecord h
  · exact .setGrove h
  · exact .setGrove h
  · exact .setGrove h
  · exact .acceptTarm h
  · exact .setGrove h
  · exact .answerX h
  · exact .answerX h
  · exact .answerX h
  · exact .acceptColl h
  · exact .answerX h
  · exact .acceptSnap h
  · exact .answerX h
  · exact .answerX h
  · exact h

theorem execXOpAccept_canonical {core} : OutcomeCanonical (execXOpAccept core s) := by
  rw [execXOpAccept]
  split
  · exact .next h
  · exact .next (.acceptOp (.updCore h))

theorem State.memoryCanonical.arrive {m} : (s.arrive m).memoryCanonical := by
  rw [State.arrive]
  split
  · exact .packetIn h
  · exact .lanternIn h
  · exact .ringDoneIn h
  · exact .abandonIn h
  · exact .rollbackIn h
  · exact .rootLostIn h

/-! ### Control flow -/

theorem State.memoryCanonical.branchIf {cond t} : (s.branchIf cond t).memoryCanonical := .updCore h

theorem execBr_canonical {a c off} : OutcomeCanonical (execBr a c off s) := by
  rw [execBr]
  exact runOp_canonical h fun _ => .ok (.branchIf h)

theorem execBrp_canonical {a c off} : OutcomeCanonical (execBrp a c off s) := by
  rw [execBrp]
  exact runOp_canonical h fun _ => .ok (.branchIf h)

theorem execBrv_canonical {a c off} : OutcomeCanonical (execBrv a c off s) := by
  rw [execBrv]
  exact runOp_canonical h fun _ => .ite (.ok (.branchIf h)) (.ite (.ok (.branchIf h)) trivial)

theorem execJmp_canonical {target} : OutcomeCanonical (execJmp target s) := by
  rw [execJmp]
  exact runOp_canonical h fun _ => .ok (.branchIf h)

theorem execCall_canonical {d target} : OutcomeCanonical (execCall d target s) := by
  rw [execCall]
  exact runOp_canonical h fun _ => .ok (.branchIf (.writeReg h))

theorem execJr_canonical {a p} : OutcomeCanonical (execJr a p s) := by
  rw [execJr]
  exact runChecked_canonical h fun _ => .ok (.branchIf h)

theorem execJrLink_canonical {d a p} : OutcomeCanonical (execJrLink d a p s) := by
  rw [execJrLink]
  exact runChecked_canonical h fun _ => .ok (.branchIf (.ite (.writeReg h) h))

theorem execRet_canonical {a p} : OutcomeCanonical (execRet a p s) := by
  rw [execRet]
  exact runChecked_canonical h fun _ => .ok (.branchIf h)

theorem execLoop_canonical {d a p imm} : OutcomeCanonical (execLoop d a p imm s) := by
  rw [execLoop]
  exact runOp_canonical h fun _ => .ok (.updCore h)

theorem execLstr_canonical {d b p l} : OutcomeCanonical (execLstr d b p l s) := by
  rw [execLstr]
  exact runOp_canonical h fun _ => .ok (.updCore h)

theorem execTrap_canonical {p code} : OutcomeCanonical (execTrap p code s) := by
  rw [execTrap]
  exact runOp_canonical h fun _ => trivial

theorem execKrd_canonical {d p k} : OutcomeCanonical (execKrd d p k s) := by
  rw [execKrd]
  exact runOp_canonical h fun _ => .ok (.writeReg h)

theorem execKwr_canonical {a p k} : OutcomeCanonical (execKwr a p k s) := by
  rw [execKwr]
  exact runOp_canonical h fun _ => .ite (.ite trivial trivial) (.ok (.updCore h))

theorem execEret_canonical : OutcomeCanonical (execEret s) := by
  rw [execEret]
  exact runOp_canonical h fun _ => .ok (.updCore h)

theorem execLdpw_canonical {d a p imm} : OutcomeCanonical (execLdpw d a p imm s) := by
  rw [execLdpw]
  exact runOp_canonical h fun _ => .ite trivial (.ite trivial (.ok (.ite (.updCore (.writeReg h)) (.writeReg h))))

/-! ### Scalar operations -/

theorem scalarOp_canonical {i lat d v} : OutcomeCanonical (scalarOp i s lat d v) := by
  rw [scalarOp]
  exact runOp_canonical h fun _ => .ok (.writeReg h)

theorem scalarImm_canonical {i d v} : OutcomeCanonical (scalarImm i s d v) := by
  rw [scalarImm]
  exact runOp_canonical h fun _ => .ok (.writeReg h)

theorem addressOp_canonical {i d v} : OutcomeCanonical (addressOp i s d v) := by
  rw [addressOp]
  exact runOp_canonical h fun _ => .ok (.writeReg h)

theorem execNop_canonical : OutcomeCanonical (execNop s) := .next h

theorem execAdd_canonical {d a b p} : OutcomeCanonical (execAdd d a b p s) := scalarOp_canonical h

theorem execIsub_canonical {d a b p} : OutcomeCanonical (execIsub d a b p s) := scalarOp_canonical h

theorem execAnd_canonical {d a b p} : OutcomeCanonical (execAnd d a b p s) := scalarOp_canonical h

theorem execOr_canonical {d a b p} : OutcomeCanonical (execOr d a b p s) := scalarOp_canonical h

theorem execXor_canonical {d a b p} : OutcomeCanonical (execXor d a b p s) := scalarOp_canonical h

theorem execAndn_canonical {d a b p} : OutcomeCanonical (execAndn d a b p s) := scalarOp_canonical h

theorem execShl_canonical {d a b p} : OutcomeCanonical (execShl d a b p s) := scalarOp_canonical h

theorem execShr_canonical {d a b p} : OutcomeCanonical (execShr d a b p s) := scalarOp_canonical h

theorem execSar_canonical {d a b p} : OutcomeCanonical (execSar d a b p s) := scalarOp_canonical h

theorem execMin_canonical {d a b p} : OutcomeCanonical (execMin d a b p s) := scalarOp_canonical h

theorem execMax_canonical {d a b p} : OutcomeCanonical (execMax d a b p s) := scalarOp_canonical h

theorem execMinu_canonical {d a b p} : OutcomeCanonical (execMinu d a b p s) := scalarOp_canonical h

theorem execMaxu_canonical {d a b p} : OutcomeCanonical (execMaxu d a b p s) := scalarOp_canonical h

theorem execBcntPop_canonical {d a p} : OutcomeCanonical (execBcntPop d a p s) := scalarOp_canonical h

theorem execBcntLz_canonical {d a p} : OutcomeCanonical (execBcntLz d a p s) := scalarOp_canonical h

theorem execBcntTz_canonical {d a p} : OutcomeCanonical (execBcntTz d a p s) := scalarOp_canonical h

theorem execMul_canonical {d a b p} : OutcomeCanonical (execMul d a b p s) := scalarOp_canonical h

theorem execMulh_canonical {d a b p} : OutcomeCanonical (execMulh d a b p s) := scalarOp_canonical h

theorem execMulhu_canonical {d a b p} : OutcomeCanonical (execMulhu d a b p s) := scalarOp_canonical h

theorem execDiv_canonical {d a b p} : OutcomeCanonical (execDiv d a b p s) := scalarOp_canonical h

theorem execDivu_canonical {d a b p} : OutcomeCanonical (execDivu d a b p s) := scalarOp_canonical h

theorem execRem_canonical {d a b p} : OutcomeCanonical (execRem d a b p s) := scalarOp_canonical h

theorem execRemu_canonical {d a b p} : OutcomeCanonical (execRemu d a b p s) := scalarOp_canonical h

theorem execAddi_canonical {d a p imm} : OutcomeCanonical (execAddi d a p imm s) := scalarImm_canonical h

theorem execAndi_canonical {d a p imm} : OutcomeCanonical (execAndi d a p imm s) := scalarImm_canonical h

theorem execOri_canonical {d a p imm} : OutcomeCanonical (execOri d a p imm s) := scalarImm_canonical h

theorem execXori_canonical {d a p imm} : OutcomeCanonical (execXori d a p imm s) := scalarImm_canonical h

theorem execShli_canonical {d a p imm} : OutcomeCanonical (execShli d a p imm s) := scalarImm_canonical h

theorem execShri_canonical {d a p imm} : OutcomeCanonical (execShri d a p imm s) := scalarImm_canonical h

theorem execSari_canonical {d a p imm} : OutcomeCanonical (execSari d a p imm s) := scalarImm_canonical h

theorem execLi_canonical {d imm} : OutcomeCanonical (execLi d imm s) := scalarImm_canonical h

theorem execLsh_canonical {d imm} : OutcomeCanonical (execLsh d imm s) := scalarImm_canonical h

theorem execCmp_canonical {d a b p cc} : OutcomeCanonical (execCmp d a b p cc s) := scalarOp_canonical h

theorem execCmpp_canonical {d a b p cc} : OutcomeCanonical (execCmpp d a b p cc s) := by
  rw [execCmpp]
  exact runOp_canonical h fun _ => .ok (.writeReg h)

theorem execSel_canonical {d a b p q} : OutcomeCanonical (execSel d a b p q s) := scalarOp_canonical h

theorem execAdda_canonical {d a b p} : OutcomeCanonical (execAdda d a b p s) := addressOp_canonical h

theorem execMovaAS_canonical {d a p} : OutcomeCanonical (execMovaAS d a p s) := addressOp_canonical h

theorem execMovaSA_canonical {d a p} : OutcomeCanonical (execMovaSA d a p s) := scalarOp_canonical h

theorem execMovaAA_canonical {d a p} : OutcomeCanonical (execMovaAA d a p s) := addressOp_canonical h

theorem execMovaSN_canonical {d a p} : OutcomeCanonical (execMovaSN d a p s) := scalarOp_canonical h

/-! ### Every instruction -/

/-- Whatever an instruction or an event does, it keeps memory canonical. -/
theorem exec_canonical : ∀ i : Sys2Proof.Instr, OutcomeCanonical (exec i s)
  | .nop => execNop_canonical h
  | .add .. => execAdd_canonical h
  | .isub .. => execIsub_canonical h
  | .and .. => execAnd_canonical h
  | .or .. => execOr_canonical h
  | .xor .. => execXor_canonical h
  | .andn .. => execAndn_canonical h
  | .shl .. => execShl_canonical h
  | .shr .. => execShr_canonical h
  | .sar .. => execSar_canonical h
  | .min .. => execMin_canonical h
  | .max .. => execMax_canonical h
  | .minu .. => execMinu_canonical h
  | .maxu .. => execMaxu_canonical h
  | .bcntPop .. => execBcntPop_canonical h
  | .bcntLz .. => execBcntLz_canonical h
  | .bcntTz .. => execBcntTz_canonical h
  | .mul .. => execMul_canonical h
  | .mulh .. => execMulh_canonical h
  | .mulhu .. => execMulhu_canonical h
  | .div .. => execDiv_canonical h
  | .divu .. => execDivu_canonical h
  | .rem .. => execRem_canonical h
  | .remu .. => execRemu_canonical h
  | .addi .. => execAddi_canonical h
  | .andi .. => execAndi_canonical h
  | .ori .. => execOri_canonical h
  | .xori .. => execXori_canonical h
  | .shli .. => execShli_canonical h
  | .shri .. => execShri_canonical h
  | .sari .. => execSari_canonical h
  | .li .. => execLi_canonical h
  | .lsh .. => execLsh_canonical h
  | .cmp .. => execCmp_canonical h
  | .cmpp .. => execCmpp_canonical h
  | .sel .. => execSel_canonical h
  | .adda .. => execAdda_canonical h
  | .movaAS .. => execMovaAS_canonical h
  | .movaSA .. => execMovaSA_canonical h
  | .movaAA .. => execMovaAA_canonical h
  | .movaSN .. => execMovaSN_canonical h
  | .br .. => execBr_canonical h
  | .brp .. => execBrp_canonical h
  | .brv .. => execBrv_canonical h
  | .jmp .. => execJmp_canonical h
  | .jr .. => execJr_canonical h
  | .jrLink .. => execJrLink_canonical h
  | .call .. => execCall_canonical h
  | .ret .. => execRet_canonical h
  | .loop .. => execLoop_canonical h
  | .lstr .. => execLstr_canonical h
  | .trap .. => execTrap_canonical h
  | .krd .. => execKrd_canonical h
  | .kwr .. => execKwr_canonical h
  | .mrd .. => execMrd_canonical h
  | .mwr .. => execMwr_canonical h
  | .ldpw .. => execLdpw_canonical h
  | .eret => execEret_canonical h
  | .vadd .. => execVadd_canonical h
  | .vsub .. => execVsub_canonical h
  | .vmul .. => execVmul_canonical h
  | .vfma .. => execVfma_canonical h
  | .vmin .. => execVmin_canonical h
  | .vmax .. => execVmax_canonical h
  | .vabs .. => execVabs_canonical h
  | .vneg .. => execVneg_canonical h
  | .vand .. => execVand_canonical h
  | .vor .. => execVor_canonical h
  | .vxor .. => execVxor_canonical h
  | .vshl .. => execVshl_canonical h
  | .vshr .. => execVshr_canonical h
  | .vcmp .. => execVcmp_canonical h
  | .vsel .. => execVsel_canonical h
  | .vmovV .. => execVmovV_canonical h
  | .vmovSplat .. => execVmovSplat_canonical h
  | .vmovHS .. => execVmovHS_canonical h
  | .vmovSH .. => execVmovSH_canonical h
  | .vmovPS .. => execVmovPS_canonical h
  | .vmovSP .. => execVmovSP_canonical h
  | .vmovIdx .. => execVmovIdx_canonical h
  | .vcvt .. => execVcvt_canonical h
  | .vqdb .. => execVqdb_canonical h
  | .vcomp .. => execVcomp_canonical h
  | .vexpd .. => execVexpd_canonical h
  | .vperm .. => execVperm_canonical h
  | .vred .. => execVred_canonical h
  | .vsfu .. => execVsfu_canonical h
  | .vext .. => execVext_canonical h
  | .vins .. => execVins_canonical h
  | .vld .. => execVld_canonical h
  | .vst .. => execVst_canonical h
  | .vldl .. => execVldl_canonical h
  | .vstl .. => execVstl_canonical h
  | .pand .. => execPand_canonical h
  | .por .. => execPor_canonical h
  | .pxor .. => execPxor_canonical h
  | .pcnt .. => execPcnt_canonical h
  | .vjadd .. => execVjadd_canonical h
  | .vjsub .. => execVjsub_canonical h
  | .vjmul .. => execVjmul_canonical h
  | .vjfma .. => execVjfma_canonical h
  | .vjmin .. => execVjmin_canonical h
  | .vjmax .. => execVjmax_canonical h
  | .vjcvt .. => execVjcvt_canonical h
  | .vjqdb .. => execVjqdb_canonical h
  | .vjred .. => execVjred_canonical h
  | .vjsfu .. => execVjsfu_canonical h
  | .vjcomp .. => execVjcomp_canonical h
  | .vjexpd .. => execVjexpd_canonical h
  | .vjsel .. => execVjsel_canonical h
  | .vjcmp .. => execVjcmp_canonical h
  | .vjfill .. => execVjfill_canonical h
  | .ld .. => execLd_canonical h
  | .st .. => execSt_canonical h
  | .ldx .. => execLdx_canonical h
  | .stx .. => execStx_canonical h
  | .qld .. => execQld_canonical h
  | .qst .. => execQst_canonical h
  | .qpop .. => execQpop_canonical h
  | .qpopT .. => execQpopT_canonical h
  | .qwait .. => execQwait_canonical h
  | .qwaitAll .. => execQwaitAll_canonical h
  | .fence .. => execFence_canonical h
  | .amoAdd .. => execAmoAdd_canonical h
  | .amoSwap .. => execAmoSwap_canonical h
  | .amoCas .. => execAmoCas_canonical h
  | .amoAnd .. => execAmoAnd_canonical h
  | .amoOr .. => execAmoOr_canonical h
  | .amoXor .. => execAmoXor_canonical h
  | .amoMin .. => execAmoMin_canonical h
  | .amoMax .. => execAmoMax_canonical h
  | .amoMinu .. => execAmoMinu_canonical h
  | .amoMaxu .. => execAmoMaxu_canonical h
  | .amoSeq .. => execAmoSeq_canonical h
  | .copy .. => execCopy_canonical h
  | .cwait .. => execCwait_canonical h
  | .cwaitW .. => execCwaitW_canonical h
  | .ctest .. => execCtest_canonical h
  | .ctestW .. => execCtestW_canonical h
  | .ctestRec .. => execCtestRec_canonical h
  | .ctestAddr .. => execCtestAddr_canonical h
  | .mldb .. => execMldb_canonical h
  | .mjob .. => execMjob_canonical h
  | .mgang .. => execMgang_canonical h
  | .mgangJoin .. => execMgangJoin_canonical h
  | .pub .. => execPub_canonical h
  | .sub .. => execSub_canonical h
  | .unsub .. => execUnsub_canonical h
  | .recv .. => execRecv_canonical h
  | .recva .. => execRecva_canonical h
  | .peek .. => execPeek_canonical h
  | .halo .. => execHalo_canonical h
  | .haloR .. => execHaloR_canonical h
  | .nameq .. => execNameq_canonical h
  | .nameqN .. => execNameqN_canonical h
  | .spawn .. => execSpawn_canonical h
  | .tinst .. => execTinst_canonical h
  | .exit .. => execExit_canonical h
  | .barr .. => execBarr_canonical h
  | .bwait .. => execBwait_canonical h
  | .btest .. => execBtest_canonical h
  | .bset .. => execBset_canonical h
  | .migrate .. => execMigrate_canonical h
  | .tsrc .. => execTsrc_canonical h
  | .tadd .. => execTadd_canonical h
  | .tarm .. => execTarm_canonical h
  | .tdis .. => execTdis_canonical h
  | .tget .. => execTget_canonical h
  | .tgetSlot .. => execTgetSlot_canonical h
  | .tgetRes .. => execTgetRes_canonical h
  | .tset .. => execTset_canonical h
  | .coll .. => execColl_canonical h
  | .colw .. => execColw_canonical h
  | .colt .. => execColt_canonical h
  | .snap .. => execSnap_canonical h
  | .snrd .. => execSnrd_canonical h
  | .snrdRb .. => execSnrdRb_canonical h
  | .exposedResultLand .. => execExposedResultLand_canonical h
  | .stalledBundleIssue .. => execStalledBundleIssue_canonical h
  | .impreciseFault .. => execImpreciseFault_canonical h
  | .xOpAccept .. => execXOpAccept_canonical h
  | .queueRequestSend .. => execQueueRequestSend_canonical h
  | .queueAccessPerform .. => execQueueAccessPerform_canonical h
  | .pageWalk .. => execPageWalk_canonical h
  | .scoreboardEntryRelease .. => execScoreboardEntryRelease_canonical h
  | .vectorJobStart .. => execVectorJobStart_canonical h
  | .vectorJobComplete .. => execVectorJobComplete_canonical h
  | .copyRunPerform .. => execCopyRunPerform_canonical h
  | .copyFinish .. => execCopyFinish_canonical h
  | .mldbLoadStart .. => execMldbLoadStart_canonical h
  | .planeLoaded .. => execPlaneLoaded_canonical h
  | .matrixJobStart .. => execMatrixJobStart_canonical h
  | .matrixJobComplete .. => execMatrixJobComplete_canonical h
  | .governorWindow .. => execGovernorWindow_canonical h
  | .planeTransfer .. => execPlaneTransfer_canonical h
  | .gangWindowExpire .. => execGangWindowExpire_canonical h
  | .gangCompletion .. => execGangCompletion_canonical h
  | .gangArrivalCount .. => execGangArrivalCount_canonical h
  | .launchStartTick .. => execLaunchStartTick_canonical h
  | .taskStart .. => execTaskStart_canonical h
  | .taskAging .. => execTaskAging_canonical h
  | .preemptStart .. => execPreemptStart_canonical h
  | .spillComplete .. => execSpillComplete_canonical h
  | .restoreComplete .. => execRestoreComplete_canonical h
  | .exitDrainEnd .. => execExitDrainEnd_canonical h
  | .recordFree .. => execRecordFree_canonical h
  | .containmentComplete .. => execContainmentComplete_canonical h
  | .tagLeaseRefill .. => execTagLeaseRefill_canonical h
  | .tagLeaseReturn .. => execTagLeaseReturn_canonical h
  | .reservedTagGrant .. => execReservedTagGrant_canonical h
  | .barrierArrival .. => execBarrierArrival_canonical h
  | .migrationArrive .. => execMigrationArrive_canonical h
  | .pubAdmit .. => execPubAdmit_canonical h
  | .admitWindowRoll .. => execAdmitWindowRoll_canonical h
  | .packetForward .. => execPacketForward_canonical h
  | .rootAccept .. => execRootAccept_canonical h
  | .pubRetry .. => execPubRetry_canonical h
  | .landingReserve .. => execLandingReserve_canonical h
  | .subRegister .. => execSubRegister_canonical h
  | .subWithdraw .. => execSubWithdraw_canonical h
  | .chunkLand .. => execChunkLand_canonical h
  | .recvDeliver .. => execRecvDeliver_canonical h
  | .deliveryAckTimeout .. => execDeliveryAckTimeout_canonical h
  | .retentionExpire .. => execRetentionExpire_canonical h
  | .versionUnpin .. => execVersionUnpin_canonical h
  | .nameqQuery .. => execNameqQuery_canonical h
  | .commit .. => execCommit_canonical h
  | .discard .. => execDiscard_canonical h
  | .triadVote .. => execTriadVote_canonical h
  | .keepWriteback .. => execKeepWriteback_canonical h
  | .writebackComplete .. => execWritebackComplete_canonical h
  | .rimFetch .. => execRimFetch_canonical h
  | .counterEvent .. => execCounterEvent_canonical h
  | .triggerOpStart .. => execTriggerOpStart_canonical h
  | .triggerOpComplete .. => execTriggerOpComplete_canonical h
  | .collActivate .. => execCollActivate_canonical h
  | .collSegmentStart .. => execCollSegmentStart_canonical h
  | .collContribution .. => execCollContribution_canonical h
  | .collComplete .. => execCollComplete_canonical h
  | .lanternArrive .. => execLanternArrive_canonical h
  | .chunkWriteout .. => execChunkWriteout_canonical h
  | .pageWriteout .. => execPageWriteout_canonical h
  | .captureReport .. => execCaptureReport_canonical h
  | .remoteRequestArrive .. => execRemoteRequestArrive_canonical h
  | .remoteRetransmit .. => execRemoteRetransmit_canonical h
  | .remoteRequestExpire .. => execRemoteRequestExpire_canonical h
  | .dupEntryRetire .. => execDupEntryRetire_canonical h
  | .tokenVisit .. => execTokenVisit_canonical h
  | .tokenRegenerate => execTokenRegenerate_canonical h
  | .scrubStep .. => execScrubStep_canonical h
  | .loadImage .. => execLoadImage_canonical h
  | .loadImageFirmware .. => execLoadImageFirmware_canonical h
  | .loadImageSupervisor .. => execLoadImageSupervisor_canonical h
  | .launch .. => execLaunch_canonical h
  | .launchSupervisor .. => execLaunchSupervisor_canonical h
  | .migrateCmd .. => execMigrateCmd_canonical h
  | .snapshot .. => execSnapshot_canonical h
  | .rollback .. => execRollback_canonical h
  | .partitionMerge .. => execPartitionMerge_canonical h
  | .partitionSplit .. => execPartitionSplit_canonical h
  | .summary .. => execSummary_canonical h
  | .resetContext .. => execResetContext_canonical h
  | .resetContextClear .. => execResetContextClear_canonical h
  | .resetContextFree .. => execResetContextFree_canonical h
  | .unknownCommand .. => execUnknownCommand_canonical h
  | .rdmaWrite .. => execRdmaWrite_canonical h
  | .rdmaRead .. => execRdmaRead_canonical h
  | .rdmaInvalid _ o => execRdmaInvalid_canonical (_opcode := o) h
  | .faultNotify .. => execFaultNotify_canonical h
  | .moduleReset => execModuleReset_canonical
  | .bringupReport .. => execBringupReport_canonical h
  | .startTimeout => execStartTimeout_canonical h
  | .ptpMessage .. => execPtpMessage_canonical h
  | .ptpMasterLoss .. => execPtpMasterLoss_canonical h
  | .syncSymbol .. => execSyncSymbol_canonical h
  | .powerMeasure .. => execPowerMeasure_canonical h
  | .hotGroveEvent .. => execHotGroveEvent_canonical h
  | .hotGroveClear .. => execHotGroveClear_canonical h
  | .groveWithdraw .. => execGroveWithdraw_canonical h
  | .groveReturn .. => execGroveReturn_canonical h
  | .forcedFlushMove .. => execForcedFlushMove_canonical h
  | .ctxFlush .. => execCtxFlush_canonical h
  | .flushComplete .. => execFlushComplete_canonical h
  | .seedWrite .. => execSeedWrite_canonical h
  | .rootovrWrite .. => execRootovrWrite_canonical h
  | .sliceSplitWrite .. => execSliceSplitWrite_canonical h
  | .partmapWrite .. => execPartmapWrite_canonical h
  | .seamQuiesce .. => execSeamQuiesce_canonical h
  | .seamQuiesced .. => execSeamQuiesced_canonical h
  | .seamQuiesceTimeout .. => execSeamQuiesceTimeout_canonical h
  | .seamOpen .. => execSeamOpen_canonical h
  | .seamClose .. => execSeamClose_canonical h
  | .ilvWrite .. => execIlvWrite_canonical h
  | .hbmClearComplete .. => execHbmClearComplete_canonical h
  | .shootdown .. => execShootdown_canonical h
  | .grantWrite .. => execGrantWrite_canonical h
  | .registerWrite .. => execRegisterWrite_canonical h
  | .softError .. => execSoftError_canonical h
  | .readinessLost .. => execReadinessLost_canonical h
  | .readinessRegained .. => execReadinessRegained_canonical h
  | .landingAcknowledgement .. => execLandingAcknowledgement_canonical h
  | .sequenceNumberFree .. => execSequenceNumberFree_canonical h

/-! ### The issue of a bundle -/

/-- The state after slots, or the answer with which they stop, has canonical memory. -/
def SlotsCanonical : SlotsRun → Prop
  | .ran t _ => t.memoryCanonical
  | .stopped o => OutcomeCanonical o

omit h in
theorem SlotsCanonical.get {r : SlotsRun} {t : State} {out : List (Nat × Latch)} (h : SlotsCanonical r) (e : r = .ran t out) :
    t.memoryCanonical := by
  subst e; exact h

omit h in
theorem SlotsCanonical.stopped {r : SlotsRun} {o : Host.Outcome State Fault Refusal} (h : SlotsCanonical r)
  (e : r = .stopped o) :
    OutcomeCanonical o := by
  subst e; exact h

theorem runSlots_canonical {run out} : SlotsCanonical (runSlots s run out) := by
  induction run generalizing s out with
  | nil => exact h
  | cons x run ih =>
    simp only [runSlots]
    have h1 : ({ s with slot := x.1 }.updCore s.cur fun c => { c with latch := .none }).memoryCanonical := .updCore (.mk h)
    split
    · rename_i e
      refine ih ?_
      split
      · exact h1
      · exact (exec_canonical h1 _).get e
    · exact exec_canonical h1 _

theorem State.memoryCanonical.trunkIssued {core} : (s.trunkIssued core).memoryCanonical :=
  .ite h (.ite (.endSupervisor (.updTrunk h)) (.updTrunk h))

theorem State.memoryCanonical.commitBundle {s0 : State} {jumped} : (s0.commitBundle s jumped).memoryCanonical := .trunkIssued (.updCore h)

theorem State.memoryCanonical.retakeTrap {ktrap ktval reads} : (s.retakeTrap ktrap ktval reads).memoryCanonical :=
  .ite (.updCore h) (.trunkIssued (.updCore (.scrubs h)))

theorem State.memoryCanonical.trapBundle {slot t} : (s.trapBundle slot t).memoryCanonical := .retakeTrap h

theorem State.memoryCanonical.holdBundle : s.holdBundle.memoryCanonical := .updCore h

omit h in
theorem State.memoryCanonical.resolveBundle {s0 s : State} {out : List (Nat × Latch)} (h0 : s0.memoryCanonical)
    (h : s.memoryCanonical) : (s0.resolveBundle s out).memoryCanonical := by
  simp only [State.resolveBundle]
  split
  · exact .retakeTrap h0
  · refine .ite (.holdBundle h0) ?_
    split
    · exact .retakeTrap h0
    · exact .commitBundle h

omit h in
theorem afterSlots_canonical {s0 : State} {run : List (Nat × Sys2Proof.Instr)} (h : s0.memoryCanonical) :
    OptionCanonical (s0.afterSlots run) := by
  simp only [State.afterSlots]
  split
  · rename_i e
    exact .ite trivial (.some ((runSlots_canonical h).get e))
  · trivial

omit h in
theorem cardsFirst_canonical {s0 t : State} {run : List (Nat × Sys2Proof.Instr)} {out : List (Nat × Latch)} {l : List Nat}
    (h : s0.memoryCanonical) (e : s0.cardsFirst run out = some (t, l)) : t.memoryCanonical := by
  simp only [State.cardsFirst] at e
  split at e
  · cases e
  · split_ifs at e
    obtain ⟨u, hu, hx⟩ := Option.map_eq_some_iff.mp e
    obtain ⟨rfl, -⟩ := Prod.mk.inj hx
    exact (afterSlots_canonical h).get hu

omit h in
theorem State.memoryCanonical.endBundle {s0 s : State} {run : List (Nat × Sys2Proof.Instr)} {out : List (Nat × Latch)}
    (h0 : s0.memoryCanonical) (h : s.memoryCanonical) : (s0.endBundle s run out).memoryCanonical := by
  simp only [State.endBundle]
  split
  · rename_i e
    split_ifs at e
    exact .updCore (cardsFirst_canonical h0 e)
  · exact .resolveBundle h0 h

theorem State.memoryCanonical.noteForm {core form} : (s.noteForm core form).memoryCanonical := .ite (.updCore h) h

theorem issueBundle_canonical {core} : OutcomeCanonical (issueBundle s core) := by
  unfold issueBundle
  extract_lets +onlyGivenNames s0 c w ops run
  have h0 : s0.memoryCanonical := .updCore (.mk h)
  clear_value s0
  split
  · exact .next (.retakeTrap h0)
  · split
    · exact .next (.trapBundle h0)
    · exact .next (.holdBundle h0)
    · split
      · rename_i e
        exact (runSlots_canonical h0).stopped e
      · rename_i e
        exact .next (.noteForm (.endBundle h0 ((runSlots_canonical h0).get e)))

/-! ### The choice of events -/

/-- An event keeps memory canonical. -/
def EventCanonical (e : Event) : Prop := ∀ s, s.memoryCanonical → OutcomeCanonical (e s)

/-- The event that a choice gives, where it gives one, keeps memory canonical. -/
def ChoiceCanonical (o : Option Event) : Prop := ∀ e, o = some e → EventCanonical e

omit h in
theorem ChoiceCanonical.none : ChoiceCanonical none := nofun

omit h in
theorem ChoiceCanonical.some {e : Event} (h : ∀ s, s.memoryCanonical → OutcomeCanonical (e s)) : ChoiceCanonical (some e) := by
  rintro _ ⟨⟩; exact h

omit h in
theorem ChoiceCanonical.ite {c : Prop} [Decidable c] {o p : Option Event} (ho : ChoiceCanonical o) (hp : ChoiceCanonical p) :
    ChoiceCanonical (if c then o else p) := by
  split
  · exact ho
  · exact hp

omit h in
theorem ChoiceCanonical.map {α : Type} {f : α → Event} {o : Option α} (h : ∀ a s, s.memoryCanonical → OutcomeCanonical (f a s))
  :
    ChoiceCanonical (o.map f) := by
  cases o with
  | none => exact .none
  | some a => exact .some (h a)

omit h in
theorem ChoiceCanonical.findSome {α : Type} {f : α → Option Event} {l : List α} (h : ∀ a, ChoiceCanonical (f a)) :
    ChoiceCanonical (l.findSome? f) := by
  intro e he
  obtain ⟨a, -, ha⟩ := List.exists_of_findSome?_eq_some he
  exact h a e ha

omit h in
theorem ChoiceCanonical.evIf {c : Bool} {e : Event} (h : ∀ s, s.memoryCanonical → OutcomeCanonical (e s)) :
    ChoiceCanonical (evIf c e) := .ite (.some h) .none

omit h in
theorem ChoiceCanonical.last : ChoiceCanonical (firstEv []) := .none

omit h in
theorem ChoiceCanonical.first {o : Option Event} {l : List (Option Event)} (ho : ChoiceCanonical o)
    (hl : ChoiceCanonical (firstEv l)) : ChoiceCanonical (firstEv (o :: l)) := by
  cases o with
  | none => exact hl
  | some e => exact ho

omit h in
theorem ChoiceCanonical.evMoves {s : State} {e : Event} (h : ∀ s, s.memoryCanonical → OutcomeCanonical (e s)) :
    ChoiceCanonical (s.evMoves e) := .evIf h

omit h in
theorem entryEvent_choice {s : State} {k q i : Nat} {e : QEntry} : ChoiceCanonical (s.entryEvent k q e i) := by
  simp only [State.entryEvent]
  refine .ite .none ?_
  split
  · exact .some fun _ h => execPageWalk_canonical h
  · exact .first (.evIf fun _ h => execQueueAccessPerform_canonical h) <|
      .first (.evIf fun _ h => execRemoteRequestExpire_canonical h) <|
      .first (.evIf fun _ h => execRemoteRetransmit_canonical h) .last
  · exact .evIf fun _ h => execQueueAccessPerform_canonical h
  · exact .some fun _ h => execQueueAccessPerform_canonical h

omit h in
theorem queueEvent_choice {s : State} {k : Nat} : ChoiceCanonical (s.queueEvent k) := by
  refine .findSome fun q => ?_
  dsimp only
  split
  · rename_i e
    split at e
    · split_ifs at e <;> obtain rfl := Option.some.inj e
      · exact .some fun _ h => execSequenceNumberFree_canonical h
      · exact .some fun _ h => execQueueRequestSend_canonical h
    · cases e
  · exact .findSome fun _ => entryEvent_choice

omit h in
theorem copyEvent_choice {s : State} {k : Nat} {j : Job} : ChoiceCanonical (s.copyEvent k j) := by
  simp only [State.copyEvent]
  split
  · split
    · exact .some fun _ h => execPageWalk_canonical h
    · exact .map fun _ _ h => execCopyRunPerform_canonical h
  · exact .none

omit h in
theorem jobEvent_choice {s : State} {k : Nat} {j : Job} : ChoiceCanonical (s.jobEvent k j) := by
  simp only [State.jobEvent]
  split
  · exact copyEvent_choice
  · exact .evIf fun _ h => execRecvDeliver_canonical h
  · exact .evIf fun _ h => execRecvDeliver_canonical h
  · exact .none

omit h in
theorem collEvents_choice {s : State} {k : Nat} {cls : Bool} : ChoiceCanonical (s.collEvents k cls) :=
  .first (.evIf fun _ h => execCollActivate_canonical h) <| .first (.evIf fun _ h => execCollSegmentStart_canonical h) <|
    .first (.evIf fun _ h => execCollComplete_canonical h) .last

omit h in
theorem coreEarly_choice {s : State} {k : Nat} : ChoiceCanonical (s.coreEarly k) := by
  refine .first ?_ <| .first ?_ <| .first ?_ <| .first ?_ <| .first queueEvent_choice <|
    .first (.findSome fun _ => jobEvent_choice) <|
    .first (.ite .none <| .first collEvents_choice <| .first collEvents_choice .last) .last
  · split
    · exact .evIf fun _ h => execRestoreComplete_canonical h
    · exact .none
  · split
    · exact .evIf fun _ h => execVectorJobStart_canonical h
    · exact .none
  · split
    · exact .evIf fun _ h => execMldbLoadStart_canonical h
    · exact .none
  · split
    · exact .evIf fun _ h => execMatrixJobStart_canonical h
    · exact .none

omit h in
theorem gangEvent_choice {s : State} {g : Nat} {G : GangJob} : ChoiceCanonical (s.gangEvent g G) :=
  .first (.map fun _ _ h => execPlaneTransfer_canonical h) <| .first (.evIf fun _ h => execGangWindowExpire_canonical h) <|
    .first (.evIf fun _ h => execGangCompletion_canonical h) .last

omit h in
theorem recordEvent_choice {s : State} {g i : Nat} {t : TaskRec} : ChoiceCanonical (s.recordEvent g i t) :=
  .first (.evIf fun _ h => execTaskAging_canonical h) <| .first (.evIf fun _ h => execSpillComplete_canonical h) <|
    .first (.evIf fun _ h => execExitDrainEnd_canonical h) <| .first (.evIf fun _ h => execRecordFree_canonical h) <|
    .first (.evIf fun _ h => execContainmentComplete_canonical h) .last

omit h in
theorem tagEvent_choice {s : State} {g : Nat} {gr : Grove} : ChoiceCanonical (s.tagEvent g gr) :=
  .first (.findSome fun _ => .evIf fun _ h => execTagLeaseRefill_canonical h) <|
    .first (.findSome fun _ => .evIf fun _ h => execTagLeaseReturn_canonical h) <|
    .first (.findSome fun _ => .evIf fun _ h => execReservedTagGrant_canonical h) <|
    .first (.findSome fun _ => .evIf fun _ h => execReservedTagGrant_canonical h) .last

omit h in
theorem pubEvent_choice {s : State} {g k : Nat} {p : PubOp} : ChoiceCanonical (s.pubEvent g p k) :=
  .ite .none <| .ite (.some fun _ h => execPubRetry_canonical h) (.some fun _ h => execPubAdmit_canonical h)

omit h in
theorem versionEvent_choice {s : State} {g k : Nat} {gr : Grove} {v : Version} : ChoiceCanonical (s.versionEvent g gr v k) :=
  .first (.evIf fun _ h => execTriadVote_canonical h) <| .first (.evIf fun _ h => execDeliveryAckTimeout_canonical h) <|
    .first (.evIf fun _ h => execRetentionExpire_canonical h) .last

omit h in
theorem slotEvent_choice {s : State} {g k : Nat} {t : Slot} : ChoiceCanonical (s.slotEvent g k t) := by
  simp only [State.slotEvent]
  refine .ite .none ?_
  split
  · exact .some fun _ h => execPageWalk_canonical h
  · exact .ite .none <| .first (.evIf fun _ h => execRemoteRequestExpire_canonical h) <|
      .first (.evIf fun _ h => execRemoteRetransmit_canonical h) .last
  · exact .none

omit h in
theorem groveEarly_choice {s : State} {e : Nat × Grove} : ChoiceCanonical (s.groveEarly e) :=
  .first (.evIf fun _ h => execGovernorWindow_canonical h) <|
    .first (.findSome fun _ => gangEvent_choice) <|
    .first (.findSome fun _ => recordEvent_choice) <|
    .first (.evIf fun _ h => execTaskStart_canonical h) <|
    .first (.evIf fun _ h => execPreemptStart_canonical h) <|
    .first tagEvent_choice <|
    .first (.evIf fun _ h => execTriggerOpStart_canonical h) <|
    .first (.findSome fun _ => slotEvent_choice) <|
    .first (.evIf fun _ h => execAdmitWindowRoll_canonical h) <|
    .first (.findSome fun _ => pubEvent_choice) <|
    .first (.findSome fun _ => .evIf fun _ h => execPubAdmit_canonical h) <|
    .first (.ite (.evMoves fun _ h => execLandingReserve_canonical h) .none) <|
    .first (.findSome fun _ => versionEvent_choice) <|
    .first (.findSome fun _ => .evIf fun _ h => execRetentionExpire_canonical h) <|
    .first (.ite (.evMoves fun _ h => execHotGroveEvent_canonical h) .none) <|
    .first (.evIf fun _ h => execGroveWithdraw_canonical h) <|
    .first (.ite (.evMoves fun _ h => execGroveReturn_canonical h) .none) .last

omit h in
theorem packetTaken_choice {p : Pkt} {k : Nat} : ChoiceCanonical (packetTaken p k) := by
  simp only [packetTaken]
  split
  · exact .some fun _ h => execRootAccept_canonical h
  · exact .some fun _ h => execSubRegister_canonical h
  · exact .some fun _ h => execSubWithdraw_canonical h
  · exact .some fun _ h => execChunkLand_canonical h
  · exact .some fun _ h => execLandingAcknowledgement_canonical h
  · exact .some fun _ h => execVersionUnpin_canonical h
  · exact .some fun _ h => execCommit_canonical h
  · exact .some fun _ h => execDiscard_canonical h
  · exact .some fun _ h => execNameqQuery_canonical h
  · exact .some fun _ h => execWritebackComplete_canonical h
  · exact .some fun _ h => execMigrationArrive_canonical h
  · exact .some fun _ h => .next (.requestTaken h)
  · exact .some fun _ h => execCollContribution_canonical h
  · exact .none
  · exact .some fun _ h => execPacketForward_canonical h

omit h in
theorem packetEvent_choice {s : State} {p : Pkt} {k : Nat} : ChoiceCanonical (s.packetEvent p k) := by
  refine .ite .none <| .ite (.ite packetTaken_choice .none) <| .evIf fun s h => ?_
  cases p.kind
  case unsub => exact execSubWithdraw_canonical h
  all_goals exact execPacketForward_canonical h

omit h in
theorem snapEvent_choice {s : State} {sn : Snap} : ChoiceCanonical (s.snapEvent sn) := by
  refine .ite .none <| .first (.findSome fun _ => .findSome fun _ => .evIf fun _ h => execLanternArrive_canonical h) <|
    .first (.findSome fun _ => .map fun _ _ h => execChunkWriteout_canonical h) <| .first (.ite ?_ .none) <|
    .first (.findSome fun _ => .evIf fun _ h => execCaptureReport_canonical h) .last
  split
  · exact .evMoves fun _ h => execPageWriteout_canonical h
  · exact .none

omit h in
theorem rimEvent_choice {s : State} {e : Nat × Rim} : ChoiceCanonical (s.rimEvent e) :=
  .findSome fun _ => .first (.evIf fun _ h => execRimFetch_canonical h) <| .first (.evIf fun _ h => execKeepWriteback_canonical h) .last

omit h in
theorem ctxEvent_choice {s : State} {e : Nat × Context} : ChoiceCanonical (s.ctxEvent e) :=
  .first (.evIf fun _ h => execLaunchStartTick_canonical h) <| .first (.evIf fun _ h => execFlushComplete_canonical h) <|
    .first (.evIf fun _ h => execForcedFlushMove_canonical h) .last

omit h in
theorem trunkEvent_choice {s : State} : ChoiceCanonical s.trunkEvent := by
  refine .first (.findSome fun _ => ?_) <| .first (.findSome fun _ => ?_) <|
    .first (.findSome fun _ => .evIf fun _ h => execExitDrainEnd_canonical h) <|
    .first (.findSome fun _ => .evIf fun _ h => execHbmClearComplete_canonical h) <|
    .first (.findSome fun _ => .evIf fun _ h => execRollback_canonical h) <| .first ?_ <|
    .first (.evIf fun _ h => execFaultNotify_canonical h) <|
    .first (.evIf fun _ h => execTokenRegenerate_canonical h) <|
    .first (.evIf fun _ h => execTokenVisit_canonical h) <|
    .first (.findSome fun _ => .evIf fun _ h => execScrubStep_canonical h) <|
    .first (.findSome fun _ => .findSome fun _ => .evIf fun _ h => execDupEntryRetire_canonical h) <|
    .first (.evIf fun _ h => execStartTimeout_canonical h) .last
  · split
    · exact .evMoves fun _ h => execSeamQuiesce_canonical h
    · exact .none
  · split
    · exact .ite (.some fun _ h => execSeamQuiesceTimeout_canonical h) (.evIf fun _ h => execSeamQuiesced_canonical h)
    · exact .none
  · split
    · refine .evIf fun _ h => ?_
      split
      · exact execPartitionMerge_canonical h
      · exact execPartitionSplit_canonical h
    · exact .none

omit h in
theorem snapFirst_choice {s : State} : ChoiceCanonical (snapFirst s) := .findSome fun _ => snapEvent_choice

omit h in
theorem earlyEvent_choice {s : State} : ChoiceCanonical (earlyEvent s) :=
  .first (.map fun _ _ h => execStalledBundleIssue_canonical h) <|
    .first (.findSome fun _ => ctxEvent_choice) <|
    .first (.findSome fun _ => packetEvent_choice) <|
    .first (.findSome fun _ => groveEarly_choice) <|
    .first (.findSome fun _ => rimEvent_choice) <|
    .first trunkEvent_choice <|
    .first (.findSome fun _ => coreEarly_choice) .last

omit h in
theorem coreLate_choice {s : State} {k : Nat} : ChoiceCanonical (s.coreLate k) := by
  refine .first (.evIf fun _ h => execXOpAccept_canonical h) <|
    .first (.evIf fun _ h => execExposedResultLand_canonical h) <|
    .first (.map fun _ _ h => execScoreboardEntryRelease_canonical h) <| .first ?_ <| .first ?_ <|
    .first (.evIf fun _ h => execPlaneLoaded_canonical h) <| .first (.findSome fun _ => ?_) .last
  · split
    · exact .evIf fun _ h => execVectorJobComplete_canonical h
    · exact .none
  · split
    · exact .evIf fun _ h => execMatrixJobComplete_canonical h
    · exact .none
  · split
    · exact .evIf fun _ h => execCopyFinish_canonical h
    · exact .none

omit h in
theorem groveLate_choice {s : State} {e : Nat × Grove} : ChoiceCanonical (s.groveLate e) :=
  .first (.map fun _ _ h => execGangArrivalCount_canonical h) <| .first (.map fun _ _ h => execBarrierArrival_canonical h) <|
    .first (.map fun _ _ h => execTriggerOpComplete_canonical h) .last

omit h in
theorem lateEvent_choice {s : State} : ChoiceCanonical (lateEvent s) :=
  .first (.findSome fun _ => coreLate_choice) <|
    .first (.findSome fun _ => groveLate_choice) <|
    .first (.map fun _ _ h => execImpreciseFault_canonical h) <|
    .first (.findSome fun _ => .map fun _ _ h => execCounterEvent_canonical h) .last

theorem State.memoryCanonical.midClock : s.midClock.memoryCanonical :=
  .mk (State.memoryCanonical.copyClock (.matrixClock h))

theorem State.memoryCanonical.drainBuffers : s.drainBuffers.memoryCanonical := .mk h

theorem State.memoryCanonical.tickClock : s.tickClock.memoryCanonical :=
  .watchStarts (.mk (State.memoryCanonical.drainBuffers h))

/-! ### One step -/

theorem stepEarly_canonical : OutcomeCanonical (stepEarly s) := by
  simp only [stepEarly]
  split
  · rename_i e
    exact snapFirst_choice _ e s h
  · split
    · exact issueBundle_canonical h
    · split
      · rename_i e
        exact earlyEvent_choice _ e s h
      · exact .next (.midClock h)

theorem stepLate_canonical : OutcomeCanonical (stepLate s) := by
  simp only [stepLate]
  split
  · rename_i e
    exact lateEvent_choice _ e s h
  · exact .next (.tickClock h)

theorem step_canonical : OutcomeCanonical (step s) := by
  simp only [step]
  split
  · exact .next (.arrive (.mk h))
  · split
    · exact exec_canonical (.mk h) _
    · split
      · exact issueBundle_canonical h
      · exact .ite (stepLate_canonical h) (stepEarly_canonical h)

end

/-- Settles O59: every answer of a step, whatever it runs, is a state with canonical memory. -/
theorem memoryStaysCanonical : Obligations.MemoryStaysCanonical := by
  intro s t h e
  exact (step_canonical h).get e

end Sys2Proof.Machine
end

section
/-!
PROOF. RDMA, readiness, fault notices, module reset and soft errors (O52; R50, R51, R401, R412, R413, R421, R425 to R427): what the
readiness map reads after it is changed; that what a withdrawal or a loss does to contexts, records and triggers leaves the map
and the token alone; then each form.
-/

namespace Sys2Proof.Machine

/-! ### The forms -/

theorem exec_rdmaWrite (qp rkey addr : Nat) (data : List Byte) (s : State) :
    exec (.rdmaWrite qp rkey addr data) s = execRdmaWrite qp rkey addr data s := rfl
theorem exec_rdmaRead (qp rkey addr len : Nat) (s : State) :
    exec (.rdmaRead qp rkey addr len) s = execRdmaRead qp rkey addr len s := rfl
theorem exec_rdmaInvalid (qp o : Nat) (s : State) : exec (.rdmaInvalid qp o) s = execRdmaInvalid qp o s := rfl
theorem exec_faultNotify (k : Nat) (s : State) : exec (.faultNotify k) s = execFaultNotify k s := rfl
theorem exec_bringupReport (kind idx : Nat) (ready : Bool) (info : Nat) (s : State) :
    exec (.bringupReport kind idx ready info) s = execBringupReport kind idx ready info s := rfl
theorem exec_startTimeout (s : State) : exec .startTimeout s = execStartTimeout s := rfl
theorem exec_groveWithdraw (g reason : Nat) (s : State) : exec (.groveWithdraw g reason) s = execGroveWithdraw g reason s := rfl
theorem exec_readinessLost (kind idx : Nat) (s : State) : exec (.readinessLost kind idx) s = execReadinessLost kind idx s := rfl
theorem exec_readinessRegained (kind idx : Nat) (s : State) :
    exec (.readinessRegained kind idx) s = execReadinessRegained kind idx s := rfl
theorem exec_groveReturn (g : Nat) (s : State) : exec (.groveReturn g) s = execGroveReturn g s := rfl
theorem exec_softError (addr bit : Nat) (s : State) : exec (.softError addr bit) s = execSoftError addr bit s := rfl

/-! ### The readiness map -/

@[simp] theorem Readiness.groveByte_setGrove_same (r : Readiness) (g b : Nat) : (r.setGrove g b).groveByte g = b := by
  by_cases h : b = 0
  · simp [Readiness.setGrove, Readiness.groveByte, Tbl.getD, h]
  · simp [Readiness.setGrove, Readiness.groveByte, h]

@[simp] theorem Readiness.gen_setGrove (r : Readiness) (g b : Nat) : (r.setGrove g b).gen = r.gen := rfl
@[simp] theorem Readiness.reported_setGrove (r : Readiness) (g b : Nat) : (r.setGrove g b).reported = r.reported := rfl

/-- A grove is ready when its byte is odd (R425). -/
theorem State.groveReady_eq (s : State) (g : Nat) : s.groveReady g = decide (s.ready.groveByte g % 2 = 1) :=
  Nat.testBit_zero _

@[simp] theorem Readiness.gen_mark_rim (r : Readiness) (k : Nat) (b : Bool) : (r.mark 1 k b).gen = r.gen := rfl

/-- The ready bit of a rim field that has been marked. -/
theorem Readiness.rims_mark_same (r : Readiness) {k : Nat} (b : Bool) (h : k < 12) : (r.mark 1 k b).rims.getLsbD k = b := by
  cases b <;> simp [Readiness.mark, Readiness.assign, h]

@[simp] theorem State.gen_mapChange (s : State) (f : Readiness → Readiness) :
    (s.mapChange f).ready.gen = ((f s.ready).gen + 1) % 2 ^ 32 := rfl
@[simp] theorem State.rims_mapChange (s : State) (f : Readiness → Readiness) : (s.mapChange f).ready.rims = (f s.ready).rims := rfl
@[simp] theorem State.reported_mapChange (s : State) (f : Readiness → Readiness) :
    (s.mapChange f).ready.reported = (f s.ready).reported := rfl
@[simp] theorem State.groveByte_mapChange (s : State) (f : Readiness → Readiness) (g : Nat) :
    (s.mapChange f).ready.groveByte g = (f s.ready).groveByte g := rfl

@[simp] theorem State.ready_placeToken (s : State) : s.placeToken.ready = s.ready := by
  unfold State.placeToken
  split <;> rfl
@[simp] theorem State.ready_noteStart (s : State) : s.noteStart.ready = s.ready := by
  unfold State.noteStart
  split <;> rfl
@[simp] theorem State.ready_endBringup (s : State) : s.endBringup.ready = s.ready := by
  unfold State.endBringup
  split <;> rfl

/-! ### What contexts, records and triggers lose leaves the map and the token alone -/

/-- The readiness map, and whether the token is lost. -/
def State.service (s : State) : Readiness × Bool := (s.ready, s.trunk.tokenLost)

theorem State.ready_of_service {s u : State} (h : u.service = s.service) : u.ready = s.ready := congrArg Prod.fst h
theorem State.tokenLost_of_service {s u : State} (h : u.service = s.service) : u.trunk.tokenLost = s.trunk.tokenLost :=
  congrArg Prod.snd h

theorem State.service_updCore (s : State) (k : Nat) (f : Core → Core) : (s.updCore k f).service = s.service := rfl
theorem State.service_updGrove (s : State) (g : Nat) (f : Grove → Grove) : (s.updGrove g f).service = s.service := rfl
theorem State.service_setGrove (s : State) (g : Nat) (x : Grove) : (s.setGrove g x).service = s.service := rfl
theorem State.service_updCtx (s : State) (c : Nat) (f : Context → Context) : (s.updCtx c f).service = s.service := rfl
theorem State.service_updTask (s : State) (g i : Nat) (f : TaskRec → TaskRec) : (s.updTask g i f).service = s.service := rfl

/-- What every step of a fold keeps, the fold keeps. -/
theorem State.service_foldl {α : Type} {f : State → α → State} (hf : ∀ s a, (f s a).service = s.service) (l : List α) (s : State) :
    (l.foldl f s).service = s.service := by
  induction l generalizing s with
  | nil => rfl
  | cons a l ih => exact (ih _).trans (hf s a)

theorem State.service_sendTo (s : State) (ctx : Nat) (name : Name) (kind : PktKind) (src pos : Nat) (express : Bool) (inj : Nat)
    (data : Payload) (wid : Word) : (s.sendTo ctx name kind src pos express inj data wid).service = s.service := by
  simp only [State.sendTo, State.emit]
  split <;> rfl

theorem State.service_setLeafSnap (s : State) (key v : Nat) : (s.setLeafSnap key v).service = s.service := by
  unfold State.setLeafSnap
  split <;> rfl

theorem State.service_ite {c : Prop} [Decidable c] {s a b : State} (ha : a.service = s.service) (hb : b.service = s.service) :
    (if c then a else b).service = s.service := by
  split
  · exact ha
  · exact hb

theorem State.service_abandonHere (s : State) (ctx code : Nat) : (s.abandonHere ctx code).service = s.service := by
  unfold State.abandonHere
  split
  · rfl
  · refine (State.service_foldl (fun s n => ?_) _ _).trans ((State.service_foldl (fun s u => ?_) _ _).trans
      (State.service_foldl (fun s e => ?_) _ _))
    · refine State.service_ite ?_ ((State.service_updGrove ..).trans ?_)
      all_goals exact (State.service_foldl (fun s e => by split <;> rfl) _ _).trans (State.service_foldl (fun s e => by rfl) _ _)
    · exact State.service_ite rfl rfl
    · exact State.service_ite (s.service_setLeafSnap _ _) rfl

theorem State.service_startHold (s : State) (ctx : Nat) : (s.startHold ctx).service = s.service := by
  refine State.service_ite rfl ?_
  simp only [State.service_updCtx, State.abandonSnap]
  split
  · rfl
  · exact s.service_abandonHere ctx 9

theorem State.service_faultTileAt (s : State) (tick g ctx : Nat) (t : TileInfo) (task : Option (Nat × TaskRec)) (wid : Word) :
    (s.faultTileAt tick g ctx t task wid).service = s.service := State.service_ite rfl rfl

theorem State.service_loseCtx (s : State) (ctx idx : Nat) : (s.loseCtx ctx idx).service = s.service :=
  State.service_faultTileAt ..

theorem State.service_loseTriggers (s : State) (g : Nat) : (s.loseTriggers g).service = s.service := by
  refine (State.service_updGrove ..).trans (State.service_foldl (fun s e => ?_) _ s)
  exact State.service_ite (State.service_faultTileAt ..) rfl

theorem State.service_endReg (s : State) (pos : Nat) (r : SubReg) : (s.endReg pos r).service = s.service :=
  State.service_ite rfl rfl

theorem State.service_withdraw (s : State) (g id : Nat) : (s.withdraw g id).service = s.service := by
  unfold State.withdraw
  split
  · rfl
  · refine State.service_ite rfl ?_
    exact State.service_foldl (fun s pos => State.service_ite (State.service_sendTo ..) (State.service_endReg ..)) _ _

theorem State.service_withdrawOf (s : State) (g i : Nat) (sel : Sub → Bool) : (s.withdrawOf g i sel).service = s.service :=
  State.service_foldl (fun _ _ => State.service_withdraw ..) _ s

theorem State.service_unpinTask (s : State) (g i : Nat) : (s.unpinTask g i).service = s.service := by
  unfold State.unpinTask
  split
  · rfl
  · exact State.service_foldl (fun s p => State.service_sendTo ..) _ s

theorem State.service_dropFrame (s : State) (g : Nat) (f : Option Nat) : (s.dropFrame g f).service = s.service := by
  unfold State.dropFrame
  split <;> rfl

theorem State.service_updPool (s : State) (ctx level : Nat) (group : Word) (f : Pool → Pool) :
    (s.updPool ctx level group f).service = s.service := State.service_ite rfl rfl

theorem State.service_settlePools (s : State) (ctx : Nat) : (s.settlePools ctx).service = s.service :=
  State.service_ite rfl <| State.service_foldl (fun _ _ => State.service_ite rfl (State.service_updPool ..)) _ _

theorem State.service_returnTag (s : State) (g i : Nat) (r : TaskRec) : (s.returnTag g i r).service = s.service := by
  unfold State.returnTag
  split
  · rfl
  · refine State.service_ite rfl ((State.service_settlePools ..).trans ?_)
    exact State.service_ite (State.service_updPool ..) (State.service_ite rfl (State.service_updPool ..))

theorem State.service_freeRecord (s : State) (g i : Nat) : (s.freeRecord g i).service = s.service := by
  unfold State.freeRecord
  split
  · rfl
  · refine (State.service_returnTag ..).trans ?_
    refine (State.service_dropFrame ..).trans ((State.service_withdrawOf ..).trans ?_)
    exact (State.service_withdrawOf ..).trans (State.service_unpinTask ..)

theorem State.service_moveSpawner (s : State) (g d ctx : Nat) (wid : Word) : (s.moveSpawner g d ctx wid).service = s.service :=
  State.service_foldl (fun _ l => by rfl) _ _

theorem State.service_sendRecord (s : State) (g i d idx : Nat) (t : TaskRec) (inst : Bool) :
    (s.sendRecord g i d idx t inst).service = s.service :=
  (State.service_sendTo ..).trans ((State.service_moveSpawner ..).trans (State.service_withdrawOf ..))

theorem State.service_migrateRecord (s : State) (g i dest : Nat) (withdrawal : Bool) (ok : Nat → Bool) :
    (s.migrateRecord g i dest withdrawal ok).service = s.service := by
  have sent (dest d idx : Nat) (t : TaskRec) : ((s.setMig g dest i 5).sendRecord g i d idx t false).service = s.service :=
    State.service_sendRecord ..
  unfold State.migrateRecord State.moveRecord
  split
  · rfl
  · refine State.service_ite rfl <| State.service_ite ?_ <| State.service_ite rfl ?_
    · split
      · rfl
      · split
        · rfl
        · exact sent ..
    · split
      · rfl
      · exact sent ..

theorem State.service_withdrawRecord (s : State) (g i : Nat) (lost : Bool) : (s.withdrawRecord g i lost).service = s.service := by
  unfold State.withdrawRecord
  split
  · rfl
  · split
    · exact State.service_ite (State.service_ite (State.service_loseCtx ..) rfl) rfl
    · exact State.service_freeRecord ..
    · rfl
    · exact State.service_ite (State.service_loseCtx ..) rfl
    · exact State.service_migrateRecord ..

/-! ### Functions that report, leave readiness and regain it (R401, R426) -/

/-- A ready grove that is withdrawn leaves the map with its reason; all else that happens to it keeps the map. -/
theorem groveWithdraw_ready {s : State} {g : Nat} (reason : Nat) (hr : s.groveReady g = true) :
    ∃ t : State, exec (.groveWithdraw g reason) s = .next (t.updGrove g fun gr => { gr with cool := none }) ∧
      t.ready = (s.mapChange fun r => r.setGrove g (r.groveByte g / 2 * 2 % 16 + reason % 16 * 16)).ready := by
  simp only [exec_groveWithdraw, execGroveWithdraw, hr, Bool.not_true, Bool.false_eq_true, if_false]
  refine ⟨_, rfl, State.ready_of_service ?_⟩
  refine (State.service_foldl (fun s i => State.service_withdrawRecord ..) _ _).trans ((State.service_loseTriggers ..).trans ?_)
  refine (State.service_foldl (fun s c => State.service_loseCtx ..) _ _).trans ?_
  refine (State.service_foldl (fun s c => by rfl) _ _).trans ?_
  exact (State.service_foldl (fun s c => State.service_startHold ..) _ _).trans (State.service_ite rfl rfl)

theorem groveWithdraw_withdraws {s : State} {g : Nat} (reason : Nat) (hr : s.groveReady g = true) :
    ∃ u, exec (.groveWithdraw g reason) s = .next u ∧ u.ready.gen = (s.ready.gen + 1) % 2 ^ 32 ∧
      u.ready.groveByte g = s.ready.groveByte g / 2 * 2 % 16 + reason % 16 * 16 ∧ u.groveReady g = false ∧
      (u.grove g).cool = none := by
  obtain ⟨t, he, ht⟩ := groveWithdraw_ready reason hr
  have hb : t.ready.groveByte g = s.ready.groveByte g / 2 * 2 % 16 + reason % 16 * 16 := by simp [ht]
  refine ⟨_, he, by simp [ht], by simpa using hb, ?_, by simp⟩
  rw [State.groveReady_eq, State.ready_updGrove, hb, decide_eq_false_iff_not]
  omega

/-- A rim field in service that is lost leaves the map, and the token with it when it stands there; what its contexts lose
keeps both. -/
theorem readinessLost_service {s : State} {k : Nat} (hr : s.ready.rims.getLsbD k = true) :
    ∃ u : State, exec (.readinessLost 1 k) s = .next u ∧ u.ready = (s.mapChange fun r => r.mark 1 k false).ready ∧
      u.trunk.tokenLost = (s.trunk.tokenLost || decide (s.trunk.token = k)) := by
  have lost (a : State) (c : Prop) [Decidable c] : (if c then a.updTrunk fun t => { t with tokenLost := true } else a).service =
      (a.ready, a.trunk.tokenLost || decide c) := by
    by_cases hc : c
    · simp only [hc, decide_true, Bool.or_true]; rfl
    · simp only [hc, decide_false, Bool.or_false]; rfl
  simp only [exec_readinessLost, execReadinessLost, hr, Bool.not_true, Bool.false_eq_true, if_false, if_true]
  refine ⟨_, rfl, Prod.mk.inj ?_⟩
  refine (State.service_foldl (fun s c => State.service_loseCtx ..) _ _).trans ?_
  refine (State.service_foldl (fun s c => State.service_startHold ..) _ _).trans ((lost _ _).trans ?_)
  simp only [true_and]
  rfl

theorem readinessLost_rim {s : State} {k : Nat} (hk : k < 12) (hr : s.ready.rims.getLsbD k = true) :
    ∃ u, exec (.readinessLost 1 k) s = .next u ∧ u.ready.rims.getLsbD k = false ∧ u.ready.gen = (s.ready.gen + 1) % 2 ^ 32 ∧
      (s.trunk.token = k → u.trunk.tokenLost = true) := by
  obtain ⟨u, he, hu, ht⟩ := readinessLost_service hr
  refine ⟨u, he, ?_, by simp [hu], fun h => by simp [ht, h]⟩
  rw [hu, State.rims_mapChange, Readiness.rims_mark_same _ _ hk]

theorem readinessRegained_rim {s : State} {k : Nat} (hk : k < 12) (hr : s.ready.rims.getLsbD k = false) :
    ∃ u, exec (.readinessRegained 1 k) s = .next u ∧ u.ready.rims.getLsbD k = true ∧ u.ready.gen = (s.ready.gen + 1) % 2 ^ 32 := by
  refine ⟨(s.mapChange fun r => r.mark 1 k true).placeToken, ?_, ?_, by simp⟩
  · simp only [exec_readinessRegained, execReadinessRegained, functionExists, hk, hr, decide_true, Bool.not_true,
      Bool.false_eq_true, if_false, one_ne_zero]
    rfl
  · rw [State.ready_placeToken, State.rims_mapChange, Readiness.rims_mark_same _ _ hk]

theorem readinessRegained_grove {s : State} {g : Nat} (hg : g < 2592) (hb : s.ready.groveByte g % 2 = 0)
    (hheat : s.ready.groveByte g / 16 ≠ 3) :
    ∃ u, exec (.readinessRegained 0 g) s = .next u ∧ u.ready.groveByte g = s.ready.groveByte g % 16 / 2 * 2 + 1 := by
  refine ⟨s.mapChange fun r => r.setGrove g (s.ready.groveByte g % 16 / 2 * 2 + 1), ?_, by simp⟩
  have hbit : (s.ready.groveByte g).testBit 0 = false := by simp [Nat.testBit_zero, hb]
  simp [exec_readinessRegained, execReadinessRegained, functionExists, hg, hbit, hheat]

/-- A grove withdrawn by heat that has been cool for long enough is ready again (R437). -/
theorem groveReturn_regained {s : State} {g t : Nat} (hc : (s.grove g).cool = some t) (hheat : s.ready.groveByte g / 16 = 3)
    (hr : s.groveReady g = false) (ht : 2 ^ 30 ≤ (s.clk - t) * 5 / 9) :
    ∃ u, exec (.groveReturn g) s = .next u ∧ u.ready.groveByte g = s.ready.groveByte g % 16 / 2 * 2 + 1 ∧
    (u.grove g).cool = none := by
  refine ⟨(s.mapChange fun r => r.setGrove g (r.groveByte g % 16 / 2 * 2 + 1)).updGrove g fun gr => { gr with cool := none },
    ?_, by simp, by simp⟩
  simp only [exec_groveReturn, execGroveReturn, hc]
  rw [if_pos ⟨hheat, by simp [hr], ht⟩]

theorem bringupReport_grove {s : State} {idx info : Nat} {ready : Bool} (hi : idx < 2592) (hn : idx ∉ s.ready.reported)
    (hm : s.trunk.minimal = false) :
    ∃ u, exec (.bringupReport 0 idx ready info) s = .next u ∧ u.ready.gen = (s.ready.gen + 1) % 2 ^ 32 ∧
      u.ready.reported = s.ready.reported ++ [idx] ∧
      u.ready.groveByte idx = info % 256 / 2 * 2 + (if ready then 1 else 0) := by
  have hc : (!functionExists 0 idx || s.ready.reported.contains (0 * 4096 + idx) ||
      (s.trunk.minimal && !(decide (0 = 1) && decide (idx = 1)))) = false := by
    simp [functionExists, hi, hn, hm]
  simp only [exec_bringupReport, execBringupReport, hc]
  refine ⟨_, rfl, ?_⟩
  simp

/-! ### Failed starts and resets (R417, R427) -/

/-- A start that has been counted as failed, or that has ended in minimal mode, times out no more. -/
theorem startTimeout_over {s : State} (h : s.trunk.failed = true ∨ s.trunk.minimal = true) : exec .startTimeout s = .next s := by
  rcases h with h | h <;> simp [exec_startTimeout, execStartTimeout, h]

/-- A start that has been counted as failed, for a reason. -/
def State.countFailure (s : State) (why : Nat) : State :=
  s.updTrunk fun t => { t with fails := min (t.fails + 1) 3, reason := t.reason ||| why, failed := true }

/-- A start that fails before the third time in a row is counted, and the module goes on waiting. -/
theorem State.failStart_again {s : State} {why : Nat} (h : s.trunk.fails < 2) : s.failStart why = s.countFailure why := by
  have : ¬ 3 ≤ min (s.trunk.fails + 1) 3 := by omega
  exact if_neg this

/-- With the third failed start in a row the module resets. -/
theorem State.failStart_third {s : State} {why : Nat} (h : 2 ≤ s.trunk.fails) :
    s.failStart why = (s.countFailure why).resetModule false := by
  have : 3 ≤ min (s.trunk.fails + 1) 3 := by omega
  exact if_pos this

theorem startTimeout_counts {s : State} (hs : s.trunk.started = false) (hm : s.trunk.minimal = false) (hf : s.trunk.failed = false)
    (ht : 60000000000 ≤ (s.clk - s.trunk.startedAt) * 5 / 9) :
    ∃ u, exec .startTimeout s = .next u ∧ u.trunk.fails = min (s.trunk.fails + 1) 3 ∧
      (u.trunk.minimal = true ↔ 3 ≤ s.trunk.fails + 1) ∧
      (s.trunk.fails < 2 → u.trunk.failed = true ∧ u.trunk.startedAt = s.trunk.startedAt ∧ exec .startTimeout u = .next u) ∧
      (2 ≤ s.trunk.fails → u.ready = State.reset.ready ∧ u.trunk.startedAt = s.clk ∧ exec .startTimeout u = .next u) := by
  obtain ⟨why, he⟩ : ∃ why, exec .startTimeout s = .next (s.failStart why) := by
    simp only [exec_startTimeout, execStartTimeout, hs, hm, hf, Bool.or_self, Bool.false_or, decide_eq_true_eq]
    exact ⟨_, if_neg (Nat.not_lt.mpr ht)⟩
  rcases Nat.lt_or_ge s.trunk.fails 2 with h | h
  · rw [State.failStart_again h] at he
    refine ⟨_, he, rfl, ?_, fun _ => ⟨rfl, rfl, startTimeout_over (.inl rfl)⟩, fun h2 => absurd h2 (by omega)⟩
    exact ⟨fun hu => absurd (hm.symm.trans hu) (by decide), fun h3 => absurd h3 (by omega)⟩
  · rw [State.failStart_third h] at he
    have hmin : 3 ≤ min (s.trunk.fails + 1) 3 := by omega
    exact ⟨_, he, rfl, ⟨fun _ => by omega, fun _ => decide_eq_true hmin⟩, fun h2 => absurd h2 (by omega),
      fun _ => ⟨rfl, rfl, startTimeout_over (.inr (decide_eq_true hmin))⟩⟩

theorem moduleReset_resets (s : State) : ∃ u, exec .moduleReset s = .next u ∧ u.mem = [] ∧ u.cores = State.reset.cores ∧
    u.groves = State.reset.groves ∧ u.contexts = State.reset.contexts ∧ u.ready = State.reset.ready ∧ u.clk = s.clk ∧
    u.trunk.revoked = s.trunk.revoked ∧ u.trunk.rollMin = s.trunk.rollMin ∧ u.trunk.fails = s.trunk.fails ∧
    u.trunk.partmap = Trunk.reset.partmap :=
  ⟨_, rfl, rfl, rfl, rfl, rfl, rfl, rfl, rfl, rfl, rfl, rfl⟩

/-! ### Notices and RDMA (R412, R413, R421) -/

theorem faultNotify_sends {s : State} {qp : Nat} {t : List Byte} {r : List (List Byte)} (hq : s.trunk.notifyQp = some qp)
    (ht : s.trunk.tiles = t :: r) :
    ∃ u, exec (.faultNotify 0) s = .next u ∧ u.trunk.tiles = r ∧
      u.out = s.out ++ [Out.notify qp (natBytes 2 0x80 ++ List.replicate 14 0 ++ t)] := by
  refine ⟨({ s with out
    := s.out ++ [Out.notify qp (natBytes 2 0x80 ++ List.replicate 14 0 ++ t)] }.updTrunk fun x => { x with tiles := r }),
    ?_, rfl, rfl⟩
  simp [exec_faultNotify, execFaultNotify, hq, ht]

section
variable {s : State} {qp rkey addr len : Nat} {data : List Byte} (hqp : qp < 128)
include hqp

theorem rdmaWrite_image (hr : rkey = 0x4F00) :
    exec (.rdmaWrite qp rkey addr data) s = .next (if 0x10000000 ≤ addr ∧ addr + data.length ≤ 0x20000000 then
      { s with mem := (writeRun s.mem (trunkKey addr) (goodBytes data)).1 } else s.nak qp 1) := by
  simp only [exec_rdmaWrite, execRdmaWrite, if_neg (Nat.not_le.mpr hqp), if_pos hr]

theorem rdmaWrite_ctx {c : Nat} (hr : rkey ≠ 0x4F00) (hc : s.rkeyCtx rkey = some c) :
    exec (.rdmaWrite qp rkey addr data) s = .next (if s.vaOpen c addr data.length true then (s.writeVa c addr (goodBytes data)).1
      else s.vaDenied qp c addr data.length true) := by
  simp only [exec_rdmaWrite, execRdmaWrite, if_neg (Nat.not_le.mpr hqp), if_neg hr, hc]

theorem rdmaWrite_noCtx (hr : rkey ≠ 0x4F00) (hc : s.rkeyCtx rkey = none) :
    exec (.rdmaWrite qp rkey addr data) s = .next (s.nak qp 1) := by
  simp only [exec_rdmaWrite, execRdmaWrite, if_neg (Nat.not_le.mpr hqp), if_neg hr, hc]

theorem rdmaRead_trunk (hr : rkey = 0x4F00) (ha : addr + len ≤ 0x20000000) :
    exec (.rdmaRead qp rkey addr len) s = .next { s with out :=
      s.out ++ [Out.data qp ((List.range len).map fun i => s.trunkByte s.ready.bytes (addr + i))] } := by
  simp only [exec_rdmaRead, execRdmaRead, if_neg (Nat.not_le.mpr hqp), if_pos hr, if_pos ha]

theorem rdmaRead_noCtx (hr : rkey ≠ 0x4F00) (hc : s.rkeyCtx rkey = none) :
    exec (.rdmaRead qp rkey addr len) s = .next (s.nak qp 1) := by
  simp only [exec_rdmaRead, execRdmaRead, if_neg (Nat.not_le.mpr hqp), if_neg hr, hc]

theorem rdmaRead_ctx {c : Nat} {d : Payload} (hr : rkey ≠ 0x4F00) (hc : s.rkeyCtx rkey = some c)
    (ho : s.vaOpen c addr len false = true)
    (hd : (s.readVa c addr len).2 = .ok d) :
    exec (.rdmaRead qp rkey addr len) s =
      .next { (s.readVa c addr len).1 with out := (s.readVa c addr len).1.out ++ [Out.data qp d] } := by
  simp only [exec_rdmaRead, execRdmaRead, if_neg (Nat.not_le.mpr hqp), if_neg hr, hc, ho, Bool.not_true, Bool.false_eq_true,
    if_false, hd]

theorem rdmaInvalid_naks {o : Nat} : exec (.rdmaInvalid qp o) s = .next (s.nak qp 0) := by
  simp only [exec_rdmaInvalid, execRdmaInvalid, if_neg (Nat.not_le.mpr hqp)]

end

/-! ### Soft errors (R50, R51) -/

/-- The syndrome of a word stands apart from every byte of data. -/
theorem synKey_ne {key a : Nat} (h : a < 2 ^ 60) : a ≠ synKey key := by
  have : 2 ^ 60 ≤ synKey key := Nat.le_add_right _ _
  omega

theorem softError_flips {s : State} {addr bit : Nat} (hs : s.memoryCanonical) (ha : addr < 2 ^ 48) (hb : bit < 72) :
    ∃ u, exec (.softError addr bit) s = .next u ∧
      Memory.read u.mem (synKey (addr / 8 * 8)) = BitVec.ofNat 8 (synOf s.mem (addr / 8 * 8)) ^^^
        BitVec.ofNat 8 (if bit < 64 then dataColumns.getD bit 0 else 2 ^ (bit - 64)) ∧
      (bit < 64 → Memory.read u.mem (addr / 8 * 8 + bit / 8) =
        Memory.read s.mem (addr / 8 * 8 + bit / 8) ^^^ ((1 : Byte) <<< (bit % 8))) := by
  have hin : ¬ (71 < bit ∨ 2 ^ 48 ≤ addr / 8 * 8) := by omega
  simp only [exec_softError, execSoftError, if_neg hin]
  refine ⟨_, rfl, Memory.read_write_same _ _ ?_, fun h => ?_⟩
  · split
    · exact Memory.write_wf _ _ hs
    · exact hs
  · simp only [if_pos h]
    rw [Memory.read_write_other _ (Memory.write_wf _ _ hs) (synKey_ne (by omega)), Memory.read_write_same _ _ hs]

/-! ### Every form answers a next state -/

/-- An answer that is a next state. -/
def AnswersNext (o : Host.Outcome State Fault Refusal) : Prop := ∃ u, o = .next u

theorem AnswersNext.next (u : State) : AnswersNext (.next u) := ⟨u, rfl⟩

theorem AnswersNext.ite {c : Prop} [Decidable c] {a b : Host.Outcome State Fault Refusal} (ha : AnswersNext a)
    (hb : AnswersNext b) :
    AnswersNext (if c then a else b) := by
  split
  · exact ha
  · exact hb

theorem rdmaWrite_answers (s : State) (qp rkey addr : Nat) (data : List Byte) :
    AnswersNext (exec (.rdmaWrite qp rkey addr data) s) := by
  refine .ite (.next _) <| .ite (.next _) ?_
  split <;> exact .next _

theorem rdmaRead_answers (s : State) (qp rkey addr len : Nat) : AnswersNext (exec (.rdmaRead qp rkey addr len) s) := by
  refine .ite (.next _) <| .ite (.next _) ?_
  split
  · exact .next _
  · refine .ite (.next _) ?_
    dsimp only
    split <;> exact .next _

theorem faultNotify_answers (s : State) (k : Nat) : AnswersNext (exec (.faultNotify k) s) := by
  simp only [exec_faultNotify, execFaultNotify]
  split
  · exact .ite (.next _) (.next _)
  · exact .next _

theorem groveReturn_answers (s : State) (g : Nat) : AnswersNext (exec (.groveReturn g) s) := by
  simp only [exec_groveReturn, execGroveReturn]
  split
  · exact .ite (.next _) (.next _)
  · exact .next _

theorem bringupReport_answers (s : State) (kind idx info : Nat) (ready : Bool) :
    AnswersNext (exec (.bringupReport kind idx ready info) s) :=
  .ite (.next _) <| .ite (.next _) <| .ite (.next _) (.next _)

theorem readinessRegained_answers (s : State) (kind idx : Nat) : AnswersNext (exec (.readinessRegained kind idx) s) :=
  .ite (.next _) <| .ite (.ite (.next _) (.next _)) (.ite (.next _) (.next _))

theorem softError_answers (s : State) (addr bit : Nat) : AnswersNext (exec (.softError addr bit) s) := .ite (.next _) (.next _)

/-- Settles O52: each clause by the lemma about its form above. -/
theorem rdmaReadinessAndFaultNotices : Obligations.RdmaReadinessAndFaultNotices := by
  unfold Obligations.RdmaReadinessAndFaultNotices
  have either {c : Prop} [Decidable c] (a b : State) : AnswersNext (if c then .next a else .next b) := .ite (.next _) (.next _)
  refine ⟨fun s a b c d x data => ⟨rdmaWrite_answers .., rdmaRead_answers .., either .., faultNotify_answers .., ⟨_, rfl⟩,
      bringupReport_answers .., either .., either .., either .., readinessRegained_answers .., groveReturn_answers ..,
      softError_answers ..⟩,
    fun s qp rkey addr len data hqp => ⟨fun hr hlo hhi => ?_, fun hr ho => ?_, fun c hr hc ho => ?_,
      fun hr hc => ⟨rdmaWrite_noCtx hqp hr hc, rdmaRead_noCtx hqp hr hc⟩, fun hr ha => rdmaRead_trunk hqp hr ha,
      fun c hr hc ho => ?_,
      fun c d hr hc ho hd => rdmaRead_ctx hqp hr hc ho hd, rdmaInvalid_naks hqp⟩,
    fun s qp t r hq ht => faultNotify_sends hq ht, moduleReset_resets,
    fun s idx info ready hi hn hm => bringupReport_grove hi hn hm,
    fun s hs hm hf ht => startTimeout_counts hs hm hf ht, fun s g reason hr => groveWithdraw_withdraws reason hr,
    fun s k hk hr => readinessLost_rim hk hr, fun s k hk hr => readinessRegained_rim hk hr,
    fun s g hg hb hheat => readinessRegained_grove hg hb hheat, fun s g t hc hheat hr ht => groveReturn_regained hc hheat hr ht,
    fun s addr bit hs ha hb => softError_flips hs ha hb⟩
  · rw [rdmaWrite_image hqp hr, if_pos ⟨hlo, hhi⟩]
  · rw [rdmaWrite_image hqp hr, if_neg (by omega)]
  · rw [rdmaWrite_ctx hqp hr hc, if_pos ho]
  · rw [rdmaWrite_ctx hqp hr hc, ho]
    rfl

end Sys2Proof.Machine
end
section
/-!
PROOF. The management registers (O54; R44, R155, R177, R343, R391, R430 to R433, R436, R437): memory and its reads after a cleared range;
seams, the partition map and interleave words as conditions on bits; then each register.
-/

namespace Sys2Proof.Machine

/-! ### Reading cleared memory (R431) -/

/-- What is read of the cells that a condition on the address selects. -/
theorem Memory.read_filter {m : List Host.Cell} (p : Nat → Bool) (x : Nat) (h : Memory.wf m = true) :
    Memory.read (m.filter fun c => p c.1) x = if p x then Memory.read m x else 0 := by
  obtain ⟨hp, -⟩ := (Memory.wf_iff m).mp h
  clear h
  induction m with
  | nil => simp [Memory.read]
  | cons c r ih =>
    obtain ⟨a, b⟩ := c
    obtain ⟨ha, hr⟩ := List.pairwise_cons.mp hp
    have below (hx : x < a) : Memory.read r x = 0 := Memory.read_below fun c hc => Nat.lt_trans hx (ha c hc)
    by_cases hpa : p a = true
    · rw [List.filter_cons, if_pos hpa]
      simp only [Memory.read]
      split
      · rename_i hax; subst hax; simp [hpa]
      · split
        · simp
        · exact ih hr
    · rw [List.filter_cons, if_neg hpa, ih hr]
      simp only [Memory.read]
      split
      · rename_i hpx
        rw [if_neg (fun hax : a = x => hpa (hax ▸ hpx))]
        split
        · exact below ‹_›
        · rfl
      · rfl

/-- A cleared range reads as zero, and all else as before. -/
theorem Memory.read_clear {m : List Host.Cell} (lo len x : Nat) (h : Memory.wf m = true) :
    Memory.read (Memory.clear m lo len) x = if lo ≤ x ∧ x < lo + len then 0 else Memory.read m x := by
  rw [Memory.clear, Memory.read_filter (fun a => !(decide (lo ≤ a) && decide (a < lo + len))) x h]
  by_cases hx : lo ≤ x ∧ x < lo + len
  · simp [hx.1, hx.2]
  · rw [if_neg hx]
    simp only [Bool.not_eq_true', Bool.and_eq_false_iff, decide_eq_false_iff_not]
    rw [if_pos (by omega)]

/-- A byte reads the same from memories that agree on its word and on the word's syndrome. -/
theorem readByte?_congr {m n : List Host.Cell} {key : Nat} (hs : Memory.read n (synKey key) = Memory.read m (synKey key))
    (hw : ∀ i < 8, Memory.read n (key / 8 * 8 + i) = Memory.read m (key / 8 * 8 + i)) : readByte? n key = readByte? m key := by
  have hraw : rawWord n key = rawWord m key := by
    simp only [rawWord]
    refine List.foldr_ext _ _ _ fun i hi acc => ?_
    rw [hw i (List.mem_range.mp hi)]
  simp only [readByte?, readWord?, synOf, hs, hraw]

/-- A range of whole words with their syndromes. -/
def clearWords (m : List Host.Cell) (lo len : Nat) : List Host.Cell := Memory.clear (Memory.clear m lo len) (synKey lo) (len / 8)

section
variable {m : List Host.Cell} {lo len a : Nat} (h : Memory.wf m = true) (hlo : lo % 8 = 0) (hlen : len % 8 = 0)
  (hhi : lo + len ≤ 2 ^ 60)
include h

/-- What is read of a byte of data after whole words have been cleared. -/
theorem read_clearWords (ha : a < 2 ^ 60) :
    Memory.read (clearWords m lo len) a = if lo ≤ a ∧ a < lo + len then 0 else Memory.read m a := by
  rw [clearWords, Memory.read_clear _ _ _ (Memory.clear_wf _ _ h), Memory.read_clear _ _ _ h, if_neg]
  simp only [synKey]
  omega

include hlo hlen hhi

/-- What is read of a syndrome after whole words have been cleared. -/
theorem read_clearWords_synKey :
    Memory.read (clearWords m lo len) (synKey a) = if lo ≤ a ∧ a < lo + len then 0 else Memory.read m (synKey a) := by
  have hsyn : (synKey lo ≤ synKey a ∧ synKey a < synKey lo + len / 8) ↔ (lo ≤ a ∧ a < lo + len) := by
    simp only [synKey]; omega
  have hdata : ¬ (lo ≤ synKey a ∧ synKey a < lo + len) := by
    simp only [synKey]; omega
  rw [clearWords, Memory.read_clear _ _ _ (Memory.clear_wf _ _ h), Memory.read_clear _ _ _ h, if_neg hdata]
  simp only [hsyn]

/-- A byte of cleared words is a good zero. -/
theorem readByte?_clearWords_inside (h1 : lo ≤ a) (h2 : a < lo + len) : readByte? (clearWords m lo len) a = some 0 := by
  have hsyn : synOf (clearWords m lo len) a = 0 := by
    rw [synOf, read_clearWords_synKey h hlo hlen hhi, if_pos ⟨h1, h2⟩]
    rfl
  rw [readByte?_good hsyn, read_clearWords h (by omega), if_pos ⟨h1, h2⟩]

/-- A byte outside cleared words reads as before. -/
theorem readByte?_clearWords_outside (ha : a < 2 ^ 60) (ho : a < lo ∨ lo + len ≤ a) :
    readByte? (clearWords m lo len) a = readByte? m a := by
  refine readByte?_congr ?_ fun i hi => ?_
  · rw [read_clearWords_synKey h hlo hlen hhi, if_neg (by omega)]
  · rw [read_clearWords h (by omega), if_neg (by omega)]

end

/-! ### The forms of the management registers, one lemma each -/

theorem exec_partmapWrite (v : Word) (s : State) : exec (.partmapWrite v) s = orSame s (s.writePartmap v) := rfl
theorem exec_seamQuiesce (k : Nat) (v : Word) (s : State) : exec (.seamQuiesce k v) s = orSame s (s.startQuiesce k v) := rfl
theorem exec_seamQuiesced (k : Nat) (s : State) : exec (.seamQuiesced k) s = execSeamQuiesced k s := rfl
theorem exec_seamQuiesceTimeout (k : Nat) (s : State) : exec (.seamQuiesceTimeout k) s = execSeamQuiesceTimeout k s := rfl
theorem exec_seamOpen (k : Nat) (s : State) : exec (.seamOpen k) s = orSame s (s.turnSeam k true) := rfl
theorem exec_seamClose (k : Nat) (s : State) : exec (.seamClose k) s = orSame s (s.turnSeam k false) := rfl
theorem exec_ilvWrite (p : Nat) (v : Word) (s : State) : exec (.ilvWrite p v) s = orSame s (s.writeIlv p v) := rfl
theorem exec_hbmClearComplete (p : Nat) (s : State) : exec (.hbmClearComplete p) s = execHbmClearComplete p s := rfl
theorem exec_shootdown (v : Word) (s : State) : exec (.shootdown v) s = orSame s (s.writeShoot v) := rfl
theorem exec_grantWrite (g ctx : Nat) (v : Word) (s : State) : exec (.grantWrite g ctx v) s = orSame s (s.writeGrant g ctx v) := rfl
theorem exec_registerWrite (addr v : Word) (s : State) : exec (.registerWrite addr v) s = execRegisterWrite addr v s := rfl

/-- What a register takes is the next state. -/
theorem orSame_some (s u : State) : orSame s (some u) = .next u := rfl

/-- What a register refuses changes nothing. -/
theorem orSame_none (s : State) : orSame s none = .next s := rfl

/-- A register that may refuse answers a next state. -/
theorem orSame_answers (s : State) (r : Option State) : AnswersNext (orSame s r) := .next _

theorem seamQuiesced_answers (s : State) (k : Nat) : AnswersNext (exec (.seamQuiesced k) s) := by
  rw [exec_seamQuiesced, execSeamQuiesced]
  split
  · exact .ite (.next _) (.next _)
  · exact .next _

theorem seamQuiesceTimeout_answers (s : State) (k : Nat) : AnswersNext (exec (.seamQuiesceTimeout k) s) := by
  rw [exec_seamQuiesceTimeout, execSeamQuiesceTimeout]
  split
  · exact .ite (.next _) (.next _)
  · exact .next _

theorem registerWrite_answers (s : State) (addr v : Word) : AnswersNext (exec (.registerWrite addr v) s) := by
  rw [exec_registerWrite, execRegisterWrite]
  split <;> exact .next _

/-- R428: each of the eleven forms answers a next state. -/
theorem managementRegisters_answer (s : State) (a b : Nat) (v w : Word) :
    AnswersNext (exec (.partmapWrite v) s) ∧ AnswersNext (exec (.seamQuiesce a v) s) ∧ AnswersNext (exec (.seamQuiesced a) s) ∧
      AnswersNext (exec (.seamQuiesceTimeout a) s) ∧ AnswersNext (exec (.seamOpen a) s) ∧ AnswersNext (exec (.seamClose a) s) ∧
      AnswersNext (exec (.ilvWrite a v) s) ∧ AnswersNext (exec (.hbmClearComplete a) s) ∧ AnswersNext (exec (.shootdown v) s) ∧
      AnswersNext (exec (.grantWrite a b v) s) ∧ AnswersNext (exec (.registerWrite v w) s) :=
  ⟨orSame_answers _ _, orSame_answers _ _, seamQuiesced_answers s a, seamQuiesceTimeout_answers s a, orSame_answers _ _,
    orSame_answers _ _, orSame_answers _ _, .ite (.next _) (.next _), orSame_answers _ _, orSame_answers _ _,
    registerWrite_answers s v w⟩

/-! ### The partition map (R430) -/

section
variable {s : State} {v : Word}

/-- A valid layout that moves no quarter in use and changes only quiesced seams is taken. -/
theorem partmapWrite_takes (hv : v &&& 0xFFF ∈ layouts)
    (hq : ∀ q < 4, mapPart s.trunk.partmap q ≠ mapPart (v &&& 0xFFF) q → s.ctxMask (mapPart s.trunk.partmap q) = 0)
    (hk : ∀ k ∈ seamsChanged s.trunk.partmap (v &&& 0xFFF), s.trunk.seamState k = 1) :
    exec (.partmapWrite v) s = .next (s.updTrunk fun t => { t with partmap := v &&& 0xFFF }) := by
  have hw : s.writePartmap v = some (s.updTrunk fun t => { t with partmap := v &&& 0xFFF }) := by
    rw [State.writePartmap, if_neg (by simpa using hv), if_neg (by simpa using hq), if_neg (by simpa using hk)]
  rw [exec_partmapWrite, hw, orSame_some]

/-- A layout that is not valid, or that changes a seam that is not quiesced, is refused. -/
theorem partmapWrite_refuses_layout
    (h : v &&& 0xFFF ∉ layouts ∨ ∃ k ∈ seamsChanged s.trunk.partmap (v &&& 0xFFF), s.trunk.seamState k ≠ 1) :
    exec (.partmapWrite v) s = .next s := by
  have hw : s.writePartmap v = none := by
    rw [State.writePartmap]
    rcases h with hv | hk
    · rw [if_pos (by simpa using hv)]
    · simp only [if_pos (show ((seamsChanged s.trunk.partmap (v &&& 0xFFF)).any fun k => decide (s.trunk.seamState k ≠ 1)) = true
        by simpa using hk), ite_self]
  rw [exec_partmapWrite, hw, orSame_none]

/-- A layout that moves a quarter of a partition with contexts is refused. -/
theorem partmapWrite_refuses_move
    (h : ∃ q < 4, mapPart s.trunk.partmap q ≠ mapPart (v &&& 0xFFF) q ∧ s.ctxMask (mapPart s.trunk.partmap q) ≠ 0) :
    exec (.partmapWrite v) s = .next s := by
  have hw : s.writePartmap v = none := by
    rw [State.writePartmap]
    split
    · rfl
    · rw [if_pos (by simpa [and_assoc] using h)]
  rw [exec_partmapWrite, hw, orSame_none]

end

/-! ### Seams (R432) -/

/-- A field below the mask's bits is replaced by the value that is put in. -/
theorem extractLsb'_masked (w x : Word) {m : Word} (hm : m.extractLsb' 0 2 = 3) :
    (w &&& ~~~m ||| x).extractLsb' 0 2 = x.extractLsb' 0 2 := by
  refine BitVec.eq_of_getLsbD_eq fun i hi => ?_
  have hbit : m.getLsbD i = true := by
    have h := congrArg (·.getLsbD i) hm
    have h3 : (3 : BitVec 2).getLsbD i = true := by interval_cases i <;> rfl
    simp only [BitVec.getLsbD_extractLsb', hi, decide_true, Bool.true_and, Nat.zero_add] at h
    exact h.trans h3
  simp [BitVec.getLsbD_extractLsb', hbit]

/-- STATE of a seam is the low two bits of its word. -/
theorem Trunk.seamState_eq (t : Trunk) (k : Nat) : t.seamState k = (t.seam k).toNat % 4 := by
  simp [Trunk.seamState, BitVec.extractLsb'_toNat]

/-- The word of a seam of the module after it has been written. -/
theorem seamWord_set (x : Vector Word 3) {k : Nat} (hk : k < 3) (w : Word) : (x.setIfInBounds k w)[k]?.getD 0 = w := by
  simp [hk]

/-- STATE after it has been set. -/
theorem Trunk.seamState_setSeam (t : Trunk) {k st : Nat} (hk : k < 3) (h : st < 4) : (t.setSeam k st).seamState k = st := by
  have hw : (t.setSeam k st).seam k = t.seam k &&& ~~~(3 : Word) ||| BitVec.ofNat 64 (st % 4) := seamWord_set _ hk _
  rw [Trunk.seamState, hw, extractLsb'_masked _ _ rfl, BitVec.extractLsb'_toNat, BitVec.toNat_ofNat]
  omega

/-- FLITS of the word that a refused quiesce leaves. -/
theorem refusedWord_flits {flits gy dir st : Nat} (hf : flits < 65535) (hg : gy < 54) (hd : dir < 2) (hs : st < 4) :
    ((flits + 1) * 2 ^ 48 + gy * 2 ^ 36 + dir * 2 ^ 35 + 4 + st) % 2 ^ 64 / 2 ^ 48 % 2 ^ 16 = flits + 1 := by
  omega

section
variable {s : State} {k : Fin 3} {v : Word} {e d : Nat}

/-- QUIESCE of a seam that is neither quiesced nor busy begins: the wait keeps STATE, the time at which the queues are empty and the
time at which it is given up. -/
theorem seamQuiesce_begins (h1 : s.trunk.seamState k.val ≠ 1) (hb : s.trunk.seamBusy[k] = none) :
    ∃ u e d, exec (.seamQuiesce k.val v) s = .next u ∧ u.trunk.seamBusy[k] = some (e, d) ∧ e % 4 = s.trunk.seamState k.val ∧
      s.tick ≤ e / 4 ∧ d = s.tick + (if v.toNat / 2 ^ 32 = 0 then 65536 else v.toNat / 2 ^ 32) ∧
      u.trunk.seamstat = s.trunk.seamstat := by
  have hlt : s.trunk.seamState k.val < 4 := (Trunk.seamState_eq _ _).trans_lt (Nat.mod_lt _ (by decide))
  have hw : (v.extractLsb' 32 32).toNat = v.toNat / 2 ^ 32 := by
    rw [BitVec.extractLsb'_toNat, Nat.shiftRight_eq_div_pow, Nat.mod_eq_of_lt (by have := v.isLt; omega)]
  have hb' : ¬ (s.trunk.seamState k.val = 1 ∨ ((s.trunk.seamBusy[k.val]?.getD none).isSome = true) ∨ 2 < k.val) := by
    have hk := k.isLt
    simp_all
    omega
  rw [exec_seamQuiesce, State.startQuiesce, if_neg hb', hw]
  refine ⟨_, s.trunk.seamState k.val + 4 * (s.tick + s.freeWord.1.toNat % 2 ^ 33), _, rfl, ?_, by omega, by omega, rfl, rfl⟩
  simp only [Option.getD_some, State.updTrunk, Fin.getElem_fin, Vector.getElem_setIfInBounds_self]
  rfl

/-- QUIESCE of a seam that is quiesced or busy changes nothing. -/
theorem seamQuiesce_refused (h : s.trunk.seamState k.val = 1 ∨ s.trunk.seamBusy[k] ≠ none) :
    exec (.seamQuiesce k.val v) s = .next s := by
  have hb : s.trunk.seamState k.val = 1 ∨ ((s.trunk.seamBusy[k.val]?.getD none).isSome = true) ∨ 2 < k.val := by
    refine h.imp id fun hb => .inl ?_
    simpa [Option.isSome_iff_ne_none] using hb
  rw [exec_seamQuiesce, State.startQuiesce, if_pos hb, orSame_none]

/-- A quiesce whose queues are empty in time leaves STATE 1, REFUSED clear and the seam no longer busy. -/
theorem seamQuiesced_ends (hb : s.trunk.seamBusy[k] = some (e, d)) (he : e / 4 ≤ s.tick) (hd : s.tick < d) :
    ∃ u, exec (.seamQuiesced k.val) s = .next u ∧ u.trunk.seamState k.val = 1 ∧ (u.trunk.seam k.val).getLsbD 2 = false ∧
      u.trunk.seamBusy[k] = none := by
  have hb' : s.trunk.seamBusy[k.val]?.getD none = some (e, d) := by simpa using hb
  rw [exec_seamQuiesced, execSeamQuiesced, hb']
  simp only [if_pos (And.intro he hd)]
  refine ⟨_, rfl, ?_⟩
  simp only [State.updTrunk, Trunk.seamState, Trunk.seam, seamWord_set _ k.isLt, Fin.getElem_fin, Vector.getElem_setIfInBounds_self,
    and_true]
  constructor
  · rw [extractLsb'_masked _ _ rfl]
    rfl
  · rw [BitVec.getLsbD_or, BitVec.getLsbD_and]
    exact (Bool.or_false _).trans (Bool.and_false _)

/-- A quiesce still waiting at its TIMEOUT leaves STATE as it was, REFUSED set and FLITS not zero. -/
theorem seamQuiesceTimeout_ends (hb : s.trunk.seamBusy[k] = some (e, d)) (hd : d ≤ s.tick) :
    ∃ u, exec (.seamQuiesceTimeout k.val) s = .next u ∧ u.trunk.seamState k.val = e % 4 ∧
      (u.trunk.seam k.val).getLsbD 2 = true ∧ (u.trunk.seam k.val).extractLsb' 48 16 ≠ 0 ∧ u.trunk.seamBusy[k] = none := by
  have hb' : s.trunk.seamBusy[k.val]?.getD none = some (e, d) := by simpa using hb
  rw [exec_seamQuiesceTimeout, execSeamQuiesceTimeout, hb']
  simp only [if_pos hd]
  refine ⟨_, rfl, ?_⟩
  simp only [State.updTrunk, Trunk.seamState, Trunk.seam, seamWord_set _ k.isLt, Fin.getElem_fin, Vector.getElem_setIfInBounds_self,
    and_true]
  generalize s.freeWord.1.toNat = f
  refine ⟨?_, ?_, fun h => ?_⟩
  · rw [BitVec.extractLsb'_toNat, BitVec.toNat_ofNat]
    omega
  · rw [BitVec.getLsbD_ofNat, Nat.testBit_eq_decide_div_mod_eq]
    simp only [show (2 : Nat) < 64 by decide, decide_true, Bool.true_and, decide_eq_true_eq]
    omega
  · have h := congrArg BitVec.toNat h
    rw [BitVec.extractLsb'_toNat, BitVec.toNat_ofNat, Nat.shiftRight_eq_div_pow] at h
    change _ = 0 at h
    rw [refusedWord_flits (Nat.mod_lt f (by decide)) (Nat.mod_lt (f / 2 ^ 16) (by decide)) (Nat.mod_lt (f / 2 ^ 32) (by decide))
      (Nat.mod_lt e (by decide))] at h
    exact Nat.succ_ne_zero _ h

end

/-! ### Opening and closing a seam -/

section
variable {s : State} {k : Nat} {opens : Bool}

/-- A quiesced seam whose quarters the map groups as asked is turned. -/
theorem turnSeam_takes (h1 : s.trunk.seamState k = 1) (hk : k < 3)
    (hm : decide (mapPart s.trunk.partmap k = mapPart s.trunk.partmap (k + 1)) = opens) :
    ∃ u, s.turnSeam k opens = some u ∧ u.trunk.seamState k = if opens then 2 else 0 := by
  refine ⟨_, by rw [State.turnSeam, if_pos ⟨h1, hk, hm⟩], ?_⟩
  exact Trunk.seamState_setSeam _ hk (by split <;> decide)

/-- A seam that is not quiesced, or that the map does not group as asked, is not turned. -/
theorem turnSeam_refuses (h : s.trunk.seamState k ≠ 1 ∨
      decide (mapPart s.trunk.partmap k = mapPart s.trunk.partmap (k + 1)) ≠ opens) : s.turnSeam k opens = none := by
  rw [State.turnSeam, if_neg]
  rintro ⟨h1, -, hm⟩
  exact h.elim (· h1) (· hm)

/-- What is turned is the next state. -/
theorem orSame_turns (h1 : s.trunk.seamState k = 1) (hk : k < 3)
    (hm : decide (mapPart s.trunk.partmap k = mapPart s.trunk.partmap (k + 1)) = opens) :
    ∃ u, orSame s (s.turnSeam k opens) = .next u ∧ u.trunk.seamState k = if opens then 2 else 0 := by
  obtain ⟨u, hu, hs⟩ := turnSeam_takes h1 hk hm
  exact ⟨u, by rw [hu, orSame_some], hs⟩

/-- What is not turned stays. -/
theorem orSame_stays (h : s.trunk.seamState k ≠ 1 ∨
      decide (mapPart s.trunk.partmap k = mapPart s.trunk.partmap (k + 1)) ≠ opens) : orSame s (s.turnSeam k opens) = .next s := by
  rw [turnSeam_refuses h, orSame_none]

end

/-! ### Interleave words and the clear of a range (R431) -/

section
variable {s : State} {p : Fin 4} {v : Word}

/-- The stored word keeps V. -/
theorem ilvMask_valid (v : Word) : (v &&& 0x803F03F000FFFFFF).getLsbD 63 = v.getLsbD 63 := by
  rw [BitVec.getLsbD_and]
  exact Bool.and_true _

/-- Is a stack none of the partition's own? -/
theorem ilvStack_foreign {rims : List Nat} {k : Nat} :
    (!(rims.flatMap fun r => [2 * r, 2 * r + 1]).contains k) = true ↔ ∀ r ∈ rims, k ≠ 2 * r ∧ k ≠ 2 * r + 1 := by
  simp

/-- A word with V set that names only the partition's stacks, with a range clear of the others', is taken and starts a clear. -/
theorem ilvWrite_takes (hv : v.getLsbD 63 = true)
    (hk : ∀ k ∈ ilvStacks (v &&& 0x803F03F000FFFFFF), ∃ r ∈ s.trunk.partRims p.val, k = 2 * r ∨ k = 2 * r + 1)
    (hq : ∀ q < 4, q ≠ p.val → (s.ilv q).getLsbD 63 = true →
      (ilvRange (s.ilv q)).2 ≤ (ilvRange (v &&& 0x803F03F000FFFFFF)).1 ∨
        (ilvRange (v &&& 0x803F03F000FFFFFF)).2 ≤ (ilvRange (s.ilv q)).1) :
    ∃ u, exec (.ilvWrite p.val v) s = .next u ∧ u.ilv p.val = v &&& 0x803F03F000FFFFFF ∧ u.trunk.clearing.getLsbD p.val = true := by
  have hv' := (ilvMask_valid v).trans hv
  rw [exec_ilvWrite, State.writeIlv]
  generalize v &&& 0x803F03F000FFFFFF = w at hk hq hv' ⊢
  have hstacks : ((ilvStacks w).any fun k => !((s.trunk.partRims p.val).flatMap fun r => [2 * r, 2 * r + 1]).contains k) = false := by
    refine List.any_eq_false.mpr fun k hkw hf => ?_
    obtain ⟨r, hr, hkr⟩ := hk k hkw
    have := ilvStack_foreign.mp hf r hr
    omega
  have hclash : ((List.range 4).any fun q => decide (q ≠ p.val) && (s.ilv q).getLsbD 63 &&
      (decide ((ilvRange w).1 < (ilvRange (s.ilv q)).2) && decide ((ilvRange (s.ilv q)).1 < (ilvRange w).2))) = false := by
    refine List.any_eq_false.mpr fun q hqr hf => ?_
    simp only [Bool.and_eq_true, decide_eq_true_eq] at hf
    obtain ⟨⟨hne, hval⟩, hlo, hhi⟩ := hf
    have := hq q (List.mem_range.mp hqr) hne hval
    omega
  simp only [hstacks, hclash, hv', Bool.or_self, Bool.and_false, Bool.false_eq_true, if_false, if_true]
  refine ⟨_, rfl, ?_, ?_⟩
  · simp [State.ilv, State.updTrunk]
  · simp [State.updTrunk]

/-- A word with V set that names another partition's stack, or whose range meets another partition's, is refused. -/
theorem ilvWrite_refuses (hv : v.getLsbD 63 = true)
    (h : (∃ k ∈ ilvStacks (v &&& 0x803F03F000FFFFFF), ∀ r ∈ s.trunk.partRims p.val, k ≠ 2 * r ∧ k ≠ 2 * r + 1) ∨
      (∃ q < 4, q ≠ p.val ∧ (s.ilv q).getLsbD 63 = true ∧
        (ilvRange (v &&& 0x803F03F000FFFFFF)).1 < (ilvRange (s.ilv q)).2 ∧
        (ilvRange (s.ilv q)).1 < (ilvRange (v &&& 0x803F03F000FFFFFF)).2)) :
    exec (.ilvWrite p.val v) s = .next s := by
  have hv' := (ilvMask_valid v).trans hv
  rw [exec_ilvWrite, State.writeIlv]
  generalize v &&& 0x803F03F000FFFFFF = w at h hv' ⊢
  rw [if_pos, orSame_none]
  rw [hv', Bool.true_and, Bool.or_eq_true]
  refine h.imp (fun ⟨k, hk, hf⟩ => List.any_eq_true.mpr ⟨k, hk, ilvStack_foreign.mpr hf⟩)
    fun ⟨q, hq, hne, hval, hlo, hhi⟩ => ?_
  exact List.any_eq_true.mpr ⟨q, List.mem_range.mpr hq, by simp [hne, hval, hlo, hhi]⟩

end

/-- A range begins and ends at whole words, and lies below the addresses of the syndromes. -/
theorem ilvRange_words (w : Word) : (ilvRange w).1 % 8 = 0 ∧ ((ilvRange w).2 - (ilvRange w).1) % 8 = 0 ∧
    (ilvRange w).1 ≤ (ilvRange w).2 ∧ (ilvRange w).2 ≤ 2 ^ 60 := by
  have hn : (ilvStacks w).length ≤ 24 := (List.length_filter_le _ _).trans_eq List.length_range
  have hb := (w.extractLsb' 36 6).isLt
  simp only [ilvRange]
  omega

/-- What the clear of a partition's range leaves in memory. -/
theorem State.mem_clearHbm (s : State) (p : Nat) :
    (s.clearHbm p).mem = clearWords s.mem (ilvRange (s.ilv p)).1 ((ilvRange (s.ilv p)).2 - (ilvRange (s.ilv p)).1) := rfl

/-- The clear of a range ends with the range zero and the rest of the memory as it was. -/
theorem hbmClearComplete_clears {s : State} {p : Nat} (hs : s.memoryCanonical) (hc : s.trunk.clearing.getLsbD p = true) :
    ∃ u, exec (.hbmClearComplete p) s = .next u ∧ u.trunk.clearing.getLsbD p = false ∧
      (∀ a, (ilvRange (s.ilv p)).1 ≤ a → a < (ilvRange (s.ilv p)).2 → readByte? u.mem a = some 0) ∧
      ∀ a, a < 2 ^ 60 → a < (ilvRange (s.ilv p)).1 ∨ (ilvRange (s.ilv p)).2 ≤ a → readByte? u.mem a = readByte? s.mem a := by
  rw [exec_hbmClearComplete, execHbmClearComplete, if_pos hc]
  obtain ⟨hlo, hlen, hle, hhi⟩ := ilvRange_words (s.ilv p)
  have hsum : (ilvRange (s.ilv p)).1 + ((ilvRange (s.ilv p)).2 - (ilvRange (s.ilv p)).1) = (ilvRange (s.ilv p)).2 :=
    Nat.add_sub_cancel' hle
  refine ⟨_, rfl, by simp [State.clearHbm, State.updTrunk], fun a h1 h2 => ?_, fun a ha ho => ?_⟩
  · rw [State.mem_clearHbm]
    exact readByte?_clearWords_inside hs hlo hlen (by omega) h1 (by omega)
  · rw [State.mem_clearHbm]
    exact readByte?_clearWords_outside hs hlo hlen (by omega) ha (by omega)

/-! ### Shoot-downs and grants (R343, R433) -/

/-- A shoot-down of a partition that exists takes from every grove the translations it names, and no others. -/
theorem shootdown_removes {s : State} {v : Word} (hp : s.trunk.partExists (v.extractLsb' 60 2).toNat = true) :
    ∃ u, exec (.shootdown v) s = .next u ∧
      ∀ e ∈ s.groves, ∃ f ∈ u.groves, f.1 = e.1 ∧ ∀ t, t ∈ f.2.tlb ↔ t ∈ e.2.tlb ∧
        ¬(partOfCtx t.ctx = (v.extractLsb' 60 2).toNat ∧ (v.getLsbD 62 = true ∨ t.ctx % 16 = (v.extractLsb' 56 4).toNat) ∧
          (v.getLsbD 63 = true ∨ (t.va < ((v.extractLsb' 16 32).toNat + (v.extractLsb' 0 16).toNat + 1) * 65536 ∧
            (v.extractLsb' 16 32).toNat * 65536 < t.va + 2 ^ t.bits))) := by
  rw [exec_shootdown, State.writeShoot, if_neg (by rw [hp]; decide)]
  have hend (a b : Nat) : a * 65536 + (b + 1) * 65536 = (a + b + 1) * 65536 := by omega
  refine ⟨_, rfl, fun e he => ⟨_, List.mem_map_of_mem he, rfl, fun t => ?_⟩⟩
  rw [List.mem_filter, Bool.not_eq_true', ← Bool.not_eq_true, Bool.and_eq_true, Bool.and_eq_true, Bool.or_eq_true, Bool.or_eq_true,
    Bool.and_eq_true, decide_eq_true_eq, decide_eq_true_eq, decide_eq_true_eq, decide_eq_true_eq, and_assoc, hend]

section
variable {s : State} {g ctx : Nat} {v : Word}

/-- A grant that meets no other context's is taken. -/
theorem grantWrite_takes (h : ∀ e ∈ (s.grove g).geGrant, e.1 ≠ ctx % 16 → grantsMeet e.2 (v &&& 0x000FFFFE0000FF7F) = false) :
    ∃ u, exec (.grantWrite g ctx v) s = .next u ∧ Tbl.get? (u.grove g).geGrant (ctx % 16) = some (v &&& 0x000FFFFE0000FF7F) := by
  rw [exec_grantWrite, State.writeGrant, if_neg]
  · exact ⟨_, orSame_some _ _, by simp only [State.grove_updGrove_same, Tbl.get?_set_same]⟩
  · simpa using h

/-- A grant that meets another context's is refused. -/
theorem grantWrite_refuses
    (h : ∃ e ∈ (s.grove g).geGrant, e.1 ≠ ctx % 16 ∧ grantsMeet e.2 (v &&& 0x000FFFFE0000FF7F) = true) :
    exec (.grantWrite g ctx v) s = .next s := by
  rw [exec_grantWrite, State.writeGrant, if_pos, orSame_none]
  simpa using h

end

/-! ### Registers without a step of their own (R155, R428) -/

/-- A write that a register takes is the next state. -/
theorem registerWrite_done {s u : State} {addr v : Word} (h : s.mgmtWrite addr.toNat v = .done u) :
    exec (.registerWrite addr v) s = .next u := by
  rw [exec_registerWrite, execRegisterWrite, h]

/-- A write of the module's block is one of the module's registers. -/
theorem mgmtWrite_module {s : State} {off : Nat} (v : Word) (ho : off < 0x100000) (hr : (s.mgmtRead off).isSome = true) :
    s.mgmtWrite off v = s.writeModule off v := by
  have hsome : (s.mgmtRead off).isNone = false := by rw [← Option.not_isSome, hr]; rfl
  rw [State.mgmtWrite, if_neg (by simp only [hsome]; exact fun h => Bool.false_ne_true h.1), if_pos ho]

/-- A write of a grove's block is one of the grove's registers. -/
theorem mgmtWrite_grove {s : State} {g off : Nat} (v : Word) (ho : off < 0x100000)
    (hr : (s.mgmtRead (0x100000000 + g * 0x100000 + off)).isSome = true) :
    s.mgmtWrite (0x100000000 + g * 0x100000 + off) v = s.writeGroveReg g off v := by
  have hg : (0x100000000 + g * 0x100000 + off - 0x100000000) / 0x100000 = g := by omega
  have hm : (0x100000000 + g * 0x100000 + off) % 0x100000 = off := by omega
  have hsome : (s.mgmtRead (0x100000000 + g * 0x100000 + off)).isNone = false := by rw [← Option.not_isSome, hr]; rfl
  rw [State.mgmtWrite, if_neg (by simp only [hsome]; exact fun h => Bool.false_ne_true h.1),
    if_neg (by omega), if_neg (by omega), if_neg (by omega), hg, hm]

/-- TK_PWRCAP and TK_THERM keep their fields. -/
theorem registerWrite_module (s : State) (v : Word) (hp : (s.mgmtRead 0x88).isSome = true) (ht : (s.mgmtRead 0x90).isSome = true) :
    (∃ u, exec (.registerWrite 0x88 v) s = .next u ∧
      u.trunk.pwrcap = (v &&& 0x10000) ||| BitVec.ofNat 64 (max 180 (min (v.toNat % 65536) 240))) ∧
    (∃ u, exec (.registerWrite 0x90 v) s = .next u ∧ u.trunk.therm = v &&& 0xFFFFFF) := by
  constructor
  · refine ⟨s.updTrunk fun t => { t with pwrcap := (v &&& 0x10000) ||| BitVec.ofNat 64 (max 180 (min (v.toNat % 65536) 240)) },
      registerWrite_done ?_, rfl⟩
    exact mgmtWrite_module v (by decide) hp
  · refine ⟨s.updTrunk fun t => { t with therm := v &&& 0xFFFFFF }, registerWrite_done ?_, rfl⟩
    exact mgmtWrite_module v (by decide) ht

/-- TE_SAVE and SN_BUF of a grove keep their fields. -/
theorem registerWrite_grove (s : State) {g : Nat} (v : Word) (hg : g < 2592)
    (hs : (s.mgmtRead (0x100000000 + g * 0x100000 + 0x8000)).isSome = true)
    (hb : (s.mgmtRead (0x100000000 + g * 0x100000 + 0x30000)).isSome = true) :
    (∃ u, exec (.registerWrite (BitVec.ofNat 64 (0x100000000 + g * 0x100000 + 0x8000)) v) s = .next u ∧
      (u.grove g).teSave = v &&& 0x00FFF000000007FF) ∧
    (∃ u, exec (.registerWrite (BitVec.ofNat 64 (0x100000000 + g * 0x100000 + 0x30000)) v) s = .next u ∧
      (u.grove g).snBuf = v &&& 0x00FFFF00000007FF) := by
  constructor
  · refine ⟨s.updGrove g fun gr => { gr with teSave := v &&& 0x00FFF000000007FF }, registerWrite_done ?_,
      by rw [State.grove_updGrove_same]⟩
    rw [BitVec.toNat_ofNat, Nat.mod_eq_of_lt (by omega), mgmtWrite_grove v (by decide) hs]
    rfl
  · refine ⟨s.updGrove g fun gr => { gr with snBuf := v &&& 0x00FFFF00000007FF }, registerWrite_done ?_,
      by rw [State.grove_updGrove_same]⟩
    rw [BitVec.toNat_ofNat, Nat.mod_eq_of_lt (by omega), mgmtWrite_grove v (by decide) hb]
    rfl

/-- Settles O54, register by register: what each takes and what it refuses. -/
theorem managementRegisterSteps : Obligations.ManagementRegisterSteps := by
  unfold Obligations.ManagementRegisterSteps
  refine ⟨managementRegisters_answer, fun s v => ⟨partmapWrite_takes, partmapWrite_refuses_layout, partmapWrite_refuses_move⟩,
    fun s k v => seamQuiesce_begins, fun s k v => seamQuiesce_refused,
    fun s k e d hb => ⟨seamQuiesced_ends hb, seamQuiesceTimeout_ends hb⟩,
    fun s k hk => ⟨fun h1 hm => ?_, fun h1 hm => ?_, fun h1 => ?_⟩,
    fun s p v => ilvWrite_takes, fun s p v => ilvWrite_refuses, fun s p hs hc _ => hbmClearComplete_clears hs hc,
    fun s v => shootdown_removes, fun s g ctx v => ⟨grantWrite_takes, grantWrite_refuses⟩, registerWrite_module,
    fun s g v => registerWrite_grove s v⟩
  · exact ⟨orSame_turns h1 hk (decide_eq_true hm), orSame_stays (.inr (by simp [hm]))⟩
  · exact ⟨orSame_turns h1 hk (decide_eq_false hm), orSame_stays (.inr (by simp [hm]))⟩
  · exact ⟨orSame_stays (.inl h1), orSame_stays (.inl h1)⟩

end Sys2Proof.Machine
end
section
/-!
PROOF. Time, power, heat and the registers of a context (O53; R35, R47 to R49, R190, R424, R436, R437): what keeps the contexts and the
cache while roots, subscriptions and pools move; then each form.
-/

namespace Sys2Proof.Machine

/-! ### The forms of this family, one lemma each -/

theorem exec_ptpMessage (port time : Nat) (s : State) : exec (.ptpMessage port time) s = execPtpMessage port time s := rfl
theorem exec_ptpMasterLoss (port : Nat) (s : State) : exec (.ptpMasterLoss port) s = execPtpMasterLoss port s := rfl
theorem exec_syncSymbol (time err : Nat) (s : State) : exec (.syncSymbol time err) s = execSyncSymbol time err s := rfl
theorem exec_powerMeasure (watts : Nat) (s : State) : exec (.powerMeasure watts) s = execPowerMeasure watts s := rfl
theorem exec_hotGroveEvent (g temp : Nat) (s : State) : exec (.hotGroveEvent g temp) s = execHotGroveEvent g temp s := rfl
theorem exec_hotGroveClear (g temp : Nat) (s : State) : exec (.hotGroveClear g temp) s = execHotGroveClear g temp s := rfl
theorem exec_forcedFlushMove (ctx : Nat) (s : State) : exec (.forcedFlushMove ctx) s = execForcedFlushMove ctx s := rfl
theorem exec_ctxFlush (ctx : Nat) (s : State) : exec (.ctxFlush ctx) s = orSame s (s.writeFlush ctx 1) := rfl
theorem exec_flushComplete (ctx : Nat) (s : State) : exec (.flushComplete ctx) s = execFlushComplete ctx s := rfl
theorem exec_seedWrite (ctx : Nat) (v : Word) (s : State) : exec (.seedWrite ctx v) s = orSame s (s.writeSeed ctx v) := rfl
theorem exec_rootovrWrite (ctx i : Nat) (v : Word) (s : State) :
    exec (.rootovrWrite ctx i v) s = orSame s (s.writeRootovr ctx i v) := rfl
theorem exec_sliceSplitWrite (slice : Nat) (v : Word) (s : State) :
    exec (.sliceSplitWrite slice v) s = orSame s (s.writeSplit slice v) := rfl

/-- Each of the twelve forms answers a next state. -/
theorem timePowerContext_answer (s : State) (a b : Nat) (v : Word) :
    AnswersNext (exec (.ptpMessage a b) s) ∧ AnswersNext (exec (.ptpMasterLoss a) s) ∧ AnswersNext (exec (.syncSymbol a b) s) ∧
      AnswersNext (exec (.powerMeasure a) s) ∧ AnswersNext (exec (.hotGroveEvent a b) s) ∧
      AnswersNext (exec (.hotGroveClear a b) s) ∧ AnswersNext (exec (.forcedFlushMove a) s) ∧
      AnswersNext (exec (.ctxFlush a) s) ∧ AnswersNext (exec (.flushComplete a) s) ∧
      AnswersNext (exec (.seedWrite a v) s) ∧ AnswersNext (exec (.rootovrWrite a b v) s) ∧
      AnswersNext (exec (.sliceSplitWrite a v) s) :=
  ⟨.ite (.next _) (.ite (.next _) (.ite (.next _) (.next _))), .next _, .ite (.next _) (.ite (.next _) (.next _)),
    .ite (.next _) (.next _), .ite (.next _) (.ite (.next _) (.next _)), .next _, .ite (.next _) (.next _), orSame_answers _ _,
    .ite (.next _) (.next _), orSame_answers _ _, orSame_answers _ _, orSame_answers _ _⟩

/-! ### Time (R424) -/

/-- What is taken away of a time below 2^64 and added again. -/
theorem timeBase_add (clk : Nat) {time : Nat} (h : time < 2 ^ 64) :
    ((time + 2 ^ 64 - clk % 2 ^ 64) % 2 ^ 64 + clk) % 2 ^ 64 = time := by
  omega

theorem State.tick_withBase (s : State) (base : Nat) : ({ s with base := base } : State).tick = (base + s.clk * 5 / 9) % 2 ^ 64 := rfl

/-- The tick after the time base has been set. -/
theorem State.tick_setTime (s : State) {time : Nat} (h : time < 2 ^ 64) : (s.setTime time).tick = time :=
  (s.tick_withBase _).trans (timeBase_add _ h)

/-- A slew changes the time base and its own clock of slews only. -/
theorem State.trunk_slew (s : State) (time : Nat) : ∃ at_, (s.slew time).trunk = { s.trunk with slewAt := at_ } := by
  simp only [State.slew]
  split
  · exact ⟨_, rfl⟩
  · split
    · exact ⟨_, rfl⟩
    · split <;> exact ⟨_, rfl⟩

theorem State.ptpLock_slew (s : State) (time : Nat) : (s.slew time).trunk.ptpLock = s.trunk.ptpLock := by
  obtain ⟨_, h⟩ := s.trunk_slew time
  rw [h]
theorem State.syncPs_slew (s : State) (time : Nat) : (s.slew time).trunk.syncPs = s.trunk.syncPs := by
  obtain ⟨_, h⟩ := s.trunk_slew time
  rw [h]
theorem State.syncErr_slew (s : State) (time : Nat) : (s.slew time).trunk.syncErr = s.trunk.syncErr := by
  obtain ⟨_, h⟩ := s.trunk_slew time
  rw [h]

/-- A PTP message on the port in use locks it; the first one sets the tick where no context is launched, and no time where one is. -/
theorem ptpMessage_disciplines {s : State} {port time : Nat} (hp : port < 2) (ht : time < 2 ^ 64)
    (hu : port = 0 ∨ s.trunk.ptpLock.getLsbD 0 = false) :
    ∃ u, exec (.ptpMessage port time) s = .next u ∧ u.trunk.ptpLock.getLsbD port = true ∧
      (s.trunk.everPtp = false → s.anyLaunched = false → u.tick = time ∧ u.trunk.everPtp = true) ∧
      (s.trunk.everPtp = false → s.anyLaunched = true → u.base = s.base) := by
  have huse : ¬ (1 < port ∨ (port = 1 ∧ s.trunk.ptpLock.getLsbD 0 = true)) := by
    rintro (h | ⟨h1, h0⟩)
    · omega
    · rcases hu with hu | hu
      · omega
      · exact Bool.false_ne_true (hu.symm.trans h0)
  have hlock : (s.trunk.ptpLock ||| ((1 : BitVec 2) <<< port)).getLsbD port = true := by simp [hp]
  rw [exec_ptpMessage, execPtpMessage, if_neg huse]
  by_cases he : s.trunk.everPtp = true
  · refine ⟨_, if_pos he, ?_, fun h => ?_, fun h => ?_⟩
    · rw [State.ptpLock_slew]
      exact hlock
    all_goals exact absurd (he.symm.trans h) Bool.noConfusion
  · by_cases hl : s.anyLaunched = true
    · refine ⟨_, (if_neg he).trans (if_pos hl), hlock, fun _ h => ?_, fun _ _ => rfl⟩
      exact absurd (hl.symm.trans h) Bool.noConfusion
    · exact ⟨_, (if_neg he).trans (if_neg hl), hlock, fun _ _ => ⟨State.tick_setTime _ ht, rfl⟩, fun _ h => absurd h hl⟩

/-- A port that loses its master is not locked; the time base stays. -/
theorem ptpMasterLoss_unlocks (s : State) (port : Nat) :
    ∃ u, exec (.ptpMasterLoss port) s = .next u ∧ u.trunk.ptpLock.getLsbD port = false ∧ u.base = s.base :=
  ⟨_, rfl, by simp [State.updTrunk], rfl⟩

/-- An error estimate below 2^63 is its own two's complement value. -/
theorem intVal_of_lt {err : Nat} (h : err < 2 ^ 63) : intVal 64 true (err % 2 ^ 64) = err := by
  have hbit : (err % 2 ^ 64 % 2 ^ 64).testBit 63 = false := by
    rw [Nat.testBit_eq_decide_div_mod_eq, decide_eq_false_iff_not]
    omega
  have hmod : err % 2 ^ 64 % 2 ^ 64 = err := by omega
  rw [intVal, hbit, hmod]
  rfl

/-- A sync symbol is recorded; SYNCERR rises above 2,000 ps and falls at 1,500 ps; a member that runs free takes its time. -/
theorem syncSymbol_disciplines {s : State} {time err : Nat} (ht : time < 2 ^ 64) (herr : err < 2 ^ 63) :
    ∃ u, exec (.syncSymbol time err) s = .next u ∧ u.trunk.syncPs = err ∧
      (2000 < err → u.trunk.syncErr = true) ∧
      (err ≤ 1500 → s.trunk.everPtp = true ∨ s.trunk.joined = true ∨ s.anyLaunched = false → u.trunk.syncErr = false) ∧
      (s.trunk.everPtp = false → s.trunk.joined = false → s.anyLaunched = false → u.tick = time ∧ u.trunk.joined = true) := by
  have hrise (old : Bool) (h : 2000 < err) : (if 2000 < err then true else if err ≤ 1500 then false else old) = true := if_pos h
  have hfall (old : Bool) (h : err ≤ 1500) : (if 2000 < err then true else if err ≤ 1500 then false else old) = false :=
    (if_neg (by omega)).trans (if_pos h)
  rw [exec_syncSymbol, execSyncSymbol, intVal_of_lt herr]
  by_cases he : (s.trunk.everPtp || s.trunk.joined) = true
  · refine ⟨_, if_pos he, ?_, fun h => ?_, fun h _ => ?_, fun h1 h2 => ?_⟩
    · rw [State.syncPs_slew]
      rfl
    · rw [State.syncErr_slew]
      exact hrise _ h
    · rw [State.syncErr_slew]
      exact hfall _ h
    · rw [h1, h2] at he
      exact absurd he Bool.noConfusion
  · obtain ⟨hp, hj⟩ := Bool.or_eq_false_iff.mp (Bool.eq_false_iff.mpr he)
    by_cases hl : s.anyLaunched = true
    · refine ⟨_, (if_neg he).trans (if_pos hl), rfl, fun _ => rfl, fun _ h => ?_, fun _ _ h => ?_⟩
      · rw [hp, hj, hl] at h
        simp at h
      · exact absurd (hl.symm.trans h) Bool.noConfusion
    · exact ⟨_, (if_neg he).trans (if_neg hl), rfl, hrise _, fun h _ => hfall _ h, fun _ _ _ => ⟨State.tick_setTime _ ht, rfl⟩⟩

/-! ### Power and heat (R436, R437) -/

/-- A measurement under AUTO adjusts every BUDGET. -/
theorem powerMeasure_adjusts {s : State} {watts : Nat} (ha : s.trunk.pwrcap.getLsbD 16 = true)
    (hm : s.trunk.measured ≠ s.tick / 2 ^ 20 + 1) :
    ∃ u, exec (.powerMeasure watts) s = .next u ∧ u.trunk.watts = watts ∧
      ∀ p : Fin 4, u.trunk.gov[p] =
        let cap := s.trunk.pwrcap.toNat % 65536 * 100
        let b := (s.trunk.gov[p]).toNat
        BitVec.ofNat 64 (if cap < watts then max 64 (b * 7 / 8)
          else if 100 * watts < 95 * cap then min 1024 ((b * 17 + 15) / 16)
          else b) := by
  have hdue : ¬ ((!s.trunk.pwrcap.getLsbD 16) = true ∨ s.trunk.measured = s.tick / 2 ^ 20 + 1) := by
    rw [ha]
    exact fun h => h.elim Bool.noConfusion hm
  rw [exec_powerMeasure, execPowerMeasure, if_neg hdue]
  refine ⟨_, rfl, rfl, fun p => ?_⟩
  simp only [State.updTrunk, Fin.getElem_fin, Vector.getElem_map, nextBudget, Nat.mul_comm 100]

/-- HOT less HYST is no more than HOT. -/
theorem Trunk.coolAt_le_hotAt (t : Trunk) : t.coolAt ≤ t.hotAt := Nat.sub_le _ _

/-- At HOT or above a ready grove is hot and sends its records away. -/
theorem hotGroveEvent_sends {s : State} {g temp : Nat} (hg : g < 2592) (hr : s.groveReady g = true) (ht : s.trunk.hotAt ≤ temp) :
    let s1 := (s.setTemp g temp).updGrove g fun gr => { gr with hot := true, cool := none }
    exec (.hotGroveEvent g temp) s =
      .next ((s1.hotRecords g).foldl (fun s i => s.migrateRecord g i 0xFFF false fun h => !(s.grove h).hot) s1) := by
  have hhot : ¬ ((!s.groveReady g) = true ∨ temp < s.trunk.hotAt) := by
    rw [hr]
    exact fun h => h.elim Bool.noConfusion (Nat.not_lt.mpr ht)
  rw [exec_hotGroveEvent, execHotGroveEvent, if_neg (by omega), if_neg hhot]

/-- Below HOT a grove's sensor is recorded. -/
theorem hotGroveClear_eq {s : State} {g temp : Nat} (hg : g < 2592) (ht : temp < s.trunk.hotAt) :
    exec (.hotGroveClear g temp) s = .next (s.setTemp g temp) := by
  rw [exec_hotGroveClear, execHotGroveClear, if_neg (by omega)]

theorem State.temps_setTemp (s : State) (g temp : Nat) : Tbl.get? (s.setTemp g temp).trunk.temps g = some temp :=
  Tbl.get?_set_same ..

/-- A reading at or above HOT less HYST keeps the event and starts the cool ticks anew. -/
theorem State.grove_setTemp_warm {s : State} {g temp : Nat} (h : s.trunk.coolAt ≤ temp) :
    (s.setTemp g temp).grove g = { s.grove g with cool := none } := by
  rw [State.setTemp, State.grove_updGrove_same, decide_eq_false (Nat.not_lt.mpr h)]
  simp only [Bool.not_false, Bool.and_true, Bool.false_eq_true, if_false]
  rfl

/-- A reading below HOT less HYST clears the event, and the cool ticks count. -/
theorem State.grove_setTemp_cool {s : State} {g temp : Nat} (h : temp < s.trunk.coolAt) :
    (s.setTemp g temp).grove g = { s.grove g with hot := false, cool := some ((s.grove g).cool.getD s.clk) } := by
  rw [State.setTemp, State.grove_updGrove_same, decide_eq_true h]
  simp only [Bool.not_true, Bool.and_false, if_true]
  rfl

theorem hotGroveClear_warm {s : State} {g temp : Nat} (hg : g < 2592) (hc : s.trunk.coolAt ≤ temp) (ht : temp < s.trunk.hotAt) :
    ∃ u, exec (.hotGroveClear g temp) s = .next u ∧ (u.grove g).hot = (s.grove g).hot ∧ (u.grove g).cool = none ∧
      Tbl.get? u.trunk.temps g = some temp :=
  ⟨_, hotGroveClear_eq hg ht, by rw [State.grove_setTemp_warm hc], by rw [State.grove_setTemp_warm hc], s.temps_setTemp g temp⟩

theorem hotGroveClear_cool {s : State} {g temp : Nat} (hg : g < 2592) (hc : temp < s.trunk.coolAt) :
    ∃ u, exec (.hotGroveClear g temp) s = .next u ∧ (u.grove g).hot = false ∧
      (u.grove g).cool = some ((s.grove g).cool.getD s.clk) ∧ Tbl.get? u.trunk.temps g = some temp :=
  ⟨_, hotGroveClear_eq hg (hc.trans_le s.trunk.coolAt_le_hotAt), by rw [State.grove_setTemp_cool hc],
    by rw [State.grove_setTemp_cool hc], s.temps_setTemp g temp⟩

/-! ### What keeps the contexts and the cache -/

/-- The contexts and the lines of the cache. -/
def State.holdings (s : State) : Tbl Context × List CacheLine := (s.contexts, s.cache)

theorem State.ctx_of_holdings {s u : State} (h : u.holdings = s.holdings) (c : Nat) : u.ctx c = s.ctx c :=
  congrArg (fun x : Tbl Context × List CacheLine => Tbl.getD x.1 c .reset) h
theorem State.cache_of_holdings {s u : State} (h : u.holdings = s.holdings) : u.cache = s.cache := congrArg Prod.snd h

theorem State.holdings_updGrove (s : State) (g : Nat) (f : Grove → Grove) : (s.updGrove g f).holdings = s.holdings := rfl

/-- What every step of a fold keeps, the fold keeps. -/
theorem State.holdings_foldl {α : Type} {f : State → α → State} (hf : ∀ s a, (f s a).holdings = s.holdings) (l : List α)
    (s : State) :
    (l.foldl f s).holdings = s.holdings := by
  induction l generalizing s with
  | nil => rfl
  | cons a l ih => exact (ih _).trans (hf s a)

theorem State.holdings_ite {c : Prop} [Decidable c] {s a b : State} (ha : a.holdings = s.holdings) (hb : b.holdings = s.holdings) :
    (if c then a else b).holdings = s.holdings := by
  split
  · exact ha
  · exact hb

theorem State.holdings_sendTo (s : State) (ctx : Nat) (name : Name) (kind : PktKind) (src pos : Nat) (express : Bool) (inj : Nat)
    (data : Payload) (wid : Word) : (s.sendTo ctx name kind src pos express inj data wid).holdings = s.holdings := by
  simp only [State.sendTo, State.emit]
  split <;> rfl

theorem State.holdings_moveEntry (s : State) (ctx g : Nat) (n : Name) (names : List NameRec) (vers : List Version)
    (rounds : List CollRound) : (s.moveEntry ctx g n names vers rounds).holdings = s.holdings :=
  State.holdings_ite rfl (State.holdings_sendTo ..)

theorem State.holdings_moveRoots (s : State) (ctx g : Nat) : (s.moveRoots ctx g).holdings = s.holdings :=
  (State.holdings_foldl (fun _ _ => State.holdings_moveEntry ..) _ _).trans <|
    (State.holdings_foldl (fun _ _ => State.holdings_moveEntry ..) _ _).trans <|
      State.holdings_foldl (fun _ _ => State.holdings_moveEntry ..) _ _

theorem State.holdings_sendRecSubs (s : State) (g i : Nat) : (s.sendRecSubs g i).holdings = s.holdings := by
  unfold State.sendRecSubs
  split
  · rfl
  · refine State.holdings_foldl (fun s e => ?_) _ s
    exact State.holdings_ite rfl rfl

theorem State.holdings_reissue (s : State) (g i : Nat) : (s.reissue g i).holdings = s.holdings := by
  unfold State.reissue
  split
  · rfl
  · exact State.holdings_ite rfl (State.holdings_sendRecSubs ..)

theorem State.holdings_updPool (s : State) (ctx level : Nat) (group : Word) (f : Pool → Pool) :
    (s.updPool ctx level group f).holdings = s.holdings := State.holdings_ite rfl rfl

/-- Settling the pools of a context notes the seed and list they follow; the context is the same but for that. -/
theorem State.settlePools_holdings (s : State) (ctx : Nat) :
    ∃ seed list, (s.settlePools ctx).ctx ctx = { s.ctx ctx with poolSeed := seed, poolList := list } ∧
      (s.settlePools ctx).cache = s.cache := by
  simp only [State.settlePools]
  split
  · exact ⟨_, _, rfl, rfl⟩
  · have hfold (l : List Pool) (t : State) := State.holdings_foldl (f := fun s (p : Pool) =>
      if p.waiters.isEmpty then s else s.updPool ctx p.level p.group fun q => { q with waiters := p.waiters })
      (fun _ _ => State.holdings_ite rfl (State.holdings_updPool ..)) l t
    refine ⟨(s.ctx ctx).seed, (s.ctx ctx).rootList, ?_, (State.cache_of_holdings (hfold _ _)).trans rfl⟩
    exact (State.ctx_of_holdings (hfold _ _) ctx).trans (State.ctx_updCtx_same ..)

/-! ### Forced flushes (R49) -/

/-- A forced flush up to its roots' move and the registrations that follow it, before the context goes on. -/
def State.rootsMoved (s : State) (ctx : Nat) : State :=
  let s := (s.flushCache ctx).updCtx ctx fun x =>
    { x with rootList := x.rootList.filter (fun r => if r / 2592 = x.member then s.groveReady (r % 2592) else !x.lost.contains r),
             rimList := s.readyRims (partOfCtx ctx), lost := [] }
  let s := (s.groves.map (·.1)).foldl (fun s g => s.moveRoots ctx g) s
  { s with groves := s.groves.map fun (e : Nat × Grove) => (e.1, { e.2 with subs := e.2.subs.map fun x =>
      if x.ctx = ctx ∧ (x.state = .sent ∨ x.state = .registered) then { x with state := .waiting } else x }) }

theorem State.moveFlush_eq (s : State) (ctx : Nat) :
    s.moveFlush ctx = ((s.rootsMoved ctx).updCtx ctx fun x => { x with hold := .none }).settlePools ctx := rfl

/-- The roots' move changes the context in its lists only, and takes the context's lines from the cache. -/
theorem State.rootsMoved_holdings (s : State) (ctx : Nat) :
    (s.rootsMoved ctx).holdings = ((s.flushCache ctx).updCtx ctx fun x =>
      { x with rootList := x.rootList.filter (fun r => if r / 2592 = x.member then s.groveReady (r % 2592) else !x.lost.contains r),
               rimList := s.readyRims (partOfCtx ctx), lost := [] }).holdings :=
  State.holdings_foldl (fun _ _ => State.holdings_moveRoots ..) _ _

/-- A context after its forced flush has moved its roots. -/
theorem State.moveFlush_holdings (s : State) (ctx : Nat) :
    ∃ seed list, (s.moveFlush ctx).ctx ctx = { s.ctx ctx with
        rootList := (s.ctx ctx).rootList.filter (fun r => if r / 2592 = (s.ctx ctx).member then s.groveReady (r % 2592)
          else !(s.ctx ctx).lost.contains r),
        rimList := s.readyRims (partOfCtx ctx), lost := [], hold := .none, poolSeed := seed, poolList := list } ∧
      (s.moveFlush ctx).cache = (s.flushCache ctx).cache := by
  obtain ⟨seed, list, hctx, hcache⟩ := ((s.rootsMoved ctx).updCtx ctx fun x => { x with hold := .none }).settlePools_holdings ctx
  rw [State.ctx_updCtx_same, State.ctx_of_holdings (s.rootsMoved_holdings ctx), State.ctx_updCtx_same] at hctx
  rw [State.cache_updCtx, State.cache_of_holdings (s.rootsMoved_holdings ctx), State.cache_updCtx] at hcache
  exact ⟨seed, list, hctx, hcache⟩

/-- Nothing of a context stays in the cache once it has been flushed. -/
theorem State.flushCache_drops (s : State) (ctx : Nat) : ∀ l ∈ (s.flushCache ctx).cache, l.ctx ≠ ctx := by
  simp [State.flushCache]

/-- A held context that is quiet goes on with its roots moved. -/
theorem forcedFlushMove_moves {s : State} {ctx : Nat} (hh : (s.ctx ctx).hold = .holding) (hq : s.holdQuiet ctx = true) :
    ∃ u, exec (.forcedFlushMove ctx) s = .next u ∧ u = s.moveFlush ctx ∧ (u.ctx ctx).hold = .none ∧
      (u.ctx ctx).rootList =
        (s.ctx ctx).rootList.filter (fun r => if r / 2592 = (s.ctx ctx).member then s.groveReady (r % 2592)
          else !(s.ctx ctx).lost.contains r) ∧ (u.ctx ctx).lost = [] ∧
      ∀ l ∈ u.cache, l.ctx ≠ ctx := by
  obtain ⟨seed, list, hctx, hcache⟩ := s.moveFlush_holdings ctx
  refine ⟨_, if_pos ⟨hh, hq⟩, rfl, by rw [hctx], by rw [hctx], by rw [hctx], ?_⟩
  rw [hcache]
  exact s.flushCache_drops ctx

/-! ### Flushes (R48) -/

/-- A flush that begins changes the contexts in its own two bits only. -/
theorem State.startFlush_ctx (s : State) (ctx : Nat) :
    (s.startFlush ctx).ctx ctx = { s.ctx ctx with flushing := true, flushDone := false } := by
  refine (State.ctx_of_holdings (State.holdings_foldl (fun s e => ?_) _ _) ctx).trans (State.ctx_updCtx_same ..)
  refine State.holdings_foldl (fun s v => ?_) _ s
  split
  · exact State.holdings_ite rfl rfl
  · rfl

theorem ctxFlush_starts {s : State} {ctx : Nat} (h : snInprog (s.ctx ctx).snStat = false) :
    ∃ u, exec (.ctxFlush ctx) s = .next u ∧ (u.ctx ctx).flushing = true ∧ (u.ctx ctx).flushDone = false := by
  have hw : s.writeFlush ctx 1 = some (s.startFlush ctx) := by
    rw [State.writeFlush, if_neg (by decide), if_neg (by rw [h]; decide)]
  refine ⟨_, (exec_ctxFlush ctx s).trans (by rw [hw, orSame_some]), ?_, ?_⟩ <;> rw [State.startFlush_ctx]

theorem ctxFlush_refused {s : State} {ctx : Nat} (h : snInprog (s.ctx ctx).snStat = true) : exec (.ctxFlush ctx) s = .next s := by
  rw [exec_ctxFlush, State.writeFlush, if_neg (by decide), if_pos h, orSame_none]

/-- A flush of an idle context ends with DONE set and with nothing of the context in the cache, the galleries and the match tables. -/
theorem flushComplete_ends {s : State} {ctx : Nat} (hf : (s.ctx ctx).flushing = true) (hi : s.flushIdle ctx = true)
    (hr : (s.ctx ctx).state ≠ .resetting) :
    ∃ u, exec (.flushComplete ctx) s = .next u ∧ (u.ctx ctx).flushDone = true ∧ (u.ctx ctx).flushing = false ∧
      (∀ l ∈ u.cache, l.ctx ≠ ctx) ∧
      ∀ e ∈ u.groves, (∀ v ∈ e.2.versions, v.ctx ≠ ctx) ∧ (∀ v ∈ e.2.names, v.ctx ≠ ctx) ∧ ∀ v ∈ e.2.regs, v.ctx ≠ ctx := by
  have hctx : (s.flushNow ctx).ctx ctx = { s.ctx ctx with flushing := false, flushDone := true } := State.ctx_updCtx_same ..
  have hend : (s.flushNow ctx).endResets ctx = s.flushNow ctx := by
    rw [State.endResets, if_pos (by rw [hctx]; exact hr)]
  rw [exec_flushComplete, execFlushComplete, if_pos (by rw [hf, hi]; rfl), hend]
  refine ⟨_, rfl, by rw [hctx], by rw [hctx], s.flushCache_drops ctx, fun e he => ?_⟩
  obtain ⟨e, -, rfl⟩ := List.mem_map.mp he
  simp [Grove.flushCtx]

/-! ### Seeds, overrides and SPLIT (R35, R47, R48) -/

/-- A write of the seed or of an override entry makes the lists anew and takes DONE away. -/
theorem State.rehash_ctx (s : State) (ctx : Nat) :
    (s.rehash ctx).ctx ctx = { s.ctx ctx with
      flushDone := false, rootList := s.rootsNow ctx, rimList := s.readyRims (partOfCtx ctx) } :=
  (State.ctx_of_holdings (State.holdings_foldl (fun _ _ => State.holdings_reissue ..) _ _) ctx).trans (State.ctx_updCtx_same ..)

section
variable {s : State} {ctx : Nat} {v : Word}

theorem seedWrite_takes (h : (s.ctx ctx).flushDone = true) :
    ∃ u, exec (.seedWrite ctx v) s = .next u ∧ u = ((s.updCtx ctx fun x => { x with seed := v }).rehash ctx).settlePools ctx ∧
      (u.ctx ctx).seed = v ∧ (u.ctx ctx).flushDone = false := by
  rw [exec_seedWrite, State.writeSeed, if_pos h]
  obtain ⟨seed, list, hctx, -⟩ := ((s.updCtx ctx fun x => { x with seed := v }).rehash ctx).settlePools_holdings ctx
  rw [State.rehash_ctx, State.ctx_updCtx_same] at hctx
  exact ⟨_, orSame_some _ _, rfl, by rw [hctx], by rw [hctx]⟩

theorem seedWrite_refused (h : (s.ctx ctx).flushDone = false) : exec (.seedWrite ctx v) s = .next s := by
  rw [exec_seedWrite, State.writeSeed, if_neg (by rw [h]; decide), orSame_none]

theorem rootovrWrite_takes (i : Fin 16) (h : (s.ctx ctx).flushDone = true) :
    ∃ u, exec (.rootovrWrite ctx i.val v) s = .next u ∧
      (u.ctx ctx).rootovr[i] = v &&& 0x80FFFFFF00FFFFFF ∧ (u.ctx ctx).flushDone = false := by
  rw [exec_rootovrWrite, State.writeRootovr, if_pos h]
  obtain ⟨seed, list, hctx, -⟩ := ((s.updCtx ctx fun x =>
    { x with rootovr := x.rootovr.setIfInBounds i.val (v &&& 0x80FFFFFF00FFFFFF) }).rehash ctx).settlePools_holdings ctx
  rw [State.rehash_ctx, State.ctx_updCtx_same] at hctx
  refine ⟨_, orSame_some _ _, ?_, by rw [hctx]⟩
  rw [hctx]
  exact Vector.getElem_setIfInBounds_self _

theorem rootovrWrite_refused (i : Nat) (h : (s.ctx ctx).flushDone = false) : exec (.rootovrWrite ctx i v) s = .next s := by
  rw [exec_rootovrWrite, State.writeRootovr, if_neg (by rw [h]; decide), orSame_none]

end

section
variable {s : State} {slice : Nat} {v : Word}

theorem sliceSplitWrite_takes (h : s.sliceInUse slice = false) :
    ∃ u, exec (.sliceSplitWrite slice v) s = .next u ∧
      (u.sliceOf slice).split = min (v.toNat % 2048) 1280 ∧ (∀ l ∈ u.cache, l.slice ≠ slice) ∧ u.mem = s.mem := by
  rw [exec_sliceSplitWrite, State.writeSplit, if_neg (by rw [h]; decide)]
  refine ⟨_, orSame_some _ _, ?_, by simp [State.updSlice], rfl⟩
  simp only [State.sliceOf, State.updSlice, Tbl.getD_set_same]

theorem sliceSplitWrite_refused (h : s.sliceInUse slice = true) : exec (.sliceSplitWrite slice v) s = .next s := by
  rw [exec_sliceSplitWrite, State.writeSplit, if_pos h, orSame_none]

end

/-- Settles O53, form by form: time, power, heat, flushes and the registers of a context. -/
theorem timePowerAndContextRegisters : Obligations.TimePowerAndContextRegisters := by
  unfold Obligations.TimePowerAndContextRegisters
  exact ⟨timePowerContext_answer, fun s port time => ptpMessage_disciplines, fun s port _ => ptpMasterLoss_unlocks s port,
    fun s time err => syncSymbol_disciplines, fun s watts => powerMeasure_adjusts, fun s g temp => hotGroveEvent_sends,
    fun s g temp => hotGroveClear_warm, fun s g temp => hotGroveClear_cool, fun s ctx => forcedFlushMove_moves,
    fun s ctx => ctxFlush_starts, fun s ctx => ctxFlush_refused, fun s ctx => flushComplete_ends,
    fun s ctx v => ⟨seedWrite_takes, seedWrite_refused⟩, fun s ctx i v => ⟨rootovrWrite_takes i, rootovrWrite_refused i.val⟩,
    fun s slice v => ⟨sliceSplitWrite_takes, sliceSplitWrite_refused⟩⟩

end Sys2Proof.Machine
end
section
/-!
PROOF. Queue requests (O21; R41, R42, R54, R56, R139, R142, R406): a queue after an entry has been replaced; what sending and
performing a request leave; page walks.
-/

namespace Sys2Proof.Machine

theorem exec_queueRequestSend (core q : Nat) (s : State) : exec (.queueRequestSend core q) s = execQueueRequestSend core q s := rfl
theorem exec_sequenceNumberFree (core q : Nat) (s : State) :
    exec (.sequenceNumberFree core q) s = execSequenceNumberFree core q s := rfl
theorem exec_queueAccessPerform (core q k : Nat) (s : State) :
    exec (.queueAccessPerform core q k) s = execQueueAccessPerform core q k s := rfl
theorem exec_pageWalk (g ctx va : Nat) (s : State) : exec (.pageWalk g ctx va) s = execPageWalk g ctx va s := rfl

/-! ### Queues and their entries -/

/-- A queue that holds a request is one of the eight. -/
theorem Core.queue_lt {c : Core} {q : Nat} (h : c.queue q ≠ []) : q < 8 := by
  by_contra hq
  exact h (by simp [Core.queue, hq])

/-- A queue after one of its entries has been replaced. -/
theorem Core.queue_putEntry (c : Core) {q : Nat} (e : QEntry) (hq : q < 8) :
    (c.putEntry q e).queue q = (c.queue q).map fun f => if f.ord = e.ord then e else f := by
  simp [Core.putEntry, Core.setQueue, Core.queue, hq]

/-- The request that a queue sends is one of its own. -/
theorem State.queue_ne_nil_of_sendable {s : State} {core q : Nat} {e : QEntry} (h : s.sendable core q = some e) :
    (s.core core).queue q ≠ [] :=
  List.ne_nil_of_mem (List.mem_of_find?_eq_some h)

/-! ### Sending (R142, R406) -/

section
variable {s t : State} {core q : Nat} {e : QEntry}

/-- What a queue sends is the next state. -/
theorem queueRequestSend_sent (he : s.sendable core q = some e) (ht : s.sendEntry core q e = some t) :
    exec (.queueRequestSend core q) s = .next t := by
  rw [exec_queueRequestSend, execQueueRequestSend, he]
  simp only [ht, Option.getD_some]

/-- What a queue sends once its number is free is the next state. -/
theorem sequenceNumberFree_sent (he : s.sendable core q = some e) (ht : s.sendEntry core q e = some t) :
    exec (.sequenceNumberFree core q) s = .next t := by
  rw [exec_sequenceNumberFree, execSequenceNumberFree, he]
  simp only [ht, Option.getD_some]

/-- A request to a place of the module, or without one, is sent in its queue. -/
theorem State.sendEntry_here (h : ∀ m sl off, s.requestPlace core e ≠ some (.ok (.remote m sl off))) :
    s.sendEntry core q e = some (s.updCore core fun c => c.putEntry q { e with state := .sent, first := s.tick, last := s.tick }) := by
  unfold State.sendEntry
  split
  · exact absurd ‹_› (h _ _ _)
  · rfl

/-- A load from another module is sent as a packet without a number. -/
theorem State.sendEntry_remoteLoad {m sl off : Nat} (hk : e.kind = .load) (hp : s.requestPlace core e = some (.ok (.remote m sl off))) :
    s.sendEntry core q e =
      some ((s.remoteOut (s.core core).ctxNo m sl (remoteSource (s.ctx (s.core core).ctxNo).member core) 0 (queueClass q) e.kind.code
        e.sz.toNat off 0 0 s.tick).updCore core fun x =>
          x.putEntry q { e with state := .sent, first := s.tick, last := s.tick }) := by
  simp only [State.sendEntry, hp]
  rw [if_pos hk]
  rfl

/-- The next number of a numbering may be used when it has not been used within 40,000 ticks. -/
theorem seqNext_free {x : Tbl Nat} {key tick : Nat}
    (h : ∀ last, Tbl.get? x (key + 1 + Tbl.getD x key 0) = some last → last + 40000 ≤ tick) :
    seqNext x key tick = (Tbl.getD x key 0, false) := by
  simp only [seqNext]
  split
  · next last hl => rw [decide_eq_false (Nat.not_lt.mpr (h last hl))]
  · rfl

/-- A store or atomic to another module is sent as a packet with the next number of its numbering. -/
theorem State.sendEntry_remoteStore {m sl off n : Nat} (hk : e.kind ≠ .load)
    (hp : s.requestPlace core e = some (.ok (.remote m sl off)))
    (hn : seqNext (s.core core).seqs (seqKey m sl (queueClass q)) s.tick = (n, false)) :
    s.sendEntry core q e =
      some ((s.remoteOut (s.core core).ctxNo m sl (remoteSource (s.ctx (s.core core).ctxNo).member core) n (queueClass q) e.kind.code
        e.sz.toNat off e.data e.data2 s.tick).updCore core fun x =>
          { x.putEntry q { e with state := .sent, seq := n, first := s.tick, last := s.tick } with
            seqs := seqUse x.seqs (seqKey m sl (queueClass q)) s.tick }) := by
  simp only [State.sendEntry, hp, hn]
  rw [if_neg hk]
  rfl

/-- What goes to another module is one packet; the cores stay. -/
theorem State.remoteOut_sends (s : State) (ctx m sl src seq : Nat) (cls : Bool) (op sz off : Nat) (v w : Word) (first : Nat) :
    ∃ p : Pkt, (s.remoteOut ctx m sl src seq cls op sz off v w first).net = s.net ++ [p] ∧ p.dst = farCode m (2592 + sl / 8) ∧
      p.kind = .request sl src seq cls op sz off v w first :=
  ⟨_, rfl, rfl, rfl⟩

theorem State.core_remoteOut (s : State) (ctx m sl src seq : Nat) (cls : Bool) (op sz off : Nat) (v w : Word) (first k : Nat) :
    (s.remoteOut ctx m sl src seq cls op sz off v w first).core k = s.core k := rfl

/-- A load from another module, as it is sent. -/
theorem queueRequestSend_remoteLoad {m sl off : Nat} (he : s.sendable core q = some e) (hk : e.kind = .load)
    (hp : s.requestPlace core e = some (.ok (.remote m sl off))) :
    ∃ t, exec (.queueRequestSend core q) s = .next t ∧ (t.core core).queue q = ((s.core core).queue q).map (fun f =>
      if f.ord = e.ord then { e with state := .sent, first := s.tick, last := s.tick } else f) ∧ t.net.length = s.net.length + 1 := by
  refine ⟨_, queueRequestSend_sent he (State.sendEntry_remoteLoad hk hp), ?_, ?_⟩
  · rw [State.core_updCore_same, State.core_remoteOut, Core.queue_putEntry _ _ (Core.queue_lt (State.queue_ne_nil_of_sendable he))]
  · rw [State.net_updCore]
    exact List.length_append

/-- A store or atomic to another module, as it is sent with its number. -/
theorem queueRequestSend_remoteStore {m sl off : Nat} (he : s.sendable core q = some e) (hk : e.kind ≠ .load)
    (hp : s.requestPlace core e = some (.ok (.remote m sl off))) :
    let x := s.core core
    let key := seqKey m sl (queueClass q)
    let n := Tbl.getD x.seqs key 0
    (∀ last, Tbl.get? x.seqs (key + 1 + n) = some last → last + 40000 ≤ s.tick) →
    ∃ t, exec (.sequenceNumberFree core q) s = .next t ∧ exec (.queueRequestSend core q) s = .next t ∧
      (t.core core).queue q = (x.queue q).map (fun f => if f.ord = e.ord then
        { e with state := .sent, seq := n, first := s.tick, last := s.tick } else f) ∧
      ∃ p, t.net = s.net ++ [p] ∧ p.dst = farCode m (2592 + sl / 8) ∧ p.kind = .request sl (remoteSource (s.ctx x.ctxNo).member core) n
        (queueClass q) e.kind.code e.sz.toNat off e.data e.data2 s.tick := by
  intro x key n hfree
  have hsend := State.sendEntry_remoteStore hk hp (seqNext_free hfree)
  refine ⟨_, sequenceNumberFree_sent he hsend, queueRequestSend_sent he hsend, ?_, ?_⟩
  · rw [State.core_updCore_same, State.core_remoteOut]
    exact Core.queue_putEntry _ _ (Core.queue_lt (State.queue_ne_nil_of_sendable he))
  · exact State.remoteOut_sends ..

/-! ### Performing (R54, R139) -/

variable {k : Nat}

/-- A sent request that its turn lets go, at a place of the module, is performed there in one event. -/
theorem queueAccessPerform_here {pl : Place} (hq : ((s.core core).queue q)[k]? = some e) (hm : s.mayPerform core e = true)
    (hp : s.requestPlace core e = some (.ok pl)) (hr : ∀ m sl off, pl ≠ .remote m sl off) (hs : e.kind.isSeq = false)
    (hh : s.placeHeld (groveOf core) (s.core core).ctxNo pl = false) :
    let r := (s.lookedUp (groveOf core) (s.core core).ctxNo e.addr (.ok pl)).performAt pl e.kind e.sz e.data e.data2 (s.core core).ctxNo
    exec (.queueAccessPerform core q k) s = .next (r.2.updCore core fun c => c.putEntry q (e.finish r.1)) := by
  intro r
  simp only [exec_queueAccessPerform, execQueueAccessPerform, hq, hm, Bool.not_true, Bool.false_eq_true, if_false, hp]
  cases pl with
  | remote m sl off => exact absurd rfl (hr m sl off)
  | _ =>
    simp only [hs, hh, Bool.or_self, Bool.false_eq_true, if_false]
    rfl

/-- A sent request whose address fails completes as failed. -/
theorem queueAccessPerform_fails {kind xc : Nat} (hq : ((s.core core).queue q)[k]? = some e) (hm : s.mayPerform core e = true)
    (hp : s.requestPlace core e = some (.error (kind, xc))) :
    exec (.queueAccessPerform core q k) s =
      .next ((s.lookedUp (groveOf core) (s.core core).ctxNo e.addr (.error (kind, xc))).updCore core fun c =>
        c.putEntry q { e with state := .failed, fkind := kind, fxc := xc }) := by
  simp only [exec_queueAccessPerform, execQueueAccessPerform, hq, hm, Bool.not_true, Bool.false_eq_true, if_false, hp]
  rfl

/-- The answer that comes in from another module leaves the cores. -/
theorem State.core_remoteAnswer (s : State) (j : Nat) : s.remoteAnswer.2.core j = s.core j := rfl

theorem State.core_logOn (s : State) (node chan : Nat) (p : Pkt) (j : Nat) : (s.logOn node chan p).core j = s.core j := by
  unfold State.logOn
  split <;> rfl

theorem State.core_logAnswer (s : State) (ctx g m sl src seq asker ord : Nat) (r : AccessEnd) (j : Nat) :
    (s.logAnswer ctx g m sl src seq asker ord r).core j = s.core j := State.core_logOn ..

/-- A finished request keeps its number of order. -/
theorem QEntry.ord_finish (e : QEntry) (r : AccessEnd) : (e.finish r).ord = e.ord := by
  cases r <;> rfl

/-- A sent request to another module completes with its answer. -/
theorem queueAccessPerform_remote {m sl off : Nat} (hq : ((s.core core).queue q)[k]? = some e) (hm : s.mayPerform core e = true)
    (hp : s.requestPlace core e = some (.ok (.remote m sl off)))
    (hh : s.placeHeld (groveOf core) (s.core core).ctxNo (.remote m sl off) = false) :
    ∃ t r, exec (.queueAccessPerform core q k) s = .next t ∧
      (t.core core).queue q = ((s.core core).queue q).map (fun f => if f.ord = e.ord then e.finish r else f) := by
  have hlt : q < 8 := Core.queue_lt (List.ne_nil_of_mem (List.mem_of_getElem? hq))
  simp only [exec_queueAccessPerform, execQueueAccessPerform, hq, hm, Bool.not_true, Bool.false_eq_true, if_false, hp, hh]
  refine ⟨_, s.remoteAnswer.1, rfl, ?_⟩
  rw [State.core_updCore_same, State.core_logAnswer, State.core_remoteAnswer, Core.queue_putEntry _ _ hlt, QEntry.ord_finish]

end

/-! ### Page walks (R41, R42) -/

/-- A walk reads its entries; one that succeeds fills the caches, and one that fails does not. -/
theorem pageWalk_ends (s : State) (g ctx va : Nat) :
    (∀ l, s.walk g ctx va = .ok l → exec (.pageWalk g ctx va) s = .next ((s.walked g ctx va true).tlbFill g (l.toTlb ctx va))) ∧
    (∀ c, s.walk g ctx va = .error c → exec (.pageWalk g ctx va) s = .next (s.walked g ctx va false)) := by
  rw [exec_pageWalk, execPageWalk]
  refine ⟨fun l h => ?_, fun c h => ?_⟩ <;> rw [h]

/-- Settles O21, by what sending and performing a request do in each case of its place. -/
theorem queueRequestsPerform : Obligations.QueueRequestsPerform := by
  unfold Obligations.QueueRequestsPerform
  exact ⟨fun s core q e he hl => queueRequestSend_sent he (State.sendEntry_here hl),
    fun s core q m sl off e => queueRequestSend_remoteStore, fun s core q m sl off e => queueRequestSend_remoteLoad,
    fun s core q k e pl => queueAccessPerform_here, fun s core q k kind xc e => queueAccessPerform_fails,
    fun s core q k m sl off e => queueAccessPerform_remote, pageWalk_ends⟩

end Sys2Proof.Machine
end

section
/-!
PROOF. Float results are rounded once (O6; R100, R103, R104, R109, R110, R111, R200, R201): magnitudes counted in a common unit, what
rounding to a multiple of a unit gives in each mode, the bit patterns of a format in the order of their values, and the conversion of
a finite value put together from these.
-/

namespace Sys2Proof.Machine

/-! ### Magnitudes in a common unit -/

/-- The magnitude `m * 2^e` counted in units of `2^z`, for `z ≤ e`. -/
def magIn (m : Nat) (e z : Int) : Nat := m * 2 ^ (e - z).toNat

/-- A magnitude with a sign. -/
def withSign (neg : Bool) (a : Nat) : Int := (if neg then -1 else 1) * (a : Int)

@[simp] theorem withSign_true (a : Nat) : withSign true a = -(a : Int) := by simp [withSign]
@[simp] theorem withSign_false (a : Nat) : withSign false a = a := by simp [withSign]
@[simp] theorem withSign_zero (s : Bool) : withSign s 0 = 0 := by simp [withSign]
@[simp] theorem natAbs_withSign (s : Bool) (a : Nat) : (withSign s a).natAbs = a := by cases s <;> simp

theorem withSign_inj {s : Bool} {a b : Nat} : withSign s a = withSign s b ↔ a = b := by cases s <;> simp

@[simp] theorem magIn_zero (e z : Int) : magIn 0 e z = 0 := Nat.zero_mul _

theorem magIn_one_pos (e z : Int) : 0 < magIn 1 e z := by simp [magIn]

theorem magIn_eq_mul_one (m : Nat) (e z : Int) : magIn m e z = m * magIn 1 e z := by simp [magIn]

/-- A change of unit scales a magnitude. -/
theorem magIn_rescale (m : Nat) {e y z : Int} (hy : y ≤ e) (hz : z ≤ y) : magIn m e z = magIn m e y * magIn 1 y z := by
  have h : (e - z).toNat = (e - y).toNat + (y - z).toNat := by omega
  simp only [magIn, h, Nat.pow_add, Nat.one_mul, Nat.mul_assoc]

theorem magIn_one_rescale {e y z : Int} (hy : y ≤ e) (hz : z ≤ y) : magIn 1 e z = 2 ^ (e - y).toNat * magIn 1 y z := by
  rw [magIn_rescale 1 hy hz, magIn, Nat.one_mul]

theorem scaled_eq_withSign (s : Bool) (m : Nat) (e z : Int) : scaled s m e z = withSign s (magIn m e z) := by
  cases s <;> simp [scaled, magIn, Nat.shiftLeft_eq]

/-- Magnitudes compare as their counts in any common unit do. -/
theorem cmpMag_eq_gt_iff {m k : Nat} {e f z : Int} (he : z ≤ e) (hf : z ≤ f) :
    cmpMag m e k f = .gt ↔ magIn k f z < magIn m e z := by
  have hz : z ≤ min e f := by omega
  rw [cmpMag, compare_gt_iff_gt, scaled_eq_withSign, scaled_eq_withSign, magIn_rescale m (min_le_left e f) hz,
    magIn_rescale k (min_le_right e f) hz, Nat.mul_lt_mul_right (magIn_one_pos _ _)]
  simp

/-! ### Rounding to a multiple of a unit (R109) -/

/-- Does the mode round the magnitude `x` up to the next multiple of `u`? -/
def roundsUp (rm : Rm) (neg : Bool) (x u : Nat) : Bool :=
  match rm with
  | .rne => decide (u < 2 * (x % u)) || (decide (2 * (x % u) = u) && decide (x / u % 2 = 1))
  | .rtz => false
  | .rdn => neg && decide (x % u ≠ 0)
  | .rup => !neg && decide (x % u ≠ 0)

/-- The magnitude `x` rounded to a count of units `u`. -/
def roundedTo (rm : Rm) (neg : Bool) (x u : Nat) : Nat := x / u + if roundsUp rm neg x u then 1 else 0

/-- A multiple of the unit is not rounded up. -/
theorem roundsUp_exact {rm : Rm} {neg : Bool} {x u : Nat} (hu : 0 < u) (h : x % u = 0) : roundsUp rm neg x u = false := by
  cases rm <;> simp [roundsUp, h]
  omega

/-- Rounding does not depend on the unit in which the magnitude is counted. -/
theorem roundsUp_mul (rm : Rm) (neg : Bool) (x : Nat) {u c : Nat} (hc : 0 < c) :
    roundsUp rm neg (x * c) (u * c) = roundsUp rm neg x u := by
  have h1 : x * c % (u * c) = x % u * c := Nat.mul_mod_mul_right ..
  have h2 : x * c / (u * c) = x / u := Nat.mul_div_mul_right _ _ hc
  have h3 : u * c < 2 * (x % u * c) ↔ u < 2 * (x % u) := by rw [← Nat.mul_assoc, Nat.mul_lt_mul_right hc]
  have h4 : 2 * (x % u * c) = u * c ↔ 2 * (x % u) = u := by rw [← Nat.mul_assoc, Nat.mul_left_inj hc.ne']
  have h5 : x % u * c ≠ 0 ↔ x % u ≠ 0 := by simp [hc.ne']
  cases rm <;> simp only [roundsUp, h1, h2, h3, h4, h5]

/-- `roundAt` rounds the magnitude counted in any common unit. -/
theorem roundAt_eq {rm : Rm} {neg : Bool} {m : Nat} {e q z : Int} (he : z ≤ e) (hq : z ≤ q) :
    roundAt rm neg m false e q =
      (roundedTo rm neg (magIn m e z) (magIn 1 q z), decide (magIn m e z % magIn 1 q z ≠ 0)) := by
  unfold roundAt
  split
  case isTrue h =>
    have hx : magIn m e z = magIn m e q * magIn 1 q z := magIn_rescale m h hq
    have hmod : magIn m e z % magIn 1 q z = 0 := by rw [hx, Nat.mul_mod_left]
    simp only [roundedTo, roundsUp_exact (magIn_one_pos q z) hmod, hmod]
    rw [hx, Nat.mul_div_cancel _ (magIn_one_pos _ _)]
    simp [magIn, Nat.shiftLeft_eq]
  case isFalse h =>
    obtain ⟨n, hn⟩ : ∃ n : Nat, q - e = (n + 1 : Nat) := ⟨(q - e).toNat - 1, by omega⟩
    have hu : magIn 1 q z = 2 ^ (n + 1) * magIn 1 e z := by rw [magIn_one_rescale (by omega : e ≤ q) he, hn, Int.toNat_natCast]
    rw [hu, magIn_eq_mul_one m e z, roundedTo, roundsUp_mul _ _ _ (magIn_one_pos _ _),
      Nat.mul_div_mul_right _ _ (magIn_one_pos _ _), Nat.mul_mod_mul_right]
    have hr : m - (m >>> (n + 1)) <<< (n + 1) = m % 2 ^ (n + 1) := by
      rw [Nat.shiftRight_eq_div_pow, Nat.shiftLeft_eq, Nat.mod_eq_sub, Nat.mul_comm]
    have h2 : 2 ^ (n + 1) = 2 * 2 ^ n := by rw [Nat.pow_succ, Nat.mul_comm]
    have hlt : 2 ^ n < m % 2 ^ (n + 1) ↔ 2 ^ (n + 1) < 2 * (m % 2 ^ (n + 1)) := by omega
    have heq : m % 2 ^ (n + 1) = 2 ^ n ↔ 2 * (m % 2 ^ (n + 1)) = 2 ^ (n + 1) := by omega
    have hne : m % 2 ^ (n + 1) * magIn 1 e z ≠ 0 ↔ m % 2 ^ (n + 1) ≠ 0 := by simp [(magIn_one_pos e z).ne']
    simp only [hn, Int.toNat_natCast, Nat.add_sub_cancel, hr, Nat.one_shiftLeft, hlt, heq, hne, Bool.false_or]
    rw [Nat.shiftRight_eq_div_pow, add_ite, Nat.add_zero]
    cases rm <;> rfl

section
variable {rm : Rm} {neg : Bool} {x u : Nat} {t : Int}

/-- An exact multiple of the unit is its own rounding. -/
theorem roundedTo_exact (hu : 0 < u) (h : x % u = 0) : roundedTo rm neg x u * u = x := by
  simp only [roundedTo, roundsUp_exact hu h, Bool.false_eq_true, if_false, Nat.add_zero]
  exact Nat.div_mul_cancel (Nat.dvd_of_mod_eq_zero h)

/-- The rounded magnitude is the multiple of the unit at or below the exact one, or the next above. -/
theorem roundedTo_mul : roundedTo rm neg x u * u = x / u * u + if roundsUp rm neg x u then u else 0 := by
  unfold roundedTo
  split <;> simp [Nat.add_mul]

theorem roundedTo_mul_eq_iff (hu : 0 < u) : roundedTo rm neg x u * u = x ↔ x % u = 0 :=
  ⟨fun h => by rw [← h, Nat.mul_mod_left], roundedTo_exact hu⟩

theorem roundsUp_rne : roundsUp .rne neg x u = true ↔ u < 2 * (x % u) ∨ 2 * (x % u) = u ∧ x / u % 2 = 1 := by
  simp [roundsUp]

/-- RNE: nothing outside the gap between two multiples of the unit is nearer, and a tie goes to the even multiple. -/
theorem roundedTo_rne_nearest (hu : 0 < u) (ht : t ≤ (x / u * u : Nat) ∨ ((x / u * u + u : Nat) : Int) ≤ t) :
    ((x : Int) - (roundedTo .rne neg x u * u : Nat)).natAbs ≤ (x - t).natAbs ∧
      (t ≠ (roundedTo .rne neg x u * u : Nat) →
        ((x : Int) - (roundedTo .rne neg x u * u : Nat)).natAbs = (x - t).natAbs → roundedTo .rne neg x u % 2 = 0) := by
  have hx := Nat.div_add_mod' x u
  have hlt := Nat.mod_lt x hu
  have hup := roundsUp_rne (neg := neg) (x := x) (u := u)
  rw [roundedTo_mul, roundedTo]
  cases h : roundsUp .rne neg x u <;> simp only [h, if_true, Bool.false_eq_true, if_false, false_iff, true_iff] at hup ⊢ <;> omega

/-- A mode that rounds this sign towards zero gives the greatest value up to the exact one. -/
theorem roundedTo_down (hu : 0 < u) (hrm : roundsUp rm neg x u = false)
    (ht : t ≤ (x / u * u : Nat) ∨ ((x / u * u + u : Nat) : Int) ≤ t) :
    roundedTo rm neg x u * u ≤ x ∧ (t ≤ x → t ≤ (roundedTo rm neg x u * u : Nat)) := by
  have hx := Nat.div_add_mod' x u
  have hlt := Nat.mod_lt x hu
  rw [roundedTo_mul, hrm]
  simp only [Bool.false_eq_true, if_false]
  omega

/-- A mode that rounds this sign away from zero gives the smallest value from the exact one up. -/
theorem roundedTo_up (hu : 0 < u) (hrm : roundsUp rm neg x u = decide (x % u ≠ 0))
    (ht : t ≤ (x / u * u : Nat) ∨ ((x / u * u + u : Nat) : Int) ≤ t) :
    x ≤ roundedTo rm neg x u * u ∧ (x ≤ t → (roundedTo rm neg x u * u : Nat) ≤ t) := by
  have hx := Nat.div_add_mod' x u
  have hlt := Nat.mod_lt x hu
  rw [roundedTo_mul, hrm]
  by_cases h : x % u = 0 <;> simp only [h, ne_eq, not_true_eq_false, not_false_eq_true, decide_true, decide_false, if_true,
    Bool.false_eq_true, if_false] <;> omega

/-- A value of the grid that the rounded magnitude exceeds is below the exact one. -/
theorem lt_of_lt_roundedTo {l : Nat} (hu : 0 < u) (hl : l ≤ x / u * u ∨ x / u * u + u ≤ l) (h : l < roundedTo rm neg x u * u) :
    l < x := by
  by_cases he : x % u = 0
  · rwa [roundedTo_exact hu he] at h
  · have hx := Nat.div_add_mod' x u
    rw [roundedTo_mul] at h
    split at h <;> omega

end

/-! ### The bit patterns of a format, in the order of their values (R100, R103, R104) -/

/-- The significand of the pattern `p` of a magnitude: its fraction, with the hidden one of a normal value. -/
def FloatFmt.patSig (f : FloatFmt) (p : Nat) : Nat := if p / 2 ^ f.mbits = 0 then p % 2 ^ f.mbits else 2 ^ f.mbits + p % 2 ^ f.mbits

/-- The unit of the pattern `p` above that of the subnormals, as a power of two. -/
def FloatFmt.patExp (f : FloatFmt) (p : Nat) : Nat := p / 2 ^ f.mbits - 1

/-- The magnitude of the pattern `p`, read as a finite one, in units of the smallest subnormal. -/
def FloatFmt.patMag (f : FloatFmt) (p : Nat) : Nat := f.patSig p * 2 ^ f.patExp p

/-- The bits of a pattern below its sign. -/
def FloatFmt.magBits (f : FloatFmt) (b : Nat) : Nat := b % 2 ^ (f.ebits + f.mbits)

/-- What the nine float formats have in common. -/
structure FloatFmt.Proper (f : FloatFmt) : Prop where
  mbits_pos : 1 ≤ f.mbits
  two_le_ebits : 2 ≤ f.ebits

section
variable {f : FloatFmt} {p e m : Nat}

theorem FloatFmt.two_pow_mbits_even (hf : f.Proper) : 2 ^ f.mbits % 2 = 0 := by
  rw [← Nat.sub_add_cancel hf.mbits_pos, Nat.pow_succ, Nat.mul_mod_left]

theorem FloatFmt.four_le_two_pow_ebits (hf : f.Proper) : 4 ≤ 2 ^ f.ebits :=
  Nat.pow_le_pow_right (n := 2) (by decide) hf.two_le_ebits

/-- The magnitude of a pattern of a subnormal. -/
theorem FloatFmt.patMag_subnormal (h : p < 2 ^ f.mbits) : f.patMag p = p := by
  simp [patMag, patSig, patExp, Nat.div_eq_of_lt h, Nat.mod_eq_of_lt h]

/-- The magnitude of a pattern of a normal value, from its exponent field and its fraction. -/
theorem FloatFmt.patMag_normal (hm : m < 2 ^ f.mbits) : f.patMag ((e + 1) * 2 ^ f.mbits + m) = (2 ^ f.mbits + m) * 2 ^ e := by
  have hd : ((e + 1) * 2 ^ f.mbits + m) / 2 ^ f.mbits = e + 1 := by
    rw [Nat.add_comm, Nat.add_mul_div_right _ _ (Nat.two_pow_pos _), Nat.div_eq_of_lt hm, Nat.zero_add]
  have hr : ((e + 1) * 2 ^ f.mbits + m) % 2 ^ f.mbits = m := by
    rw [Nat.add_comm, Nat.add_mul_mod_self_right, Nat.mod_eq_of_lt hm]
  simp [patMag, patSig, patExp, hd, hr]

/-- A pattern is one of a subnormal or of a normal value. -/
theorem FloatFmt.pattern_cases (f : FloatFmt) (p : Nat) :
    p < 2 ^ f.mbits ∨ ∃ e m, m < 2 ^ f.mbits ∧ p = (e + 1) * 2 ^ f.mbits + m := by
  rcases Nat.lt_or_ge p (2 ^ f.mbits) with h | h
  · exact .inl h
  · refine .inr ⟨p / 2 ^ f.mbits - 1, p % 2 ^ f.mbits, Nat.mod_lt _ (Nat.two_pow_pos _), ?_⟩
    rw [Nat.sub_add_cancel ((Nat.one_le_div_iff (Nat.two_pow_pos _)).2 h), Nat.div_add_mod']

/-- Patterns are in the order of their magnitudes. -/
theorem FloatFmt.patMag_strictMono (f : FloatFmt) : StrictMono f.patMag := by
  refine strictMono_nat_of_lt_succ fun p => ?_
  have hpos := Nat.two_pow_pos f.mbits
  rcases f.pattern_cases p with h | ⟨e, m, hm, rfl⟩
  · rw [patMag_subnormal h]
    rcases Nat.lt_or_ge (p + 1) (2 ^ f.mbits) with h' | h'
    · rw [patMag_subnormal h']
      exact Nat.lt_succ_self p
    · have hp : p + 1 = (0 + 1) * 2 ^ f.mbits + 0 := by omega
      rw [hp, patMag_normal hpos]
      omega
  · rw [patMag_normal hm]
    rcases Nat.lt_or_ge (m + 1) (2 ^ f.mbits) with h' | h'
    · rw [Nat.add_assoc, patMag_normal h']
      exact Nat.mul_lt_mul_of_pos_right (by omega) (Nat.two_pow_pos e)
    · have hp : (e + 1) * 2 ^ f.mbits + m + 1 = (e + 1 + 1) * 2 ^ f.mbits + 0 := by
        rw [Nat.add_mul (e + 1)]; omega
      rw [hp, patMag_normal hpos, Nat.pow_succ 2 e, Nat.mul_comm (2 ^ e), ← Nat.mul_assoc]
      exact Nat.mul_lt_mul_of_pos_right (by omega) (Nat.two_pow_pos e)

/-- A magnitude of the format is a multiple of a unit, or it lies below the binade that has this unit. -/
theorem FloatFmt.patMag_grid (f : FloatFmt) (p j : Nat) : 2 ^ j ∣ f.patMag p ∨ 0 < j ∧ f.patMag p < 2 ^ f.mbits * 2 ^ j := by
  rcases Nat.eq_zero_or_pos j with rfl | hj
  · exact .inl (one_dvd _)
  rcases f.pattern_cases p with h | ⟨e, m, hm, rfl⟩
  · exact .inr ⟨hj, (patMag_subnormal h).trans_lt (h.trans_le (Nat.le_mul_of_pos_right _ (Nat.two_pow_pos j)))⟩
  · rw [patMag_normal hm]
    rcases Nat.lt_or_ge e j with h | h
    · refine .inr ⟨hj, ?_⟩
      calc (2 ^ f.mbits + m) * 2 ^ e < (2 * 2 ^ f.mbits) * 2 ^ e := Nat.mul_lt_mul_of_pos_right (by omega) (Nat.two_pow_pos e)
        _ = 2 ^ f.mbits * 2 ^ (e + 1) := by rw [Nat.pow_succ', Nat.mul_comm 2, Nat.mul_assoc]
        _ ≤ 2 ^ f.mbits * 2 ^ j := Nat.mul_le_mul_left _ (Nat.pow_le_pow_right (by decide) h)
    · exact .inl (Dvd.dvd.mul_left (pow_dvd_pow 2 h) _)

/-- The pattern of the largest magnitude: its exponent field and its fraction. -/
theorem FloatFmt.largestBits_eq (hf : f.Proper) :
    ∃ e m, m < 2 ^ f.mbits ∧ f.largestBits = (e + 1) * 2 ^ f.mbits + m ∧ e + 1 < 2 ^ f.ebits ∧
      f.largest = (2 ^ f.mbits + m, f.emin + e) := by
  have h4 := four_le_two_pow_ebits hf
  have h2 := two_pow_mbits_even hf
  have hpos := Nat.two_pow_pos f.mbits
  have hbits (k : Nat) (hk : k ≤ 2 ^ f.ebits) (h1 : 1 ≤ k) : k * 2 ^ f.mbits - 1 = (k - 1) * 2 ^ f.mbits + (2 ^ f.mbits - 1) := by
    obtain ⟨j, rfl⟩ := Nat.exists_eq_add_of_le' h1
    rw [Nat.add_mul, Nat.add_sub_cancel]; omega
  have hcast : ((2 ^ f.ebits : Nat) : Int) = 2 ^ f.ebits := Nat.cast_pow 2 f.ebits
  have hmm : 2 ^ (f.mbits + 1) = 2 ^ f.mbits + 2 ^ f.mbits := Nat.two_pow_succ f.mbits
  unfold largestBits largest emin
  cases f.spec with
  | ieee =>
    refine ⟨2 ^ f.ebits - 3, 2 ^ f.mbits - 1, by omega, ?_, by omega, ?_⟩
    · dsimp only
      rw [hbits _ (by omega) (by omega), (by omega : 2 ^ f.ebits - 3 + 1 = 2 ^ f.ebits - 1 - 1)]
    · ext <;> dsimp only <;> omega
  | e4m3 =>
    refine ⟨2 ^ f.ebits - 2, 2 ^ f.mbits - 2, by omega, ?_, by omega, ?_⟩
    · have := hbits _ le_rfl (by omega)
      dsimp only
      rw [Nat.pow_add, (by omega : 2 ^ f.ebits - 2 + 1 = 2 ^ f.ebits - 1)]
      omega
    · ext <;> dsimp only <;> omega
  | none =>
    refine ⟨2 ^ f.ebits - 2, 2 ^ f.mbits - 1, by omega, ?_, by omega, ?_⟩
    · dsimp only
      rw [Nat.pow_add, hbits _ le_rfl (by omega), (by omega : 2 ^ f.ebits - 2 + 1 = 2 ^ f.ebits - 1)]
    · ext <;> dsimp only <;> omega

/-- The largest magnitude is that of its pattern. -/
theorem FloatFmt.patMag_largestBits (hf : f.Proper) : f.patMag f.largestBits = magIn f.largest.1 f.largest.2 f.emin := by
  obtain ⟨e, m, hm, hb, -, hl⟩ := largestBits_eq hf
  rw [hb, hl, patMag_normal hm, magIn]
  simp

theorem FloatFmt.emin_le_largest (hf : f.Proper) : f.emin ≤ f.largest.2 := by
  obtain ⟨e, m, -, -, -, hl⟩ := largestBits_eq hf
  rw [hl]
  exact Int.le_add_of_nonneg_right (Int.natCast_nonneg e)

/-- The bits of the largest magnitude stay below the sign. -/
theorem FloatFmt.largestBits_lt (hf : f.Proper) : f.largestBits < 2 ^ (f.ebits + f.mbits) := by
  obtain ⟨e, m, hm, hb, he, -⟩ := largestBits_eq hf
  calc f.largestBits = (e + 1) * 2 ^ f.mbits + m := hb
    _ < (e + 1 + 1) * 2 ^ f.mbits := by rw [Nat.add_mul (e + 1)]; omega
    _ ≤ 2 ^ f.ebits * 2 ^ f.mbits := Nat.mul_le_mul_right _ he
    _ = 2 ^ (f.ebits + f.mbits) := (Nat.pow_add ..).symm

/-! ### Reading a pattern -/

@[simp] theorem FloatFmt.testBit_signed (neg : Bool) (hp : p < 2 ^ (f.ebits + f.mbits)) :
    (f.signed neg p).testBit (f.ebits + f.mbits) = neg := by
  cases neg
  · simpa [signed] using Nat.testBit_lt_two_pow hp
  · simpa [signed, Nat.add_comm p, Nat.testBit_two_pow_add_eq] using Nat.testBit_lt_two_pow hp

@[simp] theorem FloatFmt.magBits_signed (neg : Bool) (hp : p < 2 ^ (f.ebits + f.mbits)) : f.magBits (f.signed neg p) = p := by
  cases neg <;> simp [magBits, signed, Nat.mod_eq_of_lt hp]

theorem FloatFmt.signed_mod_two (hf : f.Proper) (neg : Bool) : f.signed neg p % 2 = p % 2 := by
  have h : 2 ^ (f.ebits + f.mbits) % 2 = 0 := by rw [Nat.pow_add, Nat.mul_mod, two_pow_mbits_even hf]; simp
  cases neg <;> simp [signed, Nat.add_mod, h]

theorem FloatFmt.magBits_lt (f : FloatFmt) (b : Nat) : f.magBits b < 2 ^ f.ebits * 2 ^ f.mbits := by
  rw [← Nat.pow_add]
  exact Nat.mod_lt _ (Nat.two_pow_pos _)

/-- The exponent field of a pattern. -/
theorem FloatFmt.expField_eq (f : FloatFmt) (b : Nat) : (b >>> f.mbits) % 2 ^ f.ebits = f.magBits b / 2 ^ f.mbits := by
  rw [magBits, Nat.pow_add, Nat.shiftRight_eq_div_pow, Nat.mul_comm, Nat.mod_mul_right_div_self]

/-- The fraction of a pattern. -/
theorem FloatFmt.fracField_eq (f : FloatFmt) (b : Nat) : b % 2 ^ f.mbits = f.magBits b % 2 ^ f.mbits := by
  rw [magBits, Nat.mod_mod_of_dvd _ (pow_dvd_pow 2 (Nat.le_add_left ..))]

/-- The exponent field is all ones from the pattern on that stands for an infinity where the format has one. -/
theorem FloatFmt.expField_top_iff (f : FloatFmt) (b : Nat) :
    (b >>> f.mbits) % 2 ^ f.ebits = 2 ^ f.ebits - 1 ↔ f.infBits ≤ f.magBits b := by
  have hE : f.magBits b / 2 ^ f.mbits < 2 ^ f.ebits := by
    rw [Nat.div_lt_iff_lt_mul (Nat.two_pow_pos _)]
    exact f.magBits_lt b
  rw [expField_eq, infBits, ← Nat.le_div_iff_mul_le (Nat.two_pow_pos _)]
  omega

theorem FloatFmt.infBits_add (f : FloatFmt) : f.infBits + 2 ^ f.mbits = 2 ^ (f.ebits + f.mbits) := by
  rw [infBits, ← Nat.succ_mul, Nat.succ_eq_add_one, Nat.sub_add_cancel (Nat.two_pow_pos _), Nat.pow_add]

/-- A pattern whose exponent field is all ones, from its fraction. -/
theorem FloatFmt.magBits_of_top (h : f.infBits ≤ f.magBits p) : f.magBits p = f.infBits + p % 2 ^ f.mbits := by
  have he := (f.expField_top_iff p).2 h
  rw [expField_eq] at he
  rw [fracField_eq, infBits, ← he, Nat.mul_comm, Nat.div_add_mod]

/-- The value of a pattern that is read as a finite one. -/
theorem FloatFmt.value_eq (f : FloatFmt) (neg : Bool) (p : Nat) :
    (if p / 2 ^ f.mbits = 0 then Num.fin neg (p % 2 ^ f.mbits) f.emin
      else .fin neg (2 ^ f.mbits + p % 2 ^ f.mbits) ((p / 2 ^ f.mbits : Nat) - 1 + f.emin)) =
      .fin neg (f.patSig p) (f.patExp p + f.emin) := by
  unfold patSig patExp
  split
  case isTrue h => simp [h]
  case isFalse h => rw [Nat.cast_sub (Nat.one_le_iff_ne_zero.2 h), Nat.cast_one]

/-- The value of a pattern when it is read as a finite one. -/
def FloatFmt.finValue (f : FloatFmt) (b : Nat) : Num :=
  .fin (b.testBit (f.ebits + f.mbits)) (f.patSig (f.magBits b)) (f.patExp (f.magBits b) + f.emin)

theorem FloatFmt.finValue_eq (f : FloatFmt) (b : Nat) :
    (if (b >>> f.mbits) % 2 ^ f.ebits = 0 then Num.fin (b.testBit (f.ebits + f.mbits)) (b % 2 ^ f.mbits) f.emin
      else .fin (b.testBit (f.ebits + f.mbits)) (2 ^ f.mbits + b % 2 ^ f.mbits) (((b >>> f.mbits) % 2 ^ f.ebits : Nat) - 1 + f.emin)) =
      f.finValue b := by
  rw [expField_eq, fracField_eq, finValue, ← value_eq]

/-- Every pattern of a format without specials is finite. -/
theorem FloatFmt.decode_none (hs : f.spec = .none) (b : Nat) : f.decode b = f.finValue b := by
  rw [← finValue_eq, decode, hs]

/-- E4M3 has one NaN of each sign past its finite values. -/
theorem FloatFmt.decode_e4m3 (hs : f.spec = .e4m3) (b : Nat) :
    f.decode b = if f.magBits b = 2 ^ (f.ebits + f.mbits) - 1 then .nan false else f.finValue b := by
  have htop : ((b >>> f.mbits) % 2 ^ f.ebits = 2 ^ f.ebits - 1 ∧ b % 2 ^ f.mbits = 2 ^ f.mbits - 1) ↔
      f.magBits b = 2 ^ (f.ebits + f.mbits) - 1 := by
    have hadd := f.infBits_add
    have hpos := Nat.two_pow_pos f.mbits
    rw [expField_top_iff]
    refine ⟨fun ⟨h, hm⟩ => ?_, fun h => ?_⟩
    · rw [magBits_of_top h]; omega
    · have h' : f.infBits ≤ f.magBits b := by omega
      have := magBits_of_top h'
      omega
  rw [← finValue_eq, decode, hs]
  simp only [htop]

/-- The IEEE formats have an infinity and NaNs past their finite values. -/
theorem FloatFmt.decode_ieee (hs : f.spec = .ieee) (b : Nat) :
    f.decode b = if f.infBits ≤ f.magBits b then
        (if b % 2 ^ f.mbits = 0 then .inf (b.testBit (f.ebits + f.mbits)) else .nan (!((b % 2 ^ f.mbits).testBit (f.mbits - 1))))
      else f.finValue b := by
  rw [← finValue_eq, decode, hs]
  simp only [expField_top_iff]

theorem FloatFmt.largestBits_none (hs : f.spec = .none) : f.largestBits = 2 ^ (f.ebits + f.mbits) - 1 := by rw [largestBits, hs]
theorem FloatFmt.largestBits_e4m3 (hs : f.spec = .e4m3) : f.largestBits = 2 ^ (f.ebits + f.mbits) - 2 := by rw [largestBits, hs]
theorem FloatFmt.largestBits_ieee (hs : f.spec = .ieee) : f.largestBits = f.infBits - 1 := by rw [largestBits, hs, infBits]

theorem FloatFmt.infBits_pos (hf : f.Proper) : 0 < f.infBits := by
  have h4 := four_le_two_pow_ebits hf
  exact Nat.mul_pos (by omega) (Nat.two_pow_pos _)

/-- A pattern up to that of the largest magnitude is finite. -/
theorem FloatFmt.decode_finite (hf : f.Proper) {b : Nat} (h : f.magBits b ≤ f.largestBits) : f.decode b = f.finValue b := by
  have hinf := infBits_pos hf
  cases hs : f.spec with
  | none => exact decode_none hs b
  | e4m3 =>
    have hadd := f.infBits_add
    have hpos := Nat.two_pow_pos f.mbits
    rw [largestBits_e4m3 hs] at h
    rw [decode_e4m3 hs, if_neg (by omega)]
  | ieee =>
    rw [largestBits_ieee hs] at h
    rw [decode_ieee hs, if_neg (by omega)]

/-- A pattern past that of the largest magnitude is not finite. -/
theorem FloatFmt.decode_not_finite {b : Nat} (h : f.largestBits < f.magBits b) (s : Bool) (k : Nat) (q : Int) :
    f.decode b ≠ .fin s k q := by
  have hlt : f.magBits b < 2 ^ (f.ebits + f.mbits) := Nat.mod_lt _ (Nat.two_pow_pos _)
  cases hs : f.spec with
  | none => rw [largestBits_none hs] at h; omega
  | e4m3 =>
    rw [largestBits_e4m3 hs] at h
    rw [decode_e4m3 hs, if_pos (by omega)]
    exact Num.noConfusion
  | ieee =>
    rw [largestBits_ieee hs] at h
    rw [decode_ieee hs, if_pos (by omega)]
    split <;> exact Num.noConfusion

theorem FloatFmt.infBits_lt (f : FloatFmt) : f.infBits < 2 ^ (f.ebits + f.mbits) := by
  rw [← infBits_add]
  exact Nat.lt_add_of_pos_right (Nat.two_pow_pos _)

theorem FloatFmt.nanBits_e4m3 (hs : f.spec = .e4m3) : f.nanBits = 2 ^ (f.ebits + f.mbits) - 1 := by rw [nanBits, hs]

theorem FloatFmt.nanBits_lt (hs : f.spec = .e4m3) : f.nanBits < 2 ^ (f.ebits + f.mbits) := by
  rw [nanBits_e4m3 hs]
  exact Nat.sub_lt (Nat.two_pow_pos _) Nat.one_pos

/-- The pattern of an infinity. -/
theorem FloatFmt.decode_infBits (hs : f.spec = .ieee) (neg : Bool) : f.decode (f.signed neg f.infBits) = .inf neg := by
  have hlt := f.infBits_lt
  have h0 : f.signed neg f.infBits % 2 ^ f.mbits = 0 := by
    rw [fracField_eq, magBits_signed neg hlt, infBits, Nat.mul_mod_left]
  rw [decode_ieee hs, magBits_signed neg hlt, if_pos le_rfl, if_pos h0, testBit_signed neg hlt]

/-- The pattern of an E4M3 NaN. -/
theorem FloatFmt.decode_nanBits (hs : f.spec = .e4m3) (neg : Bool) : f.decode (f.signed neg f.nanBits) = .nan false := by
  rw [decode_e4m3 hs, magBits_signed neg (nanBits_lt hs), if_pos (nanBits_e4m3 hs)]

/-! ### The values of a format, counted in a common unit -/

/-- The value of a pattern in units of `2^z`, where it is finite. -/
def FloatFmt.valueIn (f : FloatFmt) (z : Int) (b : Nat) : Option Int :=
  match f.decode b with
  | .fin s k q => some (withSign s (magIn k q z))
  | _ => none

/-- The magnitude of the pattern `p` in units of `2^z`. -/
def FloatFmt.patIn (f : FloatFmt) (z : Int) (p : Nat) : Nat := f.patMag p * magIn 1 f.emin z

variable {z : Int}

theorem FloatFmt.magIn_pat (hz : z ≤ f.emin) (p : Nat) : magIn (f.patSig p) (f.patExp p + f.emin) z = f.patIn z p := by
  rw [patIn, magIn_rescale (y := f.emin) _ (by omega) hz, magIn, patMag, Int.add_sub_cancel, Int.toNat_natCast]

theorem FloatFmt.valueIn_finite (hf : f.Proper) (hz : z ≤ f.emin) {b : Nat} (h : f.magBits b ≤ f.largestBits) :
    f.valueIn z b = some (withSign (b.testBit (f.ebits + f.mbits)) (f.patIn z (f.magBits b))) := by
  rw [valueIn, decode_finite hf h, finValue, ← magIn_pat hz]

/-- The value of a signed pattern up to that of the largest magnitude. -/
theorem FloatFmt.valueIn_signed (hf : f.Proper) (hz : z ≤ f.emin) (neg : Bool) (h : p ≤ f.largestBits) :
    f.valueIn z (f.signed neg p) = some (withSign neg (f.patIn z p)) := by
  have hlt := h.trans_lt (largestBits_lt hf)
  rw [valueIn_finite hf hz (by rwa [magBits_signed neg hlt]), testBit_signed neg hlt, magBits_signed neg hlt]

/-- Every value of the format has the magnitude of a pattern up to the largest. -/
theorem FloatFmt.valueIn_some (hf : f.Proper) (hz : z ≤ f.emin) {b : Nat} {w : Int} (h : f.valueIn z b = some w) :
    ∃ p, p ≤ f.largestBits ∧ w.natAbs = f.patIn z p := by
  rcases Nat.lt_or_ge f.largestBits (f.magBits b) with hb | hb
  · unfold valueIn at h
    split at h
    next heq => exact (decode_not_finite hb _ _ _ heq).elim
    next => cases h
  · rw [valueIn_finite hf hz hb, Option.some_inj] at h
    exact ⟨_, hb, by rw [← h, natAbs_withSign]⟩

theorem FloatFmt.patIn_le_patIn {q : Nat} : f.patIn z p ≤ f.patIn z q ↔ p ≤ q := by
  rw [patIn, patIn, Nat.mul_le_mul_right_iff (magIn_one_pos _ _), f.patMag_strictMono.le_iff_le]

theorem FloatFmt.natAbs_valueIn_le (hf : f.Proper) (hz : z ≤ f.emin) {b : Nat} {w : Int} (h : f.valueIn z b = some w) :
    w.natAbs ≤ f.patIn z f.largestBits := by
  obtain ⟨p, hp, hw⟩ := valueIn_some hf hz h
  rw [hw]
  exact patIn_le_patIn.2 hp
end

/-- What each rounding mode (R109) asks of the result `y` for the exact value `x`, against another value `w` of the format. -/
def RoundsBest (rm : Rm) (x y w : Int) (even : Prop) : Prop :=
  (rm = .rne → (x - y).natAbs ≤ (x - w).natAbs ∧ (w ≠ y → (x - y).natAbs = (x - w).natAbs → even)) ∧
  (rm = .rtz → y.natAbs ≤ x.natAbs ∧ (w.natAbs ≤ x.natAbs → w.natAbs ≤ y.natAbs)) ∧
  (rm = .rdn → y ≤ x ∧ (w ≤ x → w ≤ y)) ∧ (rm = .rup → x ≤ y ∧ (x ≤ w → y ≤ w))

theorem RoundsBest.imp_even {rm : Rm} {x y w : Int} {p q : Prop} (hpq : p → q) (h : RoundsBest rm x y w p) : RoundsBest rm x y w q := by
  obtain ⟨hrne, h⟩ := h
  exact ⟨fun hrm => ⟨(hrne hrm).1, fun hne heq => hpq ((hrne hrm).2 hne heq)⟩, h⟩

/-- The rounded magnitude with its sign is the mode's choice against every value whose magnitude lies outside the gap. -/
theorem roundedTo_best {rm : Rm} {neg : Bool} {x u : Nat} {w : Int} (hu : 0 < u)
    (hw : w.natAbs ≤ x / u * u ∨ x / u * u + u ≤ w.natAbs) :
    RoundsBest rm (withSign neg x) (withSign neg (roundedTo rm neg x u * u)) w (roundedTo rm neg x u % 2 = 0) := by
  have hs : withSign neg 1 * w ≤ (x / u * u : Nat) ∨ ((x / u * u + u : Nat) : Int) ≤ withSign neg 1 * w := by
    cases neg <;> simp only [withSign_true, withSign_false] <;> omega
  cases rm with
  | rne =>
    have h := roundedTo_rne_nearest (neg := neg) hu hs
    refine ⟨fun _ => ?_, nofun, nofun, nofun⟩
    cases neg <;> simp only [withSign_true, withSign_false] at h ⊢ <;> omega
  | rtz =>
    have h := roundedTo_down (rm := .rtz) (neg := neg) (x := x) (t := w.natAbs) hu rfl (by omega)
    refine ⟨nofun, fun _ => ?_, nofun, nofun⟩
    simp only [natAbs_withSign]
    omega
  | rdn =>
    refine ⟨nofun, nofun, fun _ => ?_, nofun⟩
    cases neg with
    | false =>
      have h := roundedTo_down (rm := .rdn) (neg := false) hu rfl hs
      simp only [withSign_false] at h ⊢
      omega
    | true =>
      have h := roundedTo_up (rm := .rdn) (neg := true) hu rfl hs
      simp only [withSign_true] at h ⊢
      omega
  | rup =>
    refine ⟨nofun, nofun, nofun, fun _ => ?_⟩
    cases neg with
    | false =>
      have h := roundedTo_up (rm := .rup) (neg := false) hu rfl hs
      simp only [withSign_false] at h ⊢
      omega
    | true =>
      have h := roundedTo_down (rm := .rup) (neg := true) hu rfl hs
      simp only [withSign_true] at h ⊢
      omega

/-! ### The unit of a result and its pattern -/

/-- The unit to which a format rounds the magnitude `m * 2^e`: that of its binade, but not below that of the subnormals. -/
def FloatFmt.unitExp (f : FloatFmt) (m : Nat) (e : Int) : Int := max (Nat.log2 m + e - f.mbits) f.emin

section
variable {f : FloatFmt} {m r p : Nat} {e q z : Int}

theorem FloatFmt.emin_le_unitExp (f : FloatFmt) (m : Nat) (e : Int) : f.emin ≤ f.unitExp m e := le_max_right ..

/-- A magnitude has at most one more bit than the fraction, in its unit. -/
theorem FloatFmt.magIn_lt (he : z ≤ e) (hz : z ≤ f.emin) : magIn m e z < 2 ^ (f.mbits + 1) * magIn 1 (f.unitExp m e) z := by
  have hle : (Nat.log2 m + 1) + (e - z).toNat ≤ (f.mbits + 1) + (f.unitExp m e - z).toNat := by
    unfold unitExp; omega
  calc magIn m e z < 2 ^ (Nat.log2 m + 1) * 2 ^ (e - z).toNat :=
        Nat.mul_lt_mul_of_pos_right Nat.lt_log2_self (Nat.two_pow_pos _)
    _ = 2 ^ ((Nat.log2 m + 1) + (e - z).toNat) := (Nat.pow_add ..).symm
    _ ≤ 2 ^ ((f.mbits + 1) + (f.unitExp m e - z).toNat) := Nat.pow_le_pow_right Nat.two_pos hle
    _ = 2 ^ (f.mbits + 1) * magIn 1 (f.unitExp m e) z := by rw [Nat.pow_add, magIn, Nat.one_mul]

/-- A magnitude that is not rounded to the unit of the subnormals fills the fraction and the hidden one. -/
theorem FloatFmt.le_magIn (hm : 0 < m) (hz : z ≤ f.emin) (hq : f.emin < f.unitExp m e) :
    2 ^ f.mbits * magIn 1 (f.unitExp m e) z ≤ magIn m e z := by
  have hle : f.mbits + (f.unitExp m e - z).toNat ≤ Nat.log2 m + (e - z).toNat := by
    unfold unitExp at hq ⊢; omega
  calc 2 ^ f.mbits * magIn 1 (f.unitExp m e) z = 2 ^ (f.mbits + (f.unitExp m e - z).toNat) := by rw [Nat.pow_add, magIn, Nat.one_mul]
    _ ≤ 2 ^ (Nat.log2 m + (e - z).toNat) := Nat.pow_le_pow_right Nat.two_pos hle
    _ = 2 ^ Nat.log2 m * 2 ^ (e - z).toNat := Nat.pow_add ..
    _ ≤ magIn m e z := Nat.mul_le_mul_right _ (Nat.log2_self_le hm.ne')

/-- No value of the format lies between the two multiples of the unit around a magnitude. -/
theorem FloatFmt.patIn_gap (hm : 0 < m) (hz : z ≤ f.emin) (p : Nat) :
    let x := magIn m e z
    let u := magIn 1 (f.unitExp m e) z
    f.patIn z p ≤ x / u * u ∨ x / u * u + u ≤ f.patIn z p := by
  intro x u
  have hu : u = 2 ^ (f.unitExp m e - f.emin).toNat * magIn 1 f.emin z := magIn_one_rescale (emin_le_unitExp ..) hz
  have hpos : 0 < u := magIn_one_pos _ _
  rcases f.patMag_grid p (f.unitExp m e - f.emin).toNat with ⟨c, hc⟩ | ⟨hj, hlt⟩
  · have hp : f.patIn z p = c * u := by rw [patIn, hc, hu]; ac_rfl
    rw [hp, ← Nat.succ_mul]
    exact (Nat.lt_or_ge (x / u) c).symm.imp (Nat.mul_le_mul_right u) (Nat.mul_le_mul_right u)
  · have hx : 2 ^ f.mbits ≤ x / u := (Nat.le_div_iff_mul_le hpos).2 (le_magIn hm hz (by omega))
    refine .inl (le_of_lt ?_)
    calc f.patIn z p < 2 ^ f.mbits * 2 ^ (f.unitExp m e - f.emin).toNat * magIn 1 f.emin z :=
          Nat.mul_lt_mul_of_pos_right hlt (magIn_one_pos _ _)
      _ = 2 ^ f.mbits * u := by rw [hu, Nat.mul_assoc]
      _ ≤ x / u * u := Nat.mul_le_mul_right u hx

/-- A rounded count of units fits the fraction with the hidden one, or is the next power of two. -/
theorem FloatFmt.roundedTo_le (he : z ≤ e) (hz : z ≤ f.emin) (rm : Rm) (neg : Bool) :
    roundedTo rm neg (magIn m e z) (magIn 1 (f.unitExp m e) z) ≤ 2 ^ (f.mbits + 1) := by
  have h := (Nat.div_lt_iff_lt_mul (magIn_one_pos _ _)).2 (magIn_lt (f := f) (m := m) he hz)
  unfold roundedTo
  split <;> omega

theorem FloatFmt.le_roundedTo (hm : 0 < m) (hz : z ≤ f.emin) (hq : f.emin < f.unitExp m e) (rm : Rm) (neg : Bool) :
    2 ^ f.mbits ≤ roundedTo rm neg (magIn m e z) (magIn 1 (f.unitExp m e) z) :=
  ((Nat.le_div_iff_mul_le (magIn_one_pos _ _)).2 (le_magIn hm hz hq)).trans (Nat.le_add_right ..)

/-- The pattern of a count of units has its magnitude. -/
theorem FloatFmt.patMag_pack (hr : r ≤ 2 ^ (f.mbits + 1)) (h : f.emin < q → 2 ^ f.mbits ≤ r) :
    f.patMag (f.pack r q) = r * 2 ^ (q - f.emin).toNat := by
  have hmm : 2 ^ (f.mbits + 1) = 2 ^ f.mbits + 2 ^ f.mbits := Nat.two_pow_succ f.mbits
  unfold pack
  split
  case isTrue hlt =>
    have hq0 : (q - f.emin).toNat = 0 := by omega
    rw [patMag_subnormal hlt, hq0, Nat.pow_zero, Nat.mul_one]
  case isFalse hge =>
    split
    case isTrue hlt => rw [Nat.shiftLeft_eq, patMag_normal (by omega), Nat.add_sub_of_le (by omega)]
    case isFalse hge' =>
      have hr' : r = 2 ^ (f.mbits + 1) := by omega
      have h0 : r / 2 - 2 ^ f.mbits = 0 := by omega
      rw [Nat.shiftLeft_eq, h0, patMag_normal (e := (q - f.emin).toNat + 1) (Nat.two_pow_pos _), hr', Nat.add_zero, Nat.pow_succ',
        Nat.pow_succ', Nat.mul_left_comm, Nat.mul_assoc]

theorem FloatFmt.patIn_pack (hz : z ≤ f.emin) (hr : r ≤ 2 ^ (f.mbits + 1)) (hq : f.emin ≤ q) (h : f.emin < q → 2 ^ f.mbits ≤ r) :
    f.patIn z (f.pack r q) = r * magIn 1 q z := by
  rw [patIn, patMag_pack hr h, magIn_one_rescale hq hz, Nat.mul_assoc]

/-- The pattern of an even count of units is even. -/
theorem FloatFmt.pack_even (hf : f.Proper) (hr : r ≤ 2 ^ (f.mbits + 1)) (h : r % 2 = 0) : f.pack r q % 2 = 0 := by
  have hmm : 2 ^ (f.mbits + 1) = 2 ^ f.mbits + 2 ^ f.mbits := Nat.two_pow_succ f.mbits
  have h2 := two_pow_mbits_even hf
  have hmul (k : Nat) : k * 2 ^ f.mbits % 2 = 0 := by rw [Nat.mul_mod, h2, Nat.mul_zero, Nat.zero_mod]
  unfold pack
  split
  case isTrue => exact h
  case isFalse hge =>
    split <;> rw [Nat.shiftLeft_eq, Nat.add_mod, hmul] <;> omega

/-! ### The conversion of a finite value (R110, R113) -/

/-- The result of a conversion that overflows (R110). -/
def FloatFmt.overflowed (f : FloatFmt) (rm : Rm) (sat neg : Bool) : Res Nat :=
  match overflowOf f.spec sat rm neg with
  | .inf => (f.signed neg f.infBits, flagOF ||| flagNX)
  | .largest => (f.signed neg f.largestBits, flagOF ||| flagNX)
  | .clamp => (f.signed neg f.largestBits, flagOF ||| flagNX ||| flagSX)
  | .nan => (f.signed neg f.nanBits, flagOF ||| flagNX)

theorem overflowFlags_bits :
    (flagOF ||| flagNX).getLsbD 1 = true ∧ (flagOF ||| flagNX).getLsbD 3 = true ∧ (flagOF ||| flagNX).getLsbD 4 = false := by decide

theorem clampFlags_bits :
    (flagOF ||| flagNX ||| flagSX).getLsbD 1 = true ∧ (flagOF ||| flagNX ||| flagSX).getLsbD 3 = true ∧
      (flagOF ||| flagNX ||| flagSX).getLsbD 4 = true := by decide

theorem roundFlags_bits (inexact : Prop) [Decidable inexact] (tiny : Bool) :
    (flagIf (decide inexact) flagNX ||| flagIf tiny flagUF).getLsbD 1 = false ∧
      ((flagIf (decide inexact) flagNX ||| flagIf tiny flagUF).getLsbD 3 = true ↔ inexact) := by
  by_cases h : inexact <;> simp only [h, decide_true, decide_false, iff_true, iff_false] <;> cases tiny <;> decide

/-- The conversion of a finite value compares its rounded count of units `r` with the largest magnitude, and packs `r` where it fits. -/
theorem FloatFmt.encode_fin (hf : f.Proper) (hm : 0 < m) (he : z ≤ e) (hz : z ≤ f.emin) (rm : Rm) (sat neg : Bool) :
    let x := magIn m e z
    let u := magIn 1 (f.unitExp m e) z
    let r := roundedTo rm neg x u
    (f.patIn z f.largestBits < r * u → f.encode rm sat (.fin neg m e) = f.overflowed rm sat neg) ∧
    (r * u ≤ f.patIn z f.largestBits → ∃ fl,
      f.encode rm sat (.fin neg m e) = (f.signed neg (f.pack r (f.unitExp m e)), fl) ∧
        fl.getLsbD 1 = false ∧ (fl.getLsbD 3 = true ↔ x % u ≠ 0)) := by
  intro x u r
  have hq := f.emin_le_unitExp m e
  have hround : roundAt rm neg m false e (max (Nat.log2 m + e - f.mbits) f.emin) = (r, decide (x % u ≠ 0)) :=
    roundAt_eq he (hz.trans hq)
  have hcmp : cmpMag r (max (Nat.log2 m + e - f.mbits) f.emin) f.largest.1 f.largest.2 = .gt ↔ f.patIn z f.largestBits < r * u := by
    rw [← unitExp, cmpMag_eq_gt_iff (hz.trans hq) (hz.trans (emin_le_largest hf)), magIn_eq_mul_one r, patIn, patMag_largestBits hf,
      ← magIn_rescale _ (emin_le_largest hf) hz]
  unfold encode round
  simp only [hm.ne', if_false, hround, hcmp]
  refine ⟨fun h => ?_, fun h => ?_⟩
  · exact if_pos h
  · rw [if_neg (Nat.not_lt.2 h)]
    exact ⟨_, rfl, roundFlags_bits ..⟩

/-- Is a pattern's value finite and of the largest magnitude? -/
def FloatFmt.IsLargest (f : FloatFmt) (z : Int) (b : Nat) : Prop :=
  ∃ y, f.valueIn z b = some y ∧ ∀ c w, f.valueIn z c = some w → w.natAbs ≤ y.natAbs

theorem FloatFmt.isLargest_largestBits (hf : f.Proper) (hz : z ≤ f.emin) (neg : Bool) : f.IsLargest z (f.signed neg f.largestBits) :=
  ⟨_, valueIn_signed hf hz neg le_rfl, fun c w h => by
    rw [natAbs_withSign]
    exact natAbs_valueIn_le hf hz h⟩

/-- Does a mode take a magnitude of this sign that overflows to infinity (R110)? -/
def OverflowsAway (rm : Rm) (neg : Bool) : Prop := rm = .rne ∨ (rm = .rdn ∧ neg = true) ∨ (rm = .rup ∧ neg = false)

variable {rm : Rm} {sat neg : Bool}

theorem FloatFmt.overflowed_clamp (h : sat = true ∨ f.spec = .none) :
    f.overflowed rm sat neg = (f.signed neg f.largestBits, flagOF ||| flagNX ||| flagSX) := by
  unfold overflowed
  rcases h with rfl | h
  · cases f.spec <;> rfl
  · rw [h]; rfl

theorem FloatFmt.overflowed_nan (hs : f.spec = .e4m3) :
    f.overflowed rm false neg = (f.signed neg f.nanBits, flagOF ||| flagNX) := by
  rw [overflowed, hs]; rfl

theorem FloatFmt.overflowed_inf (hs : f.spec = .ieee) (h : OverflowsAway rm neg) :
    f.overflowed rm false neg = (f.signed neg f.infBits, flagOF ||| flagNX) := by
  rw [overflowed, hs]
  obtain rfl | ⟨rfl, rfl⟩ | ⟨rfl, rfl⟩ := h <;> rfl

theorem FloatFmt.overflowed_largest (hs : f.spec = .ieee) (h : ¬ OverflowsAway rm neg) :
    f.overflowed rm false neg = (f.signed neg f.largestBits, flagOF ||| flagNX) := by
  rw [overflowed, hs]
  cases rm with
  | rne => exact absurd (.inl rfl) h
  | rtz => rfl
  | rdn => cases neg with
    | true => exact absurd (.inr (.inl ⟨rfl, rfl⟩)) h
    | false => rfl
  | rup => cases neg with
    | true => rfl
    | false => exact absurd (.inr (.inr ⟨rfl, rfl⟩)) h

/-- An overflow is a clamp, a NaN, an infinity or a largest value. -/
theorem FloatFmt.overflowed_flags_sign (hf : f.Proper) (rm : Rm) (sat neg : Bool) :
    (f.overflowed rm sat neg).2.getLsbD 1 = true ∧ (f.overflowed rm sat neg).2.getLsbD 3 = true ∧
      (f.overflowed rm sat neg).1.testBit (f.ebits + f.mbits) = neg := by
  by_cases hc : sat = true ∨ f.spec = .none
  · rw [overflowed_clamp hc]
    exact ⟨clampFlags_bits.1, clampFlags_bits.2.1, testBit_signed neg (largestBits_lt hf)⟩
  obtain ⟨hsat, hnone⟩ := not_or.1 hc
  obtain rfl := Bool.eq_false_of_not_eq_true hsat
  cases hs : f.spec with
  | none => exact absurd hs hnone
  | e4m3 =>
    rw [overflowed_nan hs]
    exact ⟨overflowFlags_bits.1, overflowFlags_bits.2.1, testBit_signed neg (nanBits_lt hs)⟩
  | ieee =>
    by_cases ha : OverflowsAway rm neg
    · rw [overflowed_inf hs ha]
      exact ⟨overflowFlags_bits.1, overflowFlags_bits.2.1, testBit_signed neg f.infBits_lt⟩
    · rw [overflowed_largest hs ha]
      exact ⟨overflowFlags_bits.1, overflowFlags_bits.2.1, testBit_signed neg (largestBits_lt hf)⟩

/-- Which result an overflow gives, and whether it counts as a clamp (R110). -/
theorem FloatFmt.overflowed_result (hf : f.Proper) (hz : z ≤ f.emin) (rm : Rm) (sat neg : Bool) :
    let r := f.overflowed rm sat neg
    (sat = true ∨ f.spec = .none → f.IsLargest z r.1 ∧ r.2.getLsbD 4 = true) ∧
      (sat = false → f.spec = .e4m3 → f.decode r.1 = .nan false ∧ r.2.getLsbD 4 = false) ∧
      (sat = false → f.spec = .ieee → (OverflowsAway rm neg → f.decode r.1 = .inf neg) ∧
        (¬ OverflowsAway rm neg → f.IsLargest z r.1) ∧ r.2.getLsbD 4 = false) := by
  refine ⟨fun h => ?_, fun hsat hs => ?_, fun hsat hs => ?_⟩
  · rw [overflowed_clamp h]
    exact ⟨isLargest_largestBits hf hz neg, clampFlags_bits.2.2⟩
  · rw [hsat, overflowed_nan hs]
    exact ⟨decode_nanBits hs neg, overflowFlags_bits.2.2⟩
  · rw [hsat]
    by_cases ha : OverflowsAway rm neg
    · rw [overflowed_inf hs ha]
      exact ⟨fun _ => decode_infBits hs neg, fun h => absurd ha h, overflowFlags_bits.2.2⟩
    · rw [overflowed_largest hs ha]
      exact ⟨fun h => absurd h ha, fun _ => isLargest_largestBits hf hz neg, overflowFlags_bits.2.2⟩

/-- A conversion that raises no OF gives the value the mode asks for, with the sign of the exact one and NX where they differ. -/
theorem FloatFmt.encode_rounds (hf : f.Proper) (hm : 0 < m) (he : z ≤ e) (hz : z ≤ f.emin)
    (hof : (f.encode rm sat (.fin neg m e)).2.getLsbD 1 = false) :
    let x := withSign neg (magIn m e z)
    let r := f.encode rm sat (.fin neg m e)
    ∃ y, f.valueIn z r.1 = some y ∧ r.1.testBit (f.ebits + f.mbits) = neg ∧ (r.2.getLsbD 3 = true ↔ y ≠ x) ∧
      ∀ b w, f.valueIn z b = some w → RoundsBest rm x y w (r.1 % 2 = 0) := by
  have hu := magIn_one_pos (f.unitExp m e) z
  have hq := f.emin_le_unitExp m e
  obtain ⟨hover, hfits⟩ := encode_fin hf hm he hz rm sat neg
  rcases Nat.lt_or_ge (f.patIn z f.largestBits) (roundedTo rm neg (magIn m e z) (magIn 1 (f.unitExp m e) z) * magIn 1 (f.unitExp m e) z)
    with h | h
  · rw [hover h, (overflowed_flags_sign hf rm sat neg).1] at hof
    cases hof
  obtain ⟨fl, henc, -, hnx⟩ := hfits h
  have hr := roundedTo_le (m := m) he hz rm neg
  have hpack := patIn_pack hz hr hq fun hlt => le_roundedTo hm hz hlt rm neg
  have hle := patIn_le_patIn.1 (hpack.trans_le h)
  rw [henc]
  refine ⟨_, valueIn_signed hf hz neg hle, testBit_signed neg (hle.trans_lt (largestBits_lt hf)), ?_, fun b w hb => ?_⟩
  · rw [hpack, Ne, withSign_inj, roundedTo_mul_eq_iff hu]
    exact hnx
  · obtain ⟨p, -, hw⟩ := valueIn_some hf hz hb
    have hbest := roundedTo_best (rm := rm) (neg := neg) hu (hw ▸ patIn_gap hm hz p)
    rw [← hpack] at hbest
    exact hbest.imp_even fun heven => (signed_mod_two hf neg).trans (pack_even hf hr heven)

/-- A conversion raises OF only for a value greater in magnitude than every value of the format, and gives what R110 says. -/
theorem FloatFmt.encode_overflows (hf : f.Proper) (hm : 0 < m) (he : z ≤ e) (hz : z ≤ f.emin)
    (hof : (f.encode rm sat (.fin neg m e)).2.getLsbD 1 = true) :
    f.encode rm sat (.fin neg m e) = f.overflowed rm sat neg ∧
      ∀ b w, f.valueIn z b = some w → w.natAbs < (withSign neg (magIn m e z)).natAbs := by
  obtain ⟨hover, hfits⟩ := encode_fin hf hm he hz rm sat neg
  rcases Nat.lt_or_ge (f.patIn z f.largestBits) (roundedTo rm neg (magIn m e z) (magIn 1 (f.unitExp m e) z) * magIn 1 (f.unitExp m e) z)
    with h | h
  · refine ⟨hover h, fun b w hb => ?_⟩
    rw [natAbs_withSign]
    exact (natAbs_valueIn_le hf hz hb).trans_lt (lt_of_lt_roundedTo (magIn_one_pos _ _) (patIn_gap hm hz _) h)
  · obtain ⟨fl, henc, hfl, -⟩ := hfits h
    rw [henc, hfl] at hof
    cases hof

end

/-! ### Exact arithmetic on finite values (R6, R201) -/

theorem withSign_not (s : Bool) (a : Nat) : withSign (!s) a = -withSign s a := by cases s <;> simp

/-- A count of units as a value: the same count in every finer unit. -/
theorem Num.ofScaled_finite (x y : Int) (zneg : Bool) :
    ∃ u n g, Num.ofScaled x y zneg = .fin u n g ∧ (g = 0 ∨ g = y) ∧
      ∀ z, z ≤ y → withSign u (magIn n g z) = x * magIn 1 y z := by
  unfold ofScaled
  split
  case isTrue h => exact ⟨_, _, _, rfl, .inl rfl, fun z _ => by simp [h]⟩
  case isFalse h =>
    refine ⟨_, _, _, rfl, .inr rfl, fun z _ => ?_⟩
    rw [magIn_eq_mul_one, withSign, Nat.cast_mul, ← mul_assoc]
    congr 1
    by_cases hx : x < 0 <;> simp only [hx, decide_true, decide_false, if_true, Bool.false_eq_true, if_false] <;> omega

/-- A sum of finite values is exact. -/
theorem Num.add_finite (s t : Bool) (m k : Nat) (e f : Int) :
    ∃ u n g, (Num.fin s m e).add (.fin t k f) = (.fin u n g, 0) ∧ (g = 0 ∨ g = Min.min e f) ∧
      ∀ z, z ≤ e → z ≤ f → withSign u (magIn n g z) = withSign s (magIn m e z) + withSign t (magIn k f z) := by
  obtain ⟨u, n, g, heq, hg, hval⟩ :=
    ofScaled_finite (scaled s m e (Min.min e f) + scaled t k f (Min.min e f)) (Min.min e f) (s && t && decide (m = 0) && decide (k = 0))
  refine ⟨u, n, g, congrArg (·, 0) heq, hg, fun z he hf => ?_⟩
  have hz : z ≤ Min.min e f := by omega
  rw [hval z hz, scaled_eq_withSign, scaled_eq_withSign, magIn_rescale m (min_le_left e f) hz, magIn_rescale k (min_le_right e f) hz]
  simp only [withSign, Nat.cast_mul]
  ring

/-- A product of finite values is exact. -/
theorem Num.mul_finite (s t : Bool) (m k : Nat) (e f : Int) :
    ∃ u n g, (Num.fin s m e).mul (.fin t k f) = (.fin u n g, 0) ∧ (g = 0 ∨ g = e + f) ∧
      ∀ z, withSign u (magIn n g z) = withSign (s != t) (magIn (m * k) (e + f) z) := by
  have hmul : (Num.fin s m e).mul (.fin t k f) = (if m * k = 0 then .zero (s != t) else .fin (s != t) (m * k) (e + f), 0) := by
    simp [mul, isNan, isInf]
  rw [hmul]
  split
  case isTrue h => exact ⟨_, _, _, rfl, .inl rfl, fun z => by simp [h]⟩
  case isFalse h => exact ⟨_, _, _, rfl, .inr rfl, fun z => rfl⟩

/-- A multiply-add of finite values is exact. -/
theorem Num.fma_finite (neg sd s t : Bool) (md m k : Nat) (ed e f : Int) :
    ∃ u n g, Num.fma neg (.fin sd md ed) (.fin s m e) (.fin t k f) = (.fin u n g, 0) ∧
      ∀ z, z ≤ g → z ≤ ed → z ≤ e + f →
        withSign u (magIn n g z) = withSign sd (magIn md ed z) + (if neg then -1 else 1) * withSign (s != t) (magIn (m * k) (e + f) z) := by
  obtain ⟨v, j, h, hmul, hh, hprod⟩ := mul_finite s t m k e f
  have hp : (if neg then (Num.fin v j h).neg else .fin v j h) = .fin (neg != v) j h := by cases neg <;> cases v <;> rfl
  obtain ⟨u, n, g, hadd, hg, hsum⟩ := add_finite sd (neg != v) md j ed h
  refine ⟨u, n, g, ?_, fun z hzg hzd hzp => ?_⟩
  · simp only [fma, hmul, hp, hadd]
    rfl
  · rw [hsum z hzd (by omega), ← hprod z]
    cases neg <;> simp [withSign_not]

/-- An element operation whose exact result is finite converts it. -/
theorem VOp.apply_finite {op : VOp} {f : Fmt} {ff : FloatFmt} {rm : Rm} {sat neg s : Bool} {d a b n : Nat} {e : Int}
    (hff : f.float? = some ff) (hmin : op ≠ .min) (hmax : op ≠ .max)
    (h : op.float neg (ff.decode d) (ff.decode a) (ff.decode b) = (.fin s n e, 0)) :
    op.apply f rm sat neg d a b = ff.encode rm sat (.fin s n e) := by
  have hsat : op.sat sat = sat := by
    cases op with
    | min => exact absurd rfl hmin
    | max => exact absurd rfl hmax
    | _ => rfl
  simp only [apply, hff, h, hsat, Num.isInf, Bool.not_false, Bool.and_true]
  ext <;> simp

/-! ### The nine formats -/

theorem Fmt.proper_of_float? {f : Fmt} {ff : FloatFmt} (h : f.float? = some ff) : ff.Proper := by
  cases f <;> cases h <;> exact ⟨by decide, by decide⟩

theorem Fmt.width_of_float? {f : Fmt} {ff : FloatFmt} (h : f.float? = some ff) : f.width - 1 = ff.ebits + ff.mbits := by
  cases f <;> cases h <;> rfl

/-- Which formats have which specials (R100, R103, R104). -/
theorem Fmt.spec_of_float? {f : Fmt} {ff : FloatFmt} (h : f.float? = some ff) :
    (f = .e2m3 ∨ f = .e3m2 ∨ f = .e2m1 → ff.spec = .none) ∧ (f = .e4m3 → ff.spec = .e4m3) ∧
      (f ∈ [Fmt.f64, .f32, .bf16, .f16, .e5m2] → ff.spec = .ieee) := by
  cases f <;> cases h <;> decide

/-- The exact result of an element operation from the counts of its operands and of the product `p` of `a` and `b`. -/
def VOp.exact (op : VOp) (neg : Bool) (d a b p : Int) : Int :=
  match op with
  | .add => a + b
  | .sub => a - b
  | .mul => p
  | _ => d + (if neg then -1 else 1) * p

/-- Every element operation of finite values but the smaller and the larger converts the exact result. -/
theorem VOp.apply_exact {f : Fmt} {ff : FloatFmt} (hff : f.float? = some ff) (rm : Rm) (sat neg : Bool)
    {sd sa sb : Bool} {d a b md ma mb : Nat} {ed ea eb : Int} (op : VOp)
    (hd : ff.decode d = .fin sd md ed) (ha : ff.decode a = .fin sa ma ea) (hb : ff.decode b = .fin sb mb eb)
    (hmin : op ≠ .min) (hmax : op ≠ .max) :
    ∃ s n e, op.apply f rm sat neg d a b = ff.encode rm sat (.fin s n e) ∧
      ∀ z, z ≤ e → z ≤ ed → z ≤ ea → z ≤ eb → z ≤ ea + eb → withSign s (magIn n e z) =
        op.exact neg (withSign sd (magIn md ed z)) (withSign sa (magIn ma ea z)) (withSign sb (magIn mb eb z))
          (withSign (sa != sb) (magIn (ma * mb) (ea + eb) z)) := by
  have happly {s n e} := VOp.apply_finite (op := op) (rm := rm) (sat := sat) (neg := neg) (d := d) (a := a) (b := b) (s := s) (n := n)
    (e := e) hff hmin hmax
  rw [hd, ha, hb] at happly
  cases op with
  | add =>
    obtain ⟨s, n, e, h, -, hval⟩ := Num.add_finite sa sb ma mb ea eb
    exact ⟨s, n, e, happly h, fun z _ _ hza hzb _ => hval z hza hzb⟩
  | sub =>
    obtain ⟨s, n, e, h, -, hval⟩ := Num.add_finite sa (!sb) ma mb ea eb
    refine ⟨s, n, e, happly h, fun z _ _ hza hzb _ => ?_⟩
    rw [hval z hza hzb, withSign_not]
    exact (Int.sub_eq_add_neg ..).symm
  | mul =>
    obtain ⟨s, n, e, h, -, hval⟩ := Num.mul_finite sa sb ma mb ea eb
    exact ⟨s, n, e, happly h, fun z _ _ _ _ _ => hval z⟩
  | fma =>
    obtain ⟨s, n, e, h, hval⟩ := Num.fma_finite neg sd sa sb md ma mb ed ea eb
    exact ⟨s, n, e, happly h, fun z hze hzd _ _ hzp => hval z hze hzd hzp⟩
  | min => exact absurd rfl hmin
  | max => exact absurd rfl hmax

/-- Settles O6: a conversion that raises no OF rounds to its mode's choice on the grid of the format's values, one that raises OF gives
what R110 says, and the element operations convert the exact result. -/
theorem floatResultsRoundOnce : Obligations.FloatResultsRoundOnce := by
  unfold Obligations.FloatResultsRoundOnce
  refine ⟨fun f ff rm sat neg m e z hff hm he hz => ?_, fun f ff rm sat neg sd sa sb d a b md ma mb ed ea eb op hff hd ha hb =>
    VOp.apply_exact hff rm sat neg op hd ha hb⟩
  have hf := Fmt.proper_of_float? hff
  obtain ⟨hnone, he4m3, hieee⟩ := Fmt.spec_of_float? hff
  rw [Fmt.width_of_float? hff]
  refine ⟨fun hof => FloatFmt.encode_rounds hf hm he hz hof, fun hof => ?_⟩
  obtain ⟨heq, hlt⟩ := FloatFmt.encode_overflows hf hm he hz hof
  obtain ⟨-, hnx, hsign⟩ := FloatFmt.overflowed_flags_sign hf rm sat neg
  obtain ⟨hclamp, hnan, hinf⟩ := FloatFmt.overflowed_result hf hz rm sat neg
  rw [heq]
  exact ⟨hnx, hsign, hlt, fun h => hclamp (h.imp_right hnone), fun hs h => hnan hs (he4m3 h), fun hs h => hinf hs (hieee h)⟩

end Sys2Proof.Machine
end
section
/-!
PROOF. The register forms of the vector engine (O23, O24, O25; R198 to R212, R215): the elements of a register built from a list, the
flags of a list of results, what a form that writes elements gives, and integer elements; then each form.
-/

namespace Sys2Proof.Machine

set_option Elab.async false

/-! ### Elements and flags (R198, R111) -/

/-- The elements of a value built from a list of them. -/
theorem ofElems_place (w : Nat) (l : List Nat) (j : Nat) : ofElems w l / 2 ^ (w * j) % 2 ^ w = l[j]?.getD 0 % 2 ^ w := by
  induction l generalizing j with
  | nil => simp [ofElems]
  | cons e l ih =>
    have he : e % 2 ^ w < 2 ^ w := Nat.mod_lt _ (Nat.two_pow_pos w)
    have hcons : ofElems w (e :: l) = ofElems w l * 2 ^ w + e % 2 ^ w := rfl
    cases j with
    | zero => simp [hcons]
    | succ j =>
      have hdrop : ofElems w (e :: l) / 2 ^ w = ofElems w l := by
        rw [hcons, Nat.mul_comm, Nat.mul_add_div (Nat.two_pow_pos w), Nat.div_eq_of_lt he, Nat.add_zero]
      rw [Nat.mul_succ, Nat.add_comm, Nat.pow_add, ← Nat.div_div_eq_div_mul, hdrop, ih]
      rfl

/-- The elements of a value built from a function. -/
theorem ofElems_place_map {w n j : Nat} (f : Nat → Nat) (hj : j < n) :
    ofElems w ((List.range n).map f) / 2 ^ (w * j) % 2 ^ w = f j % 2 ^ w := by
  simp [ofElems_place, hj]

/-- The bits of a value built from one-bit elements. -/
theorem ofElems_testBit {n k : Nat} (f : Nat → Bool) (hk : k < n) :
    (ofElems 1 ((List.range n).map fun i => if f i then 1 else 0)).testBit k = f k := by
  have h := ofElems_place_map (w := 1) (fun i => if f i then 1 else 0) hk
  rw [Nat.one_mul, Nat.pow_one] at h
  rw [Nat.testBit_eq_decide_div_mod_eq, h]
  cases f k <;> rfl

theorem elemAt_lt (v : BitVec 1024) (w j : Nat) : elemAt v w j < 2 ^ w := Nat.mod_lt _ (Nat.two_pow_pos w)

theorem elemAt_mod (v : BitVec 1024) (w j : Nat) : elemAt v w j % 2 ^ w = elemAt v w j := Nat.mod_eq_of_lt (elemAt_lt v w j)

theorem elemAt_eq_div (v : BitVec 1024) (w j : Nat) : elemAt v w j = v.toNat / 2 ^ (w * j) % 2 ^ w := by
  rw [elemAt, Nat.shiftRight_eq_div_pow]

/-- A flag is raised by a list of results when one of them raises it. -/
theorem flagsOr_getLsbD (l : List Flags) (k : Nat) : (flagsOr l).getLsbD k = true ↔ ∃ f ∈ l, f.getLsbD k = true := by
  suffices h : ∀ acc : Flags, (l.foldl (· ||| ·) acc).getLsbD k = true ↔ acc.getLsbD k = true ∨ ∃ f ∈ l, f.getLsbD k = true by
    simpa [flagsOr] using h 0
  induction l with
  | nil => simp
  | cons f l ih => intro acc; simp [ih, or_assoc]

/-- A flag is raised by the results of some of the first `n` when one of those raises it. -/
theorem flagsOr_map_getLsbD (n : Nat) (f : Nat → Flags) (k : Nat) :
    (flagsOr ((List.range n).map f)).getLsbD k = true ↔ ∃ j, j < n ∧ (f j).getLsbD k = true := by
  simp [flagsOr_getLsbD]

/-! ### Forms that write elements of v[D] (R200) -/

/-- An operation writes v[D] with a latency: `val` in every element whose lane of the guard is set, the old value in the others, and
the flags of the elements written. -/
def State.GivesElems (s : State) (o : Host.Outcome State Fault Refusal) (d : BitVec 7) (p : BitVec 3) (lat w : Nat)
    (val : Nat → Nat × Flags) : Prop :=
  let active (j : Nat) : Bool := (s.me.rp p.toNat).getLsbD (w * j / 32)
  ∃ (r : Nat) (fl : Flags), o = .next (s.writeReg lat (vReg d) r fl) ∧
    (∀ j, j < 1024 / w → r / 2 ^ (w * j) % 2 ^ w = if active j then (val j).1 % 2 ^ w else (s.me.rv d.toNat).toNat / 2 ^ (w * j) % 2 ^ w) ∧
    (∀ k, fl.getLsbD k = true ↔ ∃ j, j < 1024 / w ∧ active j = true ∧ (val j).2.getLsbD k = true)

theorem Core.guardMask_of_guard {i : Sys2Proof.Instr} {p : BitVec 3} (h : Instr.guard? i = some p) (c : Core) :
    c.guardMask i = c.rp p.toNat := by
  rw [Core.guardMask, h]

/-- The elements of a masked result: those of active lanes are new, the others are kept. -/
theorem mergeElems_place {w j : Nat} (mask : BitVec 32) (old : BitVec 1024) (f : Nat → Res Nat) (hj : j < 1024 / w) :
    (mergeElems w mask old f).1 / 2 ^ (w * j) % 2 ^ w = if mask.getLsbD (w * j / 32) then (f j).1 % 2 ^ w else elemAt old w j := by
  simp only [mergeElems, elemCount, List.map_map]
  rw [ofElems_place_map _ hj]
  by_cases h : mask.getLsbD (w * j / 32) = true
  · simp [activeElem, laneOf, h]
  · simp [activeElem, laneOf, h, elemAt_mod]

/-- The flags of a masked result are those of its active elements. -/
theorem mergeElems_flags (w k : Nat) (mask : BitVec 32) (old : BitVec 1024) (f : Nat → Res Nat) :
    (mergeElems w mask old f).2.getLsbD k = true ↔
      ∃ j, j < 1024 / w ∧ mask.getLsbD (w * j / 32) = true ∧ (f j).2.getLsbD k = true := by
  simp only [mergeElems, elemCount, List.map_map, flagsOr_map_getLsbD]
  refine exists_congr fun j => and_congr_right fun _ => ?_
  by_cases h : mask.getLsbD (w * j / 32) = true
  · simp [activeElem, laneOf, h]
  · simp [activeElem, laneOf, h]

/-- A form that writes elements gives what it computes for each. -/
theorem vecForm_gives {i : Sys2Proof.Instr} {s : State} {d : BitVec 7} {p : BitVec 3} {lat w : Nat} {f : Core → Nat → Res Nat}
    {val : Nat → Nat × Flags} (hp : Instr.guard? i = some p) (hc : s.clear i = true)
    (hval : ∀ j, (f s.me j).1 % 2 ^ w = (val j).1 % 2 ^ w ∧ (f s.me j).2 = (val j).2) :
    s.GivesElems (vecForm i s lat w d f) d p lat w val := by
  refine ⟨_, _, runChecked_clear i s _ hc, fun j hj => ?_, fun k => ?_⟩
  · rw [Core.guardMask_of_guard hp, mergeElems_place _ _ _ hj, (hval j).1, elemAt_eq_div]
  · simp only [Core.guardMask_of_guard hp, mergeElems_flags, hval]

/-- The latency of a type's class (R83). -/
theorem typeLat_eq (t : BitVec 4) : typeLat t = if 1 ≤ t.toNat ∧ t.toNat ≤ 6 then 4 else 3 := by
  revert t; decide

/-! ### Integer elements (R108, R200) -/

/-- The type codes of integers are no float formats. -/
theorem Fmt.float?_intType {t : BitVec 4} : 9 ≤ t.toNat → (Fmt.ofType t).float? = none := by
  revert t; decide

/-- The width and the sign of the integer types; no other type code has either. -/
theorem Fmt.int?_ofType (t : BitVec 4) :
    (Fmt.ofType t).int? = if 9 ≤ t.toNat then some (typeWidth t, decide (t.toNat ≤ 12)) else none := by
  revert t; decide

theorem typeWidth_pos {t : BitVec 4} : 9 ≤ t.toNat → 0 < typeWidth t := by
  revert t; decide

/-- The value of an element of an integer type. -/
theorem intVal_eq {w : Nat} (hw : 0 < w) (sg : Bool) (x : Nat) :
    intVal w sg x = if sg = true ∧ 2 ^ (w - 1) ≤ x % 2 ^ w then ((x % 2 ^ w : Nat) : Int) - 2 ^ w else ((x % 2 ^ w : Nat) : Int) := by
  have hlt : x % 2 ^ w < 2 ^ w := Nat.mod_lt _ (Nat.two_pow_pos w)
  have htop : (x % 2 ^ w).testBit (w - 1) = decide (2 ^ (w - 1) ≤ x % 2 ^ w) := by
    obtain ⟨n, rfl⟩ : ∃ n, w = n + 1 := ⟨w - 1, by omega⟩
    rw [Nat.add_sub_cancel, Nat.testBit_eq_decide_div_mod_eq]
    rw [Nat.pow_succ] at hlt
    by_cases h : 2 ^ n ≤ x % 2 ^ (n + 1)
    · rw [Nat.div_eq_of_lt_le (k := 1) (by omega) (by omega)]
      simp [h]
    · rw [Nat.div_eq_of_lt (by omega)]
      simp [h]
  simp only [intVal, htop, Bool.and_eq_true, decide_eq_true_eq]
  push_cast
  rfl

/-- An elementwise operation on integers (R200, R201). -/
theorem VOp.apply_intType {t : BitVec 4} (ht : 9 ≤ t.toNat) (op : VOp) (rm : Rm) (sat neg : Bool) (d a b : Nat) :
    op.apply (Fmt.ofType t) rm sat neg d a b =
      let w := typeWidth t
      let sg := decide (t.toNat ≤ 12)
      intResult w sg (op.sat sat) (op.int neg (intVal w sg d) (intVal w sg a) (intVal w sg b)) := by
  simp only [VOp.apply, Fmt.float?_intType ht, Fmt.int?_ofType, if_pos ht]

/-- Settles O24: an integer element operation wraps or clamps the exact result. -/
theorem integerElementArithmetic : Obligations.IntegerElementArithmetic := by
  unfold Obligations.IntegerElementArithmetic
  intro t rm neg d a b ht w sg f val lo hi bits exact
  have hval (x : Nat) : intVal w sg x = val x := intVal_eq (typeWidth_pos ht) sg x
  have hexact (op : VOp) : op.int neg (val d) (val a) (val b) = exact op := by
    cases op with
    | min => exact Int.min_def _ _
    | max => exact Int.max_def _ _
    | _ => rfl
  have hbits (x : Int) : intBits w x = bits x := by simp [intBits, bits]
  have hrange : intRange w sg = (lo, hi) := by
    simp only [intRange, lo, hi]
    split <;> simp
  have happly (op : VOp) (sat : Bool) : op.apply f rm sat neg d a b = intResult w sg (op.sat sat) (exact op) := by
    rw [← hexact, ← hval, ← hval, ← hval]
    exact VOp.apply_intType ht op rm sat neg d a b
  have hwrap (x : Int) : intResult w sg false x = (bits x, 0) := by simp [intResult, hbits]
  have hclamp (x : Int) : intResult w sg true x =
      if x < lo then (bits lo, flagSX) else if hi < x then (bits hi, flagSX) else (bits x, 0) := by
    simp [intResult, hrange, hbits]
  have hle : lo ≤ hi + 1 := by
    have : (0 : Int) < 2 ^ w := by positivity
    have : (0 : Int) < 2 ^ (w - 1) := by positivity
    simp only [lo, hi]
    split <;> omega
  refine ⟨fun op => ?_, fun op hop => ?_, fun op hmin hmax => ?_⟩
  · have hsat : op.sat false = false := by cases op <;> rfl
    rw [happly, hsat, hwrap]
  · have hsat : op.sat true = false := by rcases hop with rfl | rfl <;> rfl
    rw [happly, hsat, hwrap]
  · have hsat : op.sat true = true := by
      cases op with
      | min => exact absurd rfl hmin
      | max => exact absurd rfl hmax
      | _ => rfl
    rw [happly, hsat, hclamp]
    refine ⟨fun h1 h2 => ?_, fun h => if_pos h, fun h => ?_⟩
    · rw [if_neg (by omega), if_neg (by omega)]
    · rw [if_neg (by omega), if_pos h]

/-! ### Shifts of an element (R202) -/

theorem shiftElem_left (w : Nat) (sg : Bool) (x n : Nat) :
    shiftElem true w sg x n = if w ≤ n then 0 else x * 2 ^ n % 2 ^ w := by
  simp [shiftElem, Nat.shiftLeft_eq]

section
variable {w x : Nat} (hx : x < 2 ^ w)
include hx

/-- A right shift of an unsigned element brings in zeros. -/
theorem shiftElem_right_unsigned (n : Nat) : shiftElem false w false x n = if w ≤ n then 0 else x / 2 ^ n := by
  have hmin : shiftElem false w false x n = x / 2 ^ min n w := by
    have hval : intVal w false x = (x : Int) := by simp [intVal, Nat.mod_eq_of_lt hx]
    simp only [shiftElem, hval, intBits]
    rw [if_neg (by simp), ← Int.natCast_ediv, ← Int.natCast_emod, Int.toNat_natCast]
    exact Nat.mod_eq_of_lt (Nat.lt_of_le_of_lt (Nat.div_le_self _ _) hx)
  rw [hmin]
  split
  · rw [Nat.min_eq_right ‹_›, Nat.div_eq_of_lt hx]
  · rw [Nat.min_eq_left (by omega)]

/-- A right shift of a signed element brings in copies of its top bit. -/
theorem shiftElem_right_signed (hw : 0 < w) (n : Nat) : shiftElem false w true x n =
    x / 2 ^ (if w ≤ n then w else n) + if 2 ^ (w - 1) ≤ x then 2 ^ w - 2 ^ (w - if w ≤ n then w else n) else 0 := by
  have hm : min n w = if w ≤ n then w else n := by split <;> omega
  simp only [shiftElem, intVal_eq hw, Nat.mod_eq_of_lt hx, true_and, ← hm]
  have hle : min n w ≤ w := Nat.min_le_right n w
  generalize min n w = m at hle ⊢
  have hpow : 2 ^ w = 2 ^ (w - m) * 2 ^ m := by rw [← Nat.pow_add, Nat.sub_add_cancel hle]
  have hpos : 0 < 2 ^ (w - m) := Nat.two_pow_pos _
  have hdiv : x / 2 ^ m < 2 ^ (w - m) := Nat.div_lt_of_lt_mul (by rwa [Nat.mul_comm, ← hpow])
  have hle' : 2 ^ (w - m) ≤ 2 ^ w := Nat.pow_le_pow_right (by omega) (by omega)
  rw [if_neg (by simp)]
  split
  · have hneg : ((x : Int) - 2 ^ w) / ((2 ^ m : Nat) : Int) = ((x / 2 ^ m : Nat) : Int) - (2 ^ (w - m) : Nat) := by
      have hcast : (2 : Int) ^ w = (2 ^ (w - m) : Nat) * (2 ^ m : Nat) := by exact_mod_cast hpow
      rw [hcast, Int.sub_mul_ediv_right _ _ (by positivity), Int.natCast_ediv]
    rw [hneg]
    generalize x / 2 ^ m = z at hdiv ⊢
    rw [intBits, ← Int.add_emod_right, Int.emod_eq_of_lt (by omega) (by omega)]
    omega
  · rw [Nat.add_zero, intBits, ← Int.natCast_ediv, ← Int.natCast_emod, Int.toNat_natCast, Nat.mod_eq_of_lt (by omega)]

end

/-- A shift form by the sign of its type. -/
theorem vecShift_eq (i : Sys2Proof.Instr) (s : State) (left : Bool) (d a b : BitVec 7) (sb : Bool) (t : BitVec 4) :
    vecShift i s left d a b sb t = vecForm i s 2 (typeWidth t) d fun c j =>
      (shiftElem left (typeWidth t) (decide (9 ≤ t.toNat) && decide (t.toNat ≤ 12)) (elemAt (c.rv a.toNat) (typeWidth t) j)
        (if sb then (c.rs b.toNat).toNat else elemAt (c.rv b.toNat) (typeWidth t) j), 0) := by
  by_cases h : 9 ≤ t.toNat
  · simp [vecShift, Fmt.int?_ofType, h]
  · simp [vecShift, Fmt.int?_ofType, h]


/-! ### The forms, one lemma each -/

section
variable (d a b : BitVec 7) (p q : BitVec 3) (t : BitVec 4) (f : BitVec 3) (neg sb sat nb w64 : Bool) (s : State)

theorem exec_vadd : exec (.vadd d a b p sb sat t) s = vecArith (.vadd d a b p sb sat t) s (typeLat t) .add false d a b sb sat t := rfl
theorem exec_vsub : exec (.vsub d a b p sb sat t) s = vecArith (.vsub d a b p sb sat t) s (typeLat t) .sub false d a b sb sat t := rfl
theorem exec_vmul : exec (.vmul d a b p sb sat t) s = vecArith (.vmul d a b p sb sat t) s 4 .mul false d a b sb sat t := rfl
theorem exec_vfma : exec (.vfma d a b p neg sb sat t) s = vecArith (.vfma d a b p neg sb sat t) s 4 .fma neg d a b sb sat t := rfl
theorem exec_vmin : exec (.vmin d a b p sb sat t) s = vecArith (.vmin d a b p sb sat t) s (typeLat t) .min false d a b sb sat t := rfl
theorem exec_vmax : exec (.vmax d a b p sb sat t) s = vecArith (.vmax d a b p sb sat t) s (typeLat t) .max false d a b sb sat t := rfl
theorem exec_vabs : exec (.vabs d a p sat t) s = execVabs d a p sat t s := rfl
theorem exec_vneg : exec (.vneg d a p sat t) s = execVneg d a p sat t s := rfl
theorem exec_vand : exec (.vand d a b p nb) s = vecBits (.vand d a b p nb) s d a b nb (· &&& ·) := rfl
theorem exec_vor : exec (.vor d a b p nb) s = vecBits (.vor d a b p nb) s d a b nb (· ||| ·) := rfl
theorem exec_vxor : exec (.vxor d a b p nb) s = vecBits (.vxor d a b p nb) s d a b nb (· ^^^ ·) := rfl
theorem exec_vshl : exec (.vshl d a b p sb t) s = vecShift (.vshl d a b p sb t) s true d a b sb t := rfl
theorem exec_vshr : exec (.vshr d a b p sb t) s = vecShift (.vshr d a b p sb t) s false d a b sb t := rfl
theorem exec_vsel : exec (.vsel d a b p t q) s = execVsel d a b p t q s := rfl
theorem exec_vmovV : exec (.vmovV d a p) s = execVmovV d a p s := rfl
theorem exec_vmovSplat : exec (.vmovSplat d a p t) s = execVmovSplat d a p t s := rfl
theorem exec_vmovIdx : exec (.vmovIdx d p t) s = execVmovIdx d p t s := rfl
theorem exec_vperm_byte : exec (.vperm d a b p w64 true) s =
    vecForm (.vperm d a b p w64 true) s 5 8 d fun c k => (elemAt (c.rv a.toNat) 8 (elemAt (c.rv b.toNat) 8 k % 128), 0) := rfl
theorem exec_vperm_64 : exec (.vperm d a b p true false) s =
    vecForm (.vperm d a b p true false) s 5 64 d fun c j => (elemAt (c.rv a.toNat) 64 (elemAt (c.rv b.toNat) 32 (2 * j) % 16), 0) := rfl
theorem exec_vperm_32 : exec (.vperm d a b p false false) s =
    vecForm (.vperm d a b p false false) s 5 32 d fun c i => (elemAt (c.rv a.toNat) 32 (elemAt (c.rv b.toNat) 32 i % 32), 0) := rfl
theorem exec_vins : exec (.vins d a b p t) s = execVins d a b p t s := rfl
theorem exec_vsfu : exec (.vsfu d a p f) s = execVsfu d a p f s := rfl

end

/-- A branch that is reduced already may be reduced with the rest. -/
theorem mod_ite_mod (c : Prop) [Decidable c] (x y n : Nat) : (if c then x % n else y) % n = (if c then x else y) % n := by
  split
  · exact Nat.mod_mod _ _
  · rfl

/-- Settles O23, form by form: what each computes for an element, merged under the guard. -/
theorem vectorElementForms : Obligations.VectorElementForms := by
  unfold Obligations.VectorElementForms
  intro s d a b p q t f neg sb sat nb w64 lat w sg vd va vb y nvb count gives arith
  have hlat : typeLat t = lat := typeLat_eq t
  have form {i : Sys2Proof.Instr} {lat w : Nat} {val : Nat → Nat × Flags} (g : Core → Nat → Res Nat)
      (he : exec i s = vecForm i s lat w d g) (hp : Instr.guard? i = some p)
      (hval : ∀ j, (g s.me j).1 % 2 ^ w = (val j).1 % 2 ^ w ∧ (g s.me j).2 = (val j).2) : gives i lat w val := fun hc => by
    rw [he]
    exact vecForm_gives hp hc hval
  have direct {i : Sys2Proof.Instr} {lat w : Nat} {val : Nat → Nat × Flags} (g : Core → Nat → Res Nat)
      (he : exec i s = vecForm i s lat w d g) (hp : Instr.guard? i = some p) (hval : ∀ j, g s.me j = val j) : gives i lat w val :=
    form g he hp fun j => hval j ▸ ⟨rfl, rfl⟩
  rw [← hlat]
  refine ⟨direct _ (exec_vadd ..) rfl fun _ => rfl, direct _ (exec_vsub ..) rfl fun _ => rfl,
    direct _ (exec_vmul ..) rfl fun _ => rfl, direct _ (exec_vfma ..) rfl fun _ => rfl,
    direct _ (exec_vmin ..) rfl fun _ => rfl, direct _ (exec_vmax ..) rfl fun _ => rfl,
    direct _ (exec_vabs ..) rfl fun _ => rfl, direct _ (exec_vneg ..) rfl fun _ => rfl,
    direct _ (exec_vand ..) rfl fun _ => rfl, direct _ (exec_vor ..) rfl fun _ => rfl,
    direct _ (exec_vxor ..) rfl fun _ => rfl, ?vshl, fun hsg => ?vshrU, fun hsg => ?vshrS,
    direct _ (exec_vsel ..) rfl fun _ => rfl, direct _ (exec_vmovV ..) rfl fun _ => rfl,
    form _ (exec_vmovSplat ..) rfl fun _ => ⟨Nat.mod_mod _ _, rfl⟩, fun ht => ?idxInt, fun ff hff => ?idxFloat,
    fun byte => ⟨?permByte, ?perm64, ?perm32⟩, ?vins, direct _ (exec_vsfu ..) rfl fun _ => rfl⟩
  case vshl => exact form _ ((exec_vshl ..).trans (vecShift_eq ..)) rfl fun j => ⟨by rw [shiftElem_left], rfl⟩
  case vshrU =>
    refine form _ ((exec_vshr ..).trans (vecShift_eq ..)) rfl fun j => ⟨?_, rfl⟩
    rw [show (decide (9 ≤ t.toNat) && decide (t.toNat ≤ 12)) = false from hsg, shiftElem_right_unsigned (elemAt_lt ..)]
  case vshrS =>
    have ht : 9 ≤ t.toNat := by
      have := hsg
      simp only [sg, Bool.and_eq_true, decide_eq_true_eq] at this
      exact this.1
    refine form _ ((exec_vshr ..).trans (vecShift_eq ..)) rfl fun j => ⟨?_, rfl⟩
    rw [show (decide (9 ≤ t.toNat) && decide (t.toNat ≤ 12)) = true from hsg,
      shiftElem_right_signed (elemAt_lt ..) (typeWidth_pos ht)]
  case idxInt =>
    refine form _ (exec_vmovIdx ..) rfl fun j => ?_
    rw [Fmt.float?_intType ht]
    exact ⟨Nat.mod_mod _ _, rfl⟩
  case idxFloat =>
    refine form _ (exec_vmovIdx ..) rfl fun j => ?_
    rw [hff]
    exact ⟨rfl, rfl⟩
  case permByte => rintro rfl; exact direct _ (exec_vperm_byte ..) rfl fun _ => rfl
  case perm64 => rintro rfl rfl; exact direct _ (exec_vperm_64 ..) rfl fun _ => rfl
  case perm32 => rintro rfl rfl; exact direct _ (exec_vperm_32 ..) rfl fun _ => rfl
  case vins => exact form _ (exec_vins ..) rfl fun j => ⟨mod_ite_mod .., rfl⟩

end Sys2Proof.Machine
end
section
/-!
PROOF. The vector forms that write a predicate, an s or an h register, and those that write every element (O25; R203, R205 to R208, R210,
R211, R215): packing and spreading of active elements, counts, signalling operands, conversions between widths; then each form.
-/

namespace Sys2Proof.Machine

set_option Elab.async false

/-! ### Active elements (R198, R208) -/

theorem filterMap_ite {α β : Type} (c : α → Bool) (f : α → β) (l : List α) :
    (l.filterMap fun x => if c x then some (f x) else none) = (l.filter c).map f := by
  induction l with
  | nil => rfl
  | cons x l ih => by_cases h : c x = true <;> simp [h, ih]

theorem activeElems_eq (m : BitVec 32) (w : Nat) (v : BitVec 1024) :
    activeElems m w v = ((List.range (1024 / w)).filter fun j => m.getLsbD (w * j / 32)).map (elemAt v w) := filterMap_ite ..

/-- Spreading leading elements over the active places gives each the element of its rank. -/
theorem spread_eq (act : Nat → Bool) (f : Nat → Nat) (n : Nat) :
    (List.range n).foldl (fun (acc : List Nat × Nat) j =>
      if act j then (acc.1 ++ [f acc.2], acc.2 + 1) else (acc.1 ++ [0], acc.2)) ([], 0) =
    ((List.range n).map fun j => if act j then f ((List.range j).filter act).length else 0, ((List.range n).filter act).length) := by
  induction n with
  | zero => rfl
  | succ n ih => by_cases h : act n = true <;> simp [List.range_succ, ih, h]

/-- The number of set bits. -/
theorem popCount_eq (n x : Nat) : popCount n x = ((List.range n).filter x.testBit).length := by
  suffices h : ∀ (l : List Nat) (c : Nat), l.foldl (fun c i => if x.testBit i then c + 1 else c) c = c + (l.filter x.testBit).length by
    simpa [popCount] using h (List.range n) 0
  intro l
  induction l with
  | nil => simp
  | cons i l ih =>
    intro c
    by_cases h : x.testBit i = true <;> simp [ih, h]
    omega

/-! ### Signalling operands (R101) -/

theorem Num.isSig_iff (x : Num) : x.isSig = true ↔ x = .nan true := by
  cases x <;> simp [Num.isSig]

theorem sigFlags_getLsbD (x y : Num) (k : Nat) : (sigFlags [x, y]).getLsbD k = true ↔ k = 0 ∧ (x = .nan true ∨ y = .nan true) := by
  rw [← Num.isSig_iff, ← Num.isSig_iff, ← Bool.or_eq_true]
  simp only [sigFlags, List.any_cons, List.any_nil, Bool.or_false, flagIf, flagNV]
  split <;> simp [*, BitVec.getLsbD_one]

/-! ### What the checks at issue leave (R75, R206) -/

/-- An operation that nothing stops has passed the checks of its entry. -/
theorem State.entryChecks_of_clear {s : State} {i : Sys2Proof.Instr} (h : s.clear i = true) : ∀ c ∈ Instr.entryChecks i, c.2 = false := by
  simp only [State.clear, Bool.and_eq_true, Option.isNone_iff_eq_none] at h
  obtain ⟨⟨hissue, -⟩, -⟩ := h
  have hill : Instr.illegal? i = none := by
    cases hi : Instr.illegal? i with
    | none => rfl
    | some c =>
      simp only [State.issueTrap, hi] at hissue
      split at hissue <;> cases hissue
  have hfind : (Instr.entryChecks i).find? (·.2) = none := by
    cases hf : (Instr.entryChecks i).find? (·.2) with
    | none => rfl
    | some c => simp [Instr.illegal?, hf] at hill
  simpa using hfind

/-- A part of the wider elements that a conversion names lies in the register. -/
theorem cvtShape_fits {ts td : BitVec 4} {part : BitVec 3} (h : cvtShape ts td part = true) (hlt : typeWidth td < typeWidth ts) :
    part.toNat * (1024 / typeWidth ts) + 1024 / typeWidth ts ≤ 1024 / typeWidth td := by
  simp only [cvtShape, Nat.max_eq_left hlt.le, Nat.min_eq_right hlt.le, Bool.and_eq_true, bne_iff_ne, decide_eq_true_eq] at h
  obtain ⟨⟨hpos, -⟩, hpart⟩ := h
  calc part.toNat * (1024 / typeWidth ts) + 1024 / typeWidth ts = (part.toNat + 1) * (1024 / typeWidth ts) := (Nat.succ_mul ..).symm
    _ ≤ typeWidth ts / typeWidth td * (1024 / typeWidth ts) := Nat.mul_le_mul_right _ hpart
    _ ≤ 1024 / typeWidth td := by
      rw [Nat.le_div_iff_mul_le (Nat.pos_of_ne_zero hpos), Nat.mul_right_comm]
      exact (Nat.mul_le_mul_right _ (Nat.div_mul_le_self ..)).trans (Nat.mul_div_le ..)

/-! ### The forms, one lemma each -/

section
variable {s : State} {d a b : BitVec 7} {p : BitVec 3} {t ts : BitVec 4} {cc op part : BitVec 3} {sat nb w64 single db4 : Bool}

theorem exec_vcmp : exec (.vcmp d a b p cc t) s = execVcmp d a b p cc t s := rfl
theorem exec_vmovHS : exec (.vmovHS d a p) s = execVmovHS d a p s := rfl
theorem exec_vmovSH : exec (.vmovSH d a p) s = execVmovSH d a p s := rfl
theorem exec_vmovPS : exec (.vmovPS d a p) s = execVmovPS d a p s := rfl
theorem exec_vmovSP : exec (.vmovSP d a p) s = execVmovSP d a p s := rfl
theorem exec_vcomp : exec (.vcomp d a p w64) s = execVcomp d a p w64 s := rfl
theorem exec_vexpd : exec (.vexpd d a p w64) s = execVexpd d a p w64 s := rfl
theorem exec_vred : exec (.vred d a p op t) s = execVred d a p op t s := rfl
theorem exec_vext : exec (.vext d a b p t) s = execVext d a b p t s := rfl
theorem exec_vqdb : exec (.vqdb d a p single db4) s = execVqdb d a p single db4 s := rfl
theorem exec_vcvt : exec (.vcvt d a p sat ts part t) s = execVcvt d a p sat ts part t s := rfl
theorem exec_pand : exec (.pand d a b p nb) s = predForm (.pand d a b p nb) s d a b nb (· &&& ·) := rfl
theorem exec_por : exec (.por d a b p nb) s = predForm (.por d a b p nb) s d a b nb (· ||| ·) := rfl
theorem exec_pxor : exec (.pxor d a b p nb) s = predForm (.pxor d a b p nb) s d a b nb (· ^^^ ·) := rfl
theorem exec_pcnt : exec (.pcnt d a p) s = execPcnt d a p s := rfl

/-! ### Compares (R203) -/

/-- The exact values that a compare compares. -/
def Core.compared (c : Core) (a b : BitVec 7) (t : BitVec 4) (j : Nat) : Num × Num :=
  ((Fmt.ofType t).decode (elemAt (c.rv a.toNat) (typeWidth t) j) 0 0, (Fmt.ofType t).decode (elemAt (c.rv b.toNat) (typeWidth t) j) 0 0)

/-- What a compare writes: the condition in the bits of active elements, the old bits elsewhere; NV for an active signalling NaN. -/
theorem vcmp_writes (h : s.clear (.vcmp d a b p cc t) = true) :
    let w := typeWidth t
    let g := s.me.rp p.toNat
    let x := s.me.compared a b t
    ∃ (r : Nat) (fl : Flags), exec (.vcmp d a b p cc t) s = .next (s.writeReg (typeLat t) (pReg d) r fl) ∧
      (∀ k, k < 32 → r.testBit k = if g.getLsbD (w * (k * 32 / w) / 32) then vCond cc.toNat (x (k * 32 / w)).1 (x (k * 32 / w)).2
        else (s.me.rp d.toNat).getLsbD k) ∧
      ∀ k, fl.getLsbD k = true ↔ k = 0 ∧ ∃ j, j < 1024 / w ∧ g.getLsbD (w * j / 32) = true ∧
        ((x j).1 = .nan true ∨ (x j).2 = .nan true) := by
  intro w g x
  refine ⟨_, _, exec_vcmp.trans (runChecked_clear _ s _ h), fun k hk => ofElems_testBit _ hk, fun k => ?_⟩
  rw [flagsOr_map_getLsbD]
  have hone (j : Nat) : (if activeElem g w j then sigFlags [(x j).1, (x j).2] else 0).getLsbD k = true ↔
      k = 0 ∧ g.getLsbD (w * j / 32) = true ∧ ((x j).1 = .nan true ∨ (x j).2 = .nan true) := by
    by_cases hj : g.getLsbD (w * j / 32) = true
    · simp [activeElem, laneOf, hj, sigFlags_getLsbD]
    · simp [activeElem, laneOf, hj]
  exact (exists_congr fun j => and_congr_right fun _ => hone j).trans
    ⟨fun ⟨j, hj, hk, hg, hn⟩ => ⟨hk, j, hj, hg, hn⟩, fun ⟨hk, j, hj, hg, hn⟩ => ⟨j, hj, hk, hg, hn⟩⟩

/-! ### Extraction (R211) -/

/-- An element of an integer type extended to 64 bits, by its sign where it has one. -/
theorem intBits_intVal {w x : Nat} (hw : w ≤ 64) (hx : x < 2 ^ w) (sg : Bool) (hs : sg = true → 0 < w) :
    intBits 64 (intVal w sg x) = if sg = true ∧ 2 ^ (w - 1) ≤ x then x + 2 ^ 64 - 2 ^ w else x := by
  have hpow : 2 ^ w ≤ 2 ^ 64 := Nat.pow_le_pow_right (by omega) hw
  cases sg with
  | false =>
    have hval : intVal w false x = (x : Int) := by simp [intVal, Nat.mod_eq_of_lt hx]
    rw [hval, intBits, if_neg (by simp), ← Int.natCast_emod, Int.toNat_natCast, Nat.mod_eq_of_lt (by omega)]
  | true =>
    rw [intVal_eq (hs rfl), Nat.mod_eq_of_lt hx]
    split
    · have hcast : ((2 : Int) ^ w) = ((2 ^ w : Nat) : Int) := by push_cast; rfl
      rw [hcast, intBits, ← Int.add_emod_right, Int.emod_eq_of_lt (by omega) (by omega)]
      omega
    · rw [intBits, ← Int.natCast_emod, Int.toNat_natCast, Nat.mod_eq_of_lt (by omega)]

/-- An element extended to 64 bits, by the sign of its type. -/
def extendElem (t : BitVec 4) (x : Nat) : Nat :=
  if 9 ≤ t.toNat ∧ t.toNat ≤ 12 ∧ 2 ^ (typeWidth t - 1) ≤ x then x + 2 ^ 64 - 2 ^ typeWidth t else x

theorem typeWidth_le (t : BitVec 4) : typeWidth t ≤ 64 := by
  revert t; decide

/-- What an extraction does: the element at the index, when its lane is active. -/
theorem execVext_clear (h : s.clear (.vext d a b p t) = true) :
    let w := typeWidth t
    let j := (s.me.rs b.toNat).toNat % (1024 / w)
    execVext d a b p t s = if (s.me.rp p.toNat).getLsbD (w * j / 32) then
      .next (s.writeReg 2 (sReg d) (extendElem t (elemAt (s.me.rv a.toNat) w j)) 0) else .next s := by
  intro w j
  have hx : elemAt (s.me.rv a.toNat) w j < 2 ^ w := elemAt_lt ..
  have hgoal : execVext d a b p t s = if (s.me.rp p.toNat).getLsbD (w * j / 32) then
      .next (s.writeReg 2 (sReg d) (intBits 64 (intVal w (decide (9 ≤ t.toNat) && decide (t.toNat ≤ 12)) (elemAt (s.me.rv a.toNat) w j))) 0)
      else .next s := by
    rw [execVext, runChecked_clear _ s _ h, Core.guardMask_of_guard (p := p) rfl]
    by_cases h9 : 9 ≤ t.toNat <;> simp only [Fmt.int?_ofType, h9, decide_true, decide_false, Bool.true_and, Bool.false_and, if_true,
      if_false] <;> exact apply_ite (Eff.toOutcome s) ..
  rw [hgoal, intBits_intVal (typeWidth_le t) hx _ fun hs => typeWidth_pos (by simp at hs; exact hs.1)]
  simp only [extendElem, Bool.and_eq_true, decide_eq_true_eq, and_assoc]

/-! ### Conversions (R206) -/

/-- What a conversion puts at place `k` of v[D]: the converted element of its pair when the wider one's lane is active, else the old
element. -/
def Core.cvtPlace (c : Core) (d a : BitVec 7) (p : BitVec 3) (sat : Bool) (ts : BitVec 4) (part : BitVec 3) (t : BitVec 4) (k : Nat) :
    Res Nat :=
  let ws := typeWidth ts
  let w := typeWidth t
  let e := 1024 / max ws w
  let cvt (x : Nat) := cvtElem (Fmt.ofType ts) (Fmt.ofType t) c.rm sat x
  let act (j : Nat) : Bool := (c.rp p.toNat).getLsbD (max ws w * j / 32)
  let old := (elemAt (c.rv d.toNat) w k, 0)
  if w < ws then
    if part.toNat * e ≤ k ∧ k < part.toNat * e + e ∧ act (k - part.toNat * e) then cvt (elemAt (c.rv a.toNat) ws (k - part.toNat * e)) else old
  else if act k then cvt (elemAt (c.rv a.toNat) ws (if ws < w then part.toNat * e + k else k)) else old

/-- What a conversion writes. -/
theorem vcvt_writes (h : s.clear (.vcvt d a p sat ts part t) = true) : ∃ (r : Nat) (fl : Flags),
    exec (.vcvt d a p sat ts part t) s = .next (s.writeReg 4 (vReg d) r fl) ∧
    (∀ k, k < 1024 / typeWidth t →
      r / 2 ^ (typeWidth t * k) % 2 ^ typeWidth t = (s.me.cvtPlace d a p sat ts part t k).1 % 2 ^ typeWidth t) ∧
    ∀ b, fl.getLsbD b = true ↔ ∃ k, k < 1024 / typeWidth t ∧ (s.me.cvtPlace d a p sat ts part t k).2.getLsbD b = true := by
  have hrun : exec (.vcvt d a p sat ts part t) s = .next (s.writeReg 4 (vReg d)
      (ofElems (typeWidth t) ((List.range (1024 / typeWidth t)).map fun k => (s.me.cvtPlace d a p sat ts part t k).1))
      (flagsOr ((List.range (1024 / typeWidth t)).map fun k => (s.me.cvtPlace d a p sat ts part t k).2))) := by
    rw [exec_vcvt, execVcvt, runChecked_clear _ s _ h, Core.guardMask_of_guard (p := p) rfl]
    simp only [List.map_map, Function.comp_def, activeElem, laneOf, elemCount, Core.cvtPlace, Bool.and_eq_true, decide_eq_true_eq, and_assoc]
    rfl
  exact ⟨_, _, hrun, fun k hk => ofElems_place_map _ hk, fun b => flagsOr_map_getLsbD ..⟩

section
variable (c : Core)

/-- A place of a narrowing conversion outside the part it names, or of an inactive pair, keeps its element. -/
theorem Core.cvtPlace_narrow (hw : typeWidth t < typeWidth ts) (k : Nat) :
    let e := 1024 / typeWidth ts
    c.cvtPlace d a p sat ts part t k =
      if part.toNat * e ≤ k ∧ k < part.toNat * e + e ∧ (c.rp p.toNat).getLsbD (typeWidth ts * (k - part.toNat * e) / 32) = true
      then cvtElem (Fmt.ofType ts) (Fmt.ofType t) c.rm sat (elemAt (c.rv a.toNat) (typeWidth ts) (k - part.toNat * e))
      else (elemAt (c.rv d.toNat) (typeWidth t) k, 0) := by
  simp only [Core.cvtPlace, if_pos hw, Nat.max_eq_left hw.le]

/-- A place of a conversion that does not narrow. -/
theorem Core.cvtPlace_wide (hw : typeWidth ts ≤ typeWidth t) (k : Nat) : c.cvtPlace d a p sat ts part t k =
    if (c.rp p.toNat).getLsbD (typeWidth t * k / 32) = true
    then cvtElem (Fmt.ofType ts) (Fmt.ofType t) c.rm sat (elemAt (c.rv a.toNat) (typeWidth ts)
      (if typeWidth ts < typeWidth t then part.toNat * (1024 / typeWidth t) + k else k))
    else (elemAt (c.rv d.toNat) (typeWidth t) k, 0) := by
  simp only [Core.cvtPlace, if_neg hw.not_gt, Nat.max_eq_right hw]

end

end

section
variable {s : State} {d a b : BitVec 7} {p : BitVec 3} {t ts : BitVec 4} {cc op part : BitVec 3} {sat nb w64 single db4 : Bool}

/-- The bits of an element that takes a result or keeps its value. -/
theorem kept_mod (cond : Prop) [Decidable cond] (x : Res Nat) (v : BitVec 1024) (w k : Nat) :
    (if cond then x else (elemAt v w k, 0)).1 % 2 ^ w = if cond then x.1 % 2 ^ w else elemAt v w k := by
  split
  · rfl
  · exact elemAt_mod ..

/-- The flags of a conversion are those of its active pairs. -/
theorem Core.cvtPlace_flags (c : Core) (hpart : cvtShape ts t part = true) (k : Nat) :
    let w := typeWidth t
    let ws := typeWidth ts
    let wide := if ws ≤ w then w else ws
    let e := 1024 / wide
    (∃ j, j < 1024 / w ∧ (c.cvtPlace d a p sat ts part t j).2.getLsbD k = true) ↔
      ∃ j, j < e ∧ (c.rp p.toNat).getLsbD (wide * j / 32) = true ∧
        (cvtElem (Fmt.ofType ts) (Fmt.ofType t) c.rm sat
          (elemAt (c.rv a.toNat) ws (if ws < w then part.toNat * e + j else j))).2.getLsbD k = true := by
  intro w ws wide e
  by_cases hle : ws ≤ w
  · have hwide : wide = w := if_pos hle
    have he : e = 1024 / w := by rw [← hwide]
    rw [hwide, he]
    refine exists_congr fun j => and_congr_right fun _ => ?_
    rw [Core.cvtPlace_wide c hle]
    by_cases hact : (c.rp p.toNat).getLsbD (w * j / 32) = true
    · rw [if_pos hact]
      exact (and_iff_right hact).symm
    · rw [if_neg hact]
      simp [hact]
  · have hlt : w < ws := Nat.lt_of_not_le hle
    have hwide : wide = ws := if_neg hle
    have he : e = 1024 / ws := by rw [← hwide]
    have hfits : part.toNat * e + e ≤ 1024 / w := he ▸ cvtShape_fits hpart hlt
    rw [hwide]
    simp only [Core.cvtPlace_narrow c hlt, if_neg hlt.not_gt]
    constructor
    · rintro ⟨j, -, hj⟩
      split at hj
      · rename_i hin
        obtain ⟨hlo, hhi, hact⟩ := hin
        rw [← he] at hlo hhi hact hj
        exact ⟨j - part.toNat * e, by omega, hact, hj⟩
      · simp at hj
    · rintro ⟨j, hj, hact, hf⟩
      refine ⟨part.toNat * e + j, by omega, ?_⟩
      rw [← he, Nat.add_sub_cancel_left, if_pos ⟨by omega, by omega, hact⟩]
      exact hf

/-! ### Predicates (R215) -/

/-- What a predicate form writes: lanes outside the guard keep their bits. -/
theorem predForm_clear {i : Sys2Proof.Instr} {f : BitVec 32 → BitVec 32 → BitVec 32} (hp : Instr.guard? i = some p) (h : s.clear i = true) :
    predForm i s d a b nb f = .next (s.writeReg 2 (pReg d)
      ((f (s.me.rp a.toNat) (if nb then ~~~(s.me.rp b.toNat) else s.me.rp b.toNat) &&& s.me.rp p.toNat) |||
        (s.me.rp d.toNat &&& ~~~(s.me.rp p.toNat))).toNat 0) := by
  rw [predForm, runChecked_clear _ s _ h, Core.guardMask_of_guard hp]
  rfl

/-! ### Packing and spreading (R208) -/

/-- What packing writes. -/
theorem execVcomp_clear (h : s.clear (.vcomp d a p w64) = true) :
    let w := if w64 then 64 else 32
    execVcomp d a p w64 s = .next (s.writeReg 5 (vReg d) (ofElems w
      (((List.range (1024 / w)).filter fun j => (s.me.rp p.toNat).getLsbD (w * j / 32)).map (elemAt (s.me.rv a.toNat) w))) 0) := by
  intro w
  rw [execVcomp, runChecked_clear _ s _ h, Core.guardMask_of_guard (p := p) rfl, activeElems_eq]
  rfl

/-- What spreading writes. -/
theorem execVexpd_clear (h : s.clear (.vexpd d a p w64) = true) :
    let w := if w64 then 64 else 32
    let act (j : Nat) : Bool := (s.me.rp p.toNat).getLsbD (w * j / 32)
    execVexpd d a p w64 s = .next (s.writeReg 5 (vReg d) (ofElems w ((List.range (1024 / w)).map fun j =>
      if act j then elemAt (s.me.rv a.toNat) w ((List.range j).filter act).length else 0)) 0) := by
  intro w act
  rw [execVexpd, runChecked_clear _ s _ h, Core.guardMask_of_guard (p := p) rfl]
  exact congrArg (fun r : List Nat × Nat => Host.Outcome.next (s.writeReg 5 (vReg d) (ofElems w r.1) 0)) (spread_eq act _ _)

end

/-! ### Conversions -/

theorem entryChecks_vcvt (d a : BitVec 7) (p : BitVec 3) (sat : Bool) (ts : BitVec 4) (part : BitVec 3) (t : BitVec 4) :
    Instr.entryChecks (.vcvt d a p sat ts part t) = [(.fn, !regType ts || !regType t || !cvtShape ts t part)] := rfl

/-- A conversion that nothing stops names widths and a part that fit. -/
theorem cvtShape_of_clear {s : State} {d a : BitVec 7} {p : BitVec 3} {sat : Bool} {ts : BitVec 4} {part : BitVec 3} {t : BitVec 4}
    (h : s.clear (.vcvt d a p sat ts part t) = true) : cvtShape ts t part = true := by
  have hfn := State.entryChecks_of_clear h _ (entryChecks_vcvt .. ▸ List.mem_singleton_self _)
  simpa using (Bool.or_eq_false_iff.mp hfn).2

/-- Settles O25, form by form. -/
theorem vectorScalarResults : Obligations.VectorScalarResults := by
  unfold Obligations.VectorScalarResults
  intro s d a b p t ts cc op part sat nb w64 single db4 w g va vb active pb pa pw packed place
  have hmask {i : Sys2Proof.Instr} (h : Instr.guard? i = some p) : s.me.guardMask i = g := Core.guardMask_of_guard h _
  refine ⟨fun h => ?vcmp, fun h => exec_vmovHS.trans (runOp_opens _ s _ h), fun h => exec_vmovSH.trans (runOp_opens _ s _ h),
    fun h => exec_vmovPS.trans (runOp_opens _ s _ h), fun h => exec_vmovSP.trans (runOp_opens _ s _ h), fun h => ?vcomp, fun h => ?vexpd,
    fun h => ?vred, fun h => ?vext, fun h => ?vqdb, fun h => ?vcvt, fun h => ?pand, fun h => ?por, fun h => ?pxor, fun h => ?pcnt⟩
  case vcmp => rw [← typeLat_eq]; exact vcmp_writes h
  case vcomp =>
    refine ⟨_, exec_vcomp.trans (execVcomp_clear h), fun j _ => ?_⟩
    refine (ofElems_place pw (packed pw) j).trans (Nat.mod_eq_of_lt ?_)
    cases hj : (packed pw)[j]? with
    | none => exact Nat.two_pow_pos _
    | some x =>
      obtain ⟨i, -, rfl⟩ := List.mem_map.mp (List.mem_of_getElem? hj)
      exact elemAt_lt ..
  case vexpd =>
    refine ⟨_, exec_vexpd.trans (execVexpd_clear h), fun j hj => (ofElems_place_map _ hj).trans (Nat.mod_eq_of_lt ?_)⟩
    show (if active pw j = true then elemAt va pw _ else 0) < 2 ^ pw
    by_cases hj : active pw j = true
    · rw [if_pos hj]; exact elemAt_lt ..
    · rw [if_neg hj]; exact Nat.two_pow_pos _
  case vred =>
    rw [exec_vred, execVred, runChecked_clear _ s _ h, hmask rfl, activeElems_eq]
    rfl
  case vext =>
    have hext := exec_vext.trans (execVext_clear h)
    exact ⟨fun hoff => hext.trans (if_neg (by simpa using hoff)), fun hon => hext.trans (if_pos hon)⟩
  case vqdb =>
    rw [exec_vqdb, execVqdb, runChecked_clear _ s _ h, hmask rfl]
    rfl
  case vcvt =>
    have hpart : cvtShape ts t part = true := cvtShape_of_clear h
    obtain ⟨r, fl, hexec, hplace, hflags⟩ := vcvt_writes h
    refine ⟨r, fl, hexec, fun hlt k hk => ?_, fun hlt j hj => ?_, fun heq j hj => ?_, fun k => (hflags k).trans (Core.cvtPlace_flags _ hpart k)⟩
    · have hwide : (if typeWidth ts ≤ w then w else typeWidth ts) = typeWidth ts := if_neg hlt.not_ge
      refine (hplace k hk).trans ?_
      rw [Core.cvtPlace_narrow _ hlt, kept_mod, hwide]
    · have hwide : (if typeWidth ts ≤ w then w else typeWidth ts) = w := if_pos hlt.le
      rw [hwide] at hj ⊢
      refine (hplace j hj).trans ?_
      rw [Core.cvtPlace_wide _ hlt.le, kept_mod, if_pos hlt]
    · have hwide : (if typeWidth ts ≤ w then w else typeWidth ts) = w := if_pos heq.le
      rw [hwide] at hj ⊢
      refine (hplace j hj).trans ?_
      rw [Core.cvtPlace_wide _ heq.le, kept_mod, if_neg heq.not_lt]
  case pand => exact exec_pand.trans (predForm_clear rfl h)
  case por => exact exec_por.trans (predForm_clear rfl h)
  case pxor => exact exec_pxor.trans (predForm_clear rfl h)
  case pcnt => 
    rw [exec_pcnt, execPcnt, runChecked_clear _ s _ h, hmask rfl, popCount_eq]
    rfl

end Sys2Proof.Machine
end
section
/-!
PROOF. Shape jobs enter, start and complete (O27, O28; R218 to R222, R231, R232): reading a record leaves memory and cores alone; a card
whose checks pass; the start of a job and its completion.
-/

namespace Sys2Proof.Machine

set_option Elab.async false

/-! ### Reads that meet no poison (R51) -/

/-- A byte that is not zero reads back, whatever the memory's form. -/
theorem Memory.read_write_of_ne_zero (m : List Host.Cell) (x : Nat) {v : Byte} (hv : v ≠ 0) : Memory.read (Memory.write m x v) x = v := by
  induction m with
  | nil => rw [Memory.write, if_neg hv, Memory.read, if_pos rfl]
  | cons c r ih =>
    obtain ⟨a, b⟩ := c
    simp only [Memory.write, if_neg hv]
    split
    · simp [Memory.read]
    · split
      · rename_i heq
        simp [Memory.read, heq]
      · rw [Memory.read, if_neg (by omega), if_neg (by assumption), ih]

/-- A word stored as poison reads as poison. -/
theorem isPoison_poisonWord (m : List Host.Cell) (key : Nat) : isPoison (poisonWord m key) key = true := by
  have hsyn : synOf (poisonWord m key) key = poisonSyn := by
    rw [synOf, poisonWord, Memory.read_write_of_ne_zero _ _ (by decide)]
    rfl
  simp [isPoison, hsyn, syndrome, poisonSyn]

/-- The words of a byte are poison together. -/
theorem isPoison_congr (m : List Host.Cell) {a b : Nat} (h : a / 8 = b / 8) : isPoison m a = isPoison m b := by
  simp only [isPoison, synOf, synKey, h]

theorem readByte?_of_isPoison {m : List Host.Cell} {key : Nat} (h : isPoison m key = true) : readByte? m key = none := by
  simp only [isPoison] at h
  simp only [readByte?, readWord?]
  split at h <;> simp_all

/-- What reading a run does to its word `i` (R51). -/
def scrubWord (key : Nat) (acc : List Host.Cell × Nat) (i : Nat) : List Host.Cell × Nat :=
  match syndrome (synOf acc.1 (key + 8 * i)) with
  | .uncorrectable => (poisonWord acc.1 (key + 8 * i), acc.2)
  | .corrected _ => (acc.1, acc.2 + 1)
  | _ => acc

theorem scrubRun_eq (m : List Host.Cell) (key len : Nat) :
    scrubRun m key len = (List.range ((key % 8 + len + 7) / 8)).foldl (scrubWord key) (m, 0) := rfl

/-- Reading a word stores poison, or leaves memory alone. -/
theorem scrubWord_mem (key i : Nat) (acc : List Host.Cell × Nat) :
    (scrubWord key acc i).1 = acc.1 ∨ isPoison (scrubWord key acc i).1 (key + 8 * i) = true := by
  simp only [scrubWord]
  split
  · exact .inr (isPoison_poisonWord ..)
  · exact .inl rfl
  · exact .inl rfl

/-- Reading words none of which then is poison has left memory alone. -/
theorem scrubWords_mem {m : List Host.Cell} {key n : Nat}
    (h : ∀ i, i < n → isPoison ((List.range n).foldl (scrubWord key) (m, 0)).1 (key + 8 * i) = false) :
    ((List.range n).foldl (scrubWord key) (m, 0)).1 = m := by
  induction n with
  | zero => rfl
  | succ n ih =>
    rw [List.range_succ, List.foldl_append, List.foldl_cons, List.foldl_nil] at h ⊢
    rcases scrubWord_mem key n ((List.range n).foldl (scrubWord key) (m, 0)) with heq | hbad
    · rw [heq] at h ⊢
      exact ih fun i hi => h i (by omega)
    · rw [h n (by omega)] at hbad
      cases hbad

/-- A run that is read without poison leaves memory alone. -/
theorem scrubRun_mem {m : List Host.Cell} {key len : Nat} (hlen : 0 < len)
    (h : (readBytes (scrubRun m key len).1 key len).poisoned = false) : (scrubRun m key len).1 = m := by
  rw [scrubRun_eq] at h ⊢
  refine scrubWords_mem fun i hi => ?_
  simp only [Payload.poisoned, readBytes, List.any_map, List.any_eq_false, List.mem_range, Function.comp] at h
  have hword : isPoison ((List.range ((key % 8 + len + 7) / 8)).foldl (scrubWord key) (m, 0)).1 (key + (8 * i - key % 8)) = false := by
    by_contra hbad
    exact h (8 * i - key % 8) (by omega) (by rw [readByte?_of_isPoison (by simpa using hbad)]; rfl)
  rw [← hword]
  exact isPoison_congr _ (by omega)

/-! ### What reading leaves of a state -/

@[simp] theorem State.mem_countCorr (s : State) (key n : Nat) : (s.countCorr key n).mem = s.mem := by
  simp only [State.countCorr]; split <;> [rfl; split <;> rfl]

@[simp] theorem State.cores_countCorr (s : State) (key n : Nat) : (s.countCorr key n).cores = s.cores := by
  simp only [State.countCorr]; split <;> [rfl; split <;> rfl]

@[simp] theorem State.cur_countCorr (s : State) (key n : Nat) : (s.countCorr key n).cur = s.cur := by
  simp only [State.countCorr]; split <;> [rfl; split <;> rfl]

/-- A state after a read that met no poison: the memory, the cores and the issuing core are the same. -/
structure State.SameForReader (s t : State) : Prop where
  mem : t.mem = s.mem
  cores : t.cores = s.cores
  cur : t.cur = s.cur

/-- A read that meets no poison leaves memory and cores alone. -/
theorem State.readMem_keeps {s : State} {key len : Nat} (hlen : 0 < len) (h : (s.readMem key len).1.poisoned = false) :
    s.SameForReader (s.readMem key len).2 where
  mem := (State.mem_countCorr ..).trans (scrubRun_mem hlen (by simpa [State.readMem, State.scrub] using h))
  cores := State.cores_countCorr ..
  cur := State.cur_countCorr ..

/-- Reading a shape record leaves memory and cores alone. -/
theorem State.readRecord_keeps {s t : State} {core : Nat} {c : Core} {h : Word} {r : ShapeRec} (hr : s.readRecord core c h = .ok r t) :
    s.SameForReader t := by
  simp only [State.readRecord] at hr
  split at hr
  · cases hr
  · split at hr
    · cases hr
    · split at hr
      · cases hr
      · rename_i hpoison
        split at hr
        · cases hr
        · cases hr
          exact State.readMem_keeps (by decide) (by simpa using hpoison)

/-- Reading shape records leaves memory and cores alone. -/
theorem readRecords_keeps {core : Nat} {c : Core} {l : List Word} {s t : State} {rs : List ShapeRec}
    (hr : readRecords s core c l = .ok (rs, t)) : s.SameForReader t := by
  induction l generalizing s rs with
  | nil =>
    cases hr
    exact ⟨rfl, rfl, rfl⟩
  | cons h l ih =>
    simp only [readRecords] at hr
    split at hr
    · cases hr
    · cases hr
    · rename_i r u hread
      split at hr
      · cases hr
      · rename_i rs' v hrest
        cases hr
        have hu := State.readRecord_keeps hread
        have hv := ih hrest
        exact ⟨hv.mem.trans hu.mem, hv.cores.trans hu.cores, hv.cur.trans hu.cur⟩

/-! ### A card that enters (R220) -/

/-- The first record is the destination, the others are sources. -/
theorem named_records {α β : Type} (f g : α → β) (x : α) (l : List α) :
    ((x :: l).zipIdx.map fun e => if e.2 = 0 then f e.1 else g e.1) = f x :: l.map g := by
  have htail (n : Nat) (l : List α) : ((l.zipIdx (n + 1)).map fun e => if e.2 = 0 then f e.1 else g e.1) = l.map g := by
    induction l generalizing n with
    | nil => rfl
    | cons y l ih => simp [ih]
  simp [htail]

theorem Core.sameArch_enterJob (c : Core) (clk slotNo : Nat) (kind : JobKind) (regions : List Region) :
    c.sameArch (c.enterJob clk slotNo kind regions) :=
  ⟨rfl, rfl, rfl, rfl, rfl, rfl, rfl, rfl, rfl, rfl, rfl, rfl, rfl, rfl, rfl, rfl, rfl, rfl, rfl, rfl, rfl⟩

/-- A shape job whose records can be read and pass their checks enters, and waits for nothing. -/
theorem shapeJob_enters {i : Sys2Proof.Instr} {s s1 : State} {srcs : Core → List Word} {d : BitVec 7} {rd : ShapeRec} {rs : List ShapeRec}
    {g : JRegion × Region} {rest : List (JRegion × Region)} (hopen : s.opens i = true)
    (hread : readRecords s s.cur s.me (s.me.rh d.toNat :: srcs s.me) = .ok (rd :: rs, s1))
    (hcheck : checkRegions s.me.kbank (((jobFields i).td, rd, true) :: rs.map fun r => ((jobFields i).ts, r, false)) = .ok (g :: rest))
    (hrule : jobRule i g.1 (rest.headD g).1 ((rest.drop 1).headD (rest.headD g)).1 = true)
    (hwait : s.me.cardWaits ((g :: rest).map (·.2)) = none) :
    shapeJob i s srcs d = .next (s1.updCore s.cur fun x => x.enterJob s.clk 1
      (.vec i g.1.r (rest.headD g).1.r ((rest.drop 1).headD (rest.headD g)).1.r) ((g :: rest).map (·.2))) := by
  rw [shapeJob, runOp_opens _ _ _ hopen, hread]
  simp only [named_records (fun r => ((jobFields i).td, r, true)) (fun r => ((jobFields i).ts, r, false)), hcheck, hrule, hwait]
  rfl

/-- What a card that has entered leaves: its job and its entries at the end, the registers and the memory as they were. -/
theorem State.SameForReader.enterJob {s s1 : State} (h : s.SameForReader s1) (kind : JobKind) (regions : List Region) :
    let u := s1.updCore s.cur fun x => x.enterJob s.clk 1 kind regions
    u.me = s.me.enterJob s.clk 1 kind regions ∧ s.sameMemory u := by
  intro u
  have hcore : s1.core s.cur = s.me := by rw [State.me, State.core, h.cores, State.core]
  have hme : u.me = (s1.core s.cur).enterJob s.clk 1 kind regions := by
    show u.core s1.cur = _
    rw [h.cur]
    exact State.core_updCore_same ..
  exact ⟨hcore ▸ hme, fun a _ => by rw [State.mem_updCore, h.mem]⟩

/-! ### The jobs, one lemma each -/

section
variable (d a b : BitVec 7) (p : BitVec 3) (sat single : Bool) (rm : BitVec 2) (t ts : BitVec 4) (op f cc : BitVec 3) (s : State)

theorem exec_vjadd : exec (.vjadd d a b p sat rm t) s =
    shapeJob (.vjadd d a b p sat rm t) s (fun c => [c.rh a.toNat, c.rh b.toNat]) d := rfl
theorem exec_vjsub : exec (.vjsub d a b p sat rm t) s =
    shapeJob (.vjsub d a b p sat rm t) s (fun c => [c.rh a.toNat, c.rh b.toNat]) d := rfl
theorem exec_vjmul : exec (.vjmul d a b p sat rm t) s =
    shapeJob (.vjmul d a b p sat rm t) s (fun c => [c.rh a.toNat, c.rh b.toNat]) d := rfl
theorem exec_vjfma : exec (.vjfma d a b p sat rm t) s =
    shapeJob (.vjfma d a b p sat rm t) s (fun c => [c.rh a.toNat, c.rh b.toNat]) d := rfl
theorem exec_vjmin : exec (.vjmin d a b p sat rm t) s =
    shapeJob (.vjmin d a b p sat rm t) s (fun c => [c.rh a.toNat, c.rh b.toNat]) d := rfl
theorem exec_vjmax : exec (.vjmax d a b p sat rm t) s =
    shapeJob (.vjmax d a b p sat rm t) s (fun c => [c.rh a.toNat, c.rh b.toNat]) d := rfl
theorem exec_vjsel : exec (.vjsel d a b p sat rm t) s =
    shapeJob (.vjsel d a b p sat rm t) s (fun c => [c.rh a.toNat, c.rh b.toNat]) d := rfl
theorem exec_vjcmp : exec (.vjcmp d a b p cc t) s = shapeJob (.vjcmp d a b p cc t) s (fun c => [c.rh a.toNat, c.rh b.toNat]) d := rfl
theorem exec_vjcomp : exec (.vjcomp d a b p t) s = shapeJob (.vjcomp d a b p t) s (fun c => [c.rh a.toNat, c.rh b.toNat]) d := rfl
theorem exec_vjexpd : exec (.vjexpd d a b p t) s = shapeJob (.vjexpd d a b p t) s (fun c => [c.rh a.toNat, c.rh b.toNat]) d := rfl
theorem exec_vjcvt : exec (.vjcvt d a p sat ts rm t) s = shapeJob (.vjcvt d a p sat ts rm t) s (fun c => [c.rh a.toNat]) d := rfl
theorem exec_vjqdb : exec (.vjqdb d a p ts single t) s = shapeJob (.vjqdb d a p ts single t) s (fun c => [c.rh a.toNat]) d := rfl
theorem exec_vjred : exec (.vjred d a p sat rm op t) s = shapeJob (.vjred d a p sat rm op t) s (fun c => [c.rh a.toNat]) d := rfl
theorem exec_vjsfu : exec (.vjsfu d a p sat rm t f) s = shapeJob (.vjsfu d a p sat rm t f) s (fun c => [c.rh a.toNat]) d := rfl
theorem exec_vjfill : exec (.vjfill d p t) s = shapeJob (.vjfill d p t) s (fun _ => []) d := rfl
end

/-- Settles O27, by what a card whose checks pass leaves. -/
theorem shapeJobsEnter : Obligations.ShapeJobsEnter := by
  unfold Obligations.ShapeJobsEnter
  intro s d a b p sat single rm t ts op f cc enters x y
  have job {i : Sys2Proof.Instr} (srcs : Core → List Word) (he : exec i s = shapeJob i s srcs d) :
      enters i (jobFields i).td (jobFields i).ts (srcs s.me) := by
    intro hopen rd rs s1 g rest hread hcheck ga gb regions hrule hwait
    obtain ⟨hme, hmem⟩ := (readRecords_keeps hread).enterJob (.vec i g.1.r ga.r gb.r) regions
    exact ⟨_, Job.fresh s.me.ords s.clk 1 (.vec i g.1.r ga.r gb.r) s.me.kbank s.me.task,
      he.trans (shapeJob_enters hopen hread hcheck hrule hwait), by rw [hme]; rfl, rfl, rfl, rfl, rfl, rfl, rfl, by rw [hme]; rfl,
      by rw [hme]; rfl, by rw [hme]; exact Core.sameArch_enterJob .., hmem⟩
  exact ⟨job _ (exec_vjadd ..), job _ (exec_vjsub ..), job _ (exec_vjmul ..), job _ (exec_vjfma ..),
    job _ (exec_vjmin ..), job _ (exec_vjmax ..), job _ (exec_vjsel ..), job _ (exec_vjcmp ..),
    job _ (exec_vjcomp ..), job _ (exec_vjexpd ..), job _ (exec_vjcvt ..), job _ (exec_vjqdb ..),
    job _ (exec_vjred ..), job _ (exec_vjsfu ..), job _ (exec_vjfill ..)⟩

/-! ### Start (R222) -/

theorem exec_vectorJobStart (core : Nat) (s : State) : exec (.vectorJobStart core) s = execVectorJobStart core s := rfl
theorem exec_vectorJobComplete (core : Nat) (s : State) : exec (.vectorJobComplete core) s = execVectorJobComplete core s := rfl

@[simp] theorem State.cores_scrub (s : State) (key len : Nat) : (s.scrub key len).cores = s.cores := State.cores_countCorr ..

@[simp] theorem State.cores_scrubLong (s : State) (key len : Nat) : (s.scrubLong key len).cores = s.cores :=
  List.foldlRecOn (motive := fun u => u.cores = s.cores) _ _ rfl fun u hu k _ => (State.cores_scrub u k 8).trans hu

@[simp] theorem State.cores_scrubSpans (s : State) (core : Nat) (l : List Region) : (s.scrubSpans core l).cores = s.cores :=
  List.foldlRecOn (motive := fun u => u.cores = s.cores) _ _ rfl fun u hu r _ => (State.cores_scrubLong u _ r.len).trans hu

@[simp] theorem State.core_scrubSpans (s : State) (core k : Nat) (l : List Region) : (s.scrubSpans core l).core k = s.core k := by
  rw [State.core, State.cores_scrubSpans, State.core]

/-- A job that has started, and ends its passes before a clock. -/
def Job.startedAt (j : Job) (clk ends : Nat) (rows : List (Nat × Payload)) (flags : Flags) : Job :=
  { j with start := some clk, accept := some (ends - 1), buf := rows, flags := flags, poison := firstPoison rows }

/-- The earliest shape job that may start reads its sources and occupies the engine. -/
theorem vectorJobStart_starts {s : State} {core : Nat} {j : Job} {i : Sys2Proof.Instr} {d a b : ShapeRec}
    (hnext : (s.core core).nextVec = some j) (hkind : j.kind = .vec i d a b) (hmay : s.vecMayStart core j = true) :
    let gd := jobRegion j.kbank (jobFields i).td d
    let ga := jobRegion j.kbank (jobFields i).ts a
    let gb := jobRegion j.kbank (jobFields i).ts b
    let spans := [gd.span, ga.span, gb.span]
    let w := (Work.start s.mem core spans).run j.kbank i gd ga gb
    let ends := s.clk + (jobElements i d a * max gd.f.width (max ga.f.width gb.f.width) + 1023) / 1024 +
      (if (s.core core).vForm = s.clk + 1 then 1 else 0)
    exec (.vectorJobStart core) s = .next ((s.scrubSpans core spans).updCore core fun x =>
      { x.updJob j.id (fun _ => j.startedAt s.clk ends (w.rows gd) w.flags) with vecBusy := ends }) := by
  cases j
  cases hkind
  rw [exec_vectorJobStart, execVectorJobStart]
  simp only [hnext, hmay]
  rfl

/-! ### Completion (R222, R231, R232) -/

/-- The clock and the base of the time are the same. -/
structure State.SameTime (s t : State) : Prop where
  clk : t.clk = s.clk
  base : t.base = s.base

namespace State.SameTime

theorem trans {s t u : State} (h : s.SameTime t) (k : t.SameTime u) : s.SameTime u := ⟨k.clk.trans h.clk, k.base.trans h.base⟩

theorem foldl {α : Type} {f : State → α → State} (hf : ∀ (s : State) (x : α), s.SameTime (f s x)) (l : List α) (s : State) :
    s.SameTime (l.foldl f s) :=
  List.foldlRecOn (motive := fun u => s.SameTime u) l f ⟨rfl, rfl⟩ fun u hu x _ => hu.trans (hf u x)

theorem ite {c : Prop} [Decidable c] {s t u : State} (ht : s.SameTime t) (hu : s.SameTime u) : s.SameTime (if c then t else u) := by
  split
  · exact ht
  · exact hu

theorem scrub (s : State) (key len : Nat) : s.SameTime (s.scrub key len) := by
  simp only [State.scrub, State.countCorr]
  split
  · exact ⟨rfl, rfl⟩
  · split <;> exact ⟨rfl, rfl⟩

theorem writeBytes (s : State) (key : Nat) (bytes : Payload) : s.SameTime (s.writeBytes key bytes).1 := by
  have h := foldl (fun s k => scrub s k 8) (partWords key bytes.length) s
  exact ⟨h.clk, h.base⟩

theorem captureChunk (s : State) (core k : Nat) : s.SameTime (s.captureChunk core k) := by
  simp only [State.captureChunk]
  split <;> exact ⟨rfl, rfl⟩

theorem touchSp (s : State) (core addr len ctx : Nat) (watch : Bool) : s.SameTime (s.touchSp core addr len ctx watch) := by
  have h := foldl (fun s k => captureChunk s core k) (chunksOf addr len) s
  rw [State.touchSp]
  dsimp only
  generalize (List.foldl _ s _) = u at h ⊢
  cases u.taskOf core <;> split <;> exact ⟨h.clk, h.base⟩

theorem writeSp (s : State) (core addr : Nat) (bytes : Payload) (ctx : Nat) (watch : Bool) :
    s.SameTime (s.writeSp core addr bytes ctx watch).1 := (touchSp ..).trans (writeBytes ..)

theorem writeRows (s : State) (core : Nat) (rows : List (Nat × Payload)) : s.SameTime (s.writeRows core rows) := by
  rw [State.writeRows]
  refine foldl (fun s r => ?_) rows s
  exact writeSp s core r.1 r.2 (s.core core).ctxNo true

theorem replaceCovered (s : State) (core : Nat) (rows : List (Nat × Payload)) : s.SameTime (s.replaceCovered core rows) := by
  rw [State.replaceCovered]
  refine foldl (fun s r => foldl (fun s w => ?_) _ s) rows s
  exact ite ⟨rfl, rfl⟩ ⟨rfl, rfl⟩

theorem tick {s t : State} (h : s.SameTime t) : t.tick = s.tick := by rw [State.tick, State.tick, h.clk, h.base]

end State.SameTime

/-- The word of the POISON fault of a vector job: kind 4, slot 1, imprecise (R152, R232). -/
theorem Trap.word_vecPoison (addr : Word) : (Trap.at_ .poison addr).word 1 true = ((4 + 16 + 64 : Nat) : Word) := by
  simp [Trap.word, Trap.at_, Trap.of, Kind.code]

/-- Settles O28, by the start and the completion of a job. -/
theorem shapeJobsRun : Obligations.ShapeJobsRun := by
  unfold Obligations.ShapeJobsRun
  refine ⟨fun s core j i d a b hnext hkind hmay => ?_, fun s core e j hactive haccept hdue => ?_⟩
  · intro gd ga gb spans w ends
    refine ⟨_, j.startedAt s.clk ends (w.rows gd) w.flags, vectorJobStart_starts hnext hkind hmay, rfl, rfl, rfl, rfl, rfl, ?_⟩
    rw [State.core_updCore_same, State.core_scrubSpans]
    exact ⟨rfl, rfl, rfl, rfl, rfl, rfl, rfl, rfl, rfl, rfl, rfl, rfl, rfl, rfl, rfl, rfl, rfl, rfl, rfl, rfl, rfl, rfl, rfl, rfl⟩
  · intro done
    have htick : done.tick = s.tick := ((State.SameTime.replaceCovered ..).trans (.writeRows ..)).tick
    refine ⟨fun hgood => ?_, fun addr hbad => ?_⟩
    · rw [exec_vectorJobComplete, execVectorJobComplete]
      simp only [hactive, haccept, if_neg hdue.not_gt, hgood]
      rfl
    · rw [exec_vectorJobComplete, execVectorJobComplete, ← htick]
      simp only [hactive, haccept, if_neg hdue.not_gt, hbad, State.jobFault, Trap.word_vecPoison]
      rfl

end Sys2Proof.Machine
end
section
/-!
PROOF. Lane-slice stores count the corrected words they read (O26; R51, R53, R214): a store into a part of a word whose syndrome says
that one bit is wrong reads that word, and the read is counted in a total of SUMMARY.
-/

namespace Sys2Proof.Machine

set_option Elab.async false

/-- A running core whose first lane-slice word has a wrong check bit, which reads as good data (R50, R51). -/
def correctedLane : State :=
  { State.reset.setCore 0 { Core.reset with mode := .running } with mem := [(synKey (laneKey 0 0 0), 1)] }

/-- The corrected words that an answer has counted in the memories of the groves. -/
def countedWords : Host.Outcome State Fault Refusal → Nat
  | .next t => t.trunk.cecSram
  | _ => 0

/-- Refutes O26: vstl of a byte into a word with one wrong check bit counts the corrected word, so more than memory changes. -/
theorem not_vectorLoadsAndStores : ¬ Obligations.VectorLoadsAndStores := by
  unfold Obligations.VectorLoadsAndStores
  intro h
  obtain ⟨-, -, hlane⟩ := h
  obtain ⟨-, hstore⟩ := hlane correctedLane 1 2 3 0 0 (by decide +kernel)
  obtain ⟨t, hexec, hmem, -⟩ := hstore (by decide +kernel) (by unfold State.memoryCanonical; decide +kernel) (by decide +kernel)
  have hcounted : countedWords (exec (.vstl 1 2 3 0 0) correctedLane) = 1 := by decide +kernel
  have hkept : t.trunk = correctedLane.trunk := by rw [hmem]
  rw [hexec, countedWords, hkept] at hcounted
  exact absurd hcounted (by decide +kernel)

end Sys2Proof.Machine
end
section
/-!
PROOF. A fill job fills its region (O29; R99, R102, R216, R217, R221, R230): runs of bytes written into memory, the elements of rows in the
order of the job, and the rows that it gives.
-/

namespace Sys2Proof.Machine

set_option Elab.async false

/-! ### Runs of bytes in memory -/

/-- Memory with the low `n` bytes of a number written at an address. -/
def Memory.put (m : List Host.Cell) (a n v : Nat) : List Host.Cell :=
  (List.range n).foldl (fun m i => Memory.write m (a + i) (BitVec.ofNat 8 (v >>> (8 * i)))) m

theorem Memory.put_succ (m : List Host.Cell) (a n v : Nat) :
    Memory.put m a (n + 1) v = Memory.write (Memory.put m a n v) (a + n) (BitVec.ofNat 8 (v >>> (8 * n))) := by
  simp [Memory.put, List.range_succ]

theorem Memory.put_wf {m : List Host.Cell} (a n v : Nat) (h : Memory.wf m = true) : Memory.wf (Memory.put m a n v) = true :=
  Memory.foldl_wf _ (fun _ _ h => Memory.write_wf _ _ h) _ h

/-- A byte inside the run is the number's, a byte outside is as before. -/
theorem Memory.read_put {m : List Host.Cell} (a n v x : Nat) (h : Memory.wf m = true) : Memory.read (Memory.put m a n v) x =
    if a ≤ x ∧ x < a + n then BitVec.ofNat 8 (v >>> (8 * (x - a))) else Memory.read m x := by
  induction n with
  | zero => rw [if_neg (by omega)]; rfl
  | succ n ih =>
    rw [Memory.put_succ]
    by_cases hx : x = a + n
    · subst hx
      rw [Memory.read_write_same _ _ (Memory.put_wf _ _ _ h), if_pos (by omega), Nat.add_sub_cancel_left]
    · rw [Memory.read_write_other _ (Memory.put_wf _ _ _ h) hx, ih]
      by_cases hin : a ≤ x ∧ x < a + n
      · rw [if_pos hin, if_pos (by omega)]
      · rw [if_neg hin, if_neg (by omega)]

/-- Memory after `n` bytes of a number have been written at each of some addresses. -/
def Memory.putAll (m : List Host.Cell) (addr : Nat → Nat) (n v count : Nat) : List Host.Cell :=
  (List.range count).foldl (fun m i => Memory.put m (addr i) n v) m

theorem Memory.putAll_succ (m : List Host.Cell) (addr : Nat → Nat) (n v count : Nat) :
    Memory.putAll m addr n v (count + 1) = Memory.put (Memory.putAll m addr n v count) (addr count) n v := by
  simp [Memory.putAll, List.range_succ]

theorem Memory.putAll_wf {m : List Host.Cell} (addr : Nat → Nat) (n v count : Nat) (h : Memory.wf m = true) :
    Memory.wf (Memory.putAll m addr n v count) = true :=
  Memory.foldl_wf _ (fun _ _ h => Memory.put_wf _ _ _ h) _ h

/-- Runs that do not meet all hold the number. -/
theorem Memory.read_putAll {m : List Host.Cell} {addr : Nat → Nat} {n v count : Nat} (h : Memory.wf m = true)
    (hgap : ∀ i j, i < j → j < count → addr i + n ≤ addr j) {i k : Nat} (hi : i < count) (hk : k < n) :
    Memory.read (Memory.putAll m addr n v count) (addr i + k) = BitVec.ofNat 8 (v >>> (8 * k)) := by
  induction count with
  | zero => omega
  | succ c ih =>
    rw [Memory.putAll_succ, Memory.read_put _ _ _ _ (Memory.putAll_wf _ _ _ _ h)]
    by_cases hlast : i = c
    · subst hlast
      rw [if_pos (by omega), Nat.add_sub_cancel_left]
    · have := hgap i c (by omega) (by omega)
      rw [if_neg (by omega)]
      exact ih (fun a b hab hb => hgap a b hab (by omega)) (by omega)

/-! ### Elements of whole bytes (R99, R102) -/

theorem foldr_bytes_lt (f : Nat → Byte) (l : List Nat) : l.foldr (fun i acc => acc * 256 + (f i).toNat) 0 < 256 ^ l.length := by
  induction l with
  | nil => simp
  | cons i l ih =>
    have := (f i).isLt
    rw [List.foldr_cons, List.length_cons, Nat.pow_succ]
    omega

/-- An element of whole bytes on a byte boundary is written byte by byte. -/
theorem Work.putBits_bytes (w : Work) (row n v : Nat) (off : Nat) :
    w.putBits row (8 * off) (8 * n) v = { w with mem := Memory.put w.mem (spKey w.core row + off) n (v % 2 ^ (8 * n)) } := by
  have hlen : (8 * n + 7) / 8 = n := by omega
  have hlt : (List.range n).foldr (fun i acc => acc * 256 + (Memory.read w.mem (spKey w.core row + off + i)).toNat) 0 < 2 ^ (8 * n) :=
    (foldr_bytes_lt _ _).trans_eq (by rw [List.length_range, Nat.pow_mul])
  simp only [Work.putBits, Nat.mul_mod_right, Nat.zero_add, Nat.mul_div_cancel_left off (by decide : 0 < 8), hlen, Nat.shiftRight_zero,
    Nat.shiftLeft_zero, Nat.mod_eq_of_lt hlt, Nat.sub_self, Memory.put]

/-- A write without taint of a working copy without poison changes nothing else. -/
theorem Work.mark_good {w : Work} (h : w.bad = []) (addr len : Nat) : w.mark addr len false = w := by
  simp only [Work.mark, Bool.false_eq_true, if_false]
  exact List.foldlRecOn (motive := fun u => u = w) _ _ rfl fun u hu x _ => by subst hu; simp [h]

/-- The formats of whole bytes place elements side by side and fill their rows. -/
theorem Fmt.bytes_layout {f : Fmt} (hdb : f.isDb = false) (hw : f.width % 8 = 0) (i : Nat) :
    f.bitOffset i = 8 * (i * (f.width / 8)) ∧ f.rowBytes i = i * (f.width / 8) := by
  cases f <;> simp_all [Fmt.isDb, Fmt.width, Fmt.bitOffset, Fmt.rowBytes] <;> omega

/-- An element of whole bytes that is put into a working copy without poison is written to memory, and flags are raised. -/
theorem Work.putAt_bytes {w : Work} (hbad : w.bad = []) (kbank : Word) {f : Fmt} (hdb : f.isDb = false) (hw : f.width % 8 = 0)
    (row i0 last : Nat) (enc : Fmt → Res Nat) (x : Num) (single : Bool) :
    let off := i0 * (f.width / 8)
    let r := f.storeFlush (ftzAt kbank row (8 * off)) (enc f)
    w.putAt kbank f row i0 last enc x single false =
      { w with mem := Memory.put w.mem (spKey w.core row + off) (f.width / 8) (r.1 % 2 ^ f.width), flags := w.flags ||| r.2 } := by
  intro off
  have hoff : f.bitOffset i0 = 8 * off := (Fmt.bytes_layout hdb hw i0).1
  clear_value off
  intro r
  have hwidth : f.width = 8 * (f.width / 8) := by omega
  have hput (v : Nat) : w.putBits row (8 * off) f.width v =
      { w with mem := Memory.put w.mem (spKey w.core row + off) (f.width / 8) (v % 2 ^ f.width) } := by
    have := w.putBits_bytes row (f.width / 8) v off
    rwa [← hwidth] at this
  have hmark (m : List Host.Cell) (addr len : Nat) : ({ w with mem := m } : Work).mark addr len false = { w with mem := m } :=
    Work.mark_good (w := { w with mem := m }) hbad addr len
  have hsix : ¬(f.width = 6 ∧ i0 = last ∧ (8 * off + 6) % 8 ≠ 0) := by omega
  simp only [Work.putAt, hdb, Bool.false_eq_true, if_false, hoff, hput, hmark, if_neg hsix, r]

/-- The flush bit of an element is that of its bank. -/
theorem ftzAt_eq {kbank : Word} {bank row off : Nat} (hlo : 0xC000 * bank ≤ row + off / 8) (hhi : row + off / 8 < 0xC000 * (bank + 1)) :
    ftzAt kbank row off = bankFtz kbank bank := by
  rw [ftzAt, Nat.div_eq_of_lt_le (k := bank) (by omega) (by omega)]

/-! ### Regions of rows along x1 (R217, R221) -/

section
variable {r : ShapeRec} (hx2 : r.x2 = 0)
include hx2

theorem ShapeRec.count_rows (hx3 : r.x3 = 0) : r.count = (r.x0 + 1) * (r.x1 + 1) := by
  simp [ShapeRec.count, hx2, hx3]

variable (hs : r.x1 = 0 ∨ 0 ≤ r.s1)
include hs

/-- The row of an iteration. -/
theorem ShapeRec.rowAt_index {i : Nat} (hi : i < (r.x0 + 1) * (r.x1 + 1)) :
    r.rowAt (r.index i) = r.base + i / (r.x0 + 1) * r.s1.toNat := by
  have hq : i / (r.x0 + 1) < r.x1 + 1 := Nat.div_lt_of_lt_mul hi
  have h3 : i / ((r.x0 + 1) * (r.x1 + 1)) = 0 := Nat.div_eq_of_lt hi
  have h1 : ((i / (r.x0 + 1) : Nat) : Int) * r.s1 = ((i / (r.x0 + 1) * r.s1.toNat : Nat) : Int) := by
    rcases hs with h0 | hpos
    · rw [h0] at hq
      simp [Nat.lt_one_iff.mp hq]
    · rw [Nat.cast_mul, Int.toNat_of_nonneg hpos]
  simp only [ShapeRec.rowAt, ShapeRec.row, ShapeRec.index, hx2, Nat.zero_add, Nat.mul_one, Nat.mod_one, h3, Nat.mod_eq_of_lt hq, h1]
  omega

/-- The span of a region of rows. -/
theorem JRegion.span_rows {f : Fmt} (hx3 : r.x3 = 0) (hpos : 0 < f.rowBytes (r.x0 + 1)) :
    (JRegion.mk r f).span = ⟨false, r.base, r.x1 * r.s1.toNat + f.rowBytes (r.x0 + 1)⟩ := by
  have h1 : (r.x1 : Int) * r.s1 = ((r.x1 * r.s1.toNat : Nat) : Int) := by
    rcases hs with h0 | hpos
    · simp [h0]
    · rw [Nat.cast_mul, Int.toNat_of_nonneg hpos]
  generalize r.x1 * r.s1.toNat = q at h1 ⊢
  simp only [JRegion.span, ShapeRec.span, hx2, hx3, h1, Nat.cast_zero, Int.zero_mul, Region.mk.injEq, true_and]
  omega

end

/-- A working copy of runs without a listed syndrome is memory as it stands. -/
theorem Work.start_good {m : List Host.Cell} {core : Nat} {l : List Region} (h : ∀ r ∈ l, syndromesIn m (spKey core r.lo) r.len = []) :
    Work.start m core l = ⟨m, core, [], [], [], 0, []⟩ := by
  rw [Work.start]
  induction l with
  | nil => rfl
  | cons r l ih =>
    rw [List.foldl_cons, h r List.mem_cons_self]
    exact ih fun r hr => h r (List.mem_cons_of_mem _ hr)

/-! ### The fill job (R230) -/

/-- The key of an iteration's element in a region of rows of `n`-byte elements. -/
def ShapeRec.elemKey (r : ShapeRec) (core n i : Nat) : Nat :=
  spKey core (r.base + i / (r.x0 + 1) * r.s1.toNat) + i % (r.x0 + 1) * n

/-- The key of an element that is named by its row and its place there. -/
theorem ShapeRec.elemKey_row {r : ShapeRec} (core n m : Nat) {i : Nat} (hi : i ≤ r.x0) :
    r.elemKey core n (m * (r.x0 + 1) + i) = spKey core (r.base + m * r.s1.toNat) + i * n := by
  have hdiv : (m * (r.x0 + 1) + i) / (r.x0 + 1) = m := by
    rw [Nat.mul_comm, Nat.mul_add_div r.x0.succ_pos, Nat.div_eq_of_lt (by omega), Nat.add_zero]
  rw [ShapeRec.elemKey, hdiv, Nat.mul_add_mod', Nat.mod_eq_of_lt (by omega)]

/-- Elements of rows that do not overlap follow one another. -/
theorem ShapeRec.elemKey_gap {r : ShapeRec} {n : Nat} (core : Nat) (hs : r.x1 = 0 ∨ (r.x0 + 1) * n ≤ r.s1.toNat) {i j : Nat} (hij : i < j)
    (hj : j < (r.x0 + 1) * (r.x1 + 1)) : r.elemKey core n i + n ≤ r.elemKey core n j := by
  have hi := Nat.div_add_mod i (r.x0 + 1)
  have hj' := Nat.div_add_mod j (r.x0 + 1)
  have hri := Nat.mod_lt i r.x0.succ_pos
  have hqj : j / (r.x0 + 1) < r.x1 + 1 := Nat.div_lt_of_lt_mul hj
  have hle : i / (r.x0 + 1) ≤ j / (r.x0 + 1) := Nat.div_le_div_right hij.le
  simp only [ShapeRec.elemKey, spKey]
  generalize i / (r.x0 + 1) = qi at *
  generalize j / (r.x0 + 1) = qj at *
  generalize i % (r.x0 + 1) = ri at *
  generalize j % (r.x0 + 1) = rj at *
  rcases hle.eq_or_lt with rfl | hlt
  · have := Nat.mul_le_mul_right n (show ri + 1 ≤ rj by omega)
    rw [Nat.succ_mul] at this
    omega
  · have hstep : (r.x0 + 1) * n ≤ r.s1.toNat := hs.resolve_left (by omega)
    have hrow := Nat.mul_le_mul_right n (show ri + 1 ≤ r.x0 + 1 from hri)
    have hrows := Nat.mul_le_mul_right r.s1.toNat (show qi + 1 ≤ qj from hlt)
    rw [Nat.succ_mul] at hrow hrows
    omega

/-- The first iterations of a fill job leave their elements in memory, and no poison. -/
theorem Work.fill_steps {w : Work} {kbank : Word} {g : JRegion} {fl : JobFields} {ftz : Bool} (hbad : w.bad = []) (hdb : g.f.isDb = false)
    (hw : g.f.width % 8 = 0) (hx2 : g.r.x2 = 0) (hs : g.r.x1 = 0 ∨ 0 ≤ g.r.s1)
    (hftz : ∀ i < (g.r.x0 + 1) * (g.r.x1 + 1),
      ftzAt kbank (g.r.base + i / (g.r.x0 + 1) * g.r.s1.toNat) (8 * (i % (g.r.x0 + 1) * (g.f.width / 8))) = ftz)
    {c : Nat} (hc : c ≤ (g.r.x0 + 1) * (g.r.x1 + 1)) :
    let n := g.f.width / 8
    let code := (g.f.storeFlush ftz (g.f.encode fl.rm fl.sat g.f.isInt (fillValue g))).1
    let u := (List.range c).foldl (fun w i => w.put kbank g (g.r.index i) fl.rm fl.sat g.f.isInt false (fillValue g) false) w
    u.bad = [] ∧ u.core = w.core ∧ u.mem = Memory.putAll w.mem (g.r.elemKey w.core n) n (code % 2 ^ g.f.width) c := by
  intro n code
  induction c with
  | zero => exact ⟨hbad, rfl, rfl⟩
  | succ c ih =>
    obtain ⟨hb, hcore, hm⟩ := ih (by omega)
    rw [List.range_succ, List.foldl_append]
    generalize (List.range c).foldl _ w = u at hb hcore hm ⊢
    have hput : u.put kbank g (g.r.index c) fl.rm fl.sat g.f.isInt false (fillValue g) false = _ :=
      Work.putAt_bytes hb kbank hdb hw (g.r.rowAt (g.r.index c)) (c % (g.r.x0 + 1)) g.r.x0 _ (fillValue g) false
    rw [ShapeRec.rowAt_index hx2 hs (by omega), hftz c (by omega)] at hput
    rw [List.foldl_cons, List.foldl_nil, hput]
    refine ⟨hb, hcore, ?_⟩
    rw [Memory.putAll_succ, ← hm, ← hcore]
    rfl

/-- The low bytes of a number reduced to whole bytes. -/
theorem byte_of_mod {n k : Nat} (v : Nat) (hk : k < n) : BitVec.ofNat 8 ((v % 2 ^ (8 * n)) >>> (8 * k)) = BitVec.ofNat 8 (v / 256 ^ k) := by
  apply BitVec.eq_of_toNat_eq
  have hpow : 2 ^ (8 * n) = 2 ^ (8 * k) * 2 ^ (8 * n - 8 * k) := by rw [← Nat.pow_add]; congr 1; omega
  rw [BitVec.toNat_ofNat, BitVec.toNat_ofNat, Nat.shiftRight_eq_div_pow, hpow, Nat.mod_mul_right_div_self,
    Nat.mod_mod_of_dvd _ (Nat.pow_dvd_pow 2 (by omega)), Nat.pow_mul]

/-- The row of an entry of a job's results. -/
theorem Work.rows_getElem? {w : Work} {g : JRegion} (hx2 : g.r.x2 = 0) (hx3 : g.r.x3 = 0) (hs : g.r.x1 = 0 ∨ 0 ≤ g.r.s1) (hbad : w.bad = [])
    {m : Nat} (hm : m ≤ g.r.x1) : (w.rows g)[m]? = some (g.r.base + m * g.r.s1.toNat,
      (List.range (g.f.rowBytes (g.r.x0 + 1))).map fun i => some (Memory.read w.mem (spKey w.core (g.r.base + m * g.r.s1.toNat + i)))) := by
  have hcount : (g.r.x1 + 1) * (g.r.x2 + 1) * (g.r.x3 + 1) = g.r.x1 + 1 := by rw [hx2, hx3, Nat.zero_add, Nat.mul_one, Nat.mul_one]
  have hrow : g.r.rowAt (g.r.index (m * (g.r.x0 + 1))) = g.r.base + m * g.r.s1.toNat := by
    rw [ShapeRec.rowAt_index hx2 hs, Nat.mul_div_cancel _ g.r.x0.succ_pos]
    rw [Nat.mul_comm]
    exact Nat.mul_lt_mul_of_pos_left (by omega) g.r.x0.succ_pos
  simp only [Work.rows, Work.badIn, hbad, List.any_nil, Bool.false_eq_true, if_false, hcount, List.getElem?_map,
    List.getElem?_range (show m < g.r.x1 + 1 by omega), Option.map_some, hrow]

theorem Work.rows_length {w : Work} {g : JRegion} (hx2 : g.r.x2 = 0) (hx3 : g.r.x3 = 0) : (w.rows g).length = g.r.x1 + 1 := by
  simp [Work.rows, hx2, hx3]

/-- An element of the region starts within the region. -/
theorem ShapeRec.element_in_span {r : ShapeRec} (n : Nat) {i : Nat} (hi : i < (r.x0 + 1) * (r.x1 + 1)) :
    i / (r.x0 + 1) * r.s1.toNat + i % (r.x0 + 1) * n + n ≤ r.x1 * r.s1.toNat + (r.x0 + 1) * n := by
  have hq : i / (r.x0 + 1) ≤ r.x1 := Nat.lt_succ_iff.mp (Nat.div_lt_of_lt_mul hi)
  have hr : i % (r.x0 + 1) + 1 ≤ r.x0 + 1 := Nat.mod_lt i r.x0.succ_pos
  have h1 := Nat.mul_le_mul_right r.s1.toNat hq
  have h2 := Nat.mul_le_mul_right n hr
  rw [Nat.succ_mul] at h2
  omega

/-- Settles O29: the fold over the elements leaves the code at each element's key (`Work.fill_steps`), the elements do not meet, and the rows
read those keys back. -/
theorem fillJobFillsItsRegion : Obligations.FillJobFillsItsRegion := by
  intro s core bank kbank p t r g n code step len hdb hw hn hx2 hx3 hs hbank hlo hhi hmem hsyn w
  have hwidth : g.f.width = 8 * n := by omega
  have hlen : g.f.rowBytes (r.x0 + 1) = len := (Fmt.bytes_layout hdb hw _).2
  have hpos : 0 < len := Nat.mul_pos r.x0.succ_pos hn
  have hs0 : r.x1 = 0 ∨ 0 ≤ r.s1 := by omega
  have hrows : r.x1 = 0 ∨ (r.x0 + 1) * n ≤ r.s1.toNat := by omega
  have hspan : g.span = ⟨false, r.base, r.x1 * step + len⟩ := by
    rw [← hlen]
    exact JRegion.span_rows hx2 hs0 hx3 (hlen ▸ hpos)
  have hstart : Work.start s.mem core [g.span, g.span, g.span] = ⟨s.mem, core, [], [], [], 0, []⟩ :=
    Work.start_good (by simpa [hspan] using hsyn)
  have hftz (i : Nat) (hi : i < (r.x0 + 1) * (r.x1 + 1)) :
      ftzAt kbank (r.base + i / (r.x0 + 1) * r.s1.toNat) (8 * (i % (r.x0 + 1) * n)) = ftzAt kbank r.base 0 := by
    have hin : _ ≤ r.x1 * step + len := ShapeRec.element_in_span n hi
    rw [ftzAt_eq (bank := bank) (by omega) (by omega), ftzAt_eq (bank := bank) (by omega) (by omega)]
  obtain ⟨hbad, hcore, hw'⟩ : w.bad = [] ∧ w.core = core ∧
      w.mem = Memory.putAll s.mem (r.elemKey core n) n (code % 2 ^ g.f.width) ((r.x0 + 1) * (r.x1 + 1)) := by
    have h := Work.fill_steps (w := ⟨s.mem, core, [], [], [], 0, []⟩) (fl := ⟨t, t, .rne, true⟩) (g := g) rfl hdb hw hx2 hs0 hftz le_rfl
    have hrun : w = Work.fill ⟨s.mem, core, [], [], [], 0, []⟩ kbank ⟨t, t, .rne, true⟩ g := by rw [← hstart]; rfl
    rw [hrun, Work.fill, ShapeRec.count_rows (r := g.r) hx2 hx3]
    exact h
  refine ⟨Work.rows_length (g := g) hx2 hx3, fun m hm => ⟨_, Work.rows_getElem? hx2 hx3 hs0 hbad hm, fun i k hi hk => ?_⟩⟩
  have hlt : i * n + k < len := by
    have := Nat.mul_le_mul_right n (show i + 1 ≤ r.x0 + 1 by omega)
    rw [Nat.succ_mul] at this
    omega
  have hidx : m * (r.x0 + 1) + i < (r.x0 + 1) * (r.x1 + 1) := by
    have := Nat.mul_le_mul_right (r.x0 + 1) (show m + 1 ≤ r.x1 + 1 by omega)
    rw [Nat.succ_mul, Nat.mul_comm (r.x1 + 1)] at this
    omega
  have hread := Memory.read_putAll (v := code % 2 ^ g.f.width) hmem (fun a b => ShapeRec.elemKey_gap core hrows) hidx hk
  have hbyte : BitVec.ofNat 8 ((code % 2 ^ g.f.width) >>> (8 * k)) = BitVec.ofNat 8 (code / 256 ^ k) := by rw [hwidth, byte_of_mod code hk]
  rw [ShapeRec.elemKey_row core n m hi, hbyte] at hread
  rw [List.getElem?_map, List.getElem?_range (hlen ▸ hlt), Option.map_some, hcore, hw', ← hread]
  simp only [spKey, ← Nat.add_assoc]
  rfl

end Sys2Proof.Machine
end
